-- ==== Sys2Proof/Word.lean ====
section
/-!
DEFINITION. The word types of the machine and the two physical encodings (R4, R38, R48, R67).
-/

namespace Sys2Proof

/-- A 32-bit register, scalar or instruction word. -/
abbrev Word := BitVec 32
/-- A 64-bit value: a register pair, an address, a latch entry, a mask. -/
abbrev Dword := BitVec 64
/-- A byte of memory. -/
abbrev Byte := BitVec 8

/-- The two physical encodings, one per kind of core: the D-form runs on D-cores, the L-form on L-cores (R48, R157). -/
inductive Form where
  | d | l
  deriving DecidableEq, Repr

/-- The word whose low and high halves are the two words of a pair: the even register holds bits [31:0] (R22, R43). -/
def pairOf (lo hi : Word) : Dword := hi ++ lo
/-- Bits [31:0] of a pair. -/
def loOf (x : Dword) : Word := x.setWidth 32
/-- Bits [63:32] of a pair. -/
def hiOf (x : Dword) : Word := (x >>> 32).setWidth 32

end Sys2Proof
end

