-- ==== Sys2Proof/Config.lean ====
section
/-!
DEFINITION. What spec/ leaves open: free values, which nothing in Lean can evaluate.
-/

namespace Sys2Proof

/-- The results of `fex2`, `flg2`, `fsin` and `fcos` before the bound of R106 is applied: a fixed function of the operand and of FTZ (log 8). -/
opaque Config.fex2 : Word → Bool → Word
opaque Config.flg2 : Word → Bool → Word
opaque Config.fsin : Word → Bool → Word
opaque Config.fcos : Word → Bool → Word

/-- A value spec/ states no number for, one for each draw (log 4). -/
opaque Config.freeValue : Nat → Dword

/-- The byte of a place of another package that no party of this package has written, at a tick (R392; log 14). -/
opaque Config.remoteByte : Nat → Nat → BitVec 8

/-- The byte of a place that another package has stored after this package's store of a stamp was published there, if one has, at a tick (R392; log 14). -/
opaque Config.remoteLater : Nat → Nat → Nat → Option (BitVec 8)

/-- Whether another package answers, and whether its port to a switch plane is up, at a tick (R389, R393; log 14, log 39). -/
opaque Config.remoteAnswers : Nat → Nat → Bool
opaque Config.farPortUp : Nat → Nat → Nat → Bool

/-- Whether the windows of another package refuse a request at a place, under a fabric key, for a store or not, at a tick (R390, R391; log 14). -/
opaque Config.remoteRefuses : Nat → BitVec 16 → Bool → Nat → Bool

/-- The CRC-32 of the first 60 bytes of a flit, whose polynomial spec/ does not give, and the credits of a channel that a port begins with (R387; log 39). -/
opaque Config.flitCrc : List (BitVec 8) → Word
opaque Config.portCredits : Nat → Nat
/-- What the payload of a flit holds that this package sends for a place at a tick (R387; log 39). -/
opaque Config.flitPayload : Nat → Nat → BitVec 448

end Sys2Proof
end

