-- ==== Sys2Proof/Machine/Event.lean ====
section
/-!
DEFINITION. The events: what an agent other than a lane row or a needle does in one indivisible step. Each is a row of
spec/opcode_table.json without an encoding, and `Event.instr` (Resolve.lean) gives its constructor of Instr. State.agenda holds events as plain data.
-/

namespace Sys2Proof.Machine

/-- The events of the package (R141 to R394). -/
inductive Event where
  | loadDataArrival (sg : Nat)
  | releaseComplete (sg : Nat)
  | pageWalkComplete (core : Nat)
  | pollReread (core row : Nat)
  | fairTExpiry (core row : Nat)
  | sleepExpiry (sg : Nat)
  | sleepcExpiry (sg : Nat)
  | trapEntry (sg : Nat)
  | asyncTrapEntry (sg : Nat)
  | faultServiceResolved (sg : Nat)
  | faultServiceUnresolvable (sg : Nat)
  | continuationEntry (sg : Nat)
  | accclaim (core : Nat)
  | promiseExpiry (wg slot : Nat)
  | needleTakeEntry (core needle : Nat)
  | matrixCommandComplete (core : Nat)
  | tileTaskStart (cluster : Nat)
  | tileTaskComplete (cluster : Nat)
  | orreryCommandPerform (cluster : Nat)
  | pfrangeComplete (cmd : Nat)
  | qrsvRead (q : Nat)
  | qctlEnable (q : Nat) (on : Bool)
  | qctlDrain (q : Nat)
  | queueDrainEnd (q : Nat)
  | queueWake (q : Nat)
  | queueRescan
  | entryConsume (q : Nat)
  | nop (seq : Nat)
  | launch (seq : Nat)
  | launchAdmission (seq : Nat)
  | graph (seq : Nat)
  | graphNodeStart (seq node : Nat)
  | loopIteration (seq node : Nat)
  | signal (seq : Nat)
  | wait (seq : Nat)
  | waitSatisfied (seq : Nat)
  | releaseEstates (seq : Nat)
  | regionUpdate (seq : Nat)
  | regionCreate (seq : Nat)
  | regionDestroy (seq : Nat)
  | regionCheckpoint (seq : Nat)
  | workgroupPlacement (launch : Nat)
  | estateMoveComplete (core row slot : Nat)
  | estateArrival (wg : Nat)
  | workgroupBirth (wg : Nat)
  | workgroupFree (wg : Nat)
  | preemptDecision (core : Nat)
  | preemptDeadline (core : Nat)
  | preemptionSwap (core ctx : Nat)
  | shadowSpillFill (core ctx : Nat)
  | scratchpadPageExchange (wg page : Nat)
  | dvfsStep (die : Nat) (domL : Bool) (code : BitVec 4)
  | relockEnd (die : Nat) (domL : Bool)
  | debugResume (ctx : Nat) (area : BitVec 64)
  | pcSample (core : Nat)
  | patrolScrub (unit : Nat) (state : BitVec 2)
  | xinvCtlGo
  | invalidationComplete
  | devCtlResume
  | dbgCtlGo
  | jridxWrite (n : BitVec 64)
  | cntCtlFreeze (on : Bool)
  | cntCtlClear
  | expCtlOpen (win : Nat) (wprot : Bool)
  | expCtlClose (win : Nat)
  | exportCloseComplete (win : Nat)
  | registerWrite (off size : Nat) (val : BitVec 64)
  | bar2Read (off size : Nat)
  | bar2Write (off size : Nat) (val : BitVec 512)
  | hostAtomicop (off : Nat) (wide : Bool) (op : BitVec 2) (x y : BitVec 64)
  | sidebandRead (off size : Nat)
  | pldmSensorRead (sensor : BitVec 3)
  | powerCapEffecter (watts : Nat)
  | resetEffecter
  | coldResetEffecter
  | firmwareUpdate (len : Nat)
  | functionLevelReset
  | flrComplete
  | surpriseLinkLoss
  | quiesceComplete
  | linkRetrain
  | powerOn (gmTime : Option (BitVec 64))
  | perstDeassert
  | bringupReady
  | thermalThrottle (die : Nat)
  | thermalTrip
  | flitReceive (port : Nat) (head : BitVec 32) (payload : BitVec 448) (check : BitVec 32)
  | ackTimeout (port : Nat)
  | portRetrainComplete (port peer pport : Nat)
  | remoteRequest (id : Nat × Nat) (key : BitVec 16) (op : BitVec 5) (loc size : Nat) (val : BitVec 1024)
  | remoteTimeout (sg : Nat) (store : Bool)
  | responseRetentionExpiry (id : Nat)
  | ptpMessage (offset : Int) (gmReached : Bool)
  | reservedOpcode (word : BitVec 32)
  | fetchBufferFill (core : Nat) (line : BitVec 64)
  | pickupComplete (sg : Nat)
  | clockCycle (die : Nat) (domL : Bool)
  | softError (kind : BitVec 4) (unit : Nat) (correctable : Bool)
  | cxlMemRequest (write : Bool) (loc size : Nat) (val : BitVec 512)
  | resizableBarResize (log2 : Nat)
  deriving DecidableEq, Repr

end Sys2Proof.Machine
end

