-- ==== Sys2Proof/Machine/Tbl.lean ====
section
/-!
DEFINITION. Sparse tables: the plain-data form of every register file, memory and set of units.
-/

namespace Sys2Proof.Machine

/-- A table from numbers to values: an association list kept in rising order of its keys. -/
abbrev Tbl (α : Type) := List (Nat × α)

namespace Tbl
variable {α : Type}

/-- The value at key `k`, if the table lists one. -/
def find? : Tbl α → Nat → Option α
  | [], _ => none
  | (i, x) :: t, k => if i = k then some x else find? t k

/-- The value at key `k`, `d` where none is listed. -/
def get (t : Tbl α) (k : Nat) (d : α) : α := (find? t k).getD d

/-- The table without key `k`. -/
def del : Tbl α → Nat → Tbl α
  | [], _ => []
  | (i, x) :: t, k => if i = k then del t k else (i, x) :: del t k

/-- A key that is not listed put in its place. -/
def ins : Tbl α → Nat → α → Tbl α
  | [], k, v => [(k, v)]
  | (i, x) :: t, k, v => if k < i then (k, v) :: (i, x) :: t else (i, x) :: ins t k v

/-- The table with `v` at key `k`. -/
def set (t : Tbl α) (k : Nat) (v : α) : Tbl α := ins (del t k) k v

/-- The value at key `k` changed by `f`, where one is listed. -/
def modify : Tbl α → Nat → (α → α) → Tbl α
  | [], _, _ => []
  | (i, x) :: t, k, f => if i = k then (i, f x) :: modify t k f else (i, x) :: modify t k f

/-- The keys, in the table's order. -/
def keys (t : Tbl α) : List Nat := List.map Prod.fst t
/-- The values, in the table's order. -/
def vals (t : Tbl α) : List α := List.map Prod.snd t

/-- The canonical form: keys strictly rising. -/
def sorted : Tbl α → Bool
  | [] => true
  | [_] => true
  | (i, _) :: (j, y) :: t => decide (i < j) && sorted ((j, y) :: t)

/-- The smallest number that is above every key. -/
def fresh (t : Tbl α) : Nat := List.foldl (fun m p => max m (p.1 + 1)) 0 t

end Tbl

/-- The lowest `n` of `k`, `k+1`, ... below `k + fuel` that `p` accepts. -/
def firstFrom (p : Nat → Bool) : Nat → Nat → Option Nat
  | 0, _ => none
  | fuel + 1, k => if p k then some k else firstFrom p fuel (k + 1)

end Sys2Proof.Machine
end

