-- ==== Sys2Proof/Machine/State.lean ====
section
/-!
DEFINITION. The state of a package: everything spec/ gives the machine, as plain data, and its value after reset.

INVENTORY.md lists every field with the rule that names it. A unit that holds nothing (a core on which nothing was placed, a subgroup that
was never born) is not listed in its table.
-/

namespace Sys2Proof.Machine

/-- A place of global memory: a number that holds the package (for a remote page), the tier and the tier address of one byte (R331, R390). -/
abbrev Loc := Nat

/-- Memory bytes by place, in canonical form: places strictly rising, no byte that is 0, which is what an unlisted byte reads as (R372, log 5). -/
abbrev Mem := List Host.Cell

/-- An image of global memory: the byte of each place and the coherence stamp of the store that wrote it, 0 for a byte no store wrote (R177, log 5). -/
structure VMem where
  bytes : Mem := []
  stamps : Tbl Nat := []
  deriving DecidableEq, Repr

/-- What a live thread waits for at its word (R118, R160). -/
inductive Wait where
  /-- Nothing: the thread is ready. -/
  | none
  /-- `waitk` on a mask (R124). -/
  | knot (k : BitVec 4)
  /-- `bar.wg` (R170). -/
  | barWg
  /-- `bar.cl` on a barrier id (R294). -/
  | barCl (id : BitVec 5)
  /-- `barc.wait` on the object at a generic address (R172). -/
  | barc (addr : Dword)
  /-- A watcher at `poll` with the yield hint, of the location at an address (R150, R162). -/
  | poll (addr : Dword)
  /-- `sleep` until an ETIME (R274). -/
  | sleep (target : Dword)
  /-- `sleepc` until its remaining count, which the thread holds, is 0 (R274). -/
  | sleepc
  /-- `rft` of a continuation before service has signalled (R265). -/
  | signal
  /-- A uniform word: `macq`, `mswap` and the rest, or `migr`, until every live thread stands there (R211, R302). -/
  | uniform
  /-- `macq` behind the owner of the engine (R212). -/
  | owner
  /-- `npost` while the needle ring is full (R236). -/
  | ring
  /-- `bwait` on a batch number (R246). -/
  | batch (n : BitVec 16)
  /-- `cwait` on the chunks of a bitmap (R256). -/
  | chunks (addr : Dword) (mask : Dword)
  /-- A post to a full Orrery queue (R310). -/
  | orrery
  /-- A post to a full tile-task scheduler (R297). -/
  | tiles
  /-- A release at a scope that has not completed (R178, R325, R393). -/
  | release (scope : Nat)
  /-- A request for a unit that a relock of a die holds, or that the FIFOs of the die hold back (R322, R325). -/
  | fifo (die : Nat)
  /-- A remote load, or a remote atomic (`store`), that another package has not answered, at an address, since an ETIME (R393). -/
  | answer (store : Bool) (pkg : Nat) (addr : Dword) (since : Dword)
  /-- Nothing more: a package did not answer a load or a `poll` read within 10 ms, which takes LINKDOWN when its word issues again (R393). -/
  | late (pkg : Nat)
  /-- A precise trap that is not yet taken (R155, R259). -/
  | trapped
  /-- A page fault in fault service (R268). -/
  | service
  /-- A RETIRED or ACCCLAIM trap with the firmware (R270). -/
  | firmware
  /-- The word it waited at has been released while the handler of other members runs: it goes on past the word when the handler ends (R264). -/
  | released
  deriving DecidableEq, Repr

/-- A thread (R19). -/
structure Thread where
  pc : Dword := 0
  /-- v0 to v255; a register that is not listed holds 0 (R20, R37). -/
  v : Tbl Word := []
  tstat : Word := 0
  est : Word := 0
  batch : BitVec 16 := 0
  /-- Local thread id and work-item coordinates (R14, R23). -/
  lid : Word := 0
  x : Nat := 0
  y : Nat := 0
  z : Nat := 0
  /-- Work-item linear id (R14). -/
  wid : Dword := 0
  wait : Wait := .none
  /-- Arrival record: object and sense (R171). -/
  arrival : Option (Dword × Bool) := Option.none
  /-- A `sleepc` in course: the PC of its word and the cycles left (R274). -/
  slept : Option (Dword × Nat) := Option.none
  /-- The code images whose count the thread has joined, by their address (R304). -/
  images : List Dword := []
  /-- Posts whose command has joined its batch and waits for an entry of a full queue: the command, by the PC of the word (R296, R310). -/
  posts : Tbl Nat := []
  /-- PC, in the other form, of the last transit point passed, and instructions since (R263). -/
  twin : Dword := 0
  since : Nat := 0
  /-- The count of the row's words at the thread's last issue (R160), and the core cycle since which it has been ready without issuing (R161). -/
  lastIssue : Nat := 0
  readyAt : Nat := 0
  /-- The core cycle of the thread's last issue, by which the two rows of a core are ordered (R165). -/
  lastAt : Nat := 0
  deriving DecidableEq, Repr

/-- The latch entries of one lane; `none` is an entry whose valid bit is clear (R24). -/
structure Latch where
  p0 : Option Dword := none
  p1 : Option Dword := none
  p2 : Option Dword := none
  p3 : Option Dword := none
  deriving DecidableEq, Repr

/-- A trap that was raised and is not yet taken, with what its frame will say (R258, R261). -/
structure Trap where
  cause : BitVec 8
  detail : BitVec 8 := 0
  aux : Word := 0
  pc : Dword := 0
  mask : Dword := 0
  addr : Dword := 0
  word : Word := 0
  kind : BitVec 2 := 0
  svc : Bool := false
  /-- Its number among the precise traps and page faults of its subgroup, in the order raised (R259). -/
  order : Nat := 0
  deriving DecidableEq, Repr

/-- A handler that runs (R257, R264, R269). -/
structure Handler where
  mask : Dword := 0
  frame : Dword := 0
  cause : BitVec 8 := 0
  /-- The handler is a continuation, at user level; `signalled`: service has ended; `fault`: the trap in service. -/
  cont : Bool := false
  signalled : Bool := false
  /-- The latch ring saved at entry (R27, R260). -/
  ring : Tbl Latch := []
  /-- The group that held that ring, and what its threads had left of a `sleepc` (R27, R274). -/
  kept : Option (Dword × Nat) := none
  slept : Tbl (Dword × Nat) := []
  /-- The scratchpad offset of the counted barrier of a continuation (R269). -/
  bar : Nat := 0
  deriving DecidableEq, Repr

/-- A subgroup in a slot (R11, R19). -/
structure Sub where
  wg : Nat := 0
  index : Nat := 0
  core : Nat := 0
  row : Nat := 0
  slot : Nat := 0
  threads : Tbl Thread := []
  /-- s0 to s111 and k0 to k11; a register that is not listed holds 0. -/
  s : Tbl Word := []
  k : Tbl Dword := []
  wbase : BitVec 8 := 0
  /-- SSTAT without MOWN, which is the engine's (R32). -/
  sstat : Word := 0
  fen : Word := 0
  rngKey : Dword := 0
  rngStream : Dword := 0
  rngPos : BitVec 40 := 0
  rngDraw : BitVec 24 := 0
  ring : Tbl Latch := []
  /-- The members whose group finds the ring as it is when it issues next, and the cycles of its run so far: after `rft`, a swap or a restore (R27, R276). -/
  kept : Option (Dword × Nat) := none
  /-- That group goes on before every other of its row: a swap or a checkpoint stopped it between two switch points (R276, R280). -/
  first : Bool := false
  /-- The sample register: CYC, SCYC, ETIME (R320). -/
  smpCyc : Dword := 0
  smpScyc : Dword := 0
  smpEtime : Dword := 0
  /-- Dynamic priority, back-off step, and the mark of `yield` (R160, R162). -/
  dp : Nat := 128
  dec : Nat := 1
  yielded : Bool := false
  /-- Precise traps in the order raised, and asynchronous traps in the order they came (R259, R272). -/
  traps : List Trap := []
  asyncs : List Trap := []
  /-- Page faults in fault service (R268). -/
  service : List Trap := []
  /-- Precise traps and page faults raised so far (R259). -/
  raised : Nat := 0
  handler : Option Handler := none
  halted : Bool := false
  /-- The sticky Orrery and pre-emption marks of the subgroup: MERR of `ostat` (R315) and a PREEMPT notice that is not yet answered (R273). -/
  merr : Bool := false
  noticed : Bool := false
  /-- Loads whose data has not been counted as arrived (R141). -/
  inflight : Nat := 0
  /-- What releases of the subgroup at sg have published (R175, R178). -/
  image : VMem := {}
  deriving DecidableEq, Repr

/-- Where the row stands in the slot counters: the class of the slot in course (R382). -/
abbrev SlotClass := BitVec 4

/-- An `xsel` whose successor has not issued: its word and PC, the member each lane reads, and the lanes whose selector was a stale latch (R127). -/
structure Xsel where
  word : Word := 0
  pc : Dword := 0
  sel : Tbl Word := []
  stale : Dword := 0
  deriving DecidableEq, Repr

/-- A lane row (R25, R157, R160). -/
structure Row where
  /-- The issuing group: subgroup and members; `none` before the first choice and after the group has gone. -/
  issuing : Option (Nat × Dword) := none
  /-- The word in course, as fetched: the instruction register. -/
  word : Word := 0
  /-- The row stands at a switch point (R25). -/
  atSwitch : Bool := true
  /-- The MODE in effect on this row (R28). -/
  mode : BitVec 2 := 2
  xsel : Option Xsel := none
  /-- Core cycle at which the present path began its run, and whether FAIR_T has expired on it (R122, R161). -/
  runAt : Nat := 0
  /-- Words issued on the row, by which the age of a candidate is told (R160, log 7). -/
  issued : Nat := 0
  fairOut : Bool := false
  /-- Slot counters 1 to 9 of R382; NOSG is what they leave of SLOTS, which the rows of a domain have in common. -/
  counts : Tbl Dword := []
  /-- The class of the slot in course, once the row has used it, and the classes of the further slots that the row is held for (R26, R166, R276, R382). -/
  spent : Option SlotClass := none
  held : List SlotClass := []
  deriving DecidableEq, Repr

/-- An exact value of the matrix engine: a finite value as a whole number of units, an infinity (`neg`), or NaN (R220). The unit is 2^-160 for a weight or an
activation and 2^-320 for a product or a partial sum. -/
inductive Exact where
  | fin (m : Int)
  | inf (neg : Bool)
  | nan
  deriving DecidableEq, Repr

/-- A weight plane (R210, R217): `w` lists the weights that are not zero under column × 65536 + logical row. -/
structure Plane where
  valid : Bool := false
  /-- The load met an uncorrectable error (R218, R225). -/
  failed : Bool := false
  w : Tbl Exact := []
  wfmt : BitVec 4 := 0
  kr : Nat := 0
  nc : Nat := 0
  spar : BitVec 2 := 0
  /-- Metadata byte of physical row i of column n at n × 256 + i. -/
  pos : Tbl Byte := []
  /-- The lc2 magnitude table: entry i, where a table load has set one; the others are those of R73. -/
  lc2 : Tbl (BitVec 16) := []
  /-- The table load met an uncorrectable error (R225). -/
  lc2Bad : Bool := false
  /-- The plane's own storage met one since its load (R225, R343). -/
  bad : Bool := false
  deriving DecidableEq, Repr

/-- An accumulator tile: element (r, n) at 64 r + n (R210). OPEN is CPOS ≠ 0. -/
structure Tile where
  used : Bool := false
  cpos : Nat := 0
  acc : Tbl Word := []
  part : Tbl Exact := []
  deriving DecidableEq, Repr

/-- The matrix engine of a core (R210, R212, R223, R226). -/
structure Engine where
  active : Plane := {}
  shadow : Plane := {}
  tiles : Tbl Tile := []
  nan : Bool := false
  ovf : Bool := false
  merr : Bool := false
  owner : Option Nat := none
  queue : List Nat := []
  wctx : Nat := 0
  actx : Nat := 0
  /-- Commands of the engine that count as running, by their number in State.cmds (R214). -/
  running : List Nat := []
  /-- The tile task that holds the engine (R298). -/
  task : Option Nat := none
  deriving DecidableEq, Repr

/-- A tensor address generator (R231, R234). -/
structure Gen where
  bound : Bool := false
  handle : BitVec 16 := 0
  base : Dword := 0
  ext : List Nat := []
  str : List Int := []
  fmt : Nat := 0
  swz : Nat := 0
  c : List Nat := []
  deriving DecidableEq, Repr

/-- A needle (R231). -/
structure Needle where
  n : Tbl Dword := []
  pc : Nat := 0
  gens : Tbl Gen := []
  promise : Dword := 0
  /-- The command it runs: workgroup and ring slot. -/
  cmd : Option (Nat × Nat) := none
  /-- The fault code it is stopped at (R251). -/
  stopped : Option (BitVec 8) := none
  /-- It waits at `n.wait` on an object for a sense (R247). -/
  waiting : Option (Dword × Bool) := none
  /-- What the command has written to global memory so far (R181). -/
  writes : VMem := {}
  /-- The word in course, as fetched. -/
  word : Word := 0
  /-- It has performed a word in this cycle (the model's own). -/
  spent : Bool := false
  deriving DecidableEq, Repr

/-- A translation a TLB holds: context, first virtual byte, log2 of the page size, and the leaf entry with its local tier address (R340). -/
structure TlbEnt where
  ctx : Nat
  va : Nat
  log : Nat
  leaf : Dword
  deriving DecidableEq, Repr

/-- What a core keeps of a context that is not running on it (R276, R28, R161). -/
structure CoreCtx where
  mode : BitVec 2 := 0
  fairT : BitVec 16 := 4096
  /-- Ownership of the matrix engine and its queue (R229). -/
  owner : Option Nat := none
  queue : List Nat := []
  deriving DecidableEq, Repr

/-- An opaque record of a matrix save area that was written (R228): the context and core it belongs to, the part of the slot (0 and 1 the planes, 2 + t the extension
of tile t), the free value its bytes begin with, and what it holds. -/
structure Opaque where
  key : Nat := 0
  part : Nat := 0
  draw : Nat := 0
  plane : Plane := {}
  ext : Tbl Exact := []
  deriving DecidableEq, Repr

/-- A core (R157). -/
structure Core where
  /-- CORE_CTL.MODE (R28) and FAIR_T.CYCLES (R161). -/
  mode : BitVec 2 := 2
  fairT : BitVec 16 := 4096
  ctx : Option Nat := none
  /-- The core's view of global memory (R177). -/
  view : VMem := {}
  /-- What releases at co and wider of threads of the core have published (R175, R178). -/
  image : VMem := {}
  /-- The fetch buffer: the 16 words of each line, by virtual address of the line (R184). -/
  lines : Tbl (List Word) := []
  tlb : List TlbEnt := []
  /-- Page walks whose access has been performed and that have not been counted as complete (R340). -/
  walks : Nat := 0
  rows : Tbl Row := []
  engine : Engine := {}
  needles : Tbl Needle := []
  saved : Tbl CoreCtx := []
  /-- The context whose complete state the shadow bank holds (R278), and the context that firmware has chosen to run next with the deadline of its notices (R273). -/
  shadow : Option Nat := none
  preempt : Option Dword := none
  /-- Pages of the core's scratchpad that are not valid yet, by number (R279). -/
  stale : List Nat := []
  /-- The lane id of the last thread whose PC was sampled (R384). -/
  sampled : Nat := 0
  deriving DecidableEq, Repr

/-- A stash range (R151, R152); lines by their index in the range. -/
structure Stash where
  off : Nat
  base : Nat
  len : Nat
  filled : List Nat := []
  dirty : List Nat := []
  /-- What each filled line held before it was filled: its bytes, and the 8-byte units with an uncorrectable error (R153). -/
  old : Tbl (List Byte × List Nat) := []
  deriving DecidableEq, Repr

/-- A published ring entry that has not ended (R235 to R239). -/
structure Posted where
  num : Nat := 0
  sg : Nat := 0
  cmd : Nat := 0
  promise : Dword := 0
  watch : Bool := false
  taken : Bool := false
  /-- PMISS has been raised for the present promise (R250). -/
  missed : Bool := false
  /-- What the view of the issuing core held when the entry was published, where that is not the core of the needles (R181, R236). -/
  seen : VMem := {}
  deriving DecidableEq, Repr

/-- A workgroup that holds a slot handle (R12, R158, R291). -/
structure Wg where
  ctx : Nat := 0
  launch : Nat := 0
  id : Dword := 0
  gx : Nat := 0
  gy : Nat := 0
  gz : Nat := 0
  cluster : Nat := 0
  home : Nat := 0
  base : Nat := 0
  size : Nat := 0
  handle : Nat := 0
  resident : Bool := true
  /-- Birth has happened, and the estates that its threads claim have arrived (R192, R202). -/
  born : Bool := true
  arrived : Bool := true
  /-- Its scratchpad bytes, and the 8-byte units with an uncorrectable error (R343). -/
  mem : Mem := []
  bad : List Nat := []
  stash : List Stash := []
  posted : Tbl Posted := []
  /-- The needles that were running its commands when it was switched out (R255). -/
  stopped : Tbl Needle := []
  /-- What releases at wg scope, and at cl and wider, have published to the workgroup (R175). -/
  image : VMem := {}
  deriving DecidableEq, Repr

/-- A command joined to batches: thread (subgroup, lane) and batch number (R249). A command that is not listed is complete. -/
structure Cmd where
  joins : List ((Nat × Nat) × BitVec 16) := []
  core : Nat := 0
  /-- The record of a tile task that waits for an entry of the scheduler, and its address (R296). -/
  record : List Byte := []
  addr : Dword := 0
  deriving DecidableEq, Repr

/-- An Orrery command in the queue; `record` is its descriptor as read at issue (R310). -/
structure OCmd where
  op : BitVec 2
  desc : Dword
  record : List Byte
  count : Word
  sg : Nat
  wg : Nat
  core : Nat
  cmd : Nat
  deriving DecidableEq, Repr

/-- A tile task of the scheduler (R295 to R299); `record` is the record as read at posting. -/
structure TileTask where
  num : Nat
  ctx : Nat
  wg : Nat
  sg : Nat
  core : Nat
  cmd : Nat
  addr : Dword
  taskid : Nat
  deps : List Nat
  record : List Byte
  /-- It has started and holds its engines (R298). -/
  started : Bool := false
  /-- A task it depended on stopped or was not run (R299). -/
  doomed : Bool := false
  deriving DecidableEq, Repr

/-- A prefetch in progress (R290): the command of its batches, or the barrier it arrives on, if ARRIVE was 1: the workgroup that holds the object, and its offset. -/
structure Prefetch where
  cmd : Option Nat := none
  barrier : Option (Nat × Nat) := none
  wg : Nat := 0
  deriving DecidableEq, Repr

/-- A cluster (R288). Its 4,096-entry TLB is that of R340. Its slot table is the list of workgroups that name it, its stitch holder the list of estates whose place is there. -/
structure Cluster where
  image : VMem := {}
  tlb : List TlbEnt := []
  orrery : List OCmd := []
  tasks : List TileTask := []
  deriving DecidableEq, Repr

/-- A relock in course: the ETIME at which it ends, and the new code (R322). -/
structure Relock where
  until_ : Dword
  code : BitVec 4
  deriving DecidableEq, Repr

/-- An entry of the DVFS step log (R323). -/
structure Step where
  etime : Dword := 0
  cyc : Dword := 0
  scyc : Dword := 0
  seq : Word := 0
  codes : Word := 0
  deriving DecidableEq, Repr

/-- A die (R318 to R323). -/
structure Die where
  image : VMem := {}
  dcode : BitVec 4 := 6
  lcode : BitVec 4 := 9
  cyc : Dword := 0
  scyc : Dword := 0
  /-- L-domain cycles, for `sleepc` and FAIR_T on L-cores (R161, R274). -/
  lcyc : Nat := 0
  /-- SLOTS of every lane row of the die's D-cores, and of its L-cores (R382, R383). -/
  slotsD : Dword := 0
  slotsL : Dword := 0
  /-- The tick at which the next edge of each domain falls (log 7). -/
  edgeD : Nat := 0
  edgeL : Nat := 0
  relockD : Option Relock := none
  relockL : Option Relock := none
  /-- The code of a step that begins when the cycle in course of the domain ends (R322). -/
  wantD : Option (BitVec 4) := none
  wantL : Option (BitVec 4) := none
  /-- ETIME at which the last relock of each domain ended. -/
  freeD : Option Dword := none
  freeL : Option Dword := none
  dsteps : Word := 0
  log : Tbl Step := []
  deriving DecidableEq, Repr

/-- An entry of the transit table: offsets and WBASE in each form, and the register pairs (R301). -/
structure Transit where
  dpc : Nat
  lpc : Nat
  dwb : Nat
  lwb : Nat
  pairs : List (Nat × Nat)
  deriving DecidableEq, Repr

/-- What the loader knows of a code image and its kernel (R62 to R66, R232, R301); spec/ gives the kernel table no layout (log 10). -/
structure Image where
  narrow : Bool := false
  lform : Bool := false
  /-- Virtual addresses of the sections and of the entry point in each form. -/
  sectD : Dword := 0
  sectL : Dword := 0
  sizeD : Nat := 0
  sizeL : Nat := 0
  entryD : Dword := 0
  entryL : Dword := 0
  needle : List Word := []
  /-- The transit table. -/
  transit : List Transit := []
  deriving DecidableEq, Repr

/-- An entry of the bequest list (R187). -/
structure Bequest where
  tag : BitVec 3
  base : Nat
  count : Nat
  deriving DecidableEq, Repr

/-- An entry of the inheritance specification (R190). -/
structure Inherit where
  tag : BitVec 3
  dst : Nat
  count : Nat
  affine : Bool := false
  fault : Bool := false
  copy : Bool := false
  m : List Int := []
  o : List Int := []
  ext : List Nat := []
  deriving DecidableEq, Repr

/-- A launch parameter block (R355). -/
structure Lpb where
  code : Dword := 0
  kernel : Word := 0
  coop : Bool := false
  kind : BitVec 2 := 0
  trav : BitVec 3 := 0
  width : Nat := 1
  gx : Nat := 1
  gy : Nat := 1
  gz : Nat := 1
  wx : Nat := 1
  wy : Nat := 1
  wz : Nat := 1
  regs : Nat := 256
  scratch : Nat := 0
  args : Dword := 0
  rcb : Dword := 0
  rngkey : Dword := 0
  bequest : List Bequest := []
  inherit : List Inherit := []
  residue : Dword := 0
  ressize : Nat := 0
  nring : Option Nat := none
  tlrbase : Dword := 0
  tlrcount : Nat := 0
  clbar : Word := 0
  trapframe : Dword := 0
  slotdir : Dword := 0
  deriving DecidableEq, Repr

/-- A workgroup stopped by a CHECKPOINT, with its subgroups and its commands (R19, R354, R358). -/
structure Stopped where
  id : Nat
  /-- Its number in the model. -/
  num : Nat := 0
  wg : Wg
  subs : Tbl Sub := []
  /-- The subgroups of it that owned the engine of their core, and that waited for it, with the core (R229). -/
  owners : List (Nat × Nat) := []
  waiters : List (Nat × Nat) := []
  cmds : Tbl Cmd := []
  orrery : List OCmd := []
  tasks : List TileTask := []
  /-- The order of the subgroups in the owner queue of each core at that moment (R229). -/
  turns : List (Nat × List Nat) := []
  /-- The offsets of the barrier objects of the workgroup on which a prefetch still has to arrive (R290). -/
  arrivals : List Nat := []
  deriving DecidableEq, Repr

/-- A launch that was admitted and has not ended (R355 to R361), with what admission read of its region. -/
structure Launch where
  ctx : Nat := 0
  /-- The regions from the launch's own up to the root, by the place of their RCB. -/
  regions : List Loc := []
  prio : Nat := 0
  fdom : Word := 0
  dbg : Bool := false
  /-- Virtual address of the vector record, 0 for none (R262). -/
  vector : Dword := 0
  lpb : Lpb := {}
  /-- The LPB's 256 bytes, for a SAVED image of the launch (R354). -/
  raw : List Byte := []
  image : Image := {}
  /-- The cores on which its threads have run (R182, R360). -/
  cores : List Nat := []
  /-- Workgroups in traversal order that are not placed yet (R326), and those of a SAVED image that are not placed again yet. -/
  todo : List Nat := []
  stopped : List Stopped := []
  /-- Its first workgroup has been born: the journal entry has STATE started (R362). -/
  started : Bool := false
  /-- Cause code and FAULT_PC of the first failure (R361). -/
  failure : Option (BitVec 8 × Dword) := none
  /-- Estate room reserved and not yet used, in bytes (R203), and the region whose store it is drawn from. -/
  reserved : Nat := 0
  store : Loc := 0
  /-- Admission order, for eligibility (R192): the launches that had completed when this one was admitted are those that ended before `admitted`. -/
  admitted : Nat := 0
  deriving DecidableEq, Repr

/-- What the opaque sections of a SAVED image hold, under the number that the image carries (R354, log 13): a launch and its stopped workgroups. -/
structure Saved where
  /-- The accept sequence number of the launch that was stopped; after a reset 2^64 and more, which no launch has. -/
  was : Nat := 0
  /-- The free value that the image's opaque section carries beside the number (log 13). -/
  tag : Dword := 0
  launch : Launch := {}
  stopped : List Stopped := []
  /-- The estates of the image: the RCB address of the region, whether it was eligible, its sequence number, and the launch that left it; and the sequence counters of
  the regions of its context, by RCB address (R207). -/
  estates : List (Dword × Bool × Dword × Nat) := []
  seqs : List (Dword × Dword) := []
  deriving DecidableEq, Repr

/-- A context (R13, R356). -/
structure Context where
  root : Loc := 0
  ptroot : Loc := 0
  msave : Dword := 0
  fkey : BitVec 16 := 0
  deriving DecidableEq, Repr

/-- A region's own state outside its RCB: the bequest counter and the room reserved in its store (R189, R203). -/
structure Region where
  ctx : Nat := 0
  rcb : Dword := 0
  seq : Dword := 0
  reserved : Nat := 0
  deriving DecidableEq, Repr

/-- Where an estate lives (R198). -/
inductive Place where
  | inPlace (core row slot lane : Nat)
  | holder (cluster : Nat)
  /-- In the backing store, from an offset of it on (R201). -/
  | store (off : Nat)
  deriving DecidableEq, Repr

/-- An estate (R188, R201). -/
structure Estate where
  ctx : Nat
  region : Loc
  fdom : Word := 0
  store : Loc := 0
  key : Dword
  tag : BitVec 3
  seq : Dword
  regs : List Word
  launch : Nat
  eligible : Bool := false
  /-- When it became eligible, in the order of admissions and completions. -/
  since : Nat := 0
  place : Place
  /-- Its stored record has an uncorrectable error (R202). -/
  bad : Bool := false
  deriving DecidableEq, Repr

/-- A code image that the loader has mapped for a context: its address, what it holds, and the image that has superseded it (R304). -/
structure Loaded where
  ctx : Nat
  code : Dword
  image : Image := {}
  by_ : Option Dword := none
  deriving DecidableEq, Repr

/-- A queue block (R348, R349). -/
structure Queue where
  base : Dword := 0
  log : Word := 0
  enable : Bool := false
  drain : Bool := false
  rcb : Dword := 0
  map : Dword := 0
  widx : Dword := 0
  reserved : Nat := 0
  cons : Word := 0
  stat : Word := 0
  /-- A wake core has been told of the queue (R351). -/
  awake : Bool := false
  deriving DecidableEq, Repr

/-- An accepted entry, or a node of a graph that has started: a journal entry that is not final is listed (R352, R359, R362). -/
structure Entry where
  /-- The queue, and for a graph node the sequence number of its graph, its index and iteration. -/
  queue : Nat := 0
  graph : Option Nat := none
  node : Nat := 0xffff
  iter : Nat := 0
  op : BitVec 8 := 0
  fence : Bool := false
  tag : Word := 0
  ctx : Nat := 0
  rcb : Dword := 0
  /-- The 64 bytes of the entry or node. -/
  bytes : List Byte := []
  /-- STATE as in the journal: 1 accepted, 2 started (R362). -/
  state : BitVec 8 := 1
  tacc : Dword := 0
  tstart : Dword := 0
  /-- A graph's nodes: 0 not started, 1 running, 2 completed, 3 faulted; a loop's iterations done. -/
  nodes : Tbl Nat := []
  iters : Tbl Nat := []
  /-- The region's next bequest sequence number at acceptance, for RELEASE_ESTATES (R206). -/
  cut : Dword := 0
  deriving DecidableEq, Repr

/-- The front end (R348 to R362). -/
structure FrontEnd where
  queues : Tbl Queue := []
  /-- Accepted entries by accept sequence number, until their journal entry is final. -/
  entries : Tbl Entry := []
  launches : Tbl Launch := []
  jbase : Dword := 0
  jlog : Word := 8
  jseq : Dword := 0
  jridx : Dword := 0
  jset : Bool := false
  contexts : Tbl Context := []
  regions : Tbl Region := []
  estates : List Estate := []
  /-- Counts admissions and completions, for R192. -/
  order : Nat := 0
  /-- The queue served last, for the turns among queues of equal priority (R352), and the saved launches. -/
  turn : Nat := 0
  saved : Tbl Saved := []
  /-- The code images that are mapped (R304). -/
  images : List Loaded := []
  deriving DecidableEq, Repr

/-- The bring-up of the package (R376). -/
inductive BringUp where
  | off | rails | training | ready
  deriving DecidableEq, Repr

/-- How an access of the host or a message of the sideband was answered: with data, with Unsupported Request, with Completer Abort, or with an error completion
(R186, R368, R374). -/
inductive Reply where
  | data (x : Dword)
  | unsupported
  | abort
  | error
  deriving DecidableEq, Repr

/-- A line of host memory that the device holds modified: the contexts whose stores it holds, and what host memory itself has there (R367, R373). -/
structure HostLine where
  owners : List Nat := []
  was : List Byte := []
  deriving DecidableEq, Repr

/-- The host link and management registers (R368 to R376). -/
structure Link where
  bringUp : BringUp := .off
  linkState : BitVec 2 := 0
  /-- Configuration space answers (R376). -/
  config : Bool := false
  flr : Bool := false
  qfail : Bool := false
  therm : BitVec 4 := 0
  bar2Base : Dword := 0
  bar2Log : Nat := 30
  llArea : Dword := 0
  llSize : Dword := 0
  cap : Nat := 3600
  /-- Bytes of firmware images received over the sideband. -/
  firmware : Nat := 0
  /-- The answers to the host and the sideband, oldest first (R186, R368, R374). -/
  reads : List Reply := []
  /-- Lines of host memory that are held modified at their home slice, by their number (R367). -/
  lines : Tbl HostLine := []
  deriving DecidableEq, Repr

/-- An export window (R391). -/
structure Export where
  base : Dword := 0
  size : Dword := 0
  key : Word := 0
  opened : Bool := false
  wprot : Bool := false
  busy : Bool := false
  err : Bool := false
  deriving DecidableEq, Repr

/-- A flit that this package sends: its channel, type and payload, its sequence number once it is sent, and the package and 128-byte line to which the request in it goes
(R387, R389, R393). -/
structure Flit where
  vc : Nat := 0
  kind : BitVec 8 := 0
  payload : BitVec 448 := 0
  seq : BitVec 16 := 0
  to_ : Option (Nat × Nat) := none
  deriving DecidableEq, Repr

/-- A fabric port (R386 to R389). -/
structure Port where
  state : BitVec 2 := 0
  peer : Nat := 0
  pport : Nat := 0
  crc : Dword := 0
  /-- Credits that the link partner holds, and flits that came and are not drained, by channel (R387). -/
  credits : Tbl Nat := []
  waiting : Tbl Nat := []
  rxSeq : BitVec 16 := 0
  /-- CRC failures in a row of the flit next in order (R388). -/
  replays : Nat := 0
  /-- Credits that this side holds, by channel, and the flits that wait for one (R387). -/
  txCredits : Tbl Nat := []
  queue : List Flit := []
  /-- The flits sent last and not acknowledged, at most 512, and the sequence number of the next (R388). -/
  sent : List Flit := []
  txSeq : BitVec 16 := 0
  /-- The flit of which the link partner asked for replay last, and how often in a row (R388). -/
  asked : BitVec 16 := 0
  asks : Nat := 0
  /-- ETIME of the last acknowledgement, or of the first flit sent since none was outstanding (R388). -/
  ackAt : Dword := 0
  deriving DecidableEq, Repr

/-- The fabric side of the package (R386 to R394). -/
structure Fabric where
  id : Nat := 0
  /-- The package that is the grandmaster, once firmware has configured one (R389, R394). -/
  gm : Option Nat := none
  /-- ETIME has been set to the time of a grandmaster, which is done once (R319, R376). -/
  timed : Bool := false
  free : Bool := false
  lock : Bool := false
  toff : Dword := 0
  /-- How far ETIME stands from its nominal course, and the correction that its rate still has to make, in ticks (R394). -/
  skew : Int := 0
  slew : Int := 0
  ports : Tbl Port := []
  exports : Tbl Export := []
  /-- Responses kept for remote requests that were answered: by request, the bytes read, or none for a refusal, and the ETIME of the answer (R393). -/
  kept : Tbl (Option (List Byte) × Dword) := []
  /-- Stores of other packages that a release narrower than sy has carried here and that nothing has published yet: the package, the place and the byte (R392). -/
  carried : List (Nat × Loc × Byte) := []
  /-- The virtual page under which a page of another package or of the host was stored to last, by its number (R373, R393). -/
  names : Tbl Nat := []
  /-- Subgroups of which a release waits for another package, with the ETIME since which it does (R393). -/
  owed : Tbl Dword := []
  deriving DecidableEq, Repr

/-- Debug, trace and counter registers (R209, R378 to R384). -/
structure Debug where
  ctx : Word := 0
  wg : Word := 0
  seq : Dword := 0
  busy : Bool := false
  done : Bool := false
  err : Bool := false
  /-- The workgroup that the request in course halts. -/
  target : Option Nat := none
  freeze : Bool := false
  estInPlace : Dword := 0
  estCore : Dword := 0
  estHolder : Dword := 0
  estStore : Dword := 0
  trcBase : Dword := 0
  trcLog : Word := 0
  trcCtl : Word := 0
  trcWr : Dword := 0
  trcRd : Dword := 0
  trcLost : Word := 0
  deriving DecidableEq, Repr

/-- Translation invalidation registers (R341). -/
structure Xinv where
  ctx : Word := 0
  va : Dword := 0
  pages : Word := 0
  err : Bool := false
  busy : Bool := false
  deriving DecidableEq, Repr

/-- What agents outside the cores do in one step and spec/opcode_table.json gives no row: a host read of the control window through BAR 0 (R345, R369), the swap of a code
image by the loader (R304), the begin of a port's training (R388, R389), an invalidation by the firmware's own register set (R341), the writeback of a line of host
memory (R367), a fault of the background engine on a spill write or a fill read (R278), the restore of a pre-empted workgroup on another core (R280), a write of FAIR_T by firmware (R161), and the choice of the grandmaster (R394). -/
inductive Aside where
  | windowRead (off size : Nat)
  | swapImage (ctx : Nat) (code new : Dword)
  | trainPort (port : Nat)
  | invalidate (ctx : Word) (va : Dword) (pages : Word)
  | writeBack (line : Nat)
  | spillFault (core ctx : Nat)
  | fillFault (core ctx : Nat)
  | restoreElsewhere (wg : Nat)
  | setFairT (core cycles : Nat)
  | setGrandmaster (pkg : Nat)
  deriving DecidableEq, Repr

/-- What moves next (the model's own): an event, a step that is no row, a lane row that issues, or a needle that performs a word. -/
inductive Act where
  | event (e : Event)
  | aside (a : Aside)
  | row (core row : Nat)
  | needle (core n : Nat)
  deriving DecidableEq, Repr

/-- The unit whose word is in course (the model's own). -/
inductive Turn where
  | row (core row : Nat)
  | needle (core n : Nat)
  deriving DecidableEq, Repr

/-- A package (R1). -/
structure State where
  /-- The 9140 has 14 clusters per die (R1), the 9200 has 16; STEP of ID_GRADE (R3). -/
  g9140 : Bool := false
  stepping : BitVec 4 := 0
  /-- ETIME in ticks of 1/5354228880 ns (R319, log 7). -/
  ticks : Nat := 0
  dies : Tbl Die := []
  clusters : Tbl Cluster := []
  cores : Tbl Core := []
  wgs : Tbl Wg := []
  subs : Tbl Sub := []
  /-- Engine commands that joined a batch or run in an engine and are not complete (R214, R249). -/
  cmds : Tbl Cmd := []
  prefetches : Tbl Prefetch := []
  /-- The slots of matrix save areas to which a spill wrote, by context × 1024 + core, with what the planes held then; and the opaque records written, the newest
  first (R227, R228). -/
  spilled : Tbl Engine := []
  opaques : List Opaque := []
  /-- Global memory as published at pk and at sy (R178, R346), and the 32-byte units with an uncorrectable error (R343). -/
  pk : VMem := {}
  sy : VMem := {}
  bad : List Nat := []
  /-- The 4 KiB granules that a store has reached since the reset: the written map of the base dies (R372). -/
  written : List Nat := []
  errLog : Tbl (List Byte) := []
  errSeq : Dword := 0
  errLost : Word := 0
  /-- Slots of the error log that have been read since their record was written. -/
  errSeen : List Nat := []
  fe : FrontEnd := {}
  link : Link := {}
  fabric : Fabric := {}
  dbgr : Debug := {}
  xinv : Xinv := {}
  /-- The register set of the firmware policy core (R341). -/
  fwXinv : Xinv := {}
  /-- Events of units whose clock a relock has stopped; they happen after it (R322, R325). -/
  parked : List Event := []
  /-- The model's own fields: numbers for new units, the next coherence stamp, the stores not yet in the order of atomics, the draw of the free values, and what moves next (log 3 to 5). -/
  fresh : Nat := 1
  stamp : Nat := 1
  /-- Plain stores, by place and stamp, that no release has carried to the place where atomics execute (R148, R149, R177). -/
  unsent : List (Loc × Nat) := []
  /-- Pairs of such stores of one place of which the first comes before the second in coherence order: a view or an image has moved from one to the other (R177). -/
  follows : List (Loc × Nat × Nat) := []
  draw : Nat := 0
  agenda : List Act := []
  turn : Turn := .row 0 0
  deriving DecidableEq, Repr

/-- Why a step stops. -/
inductive Fault where
  /-- Raised by the meaning of a word when no group issues on the row whose turn it is, or no command runs on the needle: no such step is taken
  by `step`, which issues a word only for a group. Safe. -/
  | noIssuer
  /-- Raised where the machine has no core, subgroup or workgroup of the number that a part of the state names: a state no run reaches. Safe. -/
  | noUnit
  deriving DecidableEq, Repr

/-- Why a step is refused. -/
inductive Refusal where
  /-- Raised by the dispatcher for an instruction whose meaning is not written. Safe. -/
  | notModelled (mnemonic : String)
  deriving DecidableEq, Repr

/-- The package right after reset (R3, R28, R318, R319, R348, R362, R368, R370, R376; log 1 to 7). -/
def State.reset : State := {}

end Sys2Proof.Machine
end

