-- ==== Sys2Proof/Machine/Units.lean ====
section
/-!
DEFINITION. The numbering of the units (R1, R2, R228, R288) and the accessors of the tables that hold them.

Core 2d is D-core d and core 2l + 1 is L-core l, in the numbering of R228 and R288.
-/

namespace Sys2Proof.Machine

/-- Whether a core is an L-core. -/
def isL (core : Nat) : Bool := core % 2 == 1
/-- The form of the words a core issues (R48, R157). -/
def formOf (core : Nat) : Form := if isL core then .l else .d
/-- The cluster of a core (R288). -/
def clusterOf (core : Nat) : Nat := if isL core then core / 2 / 2 else core / 2 / 6
/-- The index of a core in its cluster (R288, R321). -/
def coreIndex (core : Nat) : Nat := if isL core then core / 2 % 2 else core / 2 % 6
/-- D-core index `i`, or L-core index `i`, of a cluster (R288). -/
def dCore (cluster i : Nat) : Nat := 2 * (6 * cluster + i)
def lCore (cluster i : Nat) : Nat := 2 * (2 * cluster + i) + 1
/-- Lane rows, thread slots per row, scratchpad bytes and needles of a core (R157). -/
def rowsOf (core : Nat) : Nat := if isL core then 1 else 2
def slotsOf (core : Nat) : Nat := if isL core then 4 else 8
def scratchOf (core : Nat) : Nat := if isL core then 262144 else 524288
def needlesOf (core : Nat) : Nat := if isL core then 1 else 2

namespace State

/-- Clusters per die and clusters of the package (R1, R2). -/
def perDie (s : State) : Nat := if s.g9140 then 14 else 16
def nClusters (s : State) : Nat := 4 * s.perDie
/-- The die of a cluster (R2) and of a core. -/
def dieOf (s : State) (cluster : Nat) : Nat := cluster / s.perDie
def dieOfCore (s : State) (core : Nat) : Nat := s.dieOf (clusterOf core)
/-- Whether the package has a core of that number. -/
def hasCore (s : State) (core : Nat) : Bool := decide (clusterOf core < s.nClusters)
/-- ETIME in whole nanoseconds, with what its rate has corrected (R319, R394). -/
def etime (s : State) : Dword := BitVec.ofNat 64 (((s.ticks : Int) + s.fabric.skew).toNat / 5354228880)

def core (s : State) (c : Nat) : Core := s.cores.get c {}
def setCore (s : State) (c : Nat) (x : Core) : State := { s with cores := s.cores.set c x }
def modCore (s : State) (c : Nat) (f : Core → Core) : State := s.setCore c (f (s.core c))
def row (s : State) (c r : Nat) : Row := (s.core c).rows.get r {}
def setRow (s : State) (c r : Nat) (x : Row) : State := s.modCore c fun k => { k with rows := k.rows.set r x }
def modRow (s : State) (c r : Nat) (f : Row → Row) : State := s.setRow c r (f (s.row c r))
def engine (s : State) (c : Nat) : Engine := (s.core c).engine
def setEngine (s : State) (c : Nat) (x : Engine) : State := s.modCore c fun k => { k with engine := x }
def needle (s : State) (c n : Nat) : Needle := (s.core c).needles.get n {}
def setNeedle (s : State) (c n : Nat) (x : Needle) : State := s.modCore c fun k => { k with needles := k.needles.set n x }
def modNeedle (s : State) (c n : Nat) (f : Needle → Needle) : State := s.setNeedle c n (f (s.needle c n))
def cluster (s : State) (k : Nat) : Cluster := s.clusters.get k {}
def setCluster (s : State) (k : Nat) (x : Cluster) : State := { s with clusters := s.clusters.set k x }
def modCluster (s : State) (k : Nat) (f : Cluster → Cluster) : State := s.setCluster k (f (s.cluster k))
def die (s : State) (d : Nat) : Die := s.dies.get d {}
def setDie (s : State) (d : Nat) (x : Die) : State := { s with dies := s.dies.set d x }
def modDie (s : State) (d : Nat) (f : Die → Die) : State := s.setDie d (f (s.die d))
def sub (s : State) (g : Nat) : Sub := s.subs.get g {}
def setSub (s : State) (g : Nat) (x : Sub) : State := { s with subs := s.subs.set g x }
def modSub (s : State) (g : Nat) (f : Sub → Sub) : State := s.setSub g (f (s.sub g))
def wg (s : State) (w : Nat) : Wg := s.wgs.get w {}
def setWg (s : State) (w : Nat) (x : Wg) : State := { s with wgs := s.wgs.set w x }
def modWg (s : State) (w : Nat) (f : Wg → Wg) : State := s.setWg w (f (s.wg w))
def launch (s : State) (l : Nat) : Launch := s.fe.launches.get l {}
def setLaunch (s : State) (l : Nat) (x : Launch) : State := { s with fe := { s.fe with launches := s.fe.launches.set l x } }
def modLaunch (s : State) (l : Nat) (f : Launch → Launch) : State := s.setLaunch l (f (s.launch l))
/-- The launch of a subgroup. -/
def launchOf (s : State) (g : Nat) : Launch := s.launch (s.wg (s.sub g).wg).launch
/-- The subgroups of a workgroup, in the order of their numbers. -/
def subsOf (s : State) (w : Nat) : List Nat := (s.subs.filter fun p => p.2.wg == w).map Prod.fst
/-- A number no unit has yet. -/
def takeFresh (s : State) : State × Nat := ({ s with fresh := s.fresh + 1 }, s.fresh)
/-- A free value (log 4). -/
def takeFree (s : State) : State × Dword := ({ s with draw := s.draw + 1 }, Config.freeValue s.draw)
/-- Events put behind those that already wait. -/
def post (s : State) (es : List Event) : State := { s with agenda := s.agenda ++ es.map Act.event }

end State

/-- The thread of a member; a member that holds no thread has the default. -/
def Sub.thread (u : Sub) (l : Nat) : Thread := u.threads.get l {}
def Sub.setThread (u : Sub) (l : Nat) (t : Thread) : Sub := { u with threads := u.threads.set l t }
def Sub.modThread (u : Sub) (l : Nat) (f : Thread → Thread) : Sub := u.setThread l (f (u.thread l))
/-- s0 to s111 and k0 to k11 (R22, R29). -/
def Sub.sreg (u : Sub) (n : Nat) : Word := u.s.get n 0
def Sub.setSreg (u : Sub) (n : Nat) (x : Word) : Sub := { u with s := u.s.set n x }
def Sub.spair (u : Sub) (n : Nat) : Dword := pairOf (u.sreg n) (u.sreg (n + 1))
def Sub.setSpair (u : Sub) (n : Nat) (x : Dword) : Sub := (u.setSreg n (loOf x)).setSreg (n + 1) (hiOf x)
/-- SSTAT fields (R32). -/
def Sub.rngsat (u : Sub) : Bool := u.sstat.getLsbD 1
def Sub.rsten (u : Sub) : Bool := u.sstat.getLsbD 2
def Sub.narrow (u : Sub) : Bool := u.sstat.getLsbD 3
def Sub.inHandler (u : Sub) : Bool := u.sstat.getLsbD 6
/-- A word with bit `n` set to `b`. -/
def setBit (w : Word) (n : Nat) (b : Bool) : Word := if b then w ||| (1#32 <<< n) else w &&& ~~~(1#32 <<< n)
/-- The number of members of a subgroup: 64, or 32 in narrow-wave mode (R36). -/
def Sub.width (u : Sub) : Nat := if u.narrow then 32 else 64
/-- A mask register as software sees it: bits [63:32] read as zero in narrow-wave mode (R29). -/
def Sub.kreg (u : Sub) (n : Nat) : Dword := if u.narrow then (u.k.get n 0) &&& 0xffffffff#64 else u.k.get n 0
def Sub.setKreg (u : Sub) (n : Nat) (x : Dword) : Sub :=
  { u with k := u.k.set n (if u.narrow then x &&& 0xffffffff#64 else x) }
/-- The live mask k0 (R29). -/
def Sub.live (u : Sub) : Dword := u.kreg 0

/-- A register of a thread (R20). -/
def Thread.reg (t : Thread) (n : Nat) : Word := t.v.get n 0
def Thread.setReg (t : Thread) (n : Nat) (x : Word) : Thread := { t with v := t.v.set n x }
def Thread.pair (t : Thread) (n : Nat) : Dword := pairOf (t.reg n) (t.reg (n + 1))
def Thread.setPair (t : Thread) (n : Nat) (x : Dword) : Thread := (t.setReg n (loOf x)).setReg (n + 1) (hiOf x)

/-- The members whose bits a mask sets, in rising order. -/
def lanesOf (m : Dword) : List Nat := (List.range 64).filter fun l => m.getLsbD l
/-- The mask of a list of members. -/
def maskOf (ls : List Nat) : Dword := ls.foldl (fun m l => m ||| (1#64 <<< l)) 0
/-- The lowest member of a mask; 0 for the empty mask. -/
def lowest (m : Dword) : Nat := (lanesOf m).headD 0

end Sys2Proof.Machine
end

