-- ==== Sys2Proof/Machine/Flags.lean ====
section
/-!
DEFINITION. The flags and controls of TSTAT (R30).
-/

namespace Sys2Proof.Machine

/-- Flags raised by one operation, as TSTAT bits [4:0]: IV, DZ, OF, UF, NX (R30). -/
abbrev Flags := BitVec 5
def flagNX : Flags := 1
def flagUF : Flags := 2
def flagOF : Flags := 4
def flagDZ : Flags := 8
def flagIV : Flags := 16

/-- A flag is sticky: an operation can set it and never clears it (R30). -/
def raiseFlags (tstat : Word) (f : Flags) : Word := tstat ||| f.setWidth 32
/-- LSTALE set (R26). -/
def setStale (tstat : Word) (b : Bool) : Word := if b then tstat ||| 0x1000#32 else tstat
/-- RM and FTZ (R30). -/
def roundMode (tstat : Word) : BitVec 2 := tstat.extractLsb' 8 2
def flushes (tstat : Word) : Bool := tstat.getLsbD 10
/-- The bits of TSTAT that `swr` can write: LSTALE, FTZ, RM and the five flags (R30, R34). -/
def tstatWritable : Word := 0x171f

end Sys2Proof.Machine
end

