-- ==== Sys2Proof/Machine/Mem.lean ====
section
/-!
DEFINITION. Global memory and scratchpad: images and views with their coherence stamps, publication (R175 to R183), translation (R331 to
R340), and the checks of an access in the order of R154.
-/

namespace Sys2Proof.Machine

namespace Mem
/-- What an unlisted byte reads as: 0 (R372 for memory; log 6 for scratchpad). -/
def unlisted : Byte := 0
/-- The byte at a place. -/
def read (m : Mem) (p : Nat) : Byte := Tbl.get m p unlisted
/-- A byte stored; a byte that equals what an unlisted place reads as leaves no entry. -/
def write (m : Mem) (p : Nat) (b : Byte) : Mem := if b = unlisted then Tbl.del m p else Tbl.set m p b
/-- The canonical form: places strictly rising, and no entry of the unlisted value. -/
def wf (m : Mem) : Bool := Tbl.sorted m && m.all fun c => c.2 != unlisted
end Mem

namespace VMem
/-- The byte of a place, and the stamp of the store it came from. -/
def read (m : VMem) (p : Loc) : Byte := Mem.read m.bytes p
def stampAt (m : VMem) (p : Loc) : Nat := m.stamps.get p 0
/-- A store with its stamp. -/
def write (m : VMem) (p : Loc) (b : Byte) (t : Nat) : VMem := { bytes := Mem.write m.bytes p b, stamps := m.stamps.set p t }
/-- One place taken from `src` when its store is later (R177). -/
def take (src dst : VMem) (p : Loc) : VMem :=
  if dst.stampAt p < src.stampAt p then dst.write p (src.read p) (src.stampAt p) else dst
/-- Every place moved forward to the store of `src` where that is later in coherence order (R177, R178). -/
def merge (dst src : VMem) : VMem := src.stamps.keys.foldl (fun d p => take src d p) dst
/-- The stamp of one place replaced. -/
def restamp (m : VMem) (p : Loc) (f : Nat → Nat) : VMem :=
  if m.stampAt p = 0 then m else { m with stamps := m.stamps.set p (f (m.stampAt p)) }
end VMem

/-- Little-endian bytes of a value, and the value of little-endian bytes (R4). -/
def bytesOf (n : Nat) (x : Dword) : List Byte := (List.range n).map fun i => (x >>> (8 * i)).setWidth 8
def ofBytes : List Byte → Dword
  | [] => 0
  | b :: bs => (ofBytes bs <<< 8) ||| b.setWidth 64

/-- Places: a tier and a tier address of this package, and of a remote package (R331, R390). -/
def locOf (tier addr : Nat) : Loc := tier * 2 ^ 56 + addr
def remoteLoc (pkg tier addr : Nat) : Loc := (pkg + 1) * 2 ^ 58 + tier * 2 ^ 56 + addr
def tierOf (p : Loc) : Nat := p / 2 ^ 56 % 4
def tierAddr (p : Loc) : Nat := p % 2 ^ 56
def isRemote (p : Loc) : Bool := decide (2 ^ 58 ≤ p)
/-- Whether a place is reached over a link: one of another package, or of the host. -/
def isFar (p : Loc) : Bool := isRemote p || tierOf p == 2

/-! ### Ports, routes and flits (R386 to R389) -/

def State.port (s : State) (p : Nat) : Port := s.fabric.ports.get p {}
def State.setPort (s : State) (p : Nat) (x : Port) : State := { s with fabric := { s.fabric with ports := s.fabric.ports.set p x } }
/-- Whether a fabric port is up; a replay changes only time (R388, R389). -/
def State.portUp (s : State) (p : Nat) : Bool := decide (2 ≤ (s.port p).state.toNat)
/-- The package of a remote place, and its 128-byte line. -/
def pkgOf (p : Loc) : Nat := p / 2 ^ 58 - 1
def lineOf128 (p : Loc) : Nat := tierAddr p / 128
/-- The port by which a request to a line of another package goes: the direct port within the pod, else uplink plane (line mod 64) or the next plane upward of which both
ports are up; none where the package is unreachable (R389). The far port of a plane is the other package's (log 39). -/
def State.route (s : State) (pkg line : Nat) : Option Nat :=
  if pkg / 64 = s.fabric.id / 64 then (if s.portUp (pkg % 64) then some (pkg % 64) else none)
  else ((List.range 64).map fun j => 64 + (line + j) % 64).find? fun p => s.portUp p && Config.farPortUp pkg p s.ticks
/-- A flit sent against a credit of its channel, behind those of the channel that wait; one that gets no credit waits (R387). The last 512 are kept (R388). -/
def Port.send (x : Port) (now : Dword) (f : Flit) : Port :=
  if x.txCredits.get f.vc 0 = 0 || x.queue.any fun g => g.vc == f.vc then { x with queue := x.queue ++ [f] }
  else { x with
    txCredits := x.txCredits.set f.vc (x.txCredits.get f.vc 0 - 1)
    sent := (x.sent ++ [{ f with seq := x.txSeq }]).drop (x.sent.length + 1 - 512)
    txSeq := x.txSeq + 1
    ackAt := if x.sent = [] then now else x.ackAt }
/-- The flits that wait, sent in their order as far as credits go (R387). -/
def Port.drain (x : Port) (now : Dword) : Port := x.queue.foldl (fun x f => x.send now f) { x with queue := [] }
def State.sendFlit (s : State) (p : Nat) (f : Flit) : State := if s.portUp p then s.setPort p ((s.port p).send s.etime f) else s
/-- The request of this package for a line of another package (R387, R389). -/
def State.sendRequest (s : State) (p : Loc) : State :=
  match s.route (pkgOf p) (lineOf128 p) with
  | some q => s.sendFlit q { payload := Config.flitPayload p s.ticks, to_ := some (pkgOf p, lineOf128 p) }
  | none => s
/-- The requests for some places, one for each line of another package (R142, R389). -/
def State.sendRequests (s : State) (ps : List Loc) : State :=
  ((ps.filter isRemote).map fun p => p / 128 * 128).eraseDups.foldl State.sendRequest s

namespace State

/-- Bytes of a die region, and of each tier (R331, R332). -/
def region (s : State) : Nat := if s.g9140 then 0x2000000000 else 0x3000000000
def tierSize (s : State) (tier : Nat) : Nat :=
  if tier = 0 then 4 * s.region else if tier = 1 then 0x20000000000 else if tier = 2 then 2 ^ 52 else 0

/-- A byte of an image; one of another package is what that package has there, where the image holds no store of it, or a later store there, once a release at sy has
published that of the image (R392, log 14). -/
def imageByte (s : State) (m : VMem) (p : Loc) : Byte :=
  let t := m.stampAt p
  if !(isRemote p) then m.read p else if t = 0 then Config.remoteByte p s.ticks
  else if t ≤ s.sy.stampAt p then (Config.remoteLater p t s.ticks).getD (m.read p) else m.read p
/-- A byte as it stands at the home of its line (R186, R346); at another package, where releases at sy alone publish (R392). -/
def homeByte (s : State) (p : Loc) : Byte := s.imageByte (if isRemote p then s.sy else s.pk) p
/-- Bytes as they stand at the home of their line (R186, R346). -/
def homeBytes (s : State) (p : Loc) (n : Nat) : List Byte := (List.range n).map fun i => s.homeByte (p + i)
def homeRead (s : State) (p : Loc) (n : Nat) : Dword := ofBytes (s.homeBytes p n)
/-- Whether an ECC unit that holds one of `n` bytes has an uncorrectable error (R343). -/
def badAt (s : State) (p : Loc) (n : Nat) : Bool := s.bad.any fun u => decide (u * 32 < p + n) && decide (p < (u + 1) * 32)

/-- A store that stands at the home of its line at once: of the host, the firmware or an atomic (R149, R186). -/
def homeWrite1 (s : State) (p : Loc) (b : Byte) : State :=
  { s with pk := s.pk.write p b s.stamp, sy := s.sy.write p b s.stamp, stamp := s.stamp + 1 }
/-- A unit whose 32 bytes were rewritten in full stops faulting (R343); `covered` lists the places stored to. -/
def healUnits (s : State) (covered : List Loc) : State :=
  { s with bad := s.bad.filter fun u => !((List.range 32).all fun i => covered.contains (u * 32 + i)) }
/-- Stores reach the granules of some places: the first one fills the rest of its granule with zero (R372). -/
def touch (s : State) (ps : List Loc) : State :=
  ps.foldl (fun s p => if s.written.contains (p / 4096) then s else { s with written := p / 4096 :: s.written }) s
/-- The number of the 64-byte line of a place. -/
def lineNo (p : Loc) : Nat := p / 64
/-- Lines of host memory are no longer held modified: what they hold stands in host memory (R367). -/
def cleanLines (s : State) (ps : List Loc) : State :=
  if s.link.lines = [] then s else
  { s with link := { s.link with lines := s.link.lines.filter fun (q : Nat × HostLine) => !(ps.any fun p => lineNo p == q.1) } }
/-- The lines of one base die's slice are held in at most 16 MiB: where line `n` would be one too many, the lowest of the others is written back (DESIGN CHOICE, log 34)
(R333, R367). -/
def fitLines (n : Nat) (lines : Tbl HostLine) : Tbl HostLine :=
  let mine := lines.filter fun (q : Nat × HostLine) => q.1 / 64 % 4 == n / 64 % 4
  if mine.length ≤ 262144 then lines else match List.find? (fun (q : Nat × HostLine) => q.1 != n) mine with
    | none => lines
    | some q => lines.del q.1
/-- A context's store makes a line of host memory modified at its home slice; host memory keeps what it had (R346, R367). -/
def holdLine (s : State) (ctx n : Nat) : State :=
  let x := s.link.lines.get n { was := s.homeBytes (64 * n) 64 }
  { s with link := { s.link with lines := fitLines n (s.link.lines.set n { x with owners := if x.owners.contains ctx then x.owners else ctx :: x.owners }) } }
def holdLines (s : State) (c : Nat) (ps : List Loc) : State :=
  ((ps.filter fun p => !(isRemote p) && tierOf p == 2).map lineNo).eraseDups.foldl (fun s n => s.holdLine ((s.core c).ctx.getD 0) n) s

/-- Bytes stored at the home of their line (R186, R346). -/
def homeWrite (s : State) (p : Loc) (bs : List Byte) : State :=
  let s := (bs.zipIdx.foldl (fun s (b, i) => s.homeWrite1 (p + i) b) s)
  let s := s.cleanLines ((List.range bs.length).map fun i => p + i)
  let s := if s.bad = [] then s else s.healUnits ((List.range bs.length).map fun i => p + i)
  s.touch ((List.range bs.length).map fun i => p + i)

/-- The image that holds the later store of a place. -/
def later (p : Loc) (a b : VMem) : VMem := if a.stampAt p < b.stampAt p then b else a
/-- A byte as a plain load of core `c` returns it: from the core's view (R177); of another package, from the later of the view and what releases at sy have
published (R392). -/
def seen (s : State) (c : Nat) (p : Loc) : Byte :=
  if isRemote p then s.imageByte (later p (s.core c).view s.sy) p else (s.core c).view.read p
/-- The stores `xs`, with every store that the pairs `es` put before one of them in coherence order. -/
def before (es : List (Loc × Nat × Nat)) : Nat → List (Loc × Nat) → List (Loc × Nat)
  | 0, xs => xs
  | n + 1, xs =>
    let more := (es.filter fun e => xs.contains (e.1, e.2.2) && !(xs.contains (e.1, e.2.1))).map fun e => (e.1, e.2.1)
    if more = [] then xs else before es n (more ++ xs)
/-- Stores enter the order of the atomics of their places, with every store that comes before one of them (R149, R177). -/
def enter (s : State) (xs : List (Loc × Nat)) : State :=
  let ys := before s.follows s.follows.length xs
  { s with unsent := s.unsent.filter fun x => !(ys.contains x), follows := s.follows.filter fun e => !(ys.contains (e.1, e.2.1)) }
/-- A view or an image has moved from the store `a` of a place to the store `b`, which settles their order: where `b` stands among the atomics of the place already, so
does `a` (R177). -/
def ordered (s : State) (p : Loc) (a b : Nat) : State :=
  if !(s.unsent.contains (p, a)) then s else if s.unsent.contains (p, b) then { s with follows := (p, a, b) :: s.follows } else s.enter [(p, a)]
/-- What held the stores of `old` holds those of `new` now. -/
def moved (s : State) (old new : VMem) : State :=
  (s.unsent.filter fun x => old.stampAt x.1 == x.2 && decide (x.2 < new.stampAt x.1)).foldl (fun s x => s.ordered x.1 x.2 (new.stampAt x.1)) s
/-- The view of a core moves forward to the stores of an image (R177). -/
def viewMerge (s : State) (c : Nat) (m : VMem) : State :=
  let v := (s.core c).view
  (s.modCore c fun k => { k with view := v.merge m }).moved v (v.merge m)

/-- A byte of a plain store put in the view of a core, under the stamp that is next (R177). -/
def viewPut (s : State) (c : Nat) (p : Loc) (b : Byte) : State :=
  let a := (s.core c).view.stampAt p
  let r := s.modCore c fun k => { k with view := k.view.write p b s.stamp }
  ({ r with unsent := (p, s.stamp) :: s.unsent } : State).ordered p a s.stamp
/-- The stamp of the next store. -/
def nextStamp (s : State) : State := { s with stamp := s.stamp + 1 }
/-- A plain store of one byte in the view of a core (R177). -/
def viewWrite1 (s : State) (c : Nat) (p : Loc) (b : Byte) : State := (s.viewPut c p b).nextStamp
def viewWrite (s : State) (c : Nat) (p : Loc) (bs : List Byte) : State :=
  (bs.zipIdx.foldl (fun s (b, i) => s.viewWrite1 c (p + i) b) s)
def viewBytes (s : State) (c : Nat) (p : Loc) (n : Nat) : List Byte := (List.range n).map fun i => s.seen c (p + i)

/-- Whether a scope holds every core of a workgroup: wg, and cl and wider, since its subgroups stay in one cluster; co is one core alone (R175, R302). -/
def spansWg (S : Nat) : Bool := S == 1 || decide (3 ≤ S)

/-- The stores of a view, published at scope `S`, that reach the place where atomics execute: every place of this package from pk on, one of another package
at sy (R148, R177, R392). -/
def sent (s : State) (v : VMem) (S : Nat) : State :=
  s.enter (s.unsent.filter fun x => v.stampAt x.1 == x.2 && (decide (6 ≤ S) || (decide (5 ≤ S) && !(isRemote x.1))))

/-- A release publishes: the view of core `c` goes to the images of its instances up to scope `S`, and to the image of workgroup `w` (R175, R178). -/
def publish (s : State) (c w S : Nat) : State :=
  let v := (s.core c).view
  let s := if spansWg S && (s.wgs.find? w).isSome then (s.modWg w fun x => { x with image := x.image.merge v }).moved (s.wg w).image ((s.wg w).image.merge v) else s
  let s := if S ≥ 2 then s.modCore c fun k => { k with image := k.image.merge v } else s
  let s := if S ≥ 3 then
      let m := (s.cluster (clusterOf c)).image
      (s.modCluster (clusterOf c) fun k => { k with image := m.merge v }).moved m (m.merge v)
    else s
  let s := if S ≥ 4 then
      let m := (s.die (s.dieOfCore c)).image
      (s.modDie (s.dieOfCore c) fun d => { d with image := m.merge v }).moved m (m.merge v)
    else s
  let s := if S ≥ 5 then s.sendRequests (v.stamps.keys.filter fun p => isRemote p && decide ((if S ≥ 6 then s.sy else s.pk).stampAt p < v.stampAt p)) else s
  let s := if S ≥ 5 then s.holdLines c (v.stamps.keys.filter fun p => decide (s.pk.stampAt p < v.stampAt p)) else s
  let s := if S ≥ 5 then (({ s with pk := s.pk.merge v } : State).sent v S).touch v.stamps.keys else s
  if S ≥ 6 then { s with sy := s.sy.merge v } else s

/-- An acquire: the view of core `c` moves forward to what releases that pair with it have published (R175, R178). -/
def takeIn (s : State) (c w S : Nat) : State :=
  let fwd (b : Bool) (m : VMem) (s : State) : State := if b then s.viewMerge c m else s
  fwd (decide (S ≥ 6)) s.sy (fwd (decide (S ≥ 5)) s.pk
    (fwd (decide (S ≥ 4)) (s.die (s.dieOfCore c)).image
      (fwd (decide (S ≥ 3)) (s.cluster (clusterOf c)).image (fwd (spansWg S) (s.wg w).image s))))

/-- What a `poll` or an acquire load at scope `S` by a thread of subgroup `g` of workgroup `w` on core `c` reads: the latest store that has been published to the scope,
by releases of a wider scope or by those of a narrower one that pair with an acquire there: of the core, of the workgroup and of the subgroup itself (R144, R150, R175,
R178). At a scope of one core there is nothing that the core has not already seen (R178). -/
def publishedImage (s : State) (c w g S : Nat) (p : Loc) : VMem :=
  if isRemote p then later p (s.core c).view s.sy else
  if S = 0 || S = 2 then (s.core c).view else
  if S = 1 then later p (s.core c).view (s.wg w).image else
  [s.sy, (s.die (s.dieOfCore c)).image, (s.cluster (clusterOf c)).image, (s.wg w).image, (s.core c).image, (s.sub g).image].foldl (later p) s.pk

/-- The stores, not yet among the atomics of their places, that an atomic at the places `ps` puts after itself: those of its places, with the rest of the bytes of the
same access (R142), and every store that follows one of them in coherence order (R149, R177). -/
def lifts (us : List (Loc × Nat)) (es : List (Loc × Nat × Nat)) : Nat → List (Loc × Nat) → List (Loc × Nat)
  | 0, xs => xs
  | n + 1, xs =>
    let more := us.filter fun y => !(xs.contains y) &&
      xs.any fun x => (x.2 == y.2 && x.1 / 8 == y.1 / 8) || (x.1 == y.1 && es.contains (x.1, x.2, y.2))
    if more = [] then xs else lifts us es n (more ++ xs)
/-- Every store that has not entered the atomic order of one of the places `ps` is put after the atomic that executes there now (R149, R177, R347). -/
def restampAll (s : State) (ps : List Loc) : State :=
  let xs := lifts s.unsent s.follows s.unsent.length (s.unsent.filter fun x => ps.contains x.1)
  let f (p : Loc) (t : Nat) : Nat := if xs.contains (p, t) then t + s.stamp else t
  let all (m : VMem) : VMem := (xs.map Prod.fst).eraseDups.foldl (fun m p => m.restamp p (f p)) m
  let ndl (n : Needle) : Needle := { n with writes := all n.writes }
  if xs = [] then { s with stamp := 2 * s.stamp } else
  { s with
    unsent := s.unsent.map fun x => (x.1, f x.1 x.2)
    follows := s.follows.map fun e => (e.1, f e.1 e.2.1, f e.1 e.2.2)
    cores := s.cores.map fun (i, k) => (i, { k with
      view := all k.view
      image := all k.image
      needles := k.needles.map fun (j, n) => (j, ndl n) })
    subs := s.subs.map fun (i, u) => (i, { u with image := all u.image })
    clusters := s.clusters.map fun (i, k) => (i, { k with image := all k.image })
    dies := s.dies.map fun (i, d) => (i, { d with image := all d.image })
    wgs := s.wgs.map fun (i, w) => (i, { w with
      image := all w.image
      posted := w.posted.map fun (j, x) => (j, { x with seen := all x.seen })
      stopped := w.stopped.map fun (j, n) => (j, ndl n) })
    stamp := 2 * s.stamp }

/-- The bytes an atomic writes at the home of its location: they enter the coherence order there, all in one place of it (R149). -/
def atomicPut (s : State) (p : Loc) (bs : List Byte) : State :=
  let ps := (List.range bs.length).map fun i => p + i
  let put (m : VMem) : VMem := (ps.zip bs).foldl (fun m x => m.write x.1 x.2 s.stamp) m
  let r := s.restampAll ps
  { r with pk := put r.pk, sy := put r.sy }.touch ps
/-- An atomic of a thread: the view of core `c` moves to what it writes, unless the view holds a store that has not entered (R149, R177). -/
def atomicWrite (s : State) (c : Nat) (p : Loc) (bs : List Byte) : State :=
  let ps := (List.range bs.length).map fun i => p + i
  let s := ((s.holdLines c ps).sendRequests ps).atomicPut p bs
  s.modCore c fun k => { k with view := ps.foldl (fun v q => s.pk.take v q) k.view }

end State

/-- A memory fault: cause and detail of R258, and the lowest failing byte (R154, R261). -/
structure MemFault where
  cause : BitVec 8
  detail : BitVec 8
  addr : Dword
  deriving DecidableEq, Repr

def xlat (d : BitVec 8) (a : Dword) : MemFault := { cause := 4, detail := d, addr := a }
def alignFault (d : BitVec 8) (a : Dword) : MemFault := { cause := 3, detail := d, addr := a }
def memerr (d : BitVec 8) (a : Dword) : MemFault := { cause := 5, detail := d, addr := a }
def spnr (a : Dword) : MemFault := { cause := 6, detail := 0, addr := a }
def linkdown (a : Dword) : MemFault := { cause := 12, detail := 0, addr := a }

/-- What an access does to the page, for the permissions of R338. -/
inductive Need where
  | load | store | fetch (f : Form)
  deriving DecidableEq, Repr

/-- Fields of a page-table entry (R337). -/
def pteV (e : Dword) : Bool := e.getLsbD 0
def pteLeaf (e : Dword) : Bool := e.getLsbD 2
def pteRo (e : Dword) : Bool := e.getLsbD 3
def pteXd (e : Dword) : Bool := e.getLsbD 4
def pteXl (e : Dword) : Bool := e.getLsbD 5
def pteMs (e : Dword) : Bool := e.getLsbD 6
def pteRep (e : Dword) : Bool := e.getLsbD 7
def pteTier (e : Dword) : Nat := (e.extractLsb' 8 2).toNat
def pteRemote (e : Dword) : Bool := e.getLsbD 10
def pteCont (e : Dword) : Bool := e.getLsbD 11
def pteAddr (e : Dword) : Nat := (e.extractLsb' 12 40).toNat * 4096
def ptePkg (e : Dword) : Nat := (e.extractLsb' 52 12).toNat

/-- The index of a virtual address at a level of the page tables (R336). -/
def vaIndex (va level : Nat) : Nat :=
  if level = 1 then va / 2 ^ 39 % 131072 else if level = 2 then va / 2 ^ 30 % 512 else if level = 3 then va / 2 ^ 21 % 512 else va / 2 ^ 12 % 512
/-- log2 of the bytes a leaf maps (R336). -/
def leafLog (level : Nat) (cont : Bool) : Nat :=
  if level = 2 then (if cont then 32 else 30) else if level = 3 then 21 else if cont then 16 else 12

/-- Whether an entry whose V bit is set is malformed as a leaf of its level (R339). -/
def badLeaf (s : State) (level : Nat) (e : Dword) : Bool :=
  let log := leafLog level (pteCont e)
  let base := pteAddr e / 2 ^ log * 2 ^ log
  e.getLsbD 1 || (level == 3 && pteCont e) || pteTier e == 3 || (pteRemote e && pteTier e == 2)
  || (!(pteCont e) && pteAddr e % 2 ^ log != 0)
  || (pteCont e && pteAddr e % (if level = 2 then 2 ^ 30 else 4096) != 0)
  || (pteRep e && (pteTier e != 0 || pteRemote e || decide (s.region < base + 2 ^ log)))
  || (ptePkg e != 0 && !(pteRemote e))
  || decide (s.tierSize (pteTier e) < base + 2 ^ log)

/-- Whether an entry whose V bit is set is malformed as the name of a table (R337, R339). -/
def badTable (s : State) (level : Nat) (e : Dword) : Bool :=
  (e &&& 0xfff0000000000cfa#64) != 0 || decide (2 ≤ pteTier e) || decide (s.tierSize (pteTier e) < pteAddr e + 4096) || level == 4

/-- A walk of the page tables from the table at `table`: the leaf and the log2 of what it maps (R336 to R339). `fuel` is the number of levels left. -/
def walkFrom (s : State) (va : Nat) : Nat → Nat → Loc → Except (BitVec 8 × BitVec 8) (Dword × Nat)
  | 0, _, _ => .error (4, 6)
  | fuel + 1, level, table =>
    let p := table + 8 * vaIndex va level
    if s.badAt p 8 then .error (5, 5) else
    let e := s.homeRead p 8
    if !(pteV e) then .error (4, 2)
    else if pteLeaf e then
      if level == 1 || badLeaf s level e then .error (4, 6) else .ok (e, leafLog level (pteCont e))
    else if badTable s level e then .error (4, 6)
    else walkFrom s va fuel (level + 1) (locOf (pteTier e) (pteAddr e))

/-- The root table of a context, if the context exists. -/
def State.rootOf (s : State) (ctx : Nat) : Option Loc := (s.fe.contexts.find? ctx).map Context.ptroot

/-- Whether a level-1 table lies outside the tiers that hold tables, beyond its tier, or off its own size of 1 MiB (R336, R339). -/
def badRoot (s : State) (t : Loc) : Bool :=
  isRemote t || decide (2 ≤ tierOf t) || decide (s.tierSize (tierOf t) < tierAddr t + 2 ^ 20) || tierAddr t % 2 ^ 20 != 0

/-- A walk for a context; a context that has no tables maps nothing. -/
def walk (s : State) (ctx va : Nat) : Except (BitVec 8 × BitVec 8) (Dword × Nat) :=
  match s.rootOf ctx with
  | none => .error (4, 2)
  | some t => if badRoot s t then .error (4, 6) else walkFrom s va 4 1 t

/-- Permissions of a leaf (R338): the detail of the fault, or none. -/
def denied (e : Dword) : Need → Option (BitVec 8)
  | .load => none
  | .store => if pteRo e then some 3 else none
  | .fetch .d => if pteXd e then none else some 4
  | .fetch .l => if pteXl e then none else some 4

/-- The place a leaf gives for a virtual address, with the replica of die `d` (R335, R338). -/
def leafLoc (s : State) (e : Dword) (log va d : Nat) : Loc :=
  let a := pteAddr e / 2 ^ log * 2 ^ log + va % 2 ^ log
  if pteRemote e && ptePkg e != s.fabric.id then remoteLoc (ptePkg e) (pteTier e) a
  else locOf (pteTier e) (if pteRep e then a + d * s.region else a)

/-- A translation: the place, and the leaf. -/
structure Xlate where
  loc : Loc
  leaf : Dword
  deriving DecidableEq, Repr

/-- Whether an atomic through a leaf executes at a memory-side atomic unit (R148, R334). -/
def atUnit (e : Dword) (p : Loc) : Bool := pteMs e && tierOf p == 0 && !(isRemote p)

/-- The TLB entry of a core that covers an address (R340). -/
def tlbFind (t : List TlbEnt) (ctx va : Nat) : Option TlbEnt := t.find? fun e => e.ctx == ctx && e.va == va / 2 ^ e.log * 2 ^ e.log

/-- A translation taken into a TLB of `n` entries, in place of any that covers the same address (R340). -/
def tlbTake (n : Nat) (t : List TlbEnt) (va : Nat) (e : TlbEnt) : List TlbEnt :=
  (e :: t.filter fun o => !(o.ctx == e.ctx && o.va == va / 2 ^ o.log * 2 ^ o.log)).take n

/-- Translation of a global address for an access by core `c` (R340): a hit in the core's TLB, or in the cluster's, that permits the access; else a fresh walk, whose
valid result both keep. -/
def translate (s : State) (c ctx va : Nat) (need : Need) : State × Except MemFault Xlate :=
  let hit (t : List TlbEnt) : Option TlbEnt := (tlbFind t ctx va).filter fun e => (denied e.leaf need).isNone
  match hit (s.core c).tlb with
  | some e => (s, .ok ⟨leafLoc s e.leaf e.log va (s.dieOfCore c), e.leaf⟩)
  | none =>
  match hit (s.cluster (clusterOf c)).tlb with
  | some e => (s.modCore c fun k => { k with tlb := tlbTake 256 k.tlb va e }, .ok ⟨leafLoc s e.leaf e.log va (s.dieOfCore c), e.leaf⟩)
  | none =>
    match walk s ctx va with
    | .error (cause, d) => (s, .error { cause := cause, detail := d, addr := BitVec.ofNat 64 va })
    | .ok (e, log) =>
      let ent : TlbEnt := { ctx := ctx, va := va / 2 ^ log * 2 ^ log, log := log, leaf := e }
      let s := (s.modCore c fun k => { k with tlb := tlbTake 256 k.tlb va ent, walks := k.walks + 1 }).modCluster (clusterOf c) fun k =>
        { k with tlb := tlbTake 4096 k.tlb va ent }
      match denied e need with
      | some d => (s, .error (xlat d (BitVec.ofNat 64 va)))
      | none => (s, .ok ⟨leafLoc s e log va (s.dieOfCore c), e⟩)

/-- Translation by a walker for the front end and the firmware, in the replica of die 0 (R335, R346). -/
def translateHome (s : State) (ctx va : Nat) (need : Need) : Except MemFault Xlate :=
  if 2 ^ 56 ≤ va then .error (xlat 1 (BitVec.ofNat 64 va)) else
  match walk s ctx va with
  | .error (cause, d) => .error { cause := cause, detail := d, addr := BitVec.ofNat 64 va }
  | .ok (e, log) =>
    match denied e need with
    | some d => .error (xlat d (BitVec.ofNat 64 va))
    | none => .ok ⟨leafLoc s e log va 0, e⟩

/-- Whether a place can be reached now: one of another package by a path that is up, and host memory while the host link is not lost (R373). -/
def State.reachable (s : State) (p : Loc) : Bool :=
  if isRemote p then (s.route (pkgOf p) (lineOf128 p)).isSome else tierOf p != 2 || s.link.linkState == 0 || s.link.linkState == 3
/-- Whether a context may make the request that a place needs: to another package only with a fabric key (R391). -/
def State.mayReach (s : State) (ctx : Nat) (p : Loc) : Bool :=
  !(isRemote p) || match s.fe.contexts.find? ctx with
    | some x => x.fkey != 0
    | none => false
/-- Whether the home of a place of another package refuses the request, which is that package's to say: a free value (R390, R391; log 14). -/
def State.refusedAt (s : State) (ctx : Nat) (p : Loc) (write : Bool) : Bool :=
  isRemote p && Config.remoteRefuses p (s.fe.contexts.get ctx {}).fkey write s.ticks
/-- The fault of an access by a context to a place of another package, if it meets one (R154, R390, R391, R393). -/
def State.remoteFault (s : State) (ctx : Nat) (p : Loc) (a : Dword) (write : Bool := false) : Option MemFault :=
  if !(s.mayReach ctx p) then some (xlat 7 a) else if !(s.reachable p) then some (linkdown a) else if s.refusedAt ctx p write then some (xlat 7 a) else none

/-- One byte named by an address: in global memory, or in a workgroup's scratchpad. -/
inductive Spot where
  | glob (x : Xlate)
  | scr (wg off : Nat)
  deriving DecidableEq, Repr

/-- What an address names before translation: a global virtual address, or a scratchpad byte. -/
inductive Named where
  | glob (va : Nat)
  | scr (wg off : Nat)
  deriving DecidableEq, Repr

/-- The workgroup that a slot handle of a cluster names to a context (R291). -/
def State.bySlot (s : State) (cluster handle ctx : Nat) : Option Nat :=
  (List.find? (fun (p : Nat × Wg) => p.2.cluster == cluster && p.2.handle == handle && p.2.ctx == ctx) s.wgs).map Prod.fst

/-- A byte of the own allocation of workgroup `w` (R17). -/
def ownByte (s : State) (w off : Nat) : Option Named := if off < (s.wg w).size then some (.scr w off) else none
/-- A byte reached through the cluster window from core `c` (R16, R17, R291). -/
def slotByte (s : State) (c ctx : Nat) (a : Nat) : Option Named :=
  (s.bySlot (clusterOf c) (a / 2 ^ 24 % 256) ctx).bind fun w => ownByte s w (a % 2 ^ 24)

/-- Space and window decoding of one byte address under SP (R16, R17, R139). -/
def decodeAddr (s : State) (c ctx w : Nat) (sp : BitVec 2) (addr : Dword) : Option Named :=
  let a := addr.toNat
  if sp = 0 then
    if a < 2 ^ 56 then some (.glob a)
    else if a / 2 ^ 24 = 0xff00000000 then ownByte s w (a % 2 ^ 24)
    else if a / 2 ^ 32 = 0xfe000000 then slotByte s c ctx a
    else none
  else if sp = 1 then if a < 2 ^ 56 then some (.glob a) else none
  else if sp = 2 then
    if a / 2 ^ 24 = 0 || a / 2 ^ 24 = 0xff00000000 then ownByte s w (a % 2 ^ 24) else none
  else if a / 2 ^ 32 = 0 || a / 2 ^ 32 = 0xfe000000 then slotByte s c ctx a else none

/-- The party that accesses memory: its core, its context and its workgroup. -/
structure Party where
  core : Nat
  ctx : Nat
  wg : Nat
  deriving DecidableEq, Repr

/-- The first error of a list of checks, each on one byte. -/
def firstErr {α β : Type} (f : α → Except MemFault β) : List α → Except MemFault (List β)
  | [] => .ok []
  | x :: xs => match f x with
    | .error e => .error e
    | .ok y => match firstErr f xs with
      | .error e => .error e
      | .ok ys => .ok (y :: ys)

/-- Translation of the bytes of an access, each on its own (R142), check 4 of R154. -/
def translateAll (s : State) (P : Party) (need : Need) : List Named → State × Except MemFault (List Spot)
  | [] => (s, .ok [])
  | .scr w off :: ns =>
    match translateAll s P need ns with
    | (s, .ok xs) => (s, .ok (.scr w off :: xs))
    | (s, .error e) => (s, .error e)
  | .glob va :: ns =>
    match translate s P.core P.ctx va need with
    | (s, .error e) => (s, .error e)
    | (s, .ok x) =>
      match translateAll s P need ns with
      | (s, .ok xs) => (s, .ok (.glob x :: xs))
      | (s, .error e) => (s, .error e)

/-- The stash range of a workgroup that holds a scratchpad offset (R152). -/
def stashOf (w : Wg) (off : Nat) : Option Stash := w.stash.find? fun t => decide (t.off ≤ off) && decide (off < t.off + t.len)

/-- A scratchpad 8-byte unit with an uncorrectable error (R343). -/
def State.badScr (s : State) (w off : Nat) : Bool := (s.wg w).bad.contains (off / 8)

/-- Bytes put into a scratchpad from an offset on. -/
def putBytes (m : Mem) (off : Nat) (bs : List Byte) : Mem := bs.zipIdx.foldl (fun m (b, j) => Mem.write m (off + j) b) m
/-- Whether an 8-byte unit lies in the 128-byte line at an offset (R343). -/
def inLine (o u : Nat) : Bool := decide (o ≤ 8 * u) && decide (8 * u < o + 128)

/-- A stash line that an access touches and that is not filled: its workgroup, range and index, and the address of the lowest byte of the access in it. -/
structure Unfilled where
  wg : Nat
  range : Stash
  line : Nat
  addr : Dword
  deriving DecidableEq, Repr

/-- The unfilled stash lines that bytes touch, the byte at index `k` having the address `a + k` (R152). -/
def unfilled (s : State) (a : Dword) : List Spot → List Unfilled
  | [] => []
  | .glob _ :: xs => unfilled s (a + 1) xs
  | .scr w off :: xs =>
    let rest := unfilled s (a + 1) xs
    match stashOf (s.wg w) off with
    | none => rest
    | some t =>
      let i := (off - t.off) / 128
      if t.filled.contains i then rest else
      ⟨w, t, i, a⟩ :: rest.filter fun y => !(y.wg == w && y.range.off == t.off && y.line == i)

/-- Check 4 of R154 for the lines that are to be filled: the places of their bytes, as a plain load by the toucher names them (R152). -/
def placeLines (s : State) (P : Party) : List Unfilled → State × Except MemFault (List (Unfilled × Loc))
  | [] => (s, .ok [])
  | y :: ys =>
    match translate s P.core P.ctx (y.range.base + 128 * y.line) .load with
    | (s, .error e) => (s, .error { e with addr := y.addr })
    | (s, .ok x) =>
      match placeLines s P ys with
      | (s, .error e) => (s, .error e)
      | (s, .ok xs) => (s, .ok ((y, x.loc) :: xs))

/-- The first touch of a stash line fills it with what a plain load by the toucher would read (R152). -/
def fillLine (s : State) (P : Party) (y : Unfilled) (p : Loc) : State :=
  let bs := s.viewBytes P.core p 128
  let o := y.range.off + 128 * y.line
  s.modWg y.wg fun g => { g with
    mem := putBytes g.mem o bs
    bad := g.bad.filter fun u => !(inLine o u)
    stash := g.stash.map fun t => if t.off = y.range.off then
      { t with filled := y.line :: t.filled, old := t.old.set y.line ((List.range 128).map fun j => Mem.read g.mem (o + j), g.bad.filter (inLine o)) } else t }

/-- The lines that bytes touch are filled, once all of them pass each check of R154 in its order; a fault names the lowest byte of the first line that fails (R152, R154). -/
def fillAll (s : State) (P : Party) (a : Dword) (spots : List Spot) : State × Except MemFault Unit :=
  match placeLines s P (unfilled s a spots) with
  | (s, .error e) => (s, .error e)
  | (s, .ok xs) =>
    match (xs.find? fun x => !(s.mayReach P.ctx x.2)), (xs.find? fun x => !(s.reachable x.2)), (xs.find? fun x => s.refusedAt P.ctx x.2 false),
        (xs.find? fun x => s.badAt x.2 128) with
    | some x, _, _, _ => (s, .error (xlat 7 x.1.addr))
    | none, some x, _, _ => (s, .error (linkdown x.1.addr))
    | none, none, some x, _ => (s, .error (xlat 7 x.1.addr))
    | none, none, none, some x => (s, .error (memerr 1 x.1.addr))
    | none, none, none, none => (xs.foldl (fun s x => fillLine s P x.1 x.2) s, .ok ())

/-- The byte addresses of an access (R142). -/
def addrs (a : Dword) (n : Nat) : List Dword := (List.range n).map fun i => a + BitVec.ofNat 64 i

/-- Whether a byte is one of another package or of the host, and whether the party may reach it and can (R154, R391). -/
def spotFar : Spot → Bool
  | .glob x => isFar x.loc
  | .scr _ _ => false
def spotMay (s : State) (P : Party) : Spot → Bool
  | .glob x => s.mayReach P.ctx x.loc
  | .scr _ _ => true
def spotReached (s : State) : Spot → Bool
  | .glob x => s.reachable x.loc
  | .scr _ _ => true
def spotRefused (s : State) (P : Party) (need : Need) : Spot → Bool
  | .glob x => s.refusedAt P.ctx x.loc (need == .store)
  | .scr _ _ => false

/-- A place of another package or the host that is stored to is remembered under the virtual page by which it was named, for the report of R393. -/
def State.nameFar (s : State) (p : Loc) (va : Nat) : State :=
  if isFar p then { s with fabric := { s.fabric with names := s.fabric.names.set (p / 4096) (va / 4096) } } else s

/-- What an access over a link leaves here: a load of another package sends its requests; a store, which a release carries, is remembered with the address of its page
(R373, R389, R392, R393). -/
def State.remoteAccess (s : State) (need : Need) (a : Dword) (spots : List Spot) : State :=
  let ps := spots.zipIdx.filterMap fun y => match y.1 with
    | .glob x => if isFar x.loc then some (x.loc, a + BitVec.ofNat 64 y.2) else none
    | .scr _ _ => none
  if need = .load then s.sendRequests (ps.map Prod.fst)
  else ps.foldl (fun s q => s.nameFar q.1 q.2.toNat) s

/-- Whether the home of a byte answers a request now (R393). -/
def spotAnswers (s : State) : Spot → Bool
  | .glob x => !(isRemote x.loc) || Config.remoteAnswers (pkgOf x.loc) s.ticks
  | .scr _ _ => true

/-- An access to bytes `off` to `off + n - 1` of a workgroup's scratchpad meets pages that are not valid: it stalls until they have been exchanged, next of all, and then
they are valid (R279). -/
def State.usePages (s : State) (w off n : Nat) : State :=
  let g := s.wg w
  if (s.core g.home).stale = [] then s else
  let b := g.base + off
  s.modCore g.home fun k => { k with stale := k.stale.filter fun p => !(decide (b / 4096 ≤ p) && decide (4096 * p < b + n)) }
/-- The pages that an access touches are valid (R279). -/
def State.validPages (s : State) (spots : List Spot) : State :=
  spots.foldl (fun s x => match x with
    | .glob _ => s
    | .scr w off => s.usePages w off 1) s

/-- Checks 1 to 5 of R154 for an access of `n` bytes at `a`; `natural`: it must be naturally aligned (R142). -/
def locate (s : State) (P : Party) (sp : BitVec 2) (a : Dword) (n : Nat) (natural : Bool) (need : Need) :
    State × Except MemFault (List Spot) :=
  match firstErr (fun b => match decodeAddr s P.core P.ctx P.wg sp b with
      | some x => .ok x
      | none => .error (xlat 1 b)) (addrs a n) with
  | .error e => (s, .error e)
  | .ok names =>
    if natural && a.toNat % n != 0 then (s, .error (alignFault 1 a))
    else match names.zipIdx.find? fun (x, _) => match x with
        | .scr w _ => w != P.wg && !(s.wg w).resident
        | .glob _ => false with
      | some (_, i) => (s, .error (spnr (a + BitVec.ofNat 64 i)))
      | none =>
        match translateAll s P need names with
        | (s, .error e) => (s, .error e)
        | (s, .ok spots) =>
          match (spots.zipIdx.filter fun (x, _) => !(spotMay s P x)) ++ (spots.zipIdx.filter fun (x, _) => !(spotReached s x))
            ++ (spots.zipIdx.filter fun (x, _) => spotRefused s P need x) with
          | (x, i) :: _ => (s, .error (if spotMay s P x && !(spotReached s x) then linkdown (a + BitVec.ofNat 64 i) else xlat 7 (a + BitVec.ofNat 64 i)))
          | [] =>
            match fillAll s P a spots with
            | (s, .error e) => (s, .error e)
            | (s, .ok ()) => ((if spots.any spotFar then s.remoteAccess need a spots else s).validPages spots, .ok spots)

/-- Check 6 of R154: the data is correctable; a unit that `covered` rewrites in full passes (R8, R343). -/
def correctable (s : State) (a : Dword) (spots covered : List Spot) : Option MemFault :=
  let locs := covered.filterMap fun x => match x with
    | .glob x => some x.loc
    | .scr _ _ => none
  let unitOk (u : Nat) : Bool := (List.range 32).all fun i => locs.contains (u * 32 + i)
  let scrOk (w u : Nat) : Bool := (List.range 8).all fun i => covered.contains (.scr w (u * 8 + i))
  (spots.zipIdx.find? fun (x, _) => match x with
    | .glob x => s.bad.contains (x.loc / 32) && !(unitOk (x.loc / 32))
    | .scr w off => s.badScr w off && !(scrOk w (off / 8))).map fun (_, i) => memerr 1 (a + BitVec.ofNat 64 i)

/-- A byte read through the view of a core, or from scratchpad (R176, R177). -/
def readSpot (s : State) (c : Nat) : Spot → Byte
  | .glob x => s.seen c x.loc
  | .scr w off => Mem.read (s.wg w).mem off
def readSpots (s : State) (c : Nat) (xs : List Spot) : Dword := ofBytes (xs.map (readSpot s c))

/-- A scratchpad byte stored; a stash line it lies in becomes dirty (R152). -/
def scrWrite (s : State) (w off : Nat) (b : Byte) : State :=
  s.modWg w fun g => { g with
    mem := Mem.write g.mem off b
    stash := g.stash.map fun t =>
      if t.off ≤ off && off < t.off + t.len && !(t.dirty.contains ((off - t.off) / 128)) then { t with dirty := (off - t.off) / 128 :: t.dirty } else t }

/-- A byte stored in the view of a core, or in scratchpad (R176, R177). -/
def writeSpot (s : State) (c : Nat) (b : Byte) : Spot → State
  | .glob x => s.viewPut c x.loc b
  | .scr w off => scrWrite s w off b
/-- Bytes stored one after the other; the bytes of one aligned part of `n` bytes are one store, which has one stamp (R142). -/
def writeParts (s : State) (c n : Nat) : List Spot → List Byte → State
  | x :: xs, b :: bs =>
    let s := writeSpot s c b x
    writeParts (if xs.length % n = 0 then s.nextStamp else s) c n xs bs
  | _, _ => s
/-- The size of the single-copy atomic parts of an access: all of it, or its halves of 8 bytes, where it is naturally aligned, and else its bytes (R142). -/
def partSize (xs : List Spot) : Nat := match xs with
  | .glob x :: _ => if [2, 4, 8, 16].contains xs.length && x.loc % xs.length == 0 then min 8 xs.length else 1
  | _ => 1
/-- The bytes of an access stored (R142, R176, R177). -/
def writeSpots (s : State) (c : Nat) (xs : List Spot) (bs : List Byte) : State := writeParts s c (partSize xs) xs bs

/-- The faulting units that `covered` rewrites in full stop faulting (R8, R343). -/
def heal (s : State) (covered : List Spot) : State :=
  let s := if s.bad = [] then s else s.healUnits (covered.filterMap fun x => match x with
    | .glob x => some x.loc
    | .scr _ _ => none)
  { s with wgs := s.wgs.map fun (i, w) => (i, if w.bad = [] then w else { w with bad := w.bad.filter fun u =>
      !((List.range 8).all fun j => covered.contains (.scr i (u * 8 + j))) }) }

/-- The value of a load through the view of a core, or its fault, from what locating the access gave (R140, R154). -/
def loadFrom (r : State × Except MemFault (List Spot)) (c : Nat) (a : Dword) : State × Except MemFault Dword :=
  match r with
  | (s, .error e) => (s, .error e)
  | (s, .ok spots) =>
    match correctable s a spots [] with
    | some e => (s, .error e)
    | none => (s, .ok (readSpots s c spots))
/-- A load of `n` bytes by a party: the value, or the fault (R140, R154). -/
def loadAt (s : State) (P : Party) (sp : BitVec 2) (a : Dword) (n : Nat) (natural : Bool) : State × Except MemFault Dword :=
  loadFrom (locate s P sp a n natural .load) P.core a

/-- The bytes at an address, for a record of any size: each eight bytes are checked as an access of their own (R154, R181). -/
def loadBytes (s : State) (P : Party) (a : Dword) : Nat → State × Except MemFault (List Byte)
  | 0 => (s, .ok [])
  | k + 1 =>
    match loadBytes s P a k with
    | (s, .error e) => (s, .error e)
    | (s, .ok bs) =>
      match locate s P 0 (a + BitVec.ofNat 64 k) 1 false .load with
      | (s, .error e) => (s, .error e)
      | (s, .ok spots) =>
        match correctable s (a + BitVec.ofNat 64 k) spots [] with
        | some e => (s, .error e)
        | none => (s, .ok (bs ++ spots.map (readSpot s P.core)))

/-- What a command wrote to global memory, as the view of its core holds it (R181). -/
def writesAt (s : State) (c : Nat) (spots : List Spot) (m : VMem) : VMem :=
  let v := (s.core c).view
  spots.foldl (fun (m : VMem) y => match y with
    | .glob q => v.take m q.loc
    | .scr _ _ => m) m

/-- A store of the bytes `bs` by a party, alone in its event (R140, R154). -/
def storeAt (s : State) (P : Party) (sp : BitVec 2) (a : Dword) (bs : List Byte) (natural : Bool) : State × Except MemFault (List Spot) :=
  match locate s P sp a bs.length natural .store with
  | (s, .error e) => (s, .error e)
  | (s, .ok spots) =>
    match correctable s a spots spots with
    | some e => (s, .error e)
    | none => (heal (writeSpots s P.core spots bs) spots, .ok spots)

/-- The dirty lines of a stash range written back to global memory, as stores of core `c` (R152, R153); a line with an uncorrectable error is not (R8, R343). -/
def writeBack (s : State) (P : Party) (w : Nat) (t : Stash) : List Nat → State × Option MemFault
  | [] => (s, none)
  | i :: is =>
    let bs := (List.range 128).map fun j => Mem.read (s.wg w).mem (t.off + 128 * i + j)
    match (s.wg w).bad.find? (inLine (t.off + 128 * i)) with
    | some u => (s, some (memerr 1 (BitVec.ofNat 64 (t.base + (8 * u - t.off)))))
    | none =>
    match translate s P.core P.ctx (t.base + 128 * i) .store with
    | (s, .error e) => (s, some e)
    | (s, .ok x) =>
      match s.remoteFault P.ctx x.loc (BitVec.ofNat 64 (t.base + 128 * i)) true with
      | some e => (s, some e)
      | none =>
      let s := ((s.viewWrite P.core x.loc bs).nameFar x.loc (t.base + 128 * i)).modWg w fun g => { g with
        stash := g.stash.map fun o => if o.off = t.off then { o with dirty := o.dirty.filter (· != i) } else o }
      let s := s.healUnits ((List.range 128).map fun j => x.loc + j)
      writeBack s P w t is

def writeBackAll (s : State) (P : Party) (w : Nat) : List Stash → State × Option MemFault
  | [] => (s, none)
  | t :: ts =>
    match writeBack s P w t t.dirty with
    | (s, some e) => (s, some e)
    | (s, none) => writeBackAll s P w ts

/-- The virtual address under which a place of another package or of the host was stored to, for the report of R393. -/
def vaOf (s : State) (p : Loc) : Dword := BitVec.ofNat 64 (s.fabric.names.get (p / 4096) 0 * 4096 + p % 4096)
/-- The lowest place of another package that cannot be reached, of a store in a core's view that a release at sy must carry there (R393); and of host memory while the host
link is lost, which a release at pk and wider must carry (R373). -/
def stranded (s : State) (c S : Nat) : Option Loc :=
  if S < 5 then none else
  let v := (s.core c).view
  v.stamps.keys.find? fun p => !(s.reachable p) && if isRemote p then decide (6 ≤ S) && decide (s.sy.stampAt p < v.stampAt p) else decide (5 ≤ S) && decide (s.pk.stampAt p < v.stampAt p)
/-- Whether a release at sy of a core waits for a package to acknowledge a store (R392, R393). -/
def unacknowledged (s : State) (c S : Nat) : Bool :=
  let v := (s.core c).view
  decide (6 ≤ S) && v.stamps.keys.any fun p => isRemote p && s.reachable p && decide (s.sy.stampAt p < v.stampAt p) && !(Config.remoteAnswers (pkgOf p) s.ticks)

/-- A release at scope `S` by a thread of a party: dirty stash lines first when `S` is co or wider, then publication (R152, R178); not while a store
cannot be carried to its home (R373, R393). -/
def release (s : State) (P : Party) (S : Nat) : State × Option MemFault :=
  let r := if S ≥ 2 then writeBackAll s P P.wg (s.wg P.wg).stash else (s, none)
  match r with
  | (s, some e) => (s, some e)
  | (s, none) =>
    match stranded s P.core S with
    | some p => (s, some (linkdown (vaOf s p)))
    | none => (s.publish P.core P.wg S, none)

/-- A clean stash line dropped: its scratchpad bytes are again those of before it was filled (R152, R153). -/
def dropLine (g : Wg) (t : Stash) (i : Nat) : Wg :=
  match t.old.find? i with
  | none => g
  | some (bs, bad) => { g with mem := putBytes g.mem (t.off + 128 * i) bs, bad := (g.bad.filter fun u => !(inLine (t.off + 128 * i) u)) ++ bad }
/-- Every clean stash line of a workgroup dropped (R152). -/
def dropClean (g : Wg) : Wg :=
  let h := g.stash.foldl (fun g t => (t.filled.filter fun i => !(t.dirty.contains i)).foldl (fun g i => dropLine g t i) g) g
  { h with stash := g.stash.map fun t =>
    { t with filled := t.filled.filter fun i => t.dirty.contains i, old := t.old.filter fun (p : Nat × (List Byte × List Nat)) => t.dirty.contains p.1 } }

/-- An acquire at scope `S`: the view moves forward, and the workgroup's clean stash lines are dropped when `S` is co or wider (R152, R178). -/
def acquire (s : State) (P : Party) (S : Nat) : State :=
  let s := s.takeIn P.core P.wg S
  if S ≥ 2 then s.modWg P.wg dropClean else s

end Sys2Proof.Machine
end

