-- ==== Sys2Proof/Machine/Trace.lean ====
section
/-!
DEFINITION. Lane ids (R377), the trace ring (R384, R385) and the error log (R345).
-/

namespace Sys2Proof.Machine

/-- The lane id of a member (R377). -/
def laneId (s : State) (u : Sub) (l : Nat) : Nat :=
  s.dieOfCore u.core * 2 ^ 28 + clusterOf u.core * 2 ^ 22 + (if isL u.core then 2 ^ 21 else 0) + coreIndex u.core * 2 ^ 18 + u.row * 2 ^ 17 + u.slot * 2 ^ 14 + l * 2 ^ 8

/-- Whether records of a kind are traced (R384). -/
def traced (s : State) (kind : Nat) : Bool := s.dbgr.trcCtl.getLsbD 0 && s.dbgr.trcCtl.getLsbD kind

/-- The place that a register with a tier address in [51:0] and a TIER in [63:62] names (R356, R362; for TRC_BASE and LLAREA log 15). -/
def tierPlace (x : Dword) : Loc := locOf (x >>> 62).toNat (x.setWidth 52).toNat

/-- One trace record; a full ring drops it and counts it as lost (R384). -/
def traceRecord (s : State) (kind lane : Nat) (pc data : Dword) : State :=
  let d := s.dbgr
  let n := 2 ^ (d.trcLog.setWidth 5).toNat
  if (d.trcWr - d.trcRd).toNat = n then
    { s with dbgr := { d with trcLost := if d.trcLost = 0xffffffff then d.trcLost else d.trcLost + 1 } }
  else
    let s := s.homeWrite (tierPlace d.trcBase + 32 * (d.trcWr.toNat % n))
      (bytesOf 8 s.etime ++ bytesOf 4 (BitVec.ofNat 64 lane) ++ [BitVec.ofNat 8 kind, 0, 0, 0] ++ bytesOf 8 pc ++ bytesOf 8 data)
    { s with dbgr := { s.dbgr with trcWr := d.trcWr + 1 } }

/-- A record of a unit, whose LANE is zero (R384). -/
def traceUnit (s : State) (kind : Nat) (pc data : Dword) : State := if traced s kind then traceRecord s kind 0 pc data else s

/-- One record for each of some members of a subgroup, with the PC and the data that each has (R384). -/
def traceLanes (s : State) (g kind : Nat) (ls : List Nat) (pc data : Nat → Dword) : State :=
  if traced s kind then ls.foldl (fun s l => traceRecord s kind (laneId s (s.sub g) l) (pc l) (data l)) s else s

/-! ### The error log (R345) -/

/-- The bytes of an error-log record. -/
def errorBytes (s : State) (addr : Dword) (unit : Nat) (sev : Nat) (ctx : Nat) : List Byte :=
  bytesOf 8 s.etime ++ bytesOf 8 addr ++ bytesOf 2 (BitVec.ofNat 64 unit) ++ [BitVec.ofNat 8 sev, 0] ++ bytesOf 4 (BitVec.ofNat 64 ctx) ++ bytesOf 8 s.errSeq

/-- A record written to the ring of 256; an unread record that it overwrites is counted (R345, R369). -/
def logError (s : State) (addr : Dword) (unit : Nat) (sev : Nat) (ctx : Nat) : State :=
  let i := s.errSeq.toNat % 256
  let lost := (s.errLog.find? i).isSome && !(s.errSeen.contains i)
  { s with
    errLog := s.errLog.set i (errorBytes s addr unit sev ctx)
    errSeq := s.errSeq + 1
    errLost := if lost && s.errLost != 0xffffffff then s.errLost + 1 else s.errLost
    errSeen := s.errSeen.filter (· != i) }

/-- The tier address of a place, as records give it (R345). -/
def tierWord (p : Loc) : Dword := BitVec.ofNat 64 (tierOf p * 2 ^ 62 + tierAddr p)
/-- UNIT of a memory error: die and stack of HBM4E, channel of the LPDDR 6 tier (R332, R345). -/
def memUnit (s : State) (p : Loc) : Nat :=
  let a := tierAddr p
  if tierOf p = 0 then
    let h := if s.g9140 then 2 else 3
    let d := a / s.region
    d * 2 ^ 12 + (h * d + (a - d * s.region) / 4096 % h)
  else a / 4096 % 4 * 2 ^ 12 + 2 ^ 8 + a / 4096 % 32

end Sys2Proof.Machine
end

