-- ==== Sys2Proof/Machine/Rcb.lean ====
section
/-!
DEFINITION. Region control blocks (R356) and the journal (R362).
-/

namespace Sys2Proof.Machine

/-- A little-endian field of `n` bytes at offset `o` of a record. -/
def fieldAt (bs : List Byte) (o n : Nat) : Nat := (ofBytes ((bs.drop o).take n)).toNat
def dwordAt (bs : List Byte) (o : Nat) : Dword := ofBytes ((bs.drop o).take 8)
def wordAt (bs : List Byte) (o : Nat) : Word := (ofBytes ((bs.drop o).take 4)).setWidth 32
/-- Whether every byte of a span is zero. -/
def zeroSpan (bs : List Byte) (o n : Nat) : Bool := ((bs.drop o).take n).all (· == 0)

/-- The bytes of a record in a context's memory, read by the front end or the firmware at the home of each line (R346): each page on its own. -/
def readHomeFrom (s : State) (ctx : Nat) : Nat → Nat → Except MemFault (List Byte)
  | _, 0 => .ok []
  | va, n + 1 =>
    match translateHome s ctx va .load with
    | .error e => .error e
    | .ok x =>
      match s.remoteFault ctx x.loc (BitVec.ofNat 64 va) with
      | some e => .error e
      | none =>
        if s.badAt x.loc 1 then .error (memerr 1 (BitVec.ofNat 64 va)) else
        match readHomeFrom s ctx (va + 1) n with
        | .error e => .error e
        | .ok bs => .ok (s.homeByte x.loc :: bs)
def readHome (s : State) (ctx : Nat) (a : Dword) (n : Nat) : Except MemFault (List Byte) := readHomeFrom s ctx a.toNat n

/-- The places of the bytes from `va` on that the firmware or the front end stores to: each is translated, and reached where it is another package's. -/
def storePlaces (s : State) (ctx : Nat) : Nat → Nat → Except MemFault (List Loc)
  | _, 0 => .ok []
  | va, n + 1 =>
    match translateHome s ctx va .store with
    | .error e => .error e
    | .ok x =>
      match s.remoteFault ctx x.loc (BitVec.ofNat 64 va) true, storePlaces s ctx (va + 1) n with
      | some e, _ => .error e
      | none, .error e => .error e
      | none, .ok ps => .ok (x.loc :: ps)
/-- Bytes stored at some places, at the home of each; units that they rewrite in full stop faulting (R343). -/
def storeHome (s : State) (ps : List Loc) (bs : List Byte) : State :=
  let s := ((ps.zip bs).foldl (fun s p => s.homeWrite1 p.1 p.2) s).cleanLines ps
  (if s.bad = [] then s else s.healUnits ps).touch ps
/-- Bytes stored at some places, the first of which is at `a`, unless they rewrite a part of a faulting unit (R154, R343). -/
def storeChecked (s : State) (a : Dword) (ps : List Loc) (bs : List Byte) : Except MemFault State :=
  let part (p : Loc) : Bool := s.bad.contains (p / 32) && !((List.range 32).all fun i => ps.contains (p / 32 * 32 + i))
  match ps.zipIdx.find? fun p => part p.1 with
  | some p => .error (memerr 1 (a + BitVec.ofNat 64 p.2))
  | none => .ok (storeHome s ps bs)
/-- A store of the firmware or the front end to a context's memory, published at sy at once. -/
def writeHome (s : State) (ctx : Nat) (a : Dword) (bs : List Byte) : Except MemFault State :=
  match storePlaces s ctx a.toNat bs.length with
  | .error e => .error e
  | .ok ps => storeChecked s a ps bs
/-- A store of the firmware or the front end to physical memory of the package or the host. -/
def writePlace (s : State) (p : Loc) (bs : List Byte) : Except MemFault State :=
  storeChecked s (BitVec.ofNat 64 p) ((List.range bs.length).map fun i => p + i) bs

/-- Whether 256 bytes have no reserved bit of an RCB set (R356). -/
def rcbBitsOk (bs : List Byte) : Bool :=
  decide ((wordAt bs 8).toNat < 1024) && decide (fieldAt bs 0x0e 1 < 16) && fieldAt bs 0x0f 1 == 0 && decide (fieldAt bs 0x16 1 < 2) && fieldAt bs 0x17 1 == 0
  && fieldAt bs 0x1c 4 == 0 && zeroSpan bs 0x62 158

/-- The 256 bytes of a legal RCB of a context, and its place (R356): aligned, translated in the context, in device memory of the package, correctable,
with no reserved bit set and with the context's number. -/
def readRcb (s : State) (ctx : Nat) (a : Dword) : Option (Loc × List Byte) :=
  if a.toNat % 256 != 0 then none else
  match translateHome s ctx a.toNat .load with
  | .error _ => none
  | .ok x =>
    if isRemote x.loc || decide (2 ≤ tierOf x.loc) || s.badAt x.loc 256 then none else
    let bs := s.homeBytes x.loc 256
    if !(rcbBitsOk bs) || fieldAt bs 0x0c 2 != ctx then none
    else some (x.loc, bs)

/-- The RCBs from the one at `a` up to its context root, own first; none where one is not legal or the tree is deeper than `fuel` levels (R13, R356). -/
def ancestry (s : State) (ctx : Nat) : Nat → Dword → Option (List (Loc × List Byte))
  | 0, _ => none
  | fuel + 1, a =>
    match readRcb s ctx a with
    | none => none
    | some r => if dwordAt r.2 0 = 0 then some [r] else (ancestry s ctx fuel (dwordAt r.2 0)).map (r :: ·)

/-- The RCB whose own value is in effect for the field with override bit `b` (R356). -/
def effective (b : Nat) : List (Loc × List Byte) → Option (Loc × List Byte)
  | [] => none
  | [r] => some r
  | r :: rs => if (wordAt r.2 8).getLsbD b then some r else effective b rs
def effField (rs : List (Loc × List Byte)) (b o n : Nat) : Nat := match effective b rs with
  | none => 0
  | some r => fieldAt r.2 o n

/-- A journal entry's 64 bytes (R362). -/
def journalBytes (seq : Nat) (e : Entry) (st : BitVec 8) (tend fpc : Dword) (cause : BitVec 8) (status : Nat) : List Byte :=
  bytesOf 8 (BitVec.ofNat 64 seq) ++ bytesOf 8 e.tacc ++ bytesOf 8 e.tstart ++ bytesOf 8 tend ++ bytesOf 8 fpc ++ bytesOf 4 (e.tag.setWidth 64)
  ++ [if e.graph.isSome then 0xff else BitVec.ofNat 8 e.queue, e.op, st, cause] ++ bytesOf 2 (BitVec.ofNat 64 status)
  ++ bytesOf 2 (BitVec.ofNat 64 e.node) ++ bytesOf 4 (BitVec.ofNat 64 e.iter) ++ bytesOf 2 (BitVec.ofNat 64 e.ctx) ++ [0, 0, 0, 0, 0, 0]

/-- The place of a sequence number's journal slot (R362). -/
def journalLoc (s : State) (seq : Nat) : Loc :=
  locOf (s.fe.jbase >>> 62).toNat (s.fe.jbase.setWidth 52).toNat + 64 * (seq % 2 ^ (s.fe.jlog.setWidth 5).toNat)

/-- A journal write, published at sy before the next (R362); none while no ring exists. -/
def journal (s : State) (seq : Nat) (e : Entry) (st : BitVec 8) (tend fpc : Dword) (cause : BitVec 8) (status : Nat) : State :=
  if s.fe.jset then s.homeWrite (journalLoc s seq) (journalBytes seq e st tend fpc cause status) else s

def State.modEntry (s : State) (seq : Nat) (f : Entry → Entry) : State := { s with fe := { s.fe with entries := s.fe.entries.modify seq f } }

/-- An entry moves to started (R362). -/
def startEntry (s : State) (seq : Nat) : State :=
  match s.fe.entries.find? seq with
  | none => s
  | some e =>
    if e.state != 1 then s else
    let e := { e with state := 2, tstart := s.etime }
    journal (s.modEntry seq fun _ => e) seq e 2 0 0 0 0

/-- An entry reaches a final state: its journal entry is written (R362). -/
def closeEntry (s : State) (seq : Nat) (e : Entry) (st : BitVec 8) (status : Nat) (cause : BitVec 8) (fpc : Dword) : State :=
  let s := journal s seq e st s.etime fpc cause status
  { s with fe := { s.fe with entries := s.fe.entries.del seq } }

/-- The 64 bytes of node `i` of a graph, which follow those of its entry (R359). -/
def Entry.nodeBytes (e : Entry) (i : Nat) : List Byte := (e.bytes.drop (64 * (i + 1))).take 64
/-- NCOUNT (R353). -/
def Entry.ncount (e : Entry) : Nat := fieldAt e.bytes 0x18 2
/-- FIRST and COUNT of a loop node (R359). -/
def Entry.loopFirst (e : Entry) (i : Nat) : Nat := fieldAt (e.nodeBytes i) 0x18 2
def Entry.loopCount (e : Entry) (i : Nat) : Nat := fieldAt (e.nodeBytes i) 0x1a 2
/-- Whether a node is a loop, and the loop whose body holds a node (R359). -/
def Entry.isLoop (e : Entry) (i : Nat) : Bool := fieldAt (e.nodeBytes i) 0 1 == 7
def Entry.loopOf (e : Entry) (i : Nat) : Option Nat :=
  (List.range e.ncount).find? fun l => e.isLoop l && decide (e.loopFirst l ≤ i) && decide (i < e.loopFirst l + e.loopCount l)
/-- State of a node: 0 not started, 1 running, 2 completed, 3 faulted. -/
def Entry.node? (e : Entry) (i : Nat) : Nat := e.nodes.get i 0
/-- Whether every node outside loop bodies has ended (R359). -/
def Entry.graphDone (e : Entry) : Bool := (List.range e.ncount).all fun i => (e.loopOf i).isSome || decide (2 ≤ e.node? i)

/-- An entry ends. A graph learns how its node ended, and completes when every node has (R359, R362). -/
def finishEntry (s : State) (seq : Nat) (st : BitVec 8) (status : Nat) (cause : BitVec 8) (fpc : Dword) : State :=
  match s.fe.entries.find? seq with
  | none => s
  | some e =>
    let s := closeEntry s seq e st status cause fpc
    match e.graph with
    | none => s
    | some q =>
      let s := s.modEntry q fun p => { p with nodes := p.nodes.set e.node (if st = 3 then 2 else 3) }
      match s.fe.entries.find? q with
      | none => s
      | some p => if p.graphDone then closeEntry s q p 3 0 0 0 else s

end Sys2Proof.Machine
end

