-- ==== Sys2Proof/Machine/Domain.lean ====
section
/-!
DEFINITION. Ownership of the matrix engine (R212), the removal of subgroups and workgroups, and the end of a fault domain (R275).
-/

namespace Sys2Proof.Machine

/-- A member's thread changed. -/
def State.modThread (s : State) (g l : Nat) (f : Thread → Thread) : State := s.modSub g fun u => u.modThread l f
/-- The threads of several members changed. -/
def State.modThreads (s : State) (g : Nat) (ls : List Nat) (f : Thread → Thread) : State := ls.foldl (fun s l => s.modThread g l f) s

/-- Cycles of a core's clock since reset (R161, R274, R319). -/
def State.cycle (s : State) (c : Nat) : Nat :=
  let d := s.die (s.dieOfCore c)
  if isL c then d.lcyc else d.cyc.toNat

/-- A thread made ready at `pc`. -/
def wake (now : Nat) (pc : Dword) (t : Thread) : Thread := { t with pc := pc, wait := .none, readyAt := now }

/-- A member released from the word it waits at goes on past it; one that a handler of other members holds does so when the handler ends (R264). -/
def passWord (u : Sub) (now l : Nat) (t : Thread) : Thread :=
  let t := { t with since := min (t.since + 1) 0xffffffff, readyAt := now }
  match u.handler with
  | some h => if u.inHandler && !(h.mask.getLsbD l) then { t with wait := .released } else wake now (t.pc + 4) t
  | none => wake now (t.pc + 4) t

/-- The D-cores whose engines a tile task of `g` engines takes, west to east (R298). -/
def gang (cluster g : Nat) : List Nat :=
  if g ≤ 6 then (List.range g).map (dCore cluster)
  else (List.range 6).map (dCore (cluster / 2 * 2)) ++ (List.range (g - 6)).map (dCore (cluster / 2 * 2 + 1))
/-- The engines of a task: one for each 64 columns (R295, R298). -/
def TileTask.gang (t : TileTask) (cluster : Nat) : List Nat := Machine.gang cluster ((fieldAt t.record 0x26 2 + 64) / 64)
/-- Whether a task has not completed: it is in a scheduler, or with a launch that a checkpoint has stopped (R297, R358). -/
def taskPending (s : State) (num : Nat) : Bool :=
  let within (xs : List Stopped) : Bool := xs.any fun x => x.tasks.any fun t => t.num == num
  s.clusters.any (fun (k : Nat × Cluster) => k.2.tasks.any fun t => t.num == num) || s.fe.launches.any (fun (l : Nat × Launch) => within l.2.stopped)
  || s.fe.saved.any fun (x : Nat × Saved) => within x.2.stopped
/-- Whether a task's dependences have completed and its workgroup is resident (R297, R300). -/
def taskReady (s : State) (t : TileTask) : Bool :=
  !t.started && (s.wg t.wg).resident && t.deps.all fun d => !(taskPending s d)
/-- The task of a scheduler that starts next: the first in posting order of those that may start (R297). -/
def nextTask (s : State) (cluster : Nat) : Option TileTask := (s.cluster cluster).tasks.find? fun t => taskReady s t && !t.doomed
/-- Whether a task finds every engine of its gang free, but for those in `but` (R298). -/
def taskFits (s : State) (cluster : Nat) (t : TileTask) (but : Option Nat) : Bool :=
  (t.gang cluster).all fun c => some c == but || ((s.engine c).owner.isNone && (s.engine c).task.isNone)
/-- The cluster whose scheduler would take the engine of core `c` now, if its owner gave it up (R298). -/
def engineWanted (s : State) (c : Nat) : Option Nat :=
  let k := clusterOf c
  [k, k / 2 * 2, k / 2 * 2 + 1].find? fun k => match nextTask s k with
    | none => false
    | some t => (t.gang k).contains c && taskFits s k t (some c)

/-- Owner and owner queue of a core's engine as a context has them: in the engine while the context runs there, else saved (R212, R229). -/
def State.ownership (s : State) (c ctx : Nat) : Option Nat × List Nat :=
  if (s.core c).ctx = some ctx then ((s.engine c).owner, (s.engine c).queue)
  else let x := (s.core c).saved.get ctx {}; (x.owner, x.queue)
def State.setOwnership (s : State) (c ctx : Nat) (o : Option Nat) (q : List Nat) : State :=
  if (s.core c).ctx = some ctx then s.setEngine c { s.engine c with owner := o, queue := q }
  else s.modCore c fun k => { k with saved := k.saved.modify ctx fun x => { x with owner := o, queue := q } }

/-- Ownership goes to the head of the queue, whose threads go on past their `macq`; a tile task that can start takes the engine first (R212, R298). -/
def passOwner (s : State) (c ctx : Nat) : State :=
  let q := (s.ownership c ctx).2
  match (if (s.core c).ctx = some ctx then engineWanted s c else none) with
  | some k => (s.setOwnership c ctx none q).post [.tileTaskStart k]
  | none =>
    match q with
    | [] => s.setOwnership c ctx none []
    | g :: gs =>
      let now := s.cycle c
      (s.setOwnership c ctx (some g) gs).modSub g fun u => { u with threads := u.threads.map fun (l, t) =>
        (l, if t.wait = .owner then passWord u now l t else t) }

/-- A subgroup gives up the engine of a core, or its place in the owner queue (R212, R302). -/
def leaveEngine (s : State) (c g : Nat) : State :=
  let ctx := (s.wg (s.sub g).wg).ctx
  let o := s.ownership c ctx
  if o.1 = some g then passOwner s c ctx else if o.2.contains g then s.setOwnership c ctx o.1 (o.2.filter (· != g)) else s

/-- A command counts as complete: what it wrote to global memory stands in the views of the cores of the threads that joined it (R181, R249). -/
def finishCmd (s : State) (n : Nat) (writes : VMem) : State :=
  match s.cmds.find? n with
  | none => s
  | some k =>
    let cores := (k.joins.map fun j => (s.sub j.1.1).core).eraseDups
    let s := cores.foldl (fun s c => s.viewMerge c writes) s
    let s := s.modCore k.core fun x => { x with engine := { x.engine with running := x.engine.running.filter (· != n) } }
    { s with cmds := s.cmds.del n }

/-- A subgroup gone from its core: posts that still wait for a queue are given up, no row issues for it, its state is discarded. -/
def discardSub (s : State) (g : Nat) : State :=
  let u := s.sub g
  let s := (u.threads.flatMap fun (p : Nat × Thread) => p.2.posts.map Prod.snd).eraseDups.foldl (fun s n => finishCmd s n {}) s
  let s := s.modRow u.core u.row fun r => match r.issuing with
    | some (h, _) => if h = g then { r with issuing := none, atSwitch := true, xsel := none } else r
    | none => r
  { s with subs := s.subs.del g }
/-- A subgroup retired or ended: its matrix ownership passes on (R167). -/
def dropSub (s : State) (g : Nat) : State := discardSub (leaveEngine s (s.sub g).core g) g

/-- Bytes of an estate record (R201). -/
def recordSize (count : Nat) : Nat := 32 + 16 * ((count + 3) / 4)
/-- Room given back to a region's store (R203). -/
def giveRoom (s : State) (store : Loc) (n : Nat) : State :=
  { s with fe := { s.fe with regions := s.fe.regions.modify store fun r => { r with reserved := r.reserved - n } } }
/-- Estates removed, their room given back (R203, R204). -/
def removeEstates (s : State) (p : Estate → Bool) : State :=
  let gone := s.fe.estates.filter p
  let s := { s with fe := { s.fe with estates := s.fe.estates.filter fun e => !(p e) } }
  gone.foldl (fun s e => giveRoom s e.store (recordSize e.regs.length)) s

/-- The slot-directory record of a workgroup, published at pk (R292). -/
def writeSlotDir (s : State) (w : Nat) (valid : Bool) : State :=
  let g := s.wg w
  let dir := (s.launch g.launch).lpb.slotdir
  if dir = 0 then s else
  let v : Nat := if valid then 2 ^ 31 + g.cluster % 64 * 256 + g.handle % 256 else 0
  match writeHome s g.ctx (dir + 4 * g.id) (bytesOf 4 (BitVec.ofNat 64 v)) with
  | .ok s => s
  | .error _ => s

/-- The 32-bit STATUS of an Orrery descriptor or a tile-task record, stored as the issuing core stores (R299, R311); it is one of the writes of its command. -/
def storeStatus (s : State) (P : Party) (a : Dword) (v : Nat) (writes : VMem) : State × VMem :=
  match storeAt s P 0 a (bytesOf 4 (BitVec.ofNat 64 v)) true with
  | (s, .ok spots) => (s, writesAt s P.core spots writes)
  | (s, .error _) => (s, writes)

/-- A command ends with its STATUS, which is the last of its writes (R181, R299, R311). -/
def endCmd (s : State) (P : Party) (a : Dword) (v : Nat) (n : Nat) (writes : VMem) : State :=
  let r := storeStatus s P a v writes
  finishCmd r.1 n r.2

/-- A needle that leaves its command. -/
def freeNeedle (x : Needle) : Needle := { x with cmd := none, stopped := none, waiting := none, writes := {}, gens := [] }

/-- The engines of a tile task given back: the head of an owner queue that waits takes its engine (R298). -/
def freeGang (s : State) (num : Nat) : State :=
  let cs := (s.cores.filter fun p => p.2.engine.task == some num).map Prod.fst
  let s := cs.foldl (fun s c => s.setEngine c { s.engine c with task := none }) s
  cs.foldl (fun s c => match (s.core c).ctx with
    | some ctx => if (s.ownership c ctx).1.isNone then passOwner s c ctx else s
    | none => s) s

/-- The needles of a core are told to look for an entry (R238). -/
def wakeNeedles (s : State) (c : Nat) : State := s.post ((List.range (needlesOf c)).map fun n => .needleTakeEntry c n)

/-- The engine commands of a workgroup aborted: needles, Orrery commands and tile tasks (R275, R299, R311). -/
def abortCommands (s : State) (w : Nat) : State :=
  let g := s.wg w
  let mine (n : Nat) : Bool := ((s.needle g.home n).cmd.map Prod.fst) == some w
  let s := (List.range (needlesOf g.home)).foldl (fun s n => if mine n then wakeNeedles (s.setNeedle g.home n (freeNeedle (s.needle g.home n))) g.home else s) s
  let s := g.posted.foldl (fun s p => finishCmd s p.2.cmd {}) s
  let k := s.cluster g.cluster
  let s := (k.orrery.filter (·.wg == w)).foldl (fun s o =>
    endCmd s ⟨o.core, g.ctx, w⟩ (o.desc + 0x38) 0x21 o.cmd {}) s
  let s := (k.tasks.filter (·.wg == w)).foldl (fun s t =>
    let s := endCmd s ⟨t.core, g.ctx, w⟩ (t.addr + 0x38) 0x21 t.cmd {}
    freeGang s t.num) s
  let mine (t : TileTask) : Bool := k.tasks.any fun o => o.wg == w && t.deps.contains o.num
  let s := if k.tasks.any fun t => t.wg != w && mine t then s.post [.tileTaskStart g.cluster] else s
  s.modCluster g.cluster fun x => { x with
    orrery := x.orrery.filter (·.wg != w)
    tasks := (x.tasks.filter (·.wg != w)).map fun t =>
      if mine t then { t with doomed := true } else t }

/-- A workgroup gone: its subgroups, its handle and its scratchpad (R168, R275). -/
def dropWg (s : State) (w : Nat) : State :=
  let s := (s.subsOf w).foldl dropSub s
  let s := writeSlotDir s w false
  { s with wgs := s.wgs.del w }

/-- The fault domain that the region at `rcb` of a context carries now, if the RCB is legal. -/
def domainAt (s : State) (ctx : Nat) (rcb : Dword) : Option Word :=
  (ancestry s ctx 8 rcb).map fun rs => BitVec.ofNat 32 (effField rs 1 0x10 4)

/-- The region that an accepted LAUNCH names in the LPB of its image, if it can be read (R354, R355). -/
def launchRcb (s : State) (e : Entry) : Option Dword :=
  match readHome s e.ctx (dwordAt e.bytes 0x10 + 0x70) 8 with
  | .ok bs => some (ofBytes bs)
  | .error _ => none

/-- Whether an entry is a launch of a fault domain that has not reached a final state (R275). -/
def inDomain (s : State) (ctx : Nat) (fdom : Word) (p : Nat × Entry) : Bool :=
  p.2.op == 1 && p.2.ctx == ctx &&
  match s.fe.launches.find? p.1 with
  | some l => l.fdom == fdom
  | none => (launchRcb s p.2).bind (domainAt s ctx) == some fdom

/-- The end of a fault domain of a context, with the cause code and the FAULT_PC of the first failure (R275). A fault-domain id is one context's
own (R7). -/
def endDomain (s : State) (ctx : Nat) (fdom : Word) (cause : BitVec 8) (pc : Dword) : State :=
  let ends := s.fe.entries.filter (inDomain s ctx fdom)
  let ls := (s.fe.launches.filter fun p => p.2.ctx == ctx && p.2.fdom == fdom).map Prod.fst
  let ws := (s.wgs.filter fun p => ls.contains p.2.launch).map Prod.fst
  let s := ws.foldl abortCommands s
  let s := ws.foldl dropWg s
  let s := removeEstates s fun e => e.ctx == ctx && e.fdom == fdom
  let s := ls.foldl (fun s l => giveRoom s (s.launch l).store (s.launch l).reserved) s
  let s := { s with fe := { s.fe with launches := s.fe.launches.filter fun p => !(ls.contains p.1) } }
  ends.foldl (fun s p => finishEntry s p.1 4 0 cause pc) s

/-- The end of the fault domain of a subgroup. -/
def endDomainOf (s : State) (g : Nat) (cause : BitVec 8) (pc : Dword) : State :=
  let l := s.launchOf g
  endDomain s l.ctx l.fdom cause pc

/-- Every fault domain of a context that has a workgroup which `p` accepts ends (R227, R278, R305, R343). -/
def endDomains (s : State) (ctx : Nat) (p : Wg → Bool) (cause : BitVec 8) : State :=
  let ds := ((s.wgs.filter fun x => x.2.ctx == ctx && p x.2).map fun x => (s.launch x.2.launch).fdom).eraseDups
  ds.foldl (fun s d => endDomain s ctx d cause 0) s

end Sys2Proof.Machine
end

