-- ==== Sys2Proof/Machine/Ring.lean ====
section
/-!
DEFINITION. The needle ring of a workgroup: publication of entries (R235 to R237, R239), their end (R238), the delivery of NFAULT and PMISS (R253), and the freeing of
a workgroup's resources (R168).
-/

namespace Sys2Proof.Machine

/-- The threads `ls` of a subgroup join the command `n` to their current batches (R249). -/
def joinCmd (s : State) (g core : Nat) (ls : List Nat) (n : Nat) : State :=
  { s with cmds := s.cmds.set n { joins := ls.map fun l => ((g, l), ((s.sub g).thread l).batch), core := core } }

/-- The scratchpad offset of a workgroup's ring, if its launch names one (R235). -/
def ringOf (s : State) (w : Nat) : Option Nat := (s.launch (s.wg w).launch).lpb.nring
/-- Little-endian bytes of a workgroup's scratchpad. -/
def scrRead (s : State) (w off n : Nat) : Nat := (ofBytes ((List.range n).map fun i => Mem.read (s.wg w).mem (off + i))).toNat
def scrPut (s : State) (w off n : Nat) (v : Nat) : State :=
  (bytesOf n (BitVec.ofNat 64 v)).zipIdx.foldl (fun s p => scrWrite s w (off + p.2) p.1) s

/-- The offset of a slot's entry in the ring (R235). -/
def entryOff (slot : Nat) : Nat := 0xc0 + 32 * slot
/-- The promise of an entry published now (R239). -/
def promiseOf (s : State) (w r slot : Nat) : Dword :=
  s.etime + BitVec.ofNat 64 (600 + 200 * (s.wg w).posted.length + 64 * scrRead s w (r + entryOff slot + 5) 1)

/-- Entry number `num` of a workgroup's ring published by threads of a subgroup: BUSY is set and NOTIFY grows in one step; the threads join the command to
their batches (R236, R237, R239). From another core than that of the needles, what the view holds goes with the entry (R181). -/
def publishEntry (s : State) (w r g : Nat) (ls : List Nat) (num : Nat) : State :=
  let slot := num % 64
  let n := s.fresh
  let core := (s.sub g).core
  let p : Posted :=
    { num := num, sg := g, cmd := n, promise := promiseOf s w r slot, watch := scrRead s w (r + entryOff slot + 4) 1 / 2 % 2 == 1,
      seen := if core = (s.wg w).home then ({} : VMem) else (s.core core).view }
  let s := joinCmd { s with fresh := s.fresh + 1 } g (s.wg w).home ls n
  let s := scrPut s w (r + 8) 8 (scrRead s w (r + 8) 8 ||| 2 ^ slot)
  let s := scrPut s w r 4 ((num + 1) % 2 ^ 32)
  s.modWg w fun x => { x with posted := x.posted.set slot p }

/-- The entries that a release store of NOTIFY has published, `k` of them from number `num` on; one that covers a busy slot is lost (R237). -/
def publishFrom (s : State) (w r g : Nat) (ls : List Nat) (num : Nat) : Nat → State
  | 0 => s
  | k + 1 =>
    let s := if ((s.wg w).posted.find? (num % 64)).isSome then s else publishEntry s w r g ls (num % 2 ^ 32)
    publishFrom s w r g ls (num + 1) k

/-- A release store that changed NOTIFY of a workgroup's ring from `old`: the entries up to the new count are published (R237). -/
def publishNotify (s : State) (w g : Nat) (ls : List Nat) (old : Nat) : State :=
  match ringOf s w with
  | none => s
  | some r =>
    let s := s.usePages w r 16
    let new := scrRead s w r 4
    let k := min 64 ((new + 2 ^ 32 - old) % 2 ^ 32)
    if k = 0 then s else wakeNeedles (scrPut (publishFrom s w r g ls old k) w r 4 new) (s.wg w).home

/-- A workgroup is offered for freeing once it has no subgroup left (R168). -/
def offerFree (s : State) (w : Nat) : State := if (s.wgs.find? w).isSome && s.subsOf w == [] then s.post [.workgroupFree w] else s

/-- The command in a slot ends: BUSY is cleared, it counts as complete for its batch with what it wrote, and the needle that ran it is free (R238). -/
def endEntry (s : State) (w slot : Nat) : State :=
  let c := (s.wg w).home
  let ns := (List.range (needlesOf c)).filter fun n => (s.needle c n).cmd == some (w, slot)
  let away := (s.wg w).stopped.filter fun (p : Nat × Needle) => p.2.cmd == some (w, slot)
  let writes := (ns.map (fun n => (s.needle c n).writes) ++ away.map fun p => p.2.writes).foldl VMem.merge {}
  let s := match ringOf s w with
    | none => s
    | some r =>
      let s := s.usePages w (r + 8) 8
      traceUnit (scrPut s w (r + 8) 8 (scrRead s w (r + 8) 8 &&& (2 ^ 64 - 1 - 2 ^ slot))) 11 (BitVec.ofNat 64 (scrRead s w (r + entryOff slot) 4)) (BitVec.ofNat 64 slot)
  let s := match (s.wg w).posted.find? slot with
    | none => s
    | some p => finishCmd s p.cmd writes
  let s := s.modWg w fun x => { x with posted := x.posted.del slot, stopped := x.stopped.filter fun (p : Nat × Needle) => p.2.cmd != some (w, slot) }
  let s := ns.foldl (fun s n => s.modNeedle c n freeNeedle) s
  offerFree (wakeNeedles s c) w

/-- An asynchronous trap becomes pending for a subgroup. -/
def postAsync (s : State) (g : Nat) (t : Trap) : State := s.modSub g fun u => { u with asyncs := u.asyncs ++ [t] }

/-- The subgroup that takes the NFAULT or PMISS of a command: its poster, or the lowest-numbered live subgroup of the workgroup (R253). -/
def deliverTo (s : State) (w g : Nat) : Option Nat :=
  if (s.subs.find? g).isSome then some g else
  ((s.subsOf w).foldl (fun b h => match b with
    | none => some h
    | some k => if (s.sub h).index < (s.sub k).index then some h else some k) none)

/-- The first failure of a launch (R361). -/
def failLaunch (s : State) (l : Nat) (cause : BitVec 8) (pc : Dword) : State :=
  if (s.fe.launches.find? l).isNone then s else
  s.modLaunch l fun x => { x with failure := x.failure.or (some (cause, pc)) }

/-- NFAULT or PMISS of a command delivered; where no subgroup of the workgroup is live the command, if it has not ended, is aborted and its launch has
failed (R253). -/
def deliver253 (s : State) (w g slot : Nat) (t : Trap) : State :=
  match deliverTo s w g with
  | some h => postAsync s h t
  | none => if ((s.wg w).posted.find? slot).isNone then s else failLaunch (endEntry s w slot) (s.wg w).launch t.cause 0

/-- The commands of a workgroup that stand stopped, by slot (R251). -/
def stoppedSlots (s : State) (w : Nat) : List Nat :=
  let c := (s.wg w).home
  (((List.range (needlesOf c)).map (s.needle c)) ++ (s.wg w).stopped.map Prod.snd).filterMap fun x => match x.cmd with
    | some (v, slot) => if v = w && x.stopped.isSome then some slot else none
    | none => none
/-- With no live subgroup of a workgroup left, its stopped commands are aborted and its launch has failed (R253). -/
def abortStopped (s : State) (w : Nat) : State :=
  if s.subsOf w = [] then (stoppedSlots s w).foldl (fun s slot => failLaunch (endEntry s w slot) (s.wg w).launch 0x11 0) s else s

/-- The traps of R253 that a subgroup has not taken when it retires go to the subgroup that is then the lowest (R253). -/
def redeliver (s : State) (w : Nat) (ts : List Trap) : State :=
  (ts.filter fun t => t.cause == 0x10 || t.cause == 0x11).foldl (fun s t => deliver253 s w 0 (t.aux.toNat % 64) t) s

end Sys2Proof.Machine
end

