-- ==== Sys2Proof/Machine/Ops.lean ====
section
/-!
DEFINITION. The shared operations of issue: the issuing group, completion of a word, group switches, raising a trap, TAKING A TRAP (R259 to
R263, R269, R272) and returning from one (R265).
-/

namespace Sys2Proof.Machine

/-- The outcome of a meaning. -/
abbrev Out := Host.Outcome State Fault Refusal

/-- The issuing group: its core, lane row, subgroup and members (R118). -/
structure Cx where
  core : Nat
  row : Nat
  sg : Nat
  mask : Dword
  deriving DecidableEq, Repr

namespace Cx
def sub (x : Cx) (s : State) : Sub := s.sub x.sg
/-- The common PC of the group (R118). -/
def pc (x : Cx) (s : State) : Dword := ((s.sub x.sg).thread (lowest x.mask)).pc
def launch (x : Cx) (s : State) : Launch := s.launchOf x.sg
def regs (x : Cx) (s : State) : Nat := (x.launch s).lpb.regs
def form (x : Cx) : Form := formOf x.core
def lanes (x : Cx) : List Nat := lanesOf x.mask
def wg (x : Cx) (s : State) : Nat := (s.sub x.sg).wg
def party (x : Cx) (s : State) : Party := ⟨x.core, (s.wg (x.wg s)).ctx, x.wg s⟩
/-- The MODE in effect on the row (R28). -/
def mode (x : Cx) (s : State) : BitVec 2 := (s.row x.core x.row).mode
end Cx

/-- The group whose word is in course. -/
def State.issuing (s : State) : Option Cx :=
  match s.turn with
  | .needle _ _ => none
  | .row c r => match (s.row c r).issuing with
    | none => none
    | some (g, m) => if m = 0 then none else some ⟨c, r, g, m⟩

/-- A meaning performed for the issuing group. -/
def withGroup (s : State) (k : Cx → Out) : Out :=
  match s.issuing with
  | none => .fault .noIssuer
  | some x => k x

/-- The row comes to a switch point after the word in course (R25); between an `xsel` and its successor there is none (R127). -/
def switchPoint (s : State) (x : Cx) : State := s.modRow x.core x.row fun r => { r with atSwitch := true }

/-- A thread that has completed a word and goes on at `pc`: instructions since the last transit point saturate (R263). -/
def Thread.goTo (t : Thread) (now n : Nat) (pc : Dword) : Thread :=
  { t with pc := pc, wait := .none, since := min (t.since + 1) 0xffffffff, lastIssue := n, readyAt := now, lastAt := now }

/-- The members `ls` of the group go on at the PC that `f` gives each, and the row counts a word. -/
def goTo (s : State) (x : Cx) (ls : List Nat) (f : Nat → Dword) : State :=
  let now := s.cycle x.core
  let n := (s.row x.core x.row).issued + 1
  let s := s.modSub x.sg fun u => ls.foldl (fun u l => u.modThread l fun t => t.goTo now n (f l)) u
  s.modRow x.core x.row fun r => { r with issued := n }

/-- The prefix of an `xsel` has done its work (R127). -/
def dropXsel (s : State) (x : Cx) : State :=
  match (s.row x.core x.row).xsel with
  | none => s
  | some _ => s.modRow x.core x.row fun r => { r with xsel := none, atSwitch := true }

/-- Members `ls` complete the word and go on at the next one. -/
def advance (s : State) (x : Cx) (ls : List Nat) : State :=
  let pc := x.pc s
  dropXsel (goTo s x ls fun _ => pc + 4) x

/-- Members `ls` wait at the word; whenever they are ready again, they have been so from now on at the earliest (R161). -/
def waitAt (s : State) (x : Cx) (ls : List Nat) (w : Wait) : State :=
  let n := (s.row x.core x.row).issued + 1
  let now := s.cycle x.core
  let s := s.modThreads x.sg ls fun t => { t with wait := w, lastIssue := n, readyAt := now, lastAt := now }
  s.modRow x.core x.row fun r => { r with issued := n }

/-- Members `ls` wait at the word, and the row comes to a switch point. -/
def blockAt (s : State) (x : Cx) (ls : List Nat) (w : Wait) : State := switchPoint (waitAt s x ls w) x

/-- A 64-bit mask in a trap: the members it names. -/
def trapLanes (t : Trap) : List Nat := lanesOf t.mask

/-- A page fault that fault service gets first (R268). -/
def isPageFault (t : Trap) : Bool := t.cause == 4 && (t.detail == 2 || t.detail == 3) && !t.svc

/-- A precise trap raised by members of a subgroup at the word in course (R155, R259, R264, R268). In a handler it ends the fault domain, but for a
page fault, which waits for service. -/
def raise (s : State) (x : Cx) (t : Trap) : State :=
  if (s.subs.find? x.sg).isNone then s else
  let row := s.row x.core x.row
  let t := match row.xsel with
    | some p => { t with pc := p.pc, word := p.word }
    | none => t
  let s := s.modRow x.core x.row fun r => { r with xsel := none, atSwitch := true }
  let s := s.modThreads x.sg (trapLanes t) fun th => { th with pc := t.pc, wait := .trapped, since := if t.kind = 1 then min (th.since + 1) 0xffffffff else th.since }
  let t := { t with order := (s.sub x.sg).raised }
  let s := s.modSub x.sg fun u => { u with raised := u.raised + 1 }
  if isPageFault t then
    (s.modThreads x.sg (trapLanes t) fun th => { th with wait := .service }).modSub x.sg fun u => { u with service := u.service ++ [t] }
  else if (s.sub x.sg).inHandler then endDomainOf s x.sg t.cause t.pc
  else s.modSub x.sg fun u => { u with traps := u.traps ++ [t] }

/-- The trap of cause `c` raised by members `m` of the issuing group, at its word. -/
def trapOf (s : State) (x : Cx) (m : Dword) (cause detail : BitVec 8) : Trap :=
  { cause := cause, detail := detail, pc := x.pc s, mask := m, word := (s.row x.core x.row).word }

/-- ILL with a detail code, raised by the whole issuing group (R55). -/
def ill (s : State) (x : Cx) (detail : Nat) : State := raise s x (trapOf s x x.mask 1 (BitVec.ofNat 8 detail))

/-- A word whose checks are made in the order of R55: the first that fails raises ILL with its detail. -/
def checked (s : State) (x : Cx) : List (Bool × Nat) → Out → Out
  | [], k => k
  | (bad, d) :: cs, k => if bad then .next (ill s x d) else checked s x cs k

/-- A meaning of a word outside the V class, after the checks `early` that R55 makes before it: as the successor of an `xsel` it raises ILL with detail 0x06 (R127). -/
def withWordAfter (s : State) (early : Cx → List (Bool × Nat)) (k : Cx → Out) : Out :=
  withGroup s fun x => checked s x (early x) (if (s.row x.core x.row).xsel.isSome then .next (ill s x 6) else k x)
/-- A meaning of a word outside the V class that has no such check. -/
def withWord (s : State) (k : Cx → Out) : Out := withWordAfter s (fun _ => []) k

/-- The traps that memory faults of single members raise: the members whose cause and detail agree with the lowest one's form one path, recorded with its
address; members that fail differently form paths of their own (R155). -/
def faultTraps (s : State) (x : Cx) : Nat → List (Nat × MemFault) → List Trap
  | 0, _ => []
  | _, [] => []
  | fuel + 1, (l, e) :: fs =>
    let alike (p : Nat × MemFault) : Bool := p.2.cause == e.cause && p.2.detail == e.detail
    { trapOf s x (maskOf (l :: (fs.filter alike).map Prod.fst)) e.cause e.detail with addr := e.addr } ::
      faultTraps s x fuel (fs.filter fun p => !(alike p))

/-- The traps raised one after the other. -/
def raiseAll (s : State) (x : Cx) (ts : List Trap) : State := ts.foldl (fun s t => raise s x t) s

/-! ### The latch ring (R24 to R27) -/

def Latch.push (r : Latch) (v : Dword) : Latch := { p0 := some v, p1 := r.p0, p2 := r.p1, p3 := r.p2 }
def Latch.entry (r : Latch) (i : Nat) : Option Dword := if i = 0 then r.p0 else if i = 1 then r.p1 else if i = 2 then r.p2 else r.p3
def Sub.latch (u : Sub) (l : Nat) : Latch := u.ring.get l {}
/-- A push in one lane (R24). -/
def Sub.push (u : Sub) (l : Nat) (v : Dword) : Sub := { u with ring := u.ring.set l ((u.latch l).push v) }
/-- The ring invalid in every lane (R26, R27). -/
def Sub.clearRing (u : Sub) : Sub := { u with ring := [] }

/-! ### Readiness (R118, R160) -/

/-- The members that a uniform word waits for (R211). -/
def uniformNeed (u : Sub) : Dword := match u.handler with
  | some h => if u.inHandler then u.live &&& h.mask else u.live
  | none => u.live

/-- Whether the commands a thread joined to batches up to `n` are complete (R249). -/
def batchDone (s : State) (g l : Nat) (n : BitVec 16) : Bool :=
  s.cmds.all fun k => k.2.joins.all fun j => j.1 != (g, l) || decide (2 ^ 15 ≤ (n - j.2).toNat)

/-- The masked bits of a chunk bitmap are all set (R246); where its address now fails, the thread performs its word again and takes the fault. -/
def chunksDone (s : State) (P : Party) (a mask : Dword) : Bool :=
  match (loadAt s P 0 a 8 true).2 with
  | .ok v => v &&& mask == mask
  | .error _ => true

/-- The sense bit of a counted barrier, if its address still names an object (R171). -/
def barrierSense (s : State) (P : Party) (a : Dword) : Option Bool :=
  match (loadAt s P 0 a 8 true).2 with
  | .ok v => some (v.getLsbD 63)
  | .error _ => none

/-- Whether a relock of either domain of a die is in course: its FIFOs stall (R322). -/
def dieHeld (s : State) (d : Nat) : Bool := (s.die d).relockD.isSome || (s.die d).relockL.isSome
/-- Whether the releases at scope `S` of a core are held: by a relock, of its die, or of any die at pk and sy (R325); or at sy by another package that has not acknowledged a
store yet (R392, R393). -/
def relocked (s : State) (c S : Nat) : Bool :=
  if S < 3 then false else if S ≤ 4 then dieHeld s (s.dieOfCore c) else (List.range 4).any (dieHeld s) || unacknowledged s c S

/-- Whether the thread could issue its word now. -/
def threadReady (s : State) (g l : Nat) : Bool :=
  let u := s.sub g
  let t := u.thread l
  let P : Party := ⟨u.core, (s.wg u.wg).ctx, u.wg⟩
  u.live.getLsbD l && !u.halted &&
  (match u.handler with
    | some h => !u.inHandler || h.mask.getLsbD l
    | none => true) &&
  match t.wait with
  | .none => true
  | .sleep target => decide (target ≤ s.etime)
  | .sleepc => match t.slept with
    | some (_, n) => n == 0
    | none => true
  | .uniform => (lanesOf (uniformNeed u)).all fun m => (u.thread m).pc == t.pc && (u.thread m).wait == .uniform
  | .batch n => batchDone s g l n
  | .chunks a m => chunksDone s P a m
  | .barc a => match t.arrival with
    | some (b, sense) => b != a || barrierSense s P a != some sense
    | none => true
  | .ring => match (s.launchOf g).lpb.nring with
    | none => true
    | some r =>
      let w := s.wg u.wg
      let num := (ofBytes ((List.range 4).map fun i => Mem.read w.mem (r + i))).toNat
      (w.posted.find? (num % 64)).isNone
  | .orrery => decide ((s.cluster (clusterOf u.core)).orrery.length < 64)
  | .tiles => decide ((s.cluster (clusterOf u.core)).tasks.length < 64)
  | .release n => !(relocked s u.core n)
  | .fifo d => !(dieHeld s d)
  | .answer _ pkg _ _ => Config.remoteAnswers pkg s.ticks
  | .late _ => true
  | .signal => match u.handler with
    | some h => h.signalled
    | none => true
  | _ => false

/-- Whether a thread watches at `poll` with the yield hint and may be chosen for a reread (R162). -/
def threadWatches (s : State) (g l : Nat) : Bool :=
  let u := s.sub g
  u.live.getLsbD l && !u.halted && (match (u.thread l).wait with
    | .poll _ => true
    | _ => false) &&
  match u.handler with
  | some h => !u.inHandler || h.mask.getLsbD l
  | none => true

/-! ### Taking a trap (R259 to R263) -/

/-- The address of a subgroup's trap frame (R261). -/
def frameAddr (s : State) (g : Nat) : Dword :=
  let u := s.sub g
  let p := (s.launchOf g).lpb
  let n := (p.wx * p.wy * p.wz + u.width - 1) / u.width
  p.trapframe + 1024 * ((s.wg u.wg).id * BitVec.ofNat 64 n + BitVec.ofNat 64 u.index)

/-- The 64 bytes of the vector record, where the field names one that can be read (R262). -/
def vectorRecord (s : State) (g : Nat) : State × Except MemFault (List Byte) :=
  let u := s.sub g
  let v := (s.launchOf g).vector
  if v = 0 then (s, .error (xlat 1 0)) else if v.toNat % 64 != 0 then (s, .error (alignFault 1 v))
  else loadBytes s ⟨u.core, (s.wg u.wg).ctx, u.wg⟩ v 64

/-- The CAUSE word of a frame (R261). -/
def causeWord (t : Trap) (cont : Bool) : Word :=
  (t.kind.setWidth 32 <<< 18) ||| ((BitVec.ofBool cont).setWidth 32 <<< 17) ||| ((BitVec.ofBool t.svc).setWidth 32 <<< 16)
  ||| (t.detail.setWidth 32 <<< 8) ||| t.cause.setWidth 32

/-- The resume PC of a member (R260, R261). -/
def resumePc (u : Sub) (t : Trap) (l : Nat) : Dword :=
  if !(u.live.getLsbD l) then 0
  else if t.kind = 2 || !(t.mask.getLsbD l) then (u.thread l).pc
  else if t.kind = 1 then t.pc + 4 else t.pc

/-- FAULT_PC: the trapping word, or the resume PC of the lowest member when the trap is asynchronous (R261). -/
def faultPc (u : Sub) (t : Trap) : Dword := if t.kind = 2 then resumePc u t (lowest t.mask) else t.pc

/-- The part of the frame that the hardware writes: 0x000 to 0x27F (R261). -/
def frameBytes (s : State) (g : Nat) (t : Trap) (cont : Bool) : List Byte :=
  let u := s.sub g
  let low := u.thread (lowest t.mask)
  let lform := (s.launchOf g).image.lform
  bytesOf 4 ((causeWord t cont).setWidth 64) ++ bytesOf 4 (t.aux.setWidth 64) ++ bytesOf 8 (faultPc u t)
  ++ bytesOf 8 (if lform then low.twin else 0xffffffffffffffff) ++ bytesOf 4 (if lform then BitVec.ofNat 64 low.since else 0) ++ bytesOf 4 0
  ++ bytesOf 8 t.mask ++ bytesOf 8 t.addr ++ bytesOf 4 (t.word.setWidth 64) ++ bytesOf 4 (u.wbase.setWidth 64) ++ bytesOf 8 0
  ++ ((List.range 8).map fun i => bytesOf 4 ((u.sreg (104 + i)).setWidth 64)).flatten ++ List.replicate 32 0
  ++ ((List.range 64).map fun l => bytesOf 8 (resumePc u t l)).flatten

/-- A frame written by eight-byte stores of the core (R260); a store that faults stops it. -/
def writeFrame (s : State) (P : Party) (a : Dword) : Nat → List Byte → Except MemFault State
  | 0, _ => .ok s
  | n + 1, bs =>
    match storeAt s P 0 a (bs.take 8) false with
    | (_, .error e) => .error e
    | (s, .ok _) => writeFrame s P (a + 8) n (bs.drop 8)

/-- The group of a subgroup whose pushes its ring holds, and the cycles it has issued in a row: the issuing group, or the one for which the ring is kept (R27, R161). -/
def keptGroup (s : State) (g : Nat) : Option (Dword × Nat) :=
  let u := s.sub g
  let row := s.row u.core u.row
  match u.kept, row.issuing with
  | some k, _ => some k
  | none, some (h, m) => if h = g then some (m, s.cycle u.core - row.runAt) else none
  | none, none => none

/-- Trap entry: the frame is written, the members of FAULT_MASK become one path at `handlerPc`, HANDLER is set (R260). A frame write that faults ends the
fault domain (R261). -/
def enterAt (s : State) (g : Nat) (t : Trap) (cont : Bool) (handlerPc : Dword) : State :=
  let u := s.sub g
  let slept : Tbl (Dword × Nat) := u.threads.filterMap fun (p : Nat × Thread) => if t.mask.getLsbD p.1 then p.2.slept.map fun q => (p.1, q) else none
  let a := frameAddr s g
  match writeFrame s ⟨u.core, (s.wg u.wg).ctx, u.wg⟩ a 80 (frameBytes s g t cont) with
  | .error _ => endDomainOf s g t.cause (faultPc u t)
  | .ok s =>
    let now := s.cycle u.core
    let s := traceLanes s g 5 (trapLanes t) (fun l => resumePc u t l) fun _ => (causeWord t cont).setWidth 64
    let u := { u with
      wbase := 0
      sstat := setBit u.sstat 6 true
      handler := some { mask := t.mask, frame := a, cause := t.cause, cont := cont, signalled := false, ring := u.ring, kept := keptGroup s g, slept := slept }
      ring := []
      kept := none
      first := false
      threads := u.threads.map fun (p : Nat × Thread) => (p.1, if t.mask.getLsbD p.1 then wake now handlerPc { p.2 with slept := none } else p.2) }
    let u := (u.setSpair 104 a).setSreg 106 (causeWord t cont)
    let s := s.setSub g u
    s.modRow u.core u.row fun r => { r with atSwitch := true, fairOut := false }

/-- An uncorrectable error met where no access takes the fault is written to the error log (R262, R345). -/
def logMet (s : State) (ctx : Nat) (e : MemFault) : State :=
  if e.cause != 5 then s else match translateHome s ctx e.addr.toNat .load with
    | .ok x => logError s (tierWord x.loc) (memUnit s x.loc) 2 ctx
    | .error _ => logError s e.addr 0 2 ctx

/-- A supervisor-level trap is taken: the vector record names the handler of the form; without one the fault domain ends (R262). -/
def takeTrap (s : State) (g : Nat) (t : Trap) : State :=
  let u := s.sub g
  match vectorRecord s g with
  | (s, .error e) => endDomainOf (logMet s (s.wg u.wg).ctx e) g t.cause (faultPc u t)
  | (s, .ok bs) =>
    let pc := dwordAt bs (if isL u.core then 8 else 0)
    if pc = 0 then endDomainOf s g t.cause (faultPc u t) else enterAt s g t false pc

/-- The continuation PC and its barrier offset, where the vector record and the allocation give both (R262, R269). -/
def continuationOf (s : State) (g : Nat) : Option (Dword × Nat) :=
  let u := s.sub g
  match (vectorRecord s g).2 with
  | .error _ => none
  | .ok bs =>
    let pc := dwordAt bs (if isL u.core then 0x18 else 0x10)
    let bar := fieldAt bs 0x20 4
    if pc = 0 || bar = 0xffffffff || bar % 128 != 0 || (s.wg u.wg).size < bar + 128 then none else some (pc, bar)

/-- Whether no live member of a subgroup is ready (R259). -/
def noneReady (s : State) (g : Nat) : Bool := (lanesOf (s.sub g).live).all fun l => !(threadReady s g l)

/-- The page fault in service that enters a continuation, if one is to (R269): one without a continuation is no trap while service lasts. -/
def serviceTrap (s : State) (g : Nat) : Option (Trap × Dword × Nat) :=
  match (s.sub g).service with
  | [] => none
  | t :: _ => (continuationOf s g).map fun p => (t, p.1, p.2)

/-- The precise trap that can be taken now: the oldest of the subgroup, when no handler runs, no other live thread is ready and no page fault that was raised
earlier has a continuation to enter (R259, R269). -/
def takeable (s : State) (g : Nat) : Option Trap :=
  let u := s.sub g
  if u.inHandler || u.halted then none else
  match u.traps with
  | [] => none
  | t :: _ => if noneReady s g && (match serviceTrap s g with
      | some f => decide (t.order < f.1.order)
      | none => true) then some t else none

/-- The precise trap at the head of a subgroup's list is taken. -/
def takePrecise (s : State) (g : Nat) (t : Trap) : State :=
  takeTrap (s.modSub g fun u => { u with traps := u.traps.drop 1 }) g t

/-- The page fault whose continuation can be entered now: no trap that was raised earlier is untaken (R259, R269). -/
def continuable (s : State) (g : Nat) : Option (Trap × Dword × Nat) :=
  let u := s.sub g
  if u.inHandler || u.halted || !(noneReady s g) then none else
  match serviceTrap s g with
  | some f => if u.traps.all fun t => decide (f.1.order < t.order) then some f else none
  | none => none

/-- The barrier word of a continuation: EXPECTED 1, ARRIVED 0, SENSE kept (R269). -/
def armBarrier (s : State) (w off : Nat) : State × Bool :=
  let sense := (Mem.read (s.wg w).mem (off + 7)).getLsbD 7
  let v : Dword := (if sense then 2 ^ 63 else 0) + 1
  ((bytesOf 8 v).zipIdx.foldl (fun s (b, i) => scrWrite s w (off + i) b) s, sense)

/-- A continuation is entered for a page fault in service (R269). A barrier unit with an uncorrectable error ends the fault domain, as a fault of the frame's writes does
(R8; DESIGN CHOICE, log 58). -/
def enterContinuation (s : State) (g : Nat) (t : Trap) (pc : Dword) (bar : Nat) : State :=
  if s.badScr (s.sub g).wg (bar + 8 * (s.sub g).index) then endDomainOf s g 5 t.pc else
  let s := enterAt s g t true pc
  if !(s.sub g).inHandler then s else
  let u := s.sub g
  let off := bar + 8 * u.index
  let (s, sense) := armBarrier s u.wg off
  let a : Dword := 0xff00000000000000 + BitVec.ofNat 64 off
  let s := s.modSub g fun u => { u with handler := u.handler.map fun h => { h with bar := off } }
  s.modThreads g (trapLanes t) fun th => { th with arrival := some (a, sense) }

/-- The order in which pending asynchronous traps are taken (R272). -/
def asyncRank (t : Trap) : Nat := if t.cause = 0x0e then 0 else if t.cause = 0x13 then 1 else if t.cause = 0x11 then 2 else 3

/-- The asynchronous trap that goes first: by cause, and within a cause the oldest. -/
def firstAsync : List Trap → Option Trap
  | [] => none
  | t :: ts => match firstAsync ts with
    | none => some t
    | some b => if asyncRank b < asyncRank t then some b else some t

/-- The asynchronous trap that can be taken at a switch point (R272): none in a handler, and none of a halted subgroup or of one with no live member. -/
def asyncTakeable (s : State) (g : Nat) : Option Trap :=
  let u := s.sub g
  if u.inHandler || u.halted || u.live = 0 then none else firstAsync u.asyncs

/-- An asynchronous trap is taken: every live thread runs the handler, and a pending precise trap is discarded (R272). -/
def takeAsync (s : State) (g : Nat) (t : Trap) : State :=
  let s := s.modSub g fun u => { u with asyncs := u.asyncs.erase t, traps := [], service := [] }
  takeTrap s g { t with mask := (s.sub g).live, kind := 2 }

/-! ### Return from a trap (R265) -/

/-- What `rft` restores from the frame, as read through the core's view: SSAVE, SWBASE and the resume PCs; then HANDLER is cleared. The `rft` counts among the words that
its threads have issued (R263). -/
def leaveHandler (s : State) (g : Nat) (h : Handler) (bs : List Byte) : State :=
  let now := s.cycle (s.sub g).core
  let u := s.sub g
  let was (l : Nat) : Dword := (u.thread l).pc
  let moved := maskOf ((lanesOf (u.live &&& ~~~h.mask)).filter fun l => (u.thread l).pc != dwordAt bs (0x80 + 8 * l))
  let keep (ts : List Trap) : List Trap := (ts.map fun t => { t with mask := t.mask &&& ~~~moved }).filter fun t => t.mask != 0
  let u := (List.range 8).foldl (fun u i => u.setSreg (104 + i) (wordAt bs (0x40 + 4 * i))) u
  let u := { u with
    wbase := BitVec.ofNat 8 (fieldAt bs 0x34 1)
    ring := h.ring
    kept := h.kept
    sstat := setBit u.sstat 6 false
    handler := none
    noticed := if h.cause = 0x13 then false else u.noticed
    traps := keep u.traps
    service := if h.cont then u.service else keep u.service
    threads := u.threads.map fun (l, t) =>
      (l, if u.live.getLsbD l then
        (if h.mask.getLsbD l then
          wake now (dwordAt bs (0x80 + 8 * l))
            { t with slept := (h.slept.find? l).filter (fun p => p.1 == dwordAt bs (0x80 + 8 * l)), since := min (t.since + 1) 0xffffffff }
         else if t.pc = dwordAt bs (0x80 + 8 * l) then (if t.wait = .released then wake now (t.pc + 4) t else t)
         else wake now (dwordAt bs (0x80 + 8 * l)) { t with slept := none }) else t) }
  let s := s.setSub g u
  let s := traceLanes s g 6 (lanesOf (u.live &&& h.mask)) was fun l => (u.thread l).pc
  s.modRow u.core u.row fun r => { r with atSwitch := true }

/-- The end of a handler: the frame is read and what it holds restored; a continuation whose fault proved unresolvable takes its supervisor trap in a fresh
frame instead (R265, R269). A frame that cannot be read ends the fault domain, as any precise fault in a handler does (R264). -/
def endHandler (s : State) (g : Nat) : State :=
  match (s.sub g).handler with
  | none => s
  | some h =>
    let u := s.sub g
    match loadBytes s ⟨u.core, (s.wg u.wg).ctx, u.wg⟩ h.frame 640 with
    | (s, .error e) => endDomainOf s g e.cause (u.thread (lowest h.mask)).pc
    | (s, .ok bs) =>
      let svc := (wordAt bs 0).getLsbD 16
      let s := leaveHandler s g h bs
      if h.cont && svc then
        match (s.sub g).service with
        | [] => s
        | t :: ts =>
          let live := t.mask &&& (s.sub g).live
          let s := s.modSub g fun u => { u with service := ts }
          if live = 0 then s else takeTrap s g { t with svc := true, mask := live }
      else if h.cont then s.modSub g fun u => { u with service := u.service.drop 1 }
      else s

/-! ### Knots and barriers (R124, R170, R294) -/

/-- The masks whose `waitk` can be released at PC `pc` of a subgroup: every member set in kA and in k0 waits there (R124). -/
def knotMet (u : Sub) (k : Nat) (pc : Dword) : Bool :=
  (lanesOf (u.kreg k &&& u.live)).all fun m => match (u.thread m).wait with
    | .knot _ => (u.thread m).pc == pc
    | _ => false

/-- Threads blocked at a `waitk` whose condition holds are released (R124). -/
def settleKnots (s : State) (g : Nat) : State :=
  let u := s.sub g
  let now := s.cycle u.core
  s.setSub g { u with threads := u.threads.map fun (l, t) => match t.wait with
    | .knot k => (l, if u.live.getLsbD l && knotMet u k.toNat t.pc then passWord u now l t else t)
    | _ => (l, t) }

/-- Whether a live thread is blocked at a barrier word; one that runs a handler waits there only if it came to the word in the handler (R170, R260). -/
def atBarrier (u : Sub) (l : Nat) (w : Wait) : Bool := (u.thread l).wait == w

/-- The released threads of a subgroup go on past their words, each with an acquire at scope `S`; the release part was performed when they blocked (R170, R294). -/
def releaseThreads (s : State) (g : Nat) (w : Wait) (S : Nat) : State :=
  let u := s.sub g
  let now := s.cycle u.core
  let s := s.setSub g { u with threads := u.threads.map fun (l, t) => (l, if u.live.getLsbD l && t.wait = w then passWord u now l t else t) }
  acquire s ⟨u.core, (s.wg u.wg).ctx, u.wg⟩ S

/-- `bar.wg` releases when every live thread of every subgroup of the workgroup is blocked at one (R170). -/
def settleBarWg (s : State) (w : Nat) : State :=
  let gs := s.subsOf w
  let all := gs.all fun g => (lanesOf (s.sub g).live).all fun l => atBarrier (s.sub g) l .barWg
  let any := gs.any fun g => (s.sub g).live != 0
  if all && any then
    let s := gs.foldl (fun s g => s.publish (s.sub g).core w 1) s
    gs.foldl (fun s g => releaseThreads s g .barWg 1) s
  else s

/-- The participants of a cluster barrier of a launch: its workgroups that hold a handle in the cluster (R294). -/
def participants (s : State) (launch cluster : Nat) : List Nat :=
  (s.wgs.filter fun p => p.2.launch == launch && p.2.cluster == cluster).map Prod.fst

/-- A release of blocked threads of a workgroup that could not write its stash lines back: the fault is precise at the word of each (R152). -/
def trapBlocked (s : State) (w : Nat) (at_ : Wait) (e : MemFault) : State :=
  (s.subsOf w).foldl (fun s g =>
    let u := s.sub g
    let ls := (lanesOf u.live).filter fun l => (u.thread l).wait == at_
    ((ls.map fun l => (u.thread l).pc).eraseDups).foldl (fun s pc =>
      if (s.subs.find? g).isNone then s else
      let ms := ls.filter fun l => (u.thread l).pc == pc
      let t : Trap := { cause := e.cause, detail := e.detail, pc := pc, mask := maskOf ms, addr := e.addr, order := (s.sub g).raised }
      if (s.sub g).inHandler then endDomainOf s g e.cause pc
      else (s.modThreads g ms fun t => { t with wait := .trapped }).modSub g fun u => { u with traps := u.traps ++ [t], raised := u.raised + 1 }) s) s
/-- The dirty stash lines of some workgroups written back by the release of a cluster barrier; whether all could be (R152, R294). -/
def writeBackEach (s : State) (at_ : Wait) : List Nat → State × Bool
  | [] => (s, true)
  | w :: ws =>
    let g := s.wg w
    match writeBackAll s ⟨g.home, g.ctx, w⟩ w g.stash with
    | (s, none) => writeBackEach s at_ ws
    | (s, some e) => (trapBlocked s w at_ e, false)

/-- `bar.cl` releases when every live thread of every participant is blocked at one with the same id (R294); a participant that is not born yet holds it, and so does a
relock of the die, since the release has cl scope (R325). It writes back what engine commands have left dirty in stash lines since the threads blocked (R152, R182). -/
def settleBarCl (s : State) (launch cluster : Nat) (id : BitVec 5) : State :=
  let ws := participants s launch cluster
  let gs := (ws.map s.subsOf).flatten
  let all := ws.all (fun w => (s.wg w).born) && gs.all fun g => (lanesOf (s.sub g).live).all fun l => atBarrier (s.sub g) l (.barCl id)
  let any := gs.any fun g => (s.sub g).live != 0
  if all && any && !(relocked s (dCore cluster 0) 3) then
    match writeBackEach s (.barCl id) ws with
    | (s, false) => s
    | (s, true) =>
      let s := gs.foldl (fun s g => s.publish (s.sub g).core (s.sub g).wg 3) s
      gs.foldl (fun s g => releaseThreads s g (.barCl id) 3) s
  else s

/-- Every barrier of the launch in the cluster tested again: a thread retired, or a workgroup was freed. -/
def settleAll (s : State) (w : Nat) : State :=
  let g := s.wg w
  let s := (s.subsOf w).foldl settleKnots s
  let s := settleBarWg s w
  (List.range 32).foldl (fun s i => settleBarCl s g.launch g.cluster (BitVec.ofNat 5 i)) s

/-! ### Retirement (R123, R135, R167) -/

/-- Whether an estate holds the subgroup position (R169). -/
def heldPosition (s : State) (c r slot : Nat) : Bool := s.fe.estates.any fun e => match e.place with
  | .inPlace a b d _ => a == c && b == r && d == slot
  | _ => false

/-- Threads retire: their bits leave every mask, their registers go; the handler ends when its last thread has gone, a continuation only once service has signalled; a
subgroup whose threads have all retired outside a handler retires (R123, R135, R167, R264, R265). -/
def retire (s : State) (g : Nat) (m : Dword) : State :=
  let u := s.sub g
  let s := traceLanes s g 8 (lanesOf m) (fun l => (u.thread l).pc) fun _ => 0
  let u := { u with
    k := u.k.map fun (i, x) => (i, x &&& ~~~m)
    threads := u.threads.map fun (l, t) => (l, if m.getLsbD l then { t with v := [], wait := .none } else t) }
  let s := s.setSub g u
  let ended := match u.handler with
    | some h => u.inHandler && (h.mask &&& u.live) == 0 && (!h.cont || h.signalled)
    | none => false
  let s := if ended then endHandler s g else s
  let w := u.wg
  let s := if (s.subs.find? g).isSome && (s.sub g).live = 0 && !(s.sub g).inHandler
    then offerFree (abortStopped (redeliver (dropSub s g) w (s.sub g).asyncs) w) w else s
  settleAll s w

end Sys2Proof.Machine
end

