-- ==== Sys2Proof/Machine/Operands.lean ====
section
/-!
DEFINITION. Operand forms: which register codes are legal (R20 to R23, R41 to R45), what they read, where results go, and the shape that every V-class
and scalar ALU word shares (R24, R83 to R85).
-/

namespace Sys2Proof.Machine

/-- The highest window code of a form (R21, R42). -/
def topCode : Form → Nat
  | .d => 111
  | .l => 115

/-- Whether a code names window registers in a form (R21, R41). -/
def isWindow (f : Form) (code : Nat) : Bool := decide (code ≤ topCode f)

/-- Whether `n` registers from window code `code` are legal: aligned as a pair or a quadruple, inside the window, and below REGS (R20, R42, R43). -/
def windowOk (f : Form) (regs wbase code n : Nat) : Bool :=
  isWindow f (code + (n - 1)) && code % n == 0 && decide (wbase + code + n ≤ regs)

/-- A destination field of `n` registers (R42, R43). -/
def dstOk (s : State) (x : Cx) (code n : Nat) : Bool := windowOk x.form (x.regs s) (x.sub s).wbase.toNat code n

/-- A 32-bit source field (R41), and a 64-bit one (R43). -/
def srcOk (s : State) (x : Cx) (code : Nat) (wide : Bool) : Bool :=
  if isWindow x.form code then windowOk x.form (x.regs s) (x.sub s).wbase.toNat code (if wide then 2 else 1)
  else if code ≤ 115 then true
  else decide (120 ≤ code) && decide (code ≤ 126) && !(wide && code == 125)

/-- A source of four registers, where the operand is only read: a window code that is a multiple of 4, or code 120 (R43). -/
def quadSrcOk (s : State) (x : Cx) (code : Nat) : Bool := code == 120 || dstOk s x code 4

/-- The fixed value of a special code for a member (R23). -/
def special (u : Sub) (m code : Nat) : Dword :=
  let t := u.thread m
  if code = 121 then BitVec.ofNat 64 m
  else if code = 122 then BitVec.ofNat 64 u.slot
  else if code = 123 then t.lid.setWidth 64
  else if code = 124 then t.wid
  else if code = 125 then (hiOf t.wid).setWidth 64
  else if code = 126 then t.est.setWidth 64
  else 0

/-- The value of a source of member `m`, and whether it was a stale latch read (R23, R24, R26, R41, R43). A member that is not in the issuing group has no
valid latch entry for a reader, and a member that holds no thread delivers zero, a latch code among them without LSTALE (R126; DESIGN CHOICE, log 53). -/
def readSrc (s : State) (x : Cx) (m code : Nat) (wide : Bool) : Dword × Bool :=
  let u := x.sub s
  if u.width ≤ m || !(u.live.getLsbD m) then (0, false)
  else if isWindow x.form code then
    let r := u.wbase.toNat + code
    (if wide then (u.thread m).pair r else ((u.thread m).reg r).setWidth 64, false)
  else if code ≤ 115 then
    match (if x.mask.getLsbD m then (u.latch m).entry (code - 112) else none) with
    | some v => (if wide then v else v &&& 0xffffffff#64, false)
    | none => (0, true)
  else
    let v := special u m code
    (if wide then v else v &&& 0xffffffff#64, false)

/-- A scalar B of an RR word with SB = 1: 0 to 111 or 120 (R45). -/
def sbOk (code : Nat) : Bool := decide (code ≤ 111) || code == 120
/-- A scalar pair named by an even code (R22). -/
def spairOk (code : Nat) : Bool := decide (code ≤ 110) && code % 2 == 0
/-- A scalar operand of an RR word with SB = 1, 32 or 64 bits. -/
def readSb (u : Sub) (code : Nat) (wide : Bool) : Dword :=
  if code = 120 then 0 else if wide then u.spair code else (u.sreg code).setWidth 64

/-- The B operand of an RR word for member `m`. -/
def readB (s : State) (x : Cx) (sb : Bool) (m code : Nat) (wide : Bool) : Dword × Bool :=
  if sb then (readSb (x.sub s) code wide, false) else readSrc s x m code wide

/-- The A operand, from the member that a preceding `xsel` selects, if one stands before the word (R127). -/
def readA (s : State) (x : Cx) (l code : Nat) (wide : Bool) : Dword × Bool :=
  match (s.row x.core x.row).xsel with
  | none => readSrc s x l code wide
  | some p =>
    let v := readSrc s x (p.sel.get l 0).toNat code wide
    (v.1, v.2 || p.stale.getLsbD l)

/-- The checks of a B field with SB: detail 0x05 for a scalar code outside R45, then 0x07 for an odd pair. -/
def sbBad (sb : Bool) (code : Nat) : Bool := sb && !(sbOk code)
def bOk (s : State) (x : Cx) (sb : Bool) (code : Nat) (wide : Bool) : Bool :=
  if sb then code == 120 || !wide || spairOk code else srcOk s x code wide

/-- What one member computes: a result, of 32 bits in the low half or of 64, and the flags it raises. -/
structure LaneRes where
  val : Dword
  flags : Flags := 0
  deriving DecidableEq, Repr

/-- The shape of a V-class word: the widths of its operands, whether it uses B and whether it reads D (R49). -/
structure Shape where
  wideD : Bool := false
  wideA : Bool := false
  wideB : Bool := false
  useB : Bool := true
  readsD : Bool := false
  deriving DecidableEq, Repr

/-- The stale latch reads of an instruction: in CHECK mode it traps and is not performed, else the reading threads set LSTALE (R26). -/
def staleTraps (s : State) (x : Cx) (stale : Dword) : Bool := x.mode s == 1 && stale != 0

/-- Write back of one member's result: to the register unless WS sends it to the ring alone, and to the ring in the D-form (R24). -/
def writeLane (u : Sub) (f : Form) (w push : Bool) (r : Nat) (wide stale : Bool) (l : Nat) (v : LaneRes) : Sub :=
  let u := u.modThread l fun t =>
    let t := { t with tstat := setStale (raiseFlags t.tstat v.flags) stale }
    if w && f == .d then t else if wide then t.setPair r v.val else t.setReg r (loOf v.val)
  if push && f == .d then u.push l (if wide then v.val else v.val &&& 0xffffffff#64) else u

/-- The static checks of a V-class word in the order of R55. -/
def vChecks (s : State) (x : Cx) (sh : Shape) (w sb : Bool) (d a b : Nat) : List (Bool × Nat) :=
  [(sh.readsD && w && x.form == .d, 4),
   (sh.useB && sbBad sb b, 5),
   (!(w && x.form == .d) && !(dstOk s x d (if sh.wideD then 2 else 1)), 7),
   (!(srcOk s x a sh.wideA), 7),
   (sh.useB && !(bOk s x sb b sh.wideB), 7)]

/-- Operands of one member: A, B and D, and whether a latch read was stale. -/
def operands (s : State) (x : Cx) (sh : Shape) (sb : Bool) (d a b l : Nat) : (Dword × Dword × Dword) × Bool :=
  let va := readA s x l a sh.wideA
  let vb := if sh.useB then readB s x sb l b sh.wideB else (0, false)
  let vd := if sh.readsD then (readSrc s x l d sh.wideD).1 else 0
  ((va.1, vb.1, vd), va.2 || vb.2)

/-- What a V-class word does after its checks: every member of the group computes from its own operands, read before any is written (R83). -/
def vPerform (s : State) (x : Cx) (sh : Shape) (w sb : Bool) (d a b : Nat) (f : Nat → Word → Dword → Dword → Dword → LaneRes) : State :=
  let ops := x.lanes.map fun l => (l, operands s x sh sb d a b l)
  let stale := maskOf ((ops.filter fun p => p.2.2).map Prod.fst)
  if staleTraps s x stale then raise s x (trapOf s x x.mask 7 0) else
  let u := x.sub s
  let r := u.wbase.toNat + d
  let u' := ops.foldl (fun v p =>
    writeLane v x.form w true r sh.wideD p.2.2 p.1 (f p.1 ((u.thread p.1).tstat) p.2.1.1 p.2.1.2.1 p.2.1.2.2)) u
  advance (s.setSub x.sg u') x x.lanes

/-- A V-class word of R49 (opcodes 0x00 to 0x5F). -/
def vOp (s : State) (sh : Shape) (w sb : Bool) (d a b : BitVec 7) (f : Word → Dword → Dword → Dword → LaneRes) : Out :=
  withGroup s fun x => checked s x (vChecks s x sh w sb d.toNat a.toNat b.toNat)
    (.next (vPerform s x sh w sb d.toNat a.toNat b.toNat fun _ => f))

/-! ### Scalar words (R84, R92) -/

/-- A source field of an S-class word (R41). -/
def sSrcOk (f : Form) (code : Nat) : Bool := decide (code ≤ 111) || (f == .d && decide (code ≤ 115)) || code == 120
/-- A scalar destination (R42). -/
def sDstOk (code : Nat) : Bool := decide (code ≤ 111)

/-- A scalar source and whether it was a stale latch read: a latch delivers the entry of the lowest member of the group (R24). -/
def readScalar (s : State) (x : Cx) (code : Nat) : Word × Bool :=
  let u := x.sub s
  if code ≤ 111 then (u.sreg code, false)
  else if code ≤ 115 then match (u.latch (lowest x.mask)).entry (code - 112) with
    | some v => (loOf v, false)
    | none => (0, true)
  else (0, false)

/-- A scalar result pushed into the ring of every lane of the group (R24). -/
def pushAll (u : Sub) (x : Cx) (v : Dword) : Sub := x.lanes.foldl (fun u l => u.push l v) u

/-- A scalar ALU word after its checks. A stale latch read sets LSTALE in the lowest member, whose entry it is (DESIGN CHOICE, log 20). -/
def sPerform (s : State) (x : Cx) (w useB readsD : Bool) (d a b : Nat) (f : Word → Word → Word → Word) : State :=
  let va := readScalar s x a
  let vb := if useB then readScalar s x b else (0, false)
  let vd := if readsD then (x.sub s).sreg d else 0
  let stale := va.2 || vb.2
  if staleTraps s x (if stale then x.mask else 0) then raise s x (trapOf s x x.mask 7 0) else
  let v := f va.1 vb.1 vd
  let u := x.sub s
  let u := u.modThread (lowest x.mask) fun t => { t with tstat := setStale t.tstat stale }
  let u := if w && x.form == .d then u else u.setSreg d v
  let u := if x.form == .d then pushAll u x (v.setWidth 64) else u
  advance (s.setSub x.sg u) x x.lanes

/-- A scalar ALU word (S class 0x00 to 0x11): performed once for the group (R84, R92). -/
def sOp (s : State) (w useB readsD : Bool) (d a b : BitVec 7) (f : Word → Word → Word → Word) : Out :=
  withWordAfter s (fun x => [(readsD && w && x.form == .d, 4)]) fun x => checked s x
    [(!(w && x.form == .d) && !(sDstOk d.toNat), 7),
     (!(sSrcOk x.form a.toNat), 7),
     (useB && !(sSrcOk x.form b.toNat), 7)]
    (.next (sPerform s x w useB readsD d.toNat a.toNat b.toNat f))

/-- A legal WBASE of a form (R21). -/
def wbaseOk : Form → Nat → Bool
  | .d, b => b % 16 == 0 && decide (b ≤ 144)
  | .l, b => (b % 16 == 0 && decide (b ≤ 128)) || b == 140

end Sys2Proof.Machine
end

