-- ==== Sys2Proof/Machine/Control.lean ====
section
/-!
DEFINITION. Control flow and knots: branches, calls and jumps (R120, R121), `join`, `leave`, `waitk`, the mask words (R123 to R125) and `exit` (R135).
-/

namespace Sys2Proof.Machine

/-- Members whose latch read was stale set LSTALE (R26). -/
def markStale (s : State) (x : Cx) (stale : Dword) : State :=
  if stale = 0 then s else s.modThreads x.sg (lanesOf stale) fun t => { t with tstat := setStale t.tstat true }

/-- The members that did not raise a fault at the word (R155). -/
def unfaulted (t : State) (x : Cx) : Dword :=
  maskOf (x.lanes.filter fun l => ((t.sub x.sg).thread l).wait != .trapped && ((t.sub x.sg).thread l).wait != .service)

/-- A word that read latches: in CHECK mode a stale read traps, else the word goes on, and the members that performed it set LSTALE (R26, R155). -/
def withStale (s : State) (x : Cx) (stale : Dword) (k : State → Out) : Out :=
  if staleTraps s x stale then .next (raise s x (trapOf s x x.mask 7 0))
  else if stale = 0 then k s
  else match k s with
    | .next t => .next (if (t.subs.find? x.sg).isNone then t else markStale t x (stale &&& unfaulted t x))
    | o => o

/-- The members complete the word, and the row comes to a switch point. -/
def done (s : State) (x : Cx) : State := switchPoint (advance s x x.lanes) x

/-- The members go on at the PC that `f` gives each, and the row comes to a switch point (R25, R120). -/
def jumpTo (s : State) (x : Cx) (f : Nat → Dword) : State := switchPoint (goTo s x x.lanes f) x

/-- A jump with a trace record of `kind` for each member that `f` takes away from the next word (R384). -/
def jumpTraced (s : State) (x : Cx) (kind : Nat) (ls : List Nat) (f : Nat → Dword) : State :=
  jumpTo (traceLanes s x.sg kind ls (fun _ => x.pc s) f) x f

/-- The target of a relative form: the word's address plus 4 × offset (R40). -/
def target (s : State) (x : Cx) (off : Int) : Dword := x.pc s + BitVec.ofInt 64 (4 * off)

/-- The A operand of each member, and the members whose read was stale. -/
def readAll (s : State) (x : Cx) (a : Nat) (wide : Bool) : List (Nat × Dword) × Dword :=
  let vs := x.lanes.map fun l => (l, readSrc s x l a wide)
  (vs.map fun p => (p.1, p.2.1), maskOf ((vs.filter fun p => p.2.2).map Prod.fst))

/-- A branch on each member's own A (R120). -/
def branchOn (s : State) (a : BitVec 7) (o : BitVec 16) (taken : Word → Bool) : Out :=
  withWord s fun x => checked s x [(!(srcOk s x a.toNat false), 7)] <|
    let vs := readAll s x a.toNat false
    withStale s x vs.2 fun s' =>
      let yes := maskOf ((vs.1.filter fun p => taken (loOf p.2)).map Prod.fst)
      .next (jumpTraced s' x 1 (lanesOf yes) fun l => if yes.getLsbD l then target s x o.toInt else x.pc s + 4)

/-- `bnz` (R120). -/
def execBnz (a : BitVec 7) (o : BitVec 16) (s : State) : Out := branchOn s a o fun v => v != 0
/-- `bz` (R120). -/
def execBz (a : BitVec 7) (o : BitVec 16) (s : State) : Out := branchOn s a o fun v => v == 0
/-- `bra` (R120). -/
def execBra (o : BitVec 16) (s : State) : Out := withWord s fun x => .next (jumpTraced s x 1 x.lanes fun _ => target s x o.toInt)
/-- `bnzs` (R120): every thread takes the same way. A stale latch read sets LSTALE in the lowest member (DESIGN CHOICE, log 20). -/
def execBnzs (a : BitVec 7) (o : BitVec 16) (s : State) : Out :=
  withWord s fun x => checked s x [(!(sSrcOk x.form a.toNat), 7)] <|
    let v := readScalar s x a.toNat
    withStale s x (if v.2 then 1#64 <<< lowest x.mask else 0) fun s' =>
      .next (jumpTraced s' x 1 (if v.1 != 0 then x.lanes else []) fun _ => if v.1 != 0 then target s x o.toInt else x.pc s + 4)
/-- The A pair of `call`, `ret` and `jmp`: an even code from 0 to 110, below REGS (R120, R136). -/
def linkOk (s : State) (x : Cx) (a : Nat) : Bool := decide (a ≤ 110) && dstOk s x a 2
/-- `call` (R120): the link pair of each thread takes the address of the next word. -/
def execCall (a : BitVec 7) (o : BitVec 16) (s : State) : Out :=
  withWord s fun x => checked s x [(!(linkOk s x a.toNat), 7)] <|
    let next := x.pc s + 4
    let r := (x.sub s).wbase.toNat + a.toNat
    .next (jumpTraced (s.modThreads x.sg x.lanes fun t => t.setPair r next) x 2 x.lanes fun _ => target s x o.toInt)
/-- `ret` and `jmp` (R120, R121): a misaligned target of some thread traps ALIGN for those threads, and the word is performed in none. -/
def jumpPair (s : State) (kind : Nat) (a : BitVec 7) : Out :=
  withWord s fun x => checked s x [(!(linkOk s x a.toNat), 7)] <|
    let vs := (readAll s x a.toNat true).1
    match vs.filter fun p => p.2.toNat % 4 != 0 with
    | [] => .next (jumpTraced s x kind x.lanes fun l => match vs.find? fun p => p.1 == l with
        | some p => p.2
        | none => x.pc s + 4)
    | p :: ps => .next (raise s x { trapOf s x (maskOf ((p :: ps).map Prod.fst)) 3 2 with addr := p.2 })
/-- `ret` (R120). -/
def execRet (a : BitVec 7) (s : State) : Out := jumpPair s 3 a
/-- `jmp` (R120). -/
def execJmp (a : BitVec 7) (s : State) : Out := jumpPair s 4 a
/-- `yield` (R120, R160). -/
def execYield (s : State) : Out := withWord s fun x => .next (done (s.modSub x.sg fun u => { u with yielded := true }) x)
/-- `j` (R120). -/
def execJ (o : BitVec 24) (s : State) : Out := withWord s fun x => .next (jumpTraced s x 4 x.lanes fun _ => target s x o.toInt)
/-- `jl` (R120). -/
def execJl (o : BitVec 24) (s : State) : Out :=
  withWord s fun x => .next (jumpTraced (s.modSub x.sg fun u => u.setSpair 110 (x.pc s + 4)) x 2 x.lanes fun _ => target s x o.toInt)

/-! ### Knots and masks -/

/-- A mask written once for the group; the knots that read it are tested again (R123 to R125). -/
def setMask (s : State) (x : Cx) (k : Nat) (v : Dword) : State := settleKnots (done (s.modSub x.sg fun u => u.setKreg k v) x) x.sg
/-- A mask that can be written (R29, R42). -/
def kDst (k : Nat) : Bool := decide (1 ≤ k) && decide (k ≤ 11)
/-- `join` (R123). -/
def execJoin (d : BitVec 7) (s : State) : Out :=
  withWord s fun x => checked s x [(!(kDst d.toNat), 7)] (.next (setMask s x d.toNat ((x.sub s).kreg d.toNat ||| x.mask)))
/-- `leave` (R123). -/
def execLeave (a : BitVec 7) (s : State) : Out :=
  withWord s fun x => checked s x [(!(kDst a.toNat), 7)] (.next (setMask s x a.toNat ((x.sub s).kreg a.toNat &&& ~~~x.mask)))
/-- `waitk` (R124): the threads block, and those whose knot is met go on together. -/
def execWaitk (a : BitVec 7) (s : State) : Out :=
  withWord s fun x => checked s x [(decide (11 < a.toNat), 7)] (.next (settleKnots (blockAt s x x.lanes (.knot (a.setWidth 4))) x.sg))
/-- `kmov` from a mask (R125). -/
def execKmov (d a : BitVec 7) (s : State) : Out :=
  withWord s fun x => checked s x [(!(kDst d.toNat), 7), (decide (11 < a.toNat), 7)] (.next (setMask s x d.toNat ((x.sub s).kreg a.toNat)))
/-- `kmov` from a scalar pair (R125). -/
def execKmovFromScalar (d a : BitVec 7) (s : State) : Out :=
  withWord s fun x => checked s x [(!(kDst d.toNat), 7), (!(spairOk a.toNat), 7)] (.next (setMask s x d.toNat ((x.sub s).spair a.toNat)))
/-- `kmov` to a scalar pair (R125). -/
def execKmovToScalar (d a : BitVec 7) (s : State) : Out :=
  withWord s fun x => checked s x [(!(spairOk d.toNat), 7), (decide (11 < a.toNat), 7)]
    (.next (done (s.modSub x.sg fun u => u.setSpair d.toNat (u.kreg a.toNat)) x))
/-- The truth table of `kop` on two masks (R125). -/
def kopMask (f : BitVec 4) (d a : Dword) : Dword :=
  let pick (i : Nat) (m : Dword) : Dword := if f.getLsbD i then m else 0
  pick 0 (~~~d &&& ~~~a) ||| pick 1 (~~~d &&& a) ||| pick 2 (d &&& ~~~a) ||| pick 3 (d &&& a)
/-- `kop` (R125). -/
def execKop (d a : BitVec 7) (f : BitVec 4) (s : State) : Out :=
  withWord s fun x => checked s x [(!(kDst d.toNat), 7), (decide (11 < a.toNat), 7)]
    (.next (setMask s x d.toNat (kopMask f ((x.sub s).kreg d.toNat) ((x.sub s).kreg a.toNat))))
/-- `exit` (R135). -/
def execExit (s : State) : Out := withWord s fun x => .next (retire (switchPoint s x) x.sg x.mask)

end Sys2Proof.Machine
end

