-- ==== Sys2Proof/Machine/Estates.lean ====
section
/-!
DEFINITION. Estates: filing and claiming (R188 to R196), their records and the moves between places (R198 to R203), and the words `boff`, `pickup` and `estat`.
-/

namespace Sys2Proof.Machine

/-- A traffic counter grows (R209). -/
def countCore (s : State) (n : Nat) : State := { s with dbgr := { s.dbgr with estCore := s.dbgr.estCore + BitVec.ofNat 64 n } }
def countInPlace (s : State) (n : Nat) : State := { s with dbgr := { s.dbgr with estInPlace := s.dbgr.estInPlace + BitVec.ofNat 64 n } }
def countHolder (s : State) (n : Nat) : State := { s with dbgr := { s.dbgr with estHolder := s.dbgr.estHolder + BitVec.ofNat 64 n } }
def countStore (s : State) (n : Nat) : State := { s with dbgr := { s.dbgr with estStore := s.dbgr.estStore + BitVec.ofNat 64 n } }

/-- The region of a launch, whose estates its threads leave and claim. -/
def Launch.region (l : Launch) : Loc := l.regions.headD 0

/-- The next bequest sequence number of a region (R189). -/
def nextSeq (s : State) (r : Loc) : State × Dword :=
  let n := (s.fe.regions.get r {}).seq
  ({ s with fe := { s.fe with regions := s.fe.regions.set r { s.fe.regions.get r {} with seq := n + 1 } } }, n)

/-- One estate filed for a thread, in place; its room comes from the launch's reservation (R188, R203). -/
def fileEstate (s : State) (g l : Nat) (e : Bequest) : State :=
  let u := s.sub g
  let t := u.thread l
  let n := (s.wg u.wg).launch
  let la := s.launch n
  let r := nextSeq s la.region
  let est : Estate := {
    ctx := la.ctx, region := la.region, fdom := la.fdom, store := la.store, key := t.wid, tag := e.tag, seq := r.2,
    regs := (List.range e.count).map fun j => t.reg (e.base + j), launch := n, place := .inPlace u.core u.row u.slot l }
  let s := r.1.modLaunch n fun la => { la with reserved := la.reserved - recordSize e.count }
  { s with fe := { s.fe with estates := s.fe.estates ++ [est] } }

/-- `boff` (R188): each thread of the group leaves one estate for every valid entry, in entry order, and retires. -/
def execBoff (d : BitVec 7) (t : BitVec 3) (c : BitVec 5) (s : State) : Out :=
  withWord s fun x =>
    let u := x.sub s
    let n := c.toNat + 1
    let bs := (x.launch s).lpb.bequest
    let first := u.wbase.toNat + d.toNat
    checked s x [(!(decide (d.toNat + n - 1 ≤ topCode x.form)) || !(decide (first + n ≤ x.regs s)), 7),
        (!(bs.any fun e => e.tag == t && e.base == first && e.count == n), 8)] <|
      let s' := x.lanes.foldl (fun s l => bs.foldl (fun s e => fileEstate s x.sg l e) s) s
      .next (retire (switchPoint s' x) x.sg x.mask)

/-! ### Records and places (R198 to R203, R207) -/

/-- An estate record (R201). -/
def estateBytes (e : Estate) : List Byte :=
  bytesOf 8 e.key ++ bytesOf 8 e.seq ++ [e.tag.setWidth 8, BitVec.ofNat 8 e.regs.length] ++ List.replicate 14 0
  ++ e.regs.flatMap (fun r => bytesOf 4 (r.setWidth 64)) ++ List.replicate (recordSize e.regs.length - 32 - 4 * e.regs.length) 0
/-- Estates in ascending SEQ. -/
def bySeq (es : List Estate) : List Estate := es.mergeSort fun a b => decide (a.seq ≤ b.seq)

/-- Whether two descriptions are of one estate: numbers are unique within a region (R189). -/
def Estate.same (e o : Estate) : Bool := e.ctx == o.ctx && e.region == o.region && e.seq == o.seq
def holdsEstate (s : State) (e : Estate) : Bool := s.fe.estates.any e.same
/-- An estate in another place. -/
def placeEstate (s : State) (e : Estate) (p : Place) : State :=
  { s with fe := { s.fe with estates := s.fe.estates.map fun o => if e.same o then { o with place := p } else o } }
/-- One estate removed, with its room (R192, R203). -/
def takeEstate (s : State) (e : Estate) : State :=
  if holdsEstate s e then giveRoom { s with fe := { s.fe with estates := s.fe.estates.filter fun o => !(e.same o) } } e.store (recordSize e.regs.length) else s

/-- The backing store of an estate's region: its virtual address and its size, as the RCB holds them (R203, R356). -/
def storeRange (s : State) (e : Estate) : Dword × Nat := let bs := s.homeBytes e.store 0x48; (dwordAt bs 0x38, fieldAt bs 0x40 8)
/-- The records that the store from which `e` draws its room holds: offset and size. -/
def storedRecords (s : State) (e : Estate) : List (Nat × Nat) := s.fe.estates.filterMap fun o => match o.place with
  | .store off => if o.store = e.store && o.ctx = e.ctx then some (off, recordSize o.regs.length) else none
  | _ => none
/-- The lowest offset of a store at which a record of `n` bytes fits (DESIGN CHOICE, log 57). -/
def storeGap (size n : Nat) (rs : List (Nat × Nat)) : Option Nat :=
  let fits (b : Nat) : Bool := decide (b + n ≤ size) && rs.all fun r => decide (b + n ≤ r.1) || decide (r.1 + r.2 ≤ b)
  ((0 :: rs.map fun r => r.1 + r.2).filter fits).min?

/-- An estate's record written at an offset of its backing store; a write that faults ends the region's fault domain (R200, R201, R203). -/
def storeEstate (s : State) (e : Estate) (off : Nat) : State :=
  match writeHome s e.ctx ((storeRange s e).1 + BitVec.ofNat 64 off) (estateBytes e) with
  | .ok s => placeEstate (countStore s (recordSize e.regs.length)) e (.store off)
  | .error f => endDomain s e.ctx e.fdom f.cause 0
/-- The records of a store written again without gaps, where no gap of it holds the next one. -/
def packStore (s : State) (e : Estate) : State × Nat :=
  (bySeq (s.fe.estates.filter fun o => o.store == e.store && o.ctx == e.ctx && match o.place with
    | .store _ => true
    | _ => false)).foldl (fun r o => (if holdsEstate r.1 o then storeEstate r.1 o r.2 else r.1, r.2 + recordSize o.regs.length)) (s, 0)
/-- Where the record of an estate goes in its store. -/
def storeOffset (s : State) (e : Estate) : State × Nat := match storeGap (storeRange s e).2 (recordSize e.regs.length) (storedRecords s e) with
  | some off => (s, off)
  | none => packStore s e
/-- An estate goes to its region's backing store, for which room has been reserved (R200, R203). -/
def toStore (s : State) (e : Estate) : State :=
  if !(holdsEstate s e) then s else
  let r := storeOffset s e
  if holdsEstate r.1 e then storeEstate r.1 e r.2 else r.1

/-- Bytes of estate records in the stitch holder of a cluster. -/
def holderBytes (s : State) (cluster : Nat) : Nat :=
  ((s.fe.estates.filter fun e => e.place == .holder cluster).map fun e => recordSize e.regs.length).foldl (· + ·) 0

/-- The estate of the stitch holder with the lowest sequence number. -/
def oldestHeld (s : State) (cluster : Nat) : Option Estate :=
  (s.fe.estates.filter fun e => e.place == .holder cluster).foldl (fun b e => match b with
    | none => some e
    | some o => if e.seq < o.seq then some e else some o) none

/-- The stitch holder evicts its oldest estates to the backing stores until `need` more bytes fit in its 4 MiB (R198, R200). `fuel` bounds the evictions. -/
def makeRoom (s : State) (cluster need : Nat) : Nat → State
  | 0 => s
  | fuel + 1 =>
    if holderBytes s cluster + need ≤ 4194304 then s else
    match oldestHeld s cluster with
    | none => s
    | some e => makeRoom (toStore s e) cluster need fuel

/-- The estates that hold the position of a slot. -/
def estatesAt (s : State) (core row slot : Nat) : List Estate :=
  s.fe.estates.filter fun e => match e.place with
    | .inPlace c r k _ => c == core && r == row && k == slot
    | _ => false

/-- One estate written to the stitch holder of a cluster (R200, R209). -/
def holdEstate (s : State) (cluster : Nat) (e : Estate) : State :=
  if !(holdsEstate s e) then s else
  let n := recordSize e.regs.length
  let s := makeRoom s cluster n s.fe.estates.length
  if holdsEstate s e then countHolder (placeEstate s e (.holder cluster)) n else s
/-- Estates moved to the stitch holder of their cluster, oldest first, once it has room for all of them: no estate of the move is evicted by it (R200). -/
def toHolder (s : State) (cluster : Nat) (es : List Estate) : State :=
  let s := makeRoom s cluster ((es.map fun e => recordSize e.regs.length).foldl (· + ·) 0) s.fe.estates.length
  (bySeq es).foldl (fun s e => holdEstate s cluster e) s

/-- The estates of one held position moved to the stitch holder (R200). -/
def freePosition (s : State) (core row slot : Nat) : State := toHolder s (clusterOf core) (estatesAt s core row slot)

/-- ESTATE_MOVE_COMPLETE (R200): a held position is free. -/
def execEstateMoveComplete (core row slot : Nat) (s : State) : Out := .next (freePosition s core row slot)

/-- The record of an estate read from its backing store, and whether it met an uncorrectable error; a fault of the access ends the region's fault domain (R202, R203,
R209). -/
def readStored (s : State) (e : Estate) (off : Nat) : State × Bool :=
  let n := recordSize e.regs.length
  match readHome s e.ctx ((storeRange s e).1 + BitVec.ofNat 64 off) n with
  | .ok _ => (countStore s n, e.bad)
  | .error f => if f.cause = 5 then (countStore s n, true) else (endDomain s e.ctx e.fdom f.cause 0, true)
/-- An estate brought to a core that claims it, and whether it met an uncorrectable error: copied within the core, all registers of it whatever the claim takes (DESIGN
CHOICE, log 57), by way of the stitch holder from another core of its cluster, or read from the backing store (R198, R209). -/
def bringEstate (s : State) (core : Nat) (e : Estate) : State × Bool :=
  match e.place with
  | .inPlace c _ _ _ => if c = core then (countCore s e.regs.length, e.bad) else (holdEstate s (clusterOf c) e, e.bad)
  | .holder _ => (s, e.bad)
  | .store off => readStored s e off
/-- Estates that leave as records, in a residue buffer or an image: those of the backing store are read there, and one that meets an uncorrectable error is destroyed, with
its room (R202, R203, R209). -/
def readEstates (s : State) : List Estate → State × List Estate
  | [] => (s, [])
  | e :: es =>
    if !(holdsEstate s e) then readEstates s es else
    let r := match e.place with
      | .store off => readStored s e off
      | _ => (s, e.bad)
    if r.2 then readEstates (takeEstate r.1 e) es else let q := readEstates r.1 es; (q.1, e :: q.2)

/-- The die whose relock holds a request of a core for an estate, if one does: that of the core or the stitch holder which has the estate, or of the core where the request
passes its FIFOs (R322, R325). -/
def estateHeld (s : State) (core : Nat) (e : Estate) : Option Nat :=
  let own := s.dieOfCore core
  let from_ (c : Nat) : Option Nat :=
    let d := s.dieOfCore c
    if d = own then (if (s.die d).relockD.isSome || (isL c && (s.die d).relockL.isSome) then some d else none) else [d, own].find? (dieHeld s)
  match e.place with
  | .inPlace c _ _ _ => if c = core then none else from_ c
  | .holder k => from_ (dCore k 0)
  | .store _ => [own].find? (dieHeld s)

/-! ### Claims (R192, R193) -/

/-- Whether an estate is eligible for a launch: its bequeather had completed before the launch was admitted (R192). -/
def eligibleFor (l : Launch) (e : Estate) : Bool := e.eligible && e.region == l.region && e.ctx == l.ctx && decide (e.since ≤ l.admitted)
/-- The estate that a claim of a launch meets under a key and a tag; a key of R191 is exact, and one past 64 bits names none. -/
def findEstate (s : State) (l : Launch) (key : Nat) (tag : BitVec 3) : Option Estate :=
  s.fe.estates.find? fun e => eligibleFor l e && e.key.toNat == key && e.tag == tag

/-- Estate registers delivered from `r` on; the rest of the entry is zero (R192, R195). -/
def deliver (t : Thread) (r count : Nat) (regs : List Word) : Thread :=
  (List.range count).foldl (fun t j => t.setReg (r + j) (regs.getD j 0)) t

/-- One thread's `pickup`: the registers and EST.PKMISS, or the fault of an estate with an uncorrectable error, which is destroyed; the registers and EST.PKMISS then stay as
they were (DESIGN CHOICE, log 57) (R195, R202). -/
def pickupOne (s : State) (x : Cx) (l : Nat) (key : Dword) (tag : BitVec 3) (r n : Nat) : State × Option MemFault :=
  match findEstate s (x.launch s) key.toNat tag with
  | none => (s.modThread x.sg l fun t => { deliver t r n [] with est := setBit t.est 8 true }, none)
  | some e =>
    let b := bringEstate s x.core e
    let s := takeEstate b.1 e
    if (s.subs.find? x.sg).isNone then (s, none) else
    if b.2 then (s, some (memerr 2 0))
    else (s.modThread x.sg l fun t => { deliver t r n e.regs with est := setBit t.est 8 false }, none)

/-- The claims of a group in member order. -/
def pickupEach (s : State) (x : Cx) (tag : BitVec 3) (r n : Nat) : List (Nat × Dword) → State × List (Nat × Option MemFault)
  | [] => (s, [])
  | (l, key) :: ks =>
    let p := if (s.subs.find? x.sg).isNone then (s, none) else pickupOne s x l key tag r n
    let q := pickupEach p.1 x tag r n ks
    (q.1, (l, p.2) :: q.2)

/-- `pickup` (R195); its words wait while a relock holds a request for one of the estates (R325). -/
def execPickup (d a : BitVec 7) (t : BitVec 3) (c : BitVec 5) (s : State) : Out :=
  withWord s fun x =>
    let n := c.toNat + 1
    let r := (x.sub s).wbase.toNat + d.toNat
    checked s x [(!(decide (d.toNat + n - 1 ≤ topCode x.form)) || !(decide (r + n ≤ x.regs s)), 7), (!(srcOk s x a.toNat true), 7)] <|
      let ks := readAll s x a.toNat true
      withStale s x ks.2 fun s =>
        match ks.1.findSome? fun k => (findEstate s (x.launch s) k.2.toNat t).bind (estateHeld s x.core) with
        | some d => .next (blockAt s x x.lanes (.fifo d))
        | none =>
        let p := pickupEach s x t r n ks.1
        if (p.1.subs.find? x.sg).isNone then .next p.1 else
        let ok := (p.2.filter fun q => q.2.isNone).map Prod.fst
        let bad := p.2.filterMap fun q => q.2.map fun e => (q.1, e)
        let ts := faultTraps p.1 x 64 bad
        let s' := (p.1.modSub x.sg fun u => { u with inflight := u.inflight + 1 }).post [.pickupComplete x.sg]
        .next (switchPoint (raiseAll (advance s' x ok) x ts) x)

/-- `estat` (R196). -/
def execEstat (d : BitVec 7) (s : State) : Out :=
  withWord s fun x => checked s x [(!(dstOk s x d.toNat 1), 7)] <|
    let r := (x.sub s).wbase.toNat + d.toNat
    .next (done (s.modThreads x.sg x.lanes fun t => t.setReg r t.est) x)

/-- PICKUP_COMPLETE (R195): the registers of a `pickup` can be read. -/
def execPickupComplete (sg : Nat) (s : State) : Out :=
  if (s.subs.find? sg).isNone then .next s else .next (s.modSub sg fun u => { u with inflight := u.inflight - 1 })

end Sys2Proof.Machine
end

