-- ==== Sys2Proof/Machine/Issue.lean ====
section
/-!
DEFINITION. The choice of the next issuing group (R118, R160 to R162), the group switch (R25, R26, R28), and fetching a word (R66, R184).
-/

namespace Sys2Proof.Machine

/-- A candidate of a lane row: a ready path, or the watchers of a subgroup at one PC (R160, R162). -/
structure Cand where
  sg : Nat
  mask : Dword
  watch : Bool
  /-- Cycles waited, if it is starving (R161). -/
  starve : Option Nat
  prio : Nat
  dp : Nat
  last : Nat
  slot : Nat
  low : Nat
  deriving DecidableEq, Repr

/-- Whether a subgroup can run on its core now: its workgroup is resident and born, and its context runs there (R276). One that has migrated stands still while its
workgroup's home core is switched out (DESIGN CHOICE, log 24). -/
def canRun (s : State) (g : Nat) : Bool :=
  let u := s.sub g
  let w := s.wg u.wg
  w.resident && w.born && (s.core u.core).ctx == some w.ctx

/-- The subgroups of a lane row, lowest slot first. -/
def rowSubs (s : State) (c r : Nat) : List Nat :=
  let gs := (s.subs.filter fun p => p.2.core == c && p.2.row == r && canRun s p.1).map Prod.fst
  (List.range (slotsOf c)).flatMap fun k => gs.filter fun g => (s.sub g).slot == k

/-- The fairness interval in force: a value below 256 is taken as 256 (R161). -/
def fairness (k : Core) : Nat := max 256 k.fairT.toNat

/-- The word a fetch-buffer line holds at a PC (R184). -/
def buffered (k : Core) (pc : Dword) : Option Word :=
  (k.lines.find? (pc.toNat / 64 * 64)).bind fun ws => ws[pc.toNat / 4 % 16]?

/-! ### Fetching a word (R66, R184) -/

/-- The words of a line as the core's view holds it at this moment. -/
def lineOf (s : State) (c : Nat) (p : Loc) : List Word :=
  (List.range 16).map fun i => (ofBytes (s.viewBytes c (p + 4 * i) 4)).setWidth 32

/-- A line put into the fetch buffer of a core, if its fetch translates and its data is correctable (R184). -/
def fillLineAt (s : State) (c ctx : Nat) (pc : Dword) : State × Option MemFault :=
  if pc.toNat % 4 != 0 then (s, some (alignFault 2 pc))
  else if 2 ^ 56 ≤ pc.toNat then (s, some (xlat 1 pc))
  else
    let va := pc.toNat / 64 * 64
    match translate s c ctx va (.fetch (formOf c)) with
    | (s, .error e) => (s, some { e with addr := pc })
    | (s, .ok x) =>
      match s.remoteFault ctx x.loc pc with
      | some e => (s, some e)
      | none =>
        if s.badAt x.loc 64 then (s, some (memerr 4 pc)) else
        (s.modCore c fun k => { k with lines := k.lines.set va (lineOf s c x.loc) }, none)

/-- The word at a PC: from the fetch buffer, which takes the line first where it does not hold it. -/
def fetch (s : State) (c ctx : Nat) (pc : Dword) : State × Except MemFault Word :=
  if pc.toNat % 4 != 0 then (s, .error (alignFault 2 pc)) else
  match buffered (s.core c) pc with
  | some w => (s, .ok w)
  | none =>
    match fillLineAt s c ctx pc with
    | (s, some e) => (s, .error e)
    | (s, none) => match buffered (s.core c) pc with
      | some w => (s, .ok w)
      | none => (s, .error (memerr 4 pc))

/-- Whether the next word of a subgroup's path, as a fetch would deliver it now, carries CP (R44, R160). -/
def carriesCp (s : State) (c g : Nat) (pc : Dword) : Bool := match (fetch s c (s.wg (s.sub g).wg).ctx pc).2 with
  | .error _ => false
  | .ok w =>
    let op := (w.extractLsb' 23 7).toNat
    w.getLsbD 22 && ((w.extractLsb' 30 2 == 0 && decide (op < 0x60)) || (w.extractLsb' 30 2 == 2 && decide (op ≤ 0x11)))

/-! ### Words that wait for a relock (R325) -/

/-- The base operand of a memory word, and its space: of an M-class load, store or atomic, of a scalar load or store (`sc`), or of a counted-barrier word. -/
structure Base where
  code : Nat
  sp : BitVec 2
  sc : Bool := false
  deriving DecidableEq, Repr

def baseOf (w : Word) : Option Base :=
  let op := (w.extractLsb' 23 7).toNat
  let sub := (w.extractLsb' 21 4).toNat
  let hi := (w.extractLsb' 8 7).toNat
  let lo := (w.extractLsb' 7 7).toNat
  match (w.extractLsb' 30 2).toNat with
  | 1 =>
    if op ≤ 12 || op = 18 then some ⟨hi, w.extractLsb' 6 2, false⟩
    else if (14 ≤ op && op ≤ 17) || op = 48 || op = 49 then some ⟨hi, w.extractLsb' 3 2, false⟩
    else if 32 ≤ op && op ≤ 46 then some ⟨lo, w.extractLsb' 17 2, false⟩ else none
  | 2 => if 40 ≤ op && op ≤ 43 then some ⟨hi, w.extractLsb' 6 2, true⟩ else none
  | 3 => if w.extractLsb' 25 5 == 1 && 2 ≤ sub && sub ≤ 4 then some ⟨lo, 0, true⟩ else none
  | _ => none
/-- What the base of a member names, without the word's offset. -/
def baseNames (s : State) (c g : Nat) (b : Base) (l : Nat) : Option Named :=
  let u := s.sub g
  let r := u.wbase.toNat + b.code
  let a : Dword := if b.sc then (if b.code ≤ 111 then u.spair b.code else 0) else if b.code ≤ 115 then pairOf ((u.thread l).reg r) ((u.thread l).reg (r + 1)) else 0
  decodeAddr s c (s.wg u.wg).ctx u.wg b.sp a
/-- Whether an access is to the scratchpad of the core itself. -/
def ownScratch (s : State) (c : Nat) : Option Named → Bool
  | some (.scr w _) => (s.wg w).home == c
  | _ => false
/-- Whether a word of an L-core needs a unit that the D clock drives: an engine, a needle, the Orrery, the tile-task scheduler, the slot table, the L2 or the stitch holder
(R318, R325). -/
def needsD (s : State) (c g : Nat) (ls : List Nat) (w : Word) : Bool :=
  let op := (w.extractLsb' 23 7).toNat
  let group := (w.extractLsb' 25 5).toNat
  match (w.extractLsb' 30 2).toNat, baseOf w with
  | 3, some b => !(ls.all fun l => ownScratch s c (baseNames s c g b l))
  | 3, none => group = 2 || group = 3 || group = 4 || (group = 1 && w.extractLsb' 21 4 == 1)
  | _, some b => !(ls.all fun l => ownScratch s c (baseNames s c g b l))
  | 1, none => op = 59 || op = 97
  | _, none => false
/-- Whether a word needs the FIFOs between the die and the package network: an atomic, or a read of what is published at pk or sy, of a global address (R148, R322). -/
def needsFifo (s : State) (c g : Nat) (ls : List Nat) (w : Word) : Bool :=
  let op := (w.extractLsb' 23 7).toNat
  w.extractLsb' 30 2 == 1 && ((32 ≤ op && op ≤ 46) || ((op = 14 || op = 15 || op = 48 || op = 49) && 5 ≤ (w.extractLsb' 5 3).toNat)) &&
  match baseOf w with
  | none => false
  | some b => ls.any fun l => match baseNames s c g b l with
    | some (.glob _) => true
    | _ => false
/-- Whether the word of some members at a PC waits, not ready, for a relock of the core's die (R325). -/
def stalls (s : State) (c g : Nat) (pc : Dword) (ls : List Nat) : Bool :=
  let d := s.die (s.dieOfCore c)
  if d.relockD.isNone && d.relockL.isNone then false else
  match buffered (s.core c) pc with
  | none => isL c && d.relockD.isSome
  | some w => (isL c && d.relockD.isSome && needsD s c g ls w) || needsFifo s c g ls w

/-! ### The choice (R118, R160 to R162) -/

/-- Groups of members by the PC they stand at, in the order of their lowest members. -/
def byPc (u : Sub) : List Nat → List (Dword × List Nat)
  | [] => []
  | l :: ls =>
    let pc := (u.thread l).pc
    match (byPc u ls).find? (·.1 == pc) with
    | none => (pc, [l]) :: byPc u ls
    | some (_, ms) => (pc, l :: ms) :: (byPc u ls).filter (·.1 != pc)

/-- The candidates that a subgroup gives its row (R118, R160 to R162). A path whose members became ready at different times has been ready since the earliest of them
(DESIGN CHOICE, log 7). -/
def candsOf (s : State) (c r g : Nat) : List Cand :=
  let u := s.sub g
  let k := s.core c
  let now := s.cycle c
  let row := s.row c r
  let ready := (byPc u ((List.range 64).filter fun l => threadReady s g l)).filter fun p => !(stalls s c g p.1 p.2)
  let watch := (byPc u ((List.range 64).filter fun l => threadWatches s g l)).filter fun p => !(stalls s c g p.1 p.2)
  let outOf (ms : List Nat) : Bool := match row.issuing with
    | some (h, m) => h == g && (row.fairOut || decide (fairness k ≤ now - row.runAt)) && !(ms.any fun l => m.getLsbD l)
    | none => false
  let mk (w : Bool) (p : Dword × List Nat) : Cand :=
    let cp := isL c && !w && carriesCp s c g p.1
    let at_ := p.2.foldl (fun a l => min a (u.thread l).readyAt) now
    { sg := g, mask := maskOf p.2, watch := w
      starve := if w then none else if outOf p.2 then some (max (now - at_) (fairness k)) else if fairness k ≤ now - at_ then some (now - at_) else none
      prio := if cp then 15 else (s.launchOf g).prio
      dp := if cp then 128 else if u.yielded then u.dp - 64 else u.dp
      last := p.2.foldl (fun a l => max a (u.thread l).lastIssue) 0
      slot := u.slot, low := p.2.headD 0 }
  ready.map (mk false) ++ watch.map (mk true)

/-- Whether `a` goes before `b` by priority, dynamic priority, age and place (R160, items 2 to 5). -/
def Cand.ranked (a b : Cand) : Bool :=
  if a.prio != b.prio then decide (b.prio < a.prio)
  else if a.dp != b.dp then decide (b.dp < a.dp)
  else if a.last != b.last then decide (a.last < b.last)
  else if a.slot != b.slot then decide (a.slot < b.slot) else decide (a.low ≤ b.low)

/-- Whether candidate `a` goes before `b` (R160): starving candidates first, the longest-waiting of them first. -/
def Cand.before (a b : Cand) : Bool :=
  match a.starve, b.starve with
  | some m, some n => if m = n then a.ranked b else decide (n < m)
  | some _, none => true
  | none, some _ => false
  | none, none => a.ranked b

def bestOf : List Cand → Option Cand
  | [] => none
  | a :: as => match bestOf as with
    | none => some a
    | some b => if a.before b then some a else some b

/-- The candidate a lane row takes (R160). A group that a swap or a checkpoint stopped between two switch points goes on first, so that the stop shows in nothing but
time (R280). -/
def choose (s : State) (c r : Nat) : Option Cand :=
  let ks := (rowSubs s c r).flatMap (candsOf s c r)
  (ks.find? fun k => (s.sub k.sg).first && ((s.sub k.sg).kept.map Prod.fst) == some k.mask).or (bestOf ks)

/-- A MODE written to CORE_CTL takes effect on the row; when SAFE is left, the saved rings of groups that are not issuing are discarded (R28). The rings of a context
that is switched out are not the row's. -/
def applyMode (s : State) (c r : Nat) : State :=
  let row := s.row c r
  let m := (s.core c).mode
  if row.mode = m then s else
  let keep (g : Nat) (u : Sub) : Sub := match keptGroup s g with
    | some (k, _) => { u with ring := u.ring.filter fun p => k.getLsbD p.1 }
    | none => u.clearRing
  let s := if row.mode = 2 then (rowSubs s c r).foldl (fun s g => s.modSub g (keep g)) s else s
  s.setRow c r { row with mode := m }

/-- Whether the chosen group goes on from its last word without a group switch: it is the issuing group, or the group for which `rft`, a swap or a restore keeps the
ring (R25, R27, R276). -/
def goesOn (s : State) (c r : Nat) (k : Cand) : Bool := match (s.sub k.sg).kept with
  | some (m, _) => m == k.mask
  | none => (s.row c r).issuing == some (k.sg, k.mask)

/-- The row issues for the chosen group from now on: at a group switch outside SAFE mode the valid bits clear, and in SAFE mode the switch costs four further
slots (R25, R26, R382). -/
def switchTo (s : State) (c r : Nat) (k : Cand) : State :=
  let row := s.row c r
  let same := goesOn s c r k
  let paid := row.issuing.isSome && row.issuing != some (k.sg, k.mask) && row.mode == 2 && !(isL c)
  let ran := match (s.sub k.sg).kept with
    | some (_, n) => s.cycle c - n
    | none => row.runAt
  let saves := row.mode == 2 || isL c
  let s := (rowSubs s c r).foldl (fun s g => s.modSub g fun u =>
    { u with ring := if saves || (same && g == k.sg) then u.ring else [], kept := none, first := false, yielded := false }) s
  s.setRow c r { row with
    issuing := some (k.sg, k.mask)
    atSwitch := false
    fairOut := false
    runAt := if same then ran else s.cycle c
    held := row.held ++ if paid then List.replicate 4 4 else [] }

/-- Whether the row is inside a switch-point-free run of a group that still stands: its members are live, ready and at one PC. -/
def midRun (s : State) (c r : Nat) : Bool :=
  let row := s.row c r
  match row.issuing with
  | none => false
  | some (g, m) => !row.atSwitch && m != 0 && canRun s g && !((isL c || row.mode == 2) && row.xsel.isNone)
    && ((lanesOf m).all fun l => threadReady s g l) && !(stalls s c g ((s.sub g).thread (lowest m)).pc (lanesOf m))

/-- Whether the word of the group in course of a D-row waits for firmware, RETIRED or ACCCLAIM, or for a relock to end: that is no switch point of its own, so that
outside SAFE mode the row issues nothing until the word goes on (R25, R270, R271, R325); and on any row, no more does it between an `xsel` and its successor (R127). -/
def wordHolds (s : State) (c r : Nat) : Bool :=
  let row := s.row c r
  match row.issuing with
  | none => false
  | some (g, m) => !row.atSwitch && (row.xsel.isSome || (!(isL c) && row.mode != 2)) && canRun s g
    && (stalls s c g ((s.sub g).thread (lowest m)).pc (lanesOf m) || (lanesOf m).any fun l => (s.sub g).live.getLsbD l && match ((s.sub g).thread l).wait with
        | .firmware => true
        | .release n => relocked s c n
        | _ => false)

/-- What a lane row does next. -/
inductive Next where
  /-- Nothing is ready on the row. -/
  | idle
  | trap (g : Nat)
  | async (g : Nat)
  | continuation (g : Nat)
  | reread
  | issue
  deriving DecidableEq, Repr

/-- What a lane row does next, with the state in which it does it: mid-run the same group goes on; at a switch point asynchronous traps come first, then
precise traps and continuations, then the choice of R160. In SAFE mode every instruction boundary counts as the row's next switch point, at which a written MODE takes
effect (DESIGN CHOICE, log 52). -/
def rowNext (s : State) (c r : Nat) : State × Next :=
  if midRun s c r then (s, .issue) else if wordHolds s c r then (s, .idle) else
  let gs := rowSubs s c r
  match gs.find? fun g => (asyncTakeable s g).isSome with
  | some g => (applyMode s c r, .async g)
  | none =>
    match gs.find? fun g => (takeable s g).isSome with
    | some g => (applyMode s c r, .trap g)
    | none =>
      match gs.find? fun g => (continuable s g).isSome with
      | some g => (applyMode s c r, .continuation g)
      | none =>
        let s := applyMode s c r
        match choose s c r with
        | none => (s, .idle)
        | some k => (switchTo s c r k, if k.watch then .reread else .issue)

/-! ### The word of the group -/

/-- The image, among those that the loader has mapped for a context, that holds a PC (R304). -/
def imageAt (s : State) (ctx : Nat) (pc : Dword) : Option Dword :=
  let inside (b : Dword) (n : Nat) : Bool := decide (b.toNat ≤ pc.toNat) && decide (pc.toNat < b.toNat + n)
  (s.fe.images.find? fun i => i.ctx == ctx && (inside i.image.sectD i.image.sizeD || inside i.image.sectL i.image.sizeL)).map (·.code)
/-- The live threads that have joined the count of an image, those of stopped workgroups among them (R304). -/
def imageCount (s : State) (ctx : Nat) (code : Dword) : Nat :=
  let of (subs : Tbl Sub) : Nat := (subs.map fun (p : Nat × Sub) => (lanesOf p.2.live).countP fun l => (p.2.thread l).images.contains code).foldl (· + ·) 0
  of (s.subs.filter fun (p : Nat × Sub) => (s.wg p.2.wg).ctx == ctx)
  + ((s.fe.launches.filter fun (p : Nat × Launch) => p.2.ctx == ctx).map fun p => (p.2.stopped.map fun x => of x.subs).foldl (· + ·) 0).foldl (· + ·) 0
/-- Superseded images that no live thread holds are unmapped: what stays is that launches which name them take the newer image (R304). -/
def dropImages (s : State) (ctx : Nat) : State :=
  if !(s.fe.images.any fun i => i.ctx == ctx && i.by_.isSome) then s else
  { s with fe := { s.fe with images := s.fe.images.map fun (i : Loaded) =>
      if i.ctx = ctx && i.by_.isSome && imageCount s ctx i.code == 0 then { i with image := {} } else i } }

/-- The members of the group join the count of an image they fetch from the first time (R304). -/
def joinImage (s : State) (x : Cx) : State :=
  match imageAt s (x.party s).ctx (x.pc s) with
  | none => s
  | some i =>
    let ls := x.lanes.filter fun l => !(((s.sub x.sg).thread l).images.contains i)
    if ls = [] then s else s.modThreads x.sg ls fun t => { t with images := i :: t.images }

/-- The group in course fetches its word; a fetch that faults raises the fault in the whole group (R66, R121, R154). -/
def fetchWord (s : State) (x : Cx) : State × Option Word :=
  let pc := x.pc s
  match fetch s x.core (x.party s).ctx pc with
  | (s, .ok w) =>
    let s := joinImage s x
    (if (s.row x.core x.row).word = w then s else s.modRow x.core x.row fun r => { r with word := w }, some w)
  | (s, .error e) =>
    let s := s.modRow x.core x.row fun r => { r with word := 0 }
    (raise s x { trapOf s x x.mask e.cause e.detail with addr := e.addr }, none)

/-! ### Which unit moves next -/

/-- Whether a needle has a word to perform now: it runs a command of the context on its core and does not wait (R231, R247, R251). -/
def needleActive (s : State) (c n : Nat) : Bool :=
  let x := s.needle c n
  match x.cmd with
  | none => false
  | some (w, _) => x.stopped.isNone && (s.core c).ctx == some (s.wg w).ctx && (s.wg w).resident &&
    match x.waiting with
    | none => true
    | some (a, b) => match barrierSense s ⟨c, (s.wg w).ctx, w⟩ a with
      | none => true
      | some v => v == b

/-- Whether a lane row has something to do at a switch point. -/
def rowActive (s : State) (c r : Nat) : Bool :=
  midRun s c r || (!(wordHolds s c r) && (rowSubs s c r).any fun g =>
    (asyncTakeable s g).isSome || (takeable s g).isSome || (continuable s g).isSome || candsOf s c r g != [])

/-- The units of the cores on which something was placed, in the order in which they take turns. -/
def units (s : State) : List Turn :=
  s.cores.keys.flatMap fun c => (List.range (rowsOf c)).map (Turn.row c) ++ (List.range (needlesOf c)).map (Turn.needle c)

/-- The clock of a unit runs: a relock stops the D-cores and the needles of its die, or the L-cores (R322, R325). -/
def clocked (s : State) : Turn → Bool
  | .row c _ => if isL c then (s.die (s.dieOfCore c)).relockL.isNone else (s.die (s.dieOfCore c)).relockD.isNone
  | .needle c _ => (s.die (s.dieOfCore c)).relockD.isNone

def unitActive (s : State) (t : Turn) : Bool := clocked s t && match t with
  | .row c r => rowActive s c r
  | .needle c n => needleActive s c n

/-- Whether a unit has performed nothing in this cycle of its clock: one word for each lane row and each needle (R382). -/
def unspent (s : State) : Turn → Bool
  | .row c r => (s.row c r).spent.isNone
  | .needle c n => !(s.needle c n).spent

/-- The core cycle in which a member of the group that a row issues for next last issued (R165). -/
def rowAge (s : State) (c r : Nat) : Nat :=
  let of (g : Nat) (m : Dword) : Nat := (lanesOf m).foldl (fun a l => max a ((s.sub g).thread l).lastAt) 0
  if midRun s c r then match (s.row c r).issuing with
    | some (g, m) => of g m
    | none => 0
  else match choose s c r with
    | some k => of k.sg k.mask
    | none => 0

/-- The unit that moves next: the first from the unit in turn on, in the round, that has something to do in this cycle. Of two rows of a core that have, the one whose
group has gone longer without issuing moves first, and row 0 where they tie (R165). -/
def nextUnit (s : State) : Option Turn :=
  let us := units s
  let may (t : Turn) : Bool := unspent s t && unitActive s t
  match (us.dropWhile (· != s.turn) ++ us).find? may with
  | some (.row c r) =>
    if rowsOf c = 2 && may (.row c (1 - r)) && (rowAge s c (1 - r) < rowAge s c r || (rowAge s c (1 - r) == rowAge s c r && r == 1)) then some (.row c (1 - r))
    else some (.row c r)
  | t => t

/-- The die and domain whose clock edge comes first (log 7), D before L where they tie. -/
def nextEdge (s : State) : Nat × Bool :=
  ((List.range 4).foldl (fun b d =>
    let x := s.die d
    let b := if x.edgeD < b.1 then (x.edgeD, d, false) else b
    if x.edgeL < b.1 then (x.edgeL, d, true) else b) ((s.die 0).edgeD, 0, false)).2

/-- The clocks run from power-on (R319, R376). -/
def clocksRun (s : State) : Bool := s.link.bringUp != .off

/-- A needle fetches its next word from the needle code of its launch (R232, R240). -/
def needleWord (s : State) (c n : Nat) : Option Word :=
  let x := s.needle c n
  x.cmd.bind fun p => (s.launch (s.wg p.1).launch).image.needle[x.pc / 4]?

/-- The needle takes its turn with its word in course. -/
def needleTurn (s : State) (c n : Nat) (w : Word) : State :=
  let x := s.needle c n
  s.setNeedle c n { x with word := w, spent := true }

/-- Reads and writes of the scalar ports that a word of a group makes (R164): a pair counts as two, and a latch code as none. A `pfrange` with ARRIVE reads the pair that
D names (R290). -/
def portUse (s : State) (x : Cx) (w : Word) : Nat × Nat :=
  let op := (w.extractLsb' 23 7).toNat
  let sub := (w.extractLsb' 21 4).toNat
  let group := (w.extractLsb' 25 5).toNat
  let base := if (w.extractLsb' 8 7).toNat ≤ 111 then 2 else 0
  let data (n : Nat) : Nat := if (w.extractLsb' 15 7).toNat ≤ 111 then n else 0
  match (w.extractLsb' 30 2).toNat with
  | 0 => (2, 1)
  | 1 =>
    if op = 70 || op = 77 then (2, 2)
    else if op = 59 && w.getLsbD 21 && ((x.sub s).sreg (w.extractLsb' 0 7).toNat).getLsbD 31 && decide ((w.extractLsb' 0 7).toNat ≤ 111) then (3, 0)
    else if op = 79 && w.extractLsb' 0 2 == 3 then (0, 2)
    else if op = 91 && w.extractLsb' 0 7 == 2 then (0, 2) else (2, 1)
  | 2 =>
    if op = 16 then (3, 1) else if op = 41 then (base, 2) else if op = 42 then (base + data 1, 0) else if op = 43 then (base + data 2, 0)
    else if op = 68 then (0, 0) else (2, 1)
  | _ =>
    if group = 1 then (if sub = 2 then (3, 0) else (2, 0))
    else if group = 2 then (if sub = 2 then (3, 0) else if sub = 4 || sub = 5 then (4, 0) else (2, 1))
    else if group = 3 then (if sub = 0 then (8, 2) else if sub = 1 then (3, 0) else if sub = 4 then (4, 0) else (2, 1))
    else if group = 4 then (if sub = 4 then (0, 1) else (3, 0))
    else if group = 5 && w.getLsbD 24 then (0, 2) else (2, 1)
/-- The cycles for which a word holds its ports (R166): two reads and one write go through in each. -/
def portCycles (s : State) (x : Cx) (w : Word) : Nat := max 1 (max (((portUse s x w).1 + 1) / 2) (portUse s x w).2)

/-- The row uses its slot for its issuing group: USEFUL where the group holds every live thread of its subgroup, else MASKED (R382); a word that needs more of a port
than it gives in a cycle holds the row for further cycles, which count as ENGINE (R166). -/
def useSlot (s : State) (x : Cx) (w : Word) : State :=
  s.modRow x.core x.row fun r => { r with spent := some (if (x.sub s).live = x.mask then 1 else 2), held := r.held ++ List.replicate (portCycles s x w - 1) 5 }

/-! ### A word placed where the next step fetches it -/

/-- One thread of one subgroup on row 0 of D-core 0, inside a run at PC 0x1000 whose line the fetch buffer holds: what a launch of one thread is once its first
word has been chosen. Nothing is mapped; the image holds both forms, a transit entry for the word and a needle ring at scratchpad offset 0. -/
def placedLaunch (word : Word) : Launch :=
  { ctx := 1, prio := 0,
    lpb := { scratch := 4096, regs := 256, code := 0x10000, clbar := 0xffffffff, nring := some 0, bequest := [⟨0, 0, 1⟩] },
    image := { lform := true, sectD := 0x1000, sizeD := 4096, sectL := 0x2000, sizeL := 4096, entryD := 0x1000, entryL := 0x2000,
               needle := [word, 0xcdd00000], transit := [⟨0, 0, 0, 0, []⟩] },
    started := true }

def placeWord (s : State) (word : Word) : State :=
  let needle := word.extractLsb' 25 7 == 0x66#7
  let t : Thread := { pc := 0x1000, images := [0x10000], twin := 0x2000 }
  let u : Sub := { wg := 1, index := 0, core := 0, row := 0, slot := 0, threads := [(0, t)], k := [(0, 1)] }
  let w : Wg := { ctx := 1, launch := 0, size := 4096 }
  let row : Row := { issuing := some (1, 1), word := word, atSwitch := false, mode := 0, spent := if needle then some 9 else none }
  let nd : Needle := { cmd := some (1, 0), word := word }
  let c : Core := { mode := 0, ctx := some 1, rows := [(0, row)], lines := [(0x1000, word :: List.replicate 15 0)],
                    needles := if needle then [(0, nd)] else [] }
  { s with
    cores := s.cores.set 0 c, subs := s.subs.set 1 u, wgs := s.wgs.set 1 w,
    fe := { s.fe with launches := s.fe.launches.set 0 (placedLaunch word), contexts := s.fe.contexts.set 1 {} }
    fresh := 2, agenda := [], parked := [], turn := if needle then .needle 0 0 else .row 0 0 }

end Sys2Proof.Machine
end

