-- ==== Sys2Proof/Machine/Rng.lean ====
section
/-!
DEFINITION. The Philox4x32-10 generator of a subgroup (R35, R132, R133).
-/

namespace Sys2Proof.Machine

/-- The counter words of a Philox round (R132). -/
structure Ctr where
  c0 : Word
  c1 : Word
  c2 : Word
  c3 : Word
  deriving DecidableEq, Repr

/-- The 64-bit product of two words (R132). -/
def wideMul (a b : Word) : Dword := a.setWidth 64 * b.setWidth 64

/-- One round (R132). -/
def philoxRound (c : Ctr) (k0 k1 : Word) : Ctr :=
  let p := wideMul 0xd2511f53 c.c0
  let q := wideMul 0xcd9e8d57 c.c2
  { c0 := hiOf q ^^^ c.c1 ^^^ k0, c1 := loOf q, c2 := hiOf p ^^^ c.c3 ^^^ k1, c3 := loOf p }

/-- `n` rounds; the keys move on between rounds (R132). -/
def philox : Nat → Ctr → Word → Word → Ctr
  | 0, c, _, _ => c
  | n + 1, c, k0, k1 => philox n (philoxRound c k0 k1) (k0 + 0x9e3779b9) (k1 + 0xbb67ae85)

/-- The word that `rng.b32` delivers to member `l` at the present draw index (R132, R133). -/
def rngWord (u : Sub) (l : Nat) : Word :=
  let hi := u.rngStream + BitVec.ofNat 64 l
  let lo : Dword := (u.rngPos.setWidth 64 <<< 24) ||| ((u.rngDraw.setWidth 64) >>> 2)
  let c := philox 10 { c0 := loOf lo, c1 := hiOf lo, c2 := loOf hi, c3 := hiOf hi } (loOf u.rngKey) (hiOf u.rngKey)
  let i := u.rngDraw.toNat % 4
  if i = 0 then c.c0 else if i = 1 then c.c1 else if i = 2 then c.c2 else c.c3

/-- The draw index has come to its end (R133). -/
def drawSat (u : Sub) : Bool := u.rngDraw == 0xffffff
/-- A draw moves the index on, or sets RNGSAT at its end (R133). -/
def drawDone (u : Sub) : Sub := if drawSat u then { u with sstat := setBit u.sstat 1 true } else { u with rngDraw := u.rngDraw + 1 }

/-- A word that draws: with RSTEN and a saturated index it traps RNGSAT and is not performed (R77, R133). -/
def drawing (s : State) (x : Cx) (k : State) : State :=
  let u := x.sub s
  if drawSat u && u.rsten then raise (s.modSub x.sg fun u => { u with sstat := setBit u.sstat 1 true }) x (trapOf s x x.mask 9 0)
  else k

end Sys2Proof.Machine
end

