-- ==== Sys2Proof/Machine/Float.lean ====
section
/-!
DEFINITION. The floating-point formats and their values (R68, R69), rounding (R75 to R78), and exact arithmetic on values (R100, R101, R105, R109).
-/

namespace Sys2Proof.Machine

/-- A binary floating-point format (R68). `ieee`: the all-ones exponent holds infinities and NaNs; without it only the all-ones code is NaN (e4m3). -/
structure Fmt where
  ebits : Nat
  fbits : Nat
  ieee : Bool := true
  /-- FTZ acts on the format (R78), and a NaN can be signaling (R69). -/
  ftz : Bool := true
  quietOnly : Bool := false
  deriving DecidableEq, Repr

def f64 : Fmt := { ebits := 11, fbits := 52, ftz := false }
def f32 : Fmt := { ebits := 8, fbits := 23 }
def f16 : Fmt := { ebits := 5, fbits := 10 }
def bf16 : Fmt := { ebits := 8, fbits := 7 }
def e4m3 : Fmt := { ebits := 4, fbits := 3, ieee := false, ftz := false, quietOnly := true }
def e5m2 : Fmt := { ebits := 5, fbits := 2, ftz := false, quietOnly := true }

namespace Fmt
/-- The sign bit as a number, the largest exponent field, and the exponent of the last bit of a subnormal (R68). -/
def signBit (f : Fmt) : Nat := 2 ^ (f.ebits + f.fbits)
def topE (f : Fmt) : Nat := 2 ^ f.ebits - 1
def bias (f : Fmt) : Nat := 2 ^ (f.ebits - 1) - 1
def minExp (f : Fmt) : Int := 1 - f.bias - f.fbits
/-- The codes of +infinity, of the largest finite value and of the canonical quiet NaN (R68, R69). -/
def infCode (f : Fmt) : Nat := f.topE * 2 ^ f.fbits
def maxCode (f : Fmt) : Nat := if f.ieee then f.infCode - 1 else f.signBit - 2
def nanCode (f : Fmt) : Nat := if f.ieee then f.infCode + 2 ^ (f.fbits - 1) else f.signBit - 1
/-- The largest finite value as an integer and an exponent. -/
def maxMant (f : Fmt) : Nat := 2 ^ f.fbits + f.maxCode % 2 ^ f.fbits
def maxExp (f : Fmt) : Int := (f.maxCode / 2 ^ f.fbits : Nat) - 1 + f.minExp
end Fmt

/-- The value of a code, or an exact result: `fin neg m e` is (−1)^neg · m · 2^e, and a zero keeps its sign (R68). -/
inductive Fp where
  | fin (neg : Bool) (m : Nat) (e : Int)
  | inf (neg : Bool)
  | nan (signaling : Bool)
  deriving DecidableEq, Repr

namespace Fp
def isNan : Fp → Bool
  | .nan _ => true
  | _ => false
def isSig : Fp → Bool
  | .nan q => q
  | _ => false
def isInf : Fp → Bool
  | .inf _ => true
  | _ => false
def isZero : Fp → Bool
  | .fin _ m _ => m == 0
  | _ => false
def neg : Fp → Bool
  | .fin n _ _ => n
  | .inf n => n
  | .nan _ => false
def negate : Fp → Fp
  | .fin n m e => .fin (!n) m e
  | .inf n => .inf (!n)
  | .nan q => .nan q
end Fp

/-- The value of a code of a format; with FTZ a subnormal of f32, f16 or bf16 is read as a zero of its sign (R68, R69, R78). -/
def unpack (f : Fmt) (ftz : Bool) (x : Nat) : Fp :=
  let neg := x / f.signBit % 2 == 1
  let e := x / 2 ^ f.fbits % 2 ^ f.ebits
  let t := x % 2 ^ f.fbits
  if f.ieee && e == f.topE then (if t = 0 then .inf neg else .nan (!f.quietOnly && decide (t < 2 ^ (f.fbits - 1))))
  else if !f.ieee && x % f.signBit == f.signBit - 1 then .nan false
  else if e = 0 then (if ftz && f.ftz then .fin neg 0 0 else .fin neg t f.minExp)
  else .fin neg (2 ^ f.fbits + t) (f.minExp + e - 1)

/-- Rounding modes (R75); rsr with its 16-bit random value (R77). -/
inductive RMode where
  | rne | rtz | rup | rdn | rna
  | rsr (q : Nat)
  deriving DecidableEq, Repr

/-- The mode of TSTAT.RM (R30). -/
def rmOf (tstat : Word) : RMode :=
  match (roundMode tstat).toNat with
  | 0 => .rne
  | 1 => .rtz
  | 2 => .rup
  | _ => .rdn

/-- m · 2^e, with a part below its last bit if `sticky`, rounded to a whole number of units of 2^q; whether anything was lost (R75, R77). -/
def roundTo (mode : RMode) (neg : Bool) (m : Nat) (e q : Int) (sticky : Bool) : Nat × Bool :=
  let sh := (q - e).toNat
  let n := if e ≤ q then m / 2 ^ sh else m * 2 ^ (e - q).toNat
  let rem := if e ≤ q then m % 2 ^ sh else 0
  let inexact := rem != 0 || sticky
  let above := decide (2 ^ sh < 2 * rem) || (2 * rem == 2 ^ sh && sticky)
  let tie := 2 * rem == 2 ^ sh && !sticky
  let up := inexact && match mode with
    | .rne => above || (tie && n % 2 == 1)
    | .rtz => false
    | .rup => !neg
    | .rdn => neg
    | .rna => above || tie
    | .rsr d => decide (2 ^ 16 ≤ rem * 2 ^ 16 / 2 ^ sh + d)
  (if up then n + 1 else n, inexact)

/-- A code and the flags its making raises. -/
structure Code where
  bits : Nat
  flags : Flags := 0
  deriving DecidableEq, Repr

/-- An overflowing result (R76). -/
def overflow (f : Fmt) (mode : RMode) (sat neg : Bool) : Code :=
  let big := match mode with
    | .rtz => true
    | .rup => neg
    | .rdn => !neg
    | _ => false
  let sign := if neg then f.signBit else 0
  { bits := if sat || big then sign + f.maxCode else if f.ieee then sign + f.infCode else f.nanCode
    flags := flagOF ||| flagNX }

/-- The rounded code of a finite value m · 2^e that is not zero (R75 to R78). -/
def roundFin (f : Fmt) (mode : RMode) (ftz sat neg : Bool) (m : Nat) (e : Int) (sticky : Bool) : Code :=
  let sign := if neg then f.signBit else 0
  let q1 := e + (Nat.log2 m : Int) - f.fbits
  let r1 := (roundTo mode neg m e q1 sticky).1
  let top := f.maxExp
  let high := match mode with
    | .rsr _ =>
      let (t, lost) := roundTo .rtz neg m e q1 sticky
      decide (top < q1) || (q1 == top && (decide (f.maxMant < t) || (t == f.maxMant && lost)))
    | _ => decide (top < q1) || (q1 == top && decide (f.maxMant < r1))
  if high then overflow f mode sat neg else
  let tiny := decide (q1 < f.minExp) && !(q1 + 1 == f.minExp && r1 == 2 ^ (f.fbits + 1))
  if tiny && ftz && f.ftz then { bits := sign, flags := flagUF ||| flagNX } else
  let q := max q1 f.minExp
  let (r, lost) := roundTo mode neg m e q sticky
  { bits := sign + (q - f.minExp).toNat * 2 ^ f.fbits + r
    flags := (if lost then flagNX else 0) ||| (if tiny && lost then flagUF else 0) }

/-- The code of a value rounded to a format: what R81 and R69 give infinities and NaN, and R75 to R78 the rest. -/
def round (f : Fmt) (mode : RMode) (ftz : Bool) (x : Fp) (sat sticky : Bool := false) : Code :=
  match x with
  | .nan _ => { bits := f.nanCode }
  | .inf n =>
    let sign := if n then f.signBit else 0
    if sat then { bits := sign + f.maxCode, flags := flagNX }
    else if f.ieee then { bits := sign + f.infCode }
    else { bits := f.nanCode, flags := flagIV }
  | .fin n m e => if m = 0 && !sticky then { bits := if n then f.signBit else 0 } else roundFin f mode ftz sat n m e sticky

/-! ### Exact operations (R100, R101) -/

/-- A value with the flags that the operation itself raises. -/
structure Res where
  val : Fp
  flags : Flags := 0
  /-- The value has a further part below its last bit. -/
  sticky : Bool := false
  deriving DecidableEq, Repr

/-- A product, and whether it is invalid: 0 × ∞ (R101). -/
def mulFp (x y : Fp) : Res :=
  match x, y with
  | .nan _, _ => { val := .nan false }
  | _, .nan _ => { val := .nan false }
  | .fin a m e, .fin b n g => { val := .fin (a != b) (m * n) (e + g) }
  | x, y => if x.isZero || y.isZero then { val := .nan false, flags := flagIV } else { val := .inf (x.neg != y.neg) }

/-- The sign of a sum that is exactly zero: the common sign of its terms, else + but − in rdn (R101). -/
def zeroSign (mode : RMode) (ts : List Fp) : Bool :=
  if ts.all (fun t => t.neg) then true else if ts.all (fun t => !t.neg) then false else mode == .rdn

/-- The integer that a finite term holds in units of 2^q, for q at most its exponent. -/
def inUnits (q : Int) : Fp → Int
  | .fin n m e => let v : Int := (m * 2 ^ (e - q).toNat : Nat); if n then -v else v
  | _ => 0

/-- An exact sum of terms; opposite infinities are invalid (R101, R109). -/
def sumFp (mode : RMode) (ts : List Fp) : Res :=
  let pos := ts.any fun t => t == .inf false
  let neg := ts.any fun t => t == .inf true
  if pos && neg then { val := .nan false, flags := flagIV }
  else if ts.any Fp.isNan then { val := .nan false }
  else if pos then { val := .inf false }
  else if neg then { val := .inf true }
  else
    let live := ts.filter fun t => !t.isZero
    let q := live.foldl (fun q t => match t with
      | .fin _ _ e => min q e
      | _ => q) (match live with
        | .fin _ _ e :: _ => e
        | _ => 0)
    let v := live.foldl (fun a t => a + inUnits q t) 0
    if v = 0 then { val := .fin (zeroSign mode ts) 0 0 } else { val := .fin (decide (v < 0)) v.natAbs q }

/-- IV for a signaling operand (R69). -/
def sigFlag (xs : List Fp) : Flags := if xs.any Fp.isSig then flagIV else 0

/-- x + y, x × y, x × y + z, and the three-term sum of `fdot2` (R100, R101, R109). -/
def addRes (mode : RMode) (x y : Fp) : Res := let r := sumFp mode [x, y]; { r with flags := r.flags ||| sigFlag [x, y] }
def mulRes (x y : Fp) : Res := let r := mulFp x y; { r with flags := r.flags ||| sigFlag [x, y] }
def fmaRes (mode : RMode) (x y z : Fp) : Res :=
  let p := mulFp x y
  let r := sumFp mode [p.val, z]
  { r with flags := p.flags ||| r.flags ||| sigFlag [x, y, z] }
def dotRes (mode : RMode) (a0 b0 a1 b1 d : Fp) : Res :=
  let p := mulFp a0 b0
  let q := mulFp a1 b1
  let r := sumFp mode [d, p.val, q.val]
  { r with flags := p.flags ||| q.flags ||| r.flags ||| sigFlag [a0, b0, a1, b1, d] }

/-- The whole part of a square root, by its bits from bit `k` − 1 down. -/
def isqrt (n : Nat) : Nat → Nat → Nat
  | 0, r => r
  | k + 1, r => isqrt n k (if (r + 2 ^ k) * (r + 2 ^ k) ≤ n then r + 2 ^ k else r)

/-- x / y of f32 values, to 64 bits below the quotient's last whole bit (R100, R101). -/
def divRes (x y : Fp) : Res :=
  let sg := sigFlag [x, y]
  match x, y with
  | .nan _, _ => { val := .nan false, flags := sg }
  | _, .nan _ => { val := .nan false, flags := sg }
  | .inf _, .inf _ => { val := .nan false, flags := flagIV }
  | .inf a, y => { val := .inf (a != y.neg) }
  | x, .inf b => { val := .fin (x.neg != b) 0 0 }
  | .fin a m e, .fin b n g =>
    if n = 0 then (if m = 0 then { val := .nan false, flags := flagIV } else { val := .inf (a != b), flags := flagDZ })
    else if m = 0 then { val := .fin (a != b) 0 0 }
    else { val := .fin (a != b) (m * 2 ^ 64 / n) (e - g - 64), sticky := m * 2 ^ 64 % n != 0 }

/-- √x of an f32 value, to more than 32 bits (R100, R101). -/
def sqrtRes (x : Fp) : Res :=
  match x with
  | .nan q => { val := .nan false, flags := if q then flagIV else 0 }
  | .inf n => if n then { val := .nan false, flags := flagIV } else { val := .inf false }
  | .fin n m e =>
    if m = 0 then { val := .fin n 0 0 } else if n then { val := .nan false, flags := flagIV }
    else
      let odd := e % 2 != 0
      let v := (if odd then 2 * m else m) * 2 ^ 64
      let r := isqrt v 48 0
      { val := .fin false r ((if odd then e - 1 else e) / 2 - 32), sticky := r * r != v }

/-- 1 / x and 1 / √x of an f32 value (R105, R107). -/
def rcpRes (x : Fp) : Res :=
  match x with
  | .fin n 0 _ => { val := .inf n, flags := flagDZ }
  | x => divRes (.fin false 1 0) x
def rsqRes (x : Fp) : Res :=
  match x with
  | .nan q => { val := .nan false, flags := if q then flagIV else 0 }
  | .inf n => if n then { val := .nan false, flags := flagIV } else { val := .fin false 0 0 }
  | .fin n m e =>
    if m = 0 then { val := .inf n, flags := flagDZ } else if n then { val := .nan false, flags := flagIV }
    else
      let odd := e % 2 != 0
      let w := if odd then 2 * m else m
      let r := isqrt (2 ^ 120 / w) 61 0
      { val := .fin false r (-((if odd then e - 1 else e) / 2) - 60), sticky := r * r * w != 2 ^ 120 }

/-- The order of two numbers: the sign of x − y (R102, R103). -/
def cmpFp (x y : Fp) : Int :=
  match x, y with
  | .inf a, .inf b => if a == b then 0 else if a then -1 else 1
  | .inf a, _ => if a then -1 else 1
  | _, .inf b => if b then 1 else -1
  | x, y => match (sumFp .rne [x, y.negate]).val with
    | .fin n m _ => if m = 0 then 0 else if n then -1 else 1
    | _ => 0

/-- The code of a result in a format, with all its flags. -/
def finish (f : Fmt) (mode : RMode) (ftz : Bool) (r : Res) : Code :=
  let c := round f mode ftz r.val false r.sticky
  { c with flags := c.flags ||| r.flags }

end Sys2Proof.Machine
end

