-- ==== Sys2Proof/Machine/Trans.lean ====
section
/-!
DEFINITION. `fex2`, `flg2`, `fsin` and `fcos` (R106, R107). spec/ bounds the error of a result and does not state its bits: the result is the free
value of Config where that value meets the bound, and the nearest f32 value to a reference computed here where it does not (log 8).

Reference values are whole numbers of units of 2^-160, right to less than 2^16 of them.
-/

namespace Sys2Proof.Machine

/-- 1, ln 2 and 2π in units of 2^-160, and 1 / 2π in units of 2^-448. -/
def unitP : Nat := 2 ^ 160
def ln2P : Nat := 0xb17217f7d1cf79abc9e3b39803f2f6af40f34326
def twoPiP : Nat := 0x6487ed5110b4611a62633145c06e0e68948127044
def invTwoPi : Nat :=
  0x28be60db9391054a7f09d5f47d4d377036d8a5664f10e4107f9458eaf7aef1586dc91b8e909374b801924bba827464873f877ac72c4a69cf

/-- A finite value as a whole number of units of 2^q, lower bits dropped. -/
def scaled (q : Int) : Fp → Int
  | .fin n m e =>
    let v : Nat := if q ≤ e then m * 2 ^ (e - q).toNat else m / 2 ^ (q - e).toNat
    if n then -(v : Int) else v
  | _ => 0

/-- The free value where it is finite and lies within `tol` of every number strictly between `lo` and `hi`, in units of 2^q; else the f32 value nearest to `r`. The exact
value lies between `lo` and `hi` and is no multiple of a unit, so that the bound of R106 always holds. -/
def within (v : Word) (r lo hi tol q : Int) : Nat :=
  let near := (round f32 .rne false (.fin (decide (r < 0)) r.natAbs q)).bits
  let c := unpack f32 false v.toNat
  match c with
  | .fin _ _ _ => if scaled q c - tol ≤ lo && hi ≤ scaled q c + tol then v.toNat else near
  | _ => near
/-- How far a reference value may be from the exact one, in units. -/
def refError : Int := 2 ^ 16

/-- A result that is not an exact case: NX, and UF where it is subnormal, which FTZ flushes (R78, R106). -/
def inexactCode (ftz : Bool) (bits : Nat) : Code :=
  let tiny := decide (bits % f32.signBit < 2 ^ 23) && bits % f32.signBit != 0
  if tiny && ftz then { bits := bits / f32.signBit * f32.signBit, flags := flagUF ||| flagNX }
  else { bits := bits, flags := if tiny then flagUF ||| flagNX else flagNX }

/-- A zero that stands for a positive value: the value is tiny, so UF is set as well (R79). -/
def tinyZero (c : Code) : Code := if c.bits % f32.signBit = 0 then { c with flags := flagUF ||| flagNX } else c

/-- e^t for t below 1, and sine and cosine below 2π, by their series. -/
def expSeries (t : Nat) : Nat := ((List.range 60).foldl (fun (p : Nat × Nat) k => (p.1 + p.2, p.2 * t / unitP / (k + 1))) (0, unitP)).1
def sinSeries (t : Int) : Int :=
  ((List.range 50).foldl (fun (p : Int × Int) k => (p.1 + p.2, -(p.2 * t / unitP * t / unitP / ((2 * k + 2) * (2 * k + 3))))) (0, t)).1
def cosSeries (t : Int) : Int :=
  ((List.range 50).foldl (fun (p : Int × Int) k => (p.1 + p.2, -(p.2 * t / unitP * t / unitP / ((2 * k + 1) * (2 * k + 2))))) (0, (unitP : Int))).1
/-- ln y for y in [1, 2), in units of 2^-160: twice the inverse hyperbolic tangent of (y − 1) / (y + 1). -/
def lnSeries (y : Nat) : Nat :=
  let z := (y - unitP) * unitP / (y + unitP)
  2 * ((List.range 60).foldl (fun (p : Nat × Nat) k => (p.1 + p.2 / (2 * k + 1), p.2 * z / unitP * z / unitP)) (0, z)).1

/-- x modulo 2π, for a finite x (R106: the reduction is exact over the whole range). -/
def reduced (m : Nat) (e : Int) : Nat := m * invTwoPi * 2 ^ (e + 149).toNat % 2 ^ 597 * twoPiP / 2 ^ 597

/-- 2^x of a finite x that is not zero (R106). The reference is below the exact value by less than 2^9 units. The ulp of the bound is that of the exact value's binade
(DESIGN CHOICE, log 8). -/
def fex2Fin (w : Word) (ftz neg : Bool) (m : Nat) (e : Int) : Code :=
  let x := scaled (-149) (.fin neg m e)
  let n := x / 2 ^ 149
  let f := x % 2 ^ 149
  if 128 ≤ n then { bits := f32.infCode, flags := flagOF ||| flagNX }
  else if n < -149 then { bits := 0, flags := flagUF ||| flagNX }
  else if f = 0 then round f32 .rne ftz (.fin false 1 n)
  else
    let r : Int := expSeries (f.toNat * 2 ^ 11 * ln2P / unitP)
    tinyZero (inexactCode ftz (within (Config.fex2 w ftz) r r (r + 2 ^ 9) (2 * 2 ^ ((max n (-126)) - 23 - (n - 160)).toNat) (n - 160)))

/-- log2 x of a positive finite x (R106). The ulp of the bound is that of the exact value's binade (DESIGN CHOICE, log 8). -/
def flg2Fin (w : Word) (ftz : Bool) (m : Nat) (e : Int) : Code :=
  let l := Nat.log2 m
  let k := e + (l : Int)
  if m = 2 ^ l then round f32 .rne ftz (.fin (decide (k < 0)) k.natAbs 0)
  else
    let r := k * unitP + (lnSeries (m * 2 ^ (160 - l)) * unitP / ln2P : Nat)
    let tol : Int := if k = -1 || k = 0 then 2 ^ 138 else 2 * 2 ^ (Nat.log2 r.natAbs - 23)
    inexactCode ftz (within (Config.flg2 w ftz) r (r - refError) (r + refError) tol (-160))

/-- The special operands of R107, then the finite ones. -/
def fex2Code (w : Word) (ftz : Bool) : Code :=
  match unpack f32 ftz w.toNat with
  | .nan q => { bits := f32.nanCode, flags := if q then flagIV else 0 }
  | .inf n => { bits := if n then 0 else f32.infCode }
  | .fin n m e => if m = 0 then { bits := 0x3f800000 } else fex2Fin w ftz n m e
def flg2Code (w : Word) (ftz : Bool) : Code :=
  match unpack f32 ftz w.toNat with
  | .nan q => { bits := f32.nanCode, flags := if q then flagIV else 0 }
  | .inf n => if n then { bits := f32.nanCode, flags := flagIV } else { bits := f32.infCode }
  | .fin n m e =>
    if m = 0 then { bits := f32.signBit + f32.infCode, flags := flagDZ }
    else if n then { bits := f32.nanCode, flags := flagIV } else flg2Fin w ftz m e
def fsinCode (w : Word) (ftz : Bool) : Code :=
  match unpack f32 ftz w.toNat with
  | .nan q => { bits := f32.nanCode, flags := if q then flagIV else 0 }
  | .inf _ => { bits := f32.nanCode, flags := flagIV }
  | .fin n m e =>
    if m = 0 then { bits := if n then f32.signBit else 0 }
    else if scaled (-149) (.fin false m e) < 2 ^ 137 then
      { bits := w.toNat, flags := if decide (w.toNat % f32.signBit < 2 ^ 23) then flagUF ||| flagNX else flagNX }
    else
      let r := if n then -(sinSeries (reduced m e)) else sinSeries (reduced m e)
      inexactCode ftz (within (Config.fsin w ftz) r (r - refError) (r + refError) (2 ^ 138) (-160))
def fcosCode (w : Word) (ftz : Bool) : Code :=
  match unpack f32 ftz w.toNat with
  | .nan q => { bits := f32.nanCode, flags := if q then flagIV else 0 }
  | .inf _ => { bits := f32.nanCode, flags := flagIV }
  | .fin _ m e => if m = 0 then { bits := 0x3f800000 } else
    let r := cosSeries (reduced m e)
    inexactCode ftz (within (Config.fcos w ftz) r (r - refError) (min (r + refError) (unitP : Int)) (2 ^ 138) (-160))

end Sys2Proof.Machine
end

