-- ==== Sys2Proof/Machine/FloatAlu.lean ====
section
/-!
DEFINITION. The floating-point words of the V class, 0x30 to 0x55 (R99 to R115), with the conversion table (R80, R81), and the retired V-class words that
the firmware performs (R116, R117).
-/

namespace Sys2Proof.Machine

/-- What one member's floating-point operation delivers. -/
def laneOf (c : Code) : LaneRes := { val := BitVec.ofNat 64 c.bits, flags := c.flags }
/-- An operand as FTZ reads it: a subnormal becomes a zero of its sign (R78). -/
def ftzRead (f : Fmt) (ftz : Bool) (x : Nat) : Nat :=
  match unpack f ftz x with
  | .fin n 0 _ => if n then f.signBit else 0
  | _ => x

/-- A word whose result is one rounded exact value of format `f`; `k` also says whether B is read. -/
def fOp (s : State) (f : Fmt) (useB readsD w sb : Bool) (d a b : BitVec 7) (k : RMode → Fp → Fp → Fp → Res) : Out :=
  let wide := f.fbits == 52
  vOp s { wideD := wide, wideA := wide, wideB := wide, useB := useB, readsD := readsD } w sb d a b fun t x y z =>
    let ftz := flushes t
    let rm := rmOf t
    laneOf (finish f rm ftz (k rm (unpack f ftz x.toNat) (unpack f ftz y.toNat) (unpack f ftz z.toNat)))

/-- Two 16-bit elements side by side, with the flags of both (R70, R108). -/
def pack2 (c0 c1 : Code) : Code := { bits := c0.bits + 2 ^ 16 * c1.bits, flags := c0.flags ||| c1.flags }
/-- Element `i` of a packed pair (R70). -/
def half (x : Dword) (i : Nat) : Nat := x.toNat / 2 ^ (16 * i) % 2 ^ 16
/-- A packed word (R108). -/
def fOp2 (s : State) (f : Fmt) (readsD w sb : Bool) (d a b : BitVec 7) (k : RMode → Fp → Fp → Fp → Res) : Out :=
  vOp s { readsD := readsD } w sb d a b fun t x y z =>
    let ftz := flushes t
    let rm := rmOf t
    let el (i : Nat) : Code := finish f rm ftz (k rm (unpack f ftz (half x i)) (unpack f ftz (half y i)) (unpack f ftz (half z i)))
    laneOf (pack2 (el 0) (el 1))

/-- A word that delivers one f32 code of its operands without rounding by TSTAT.RM. -/
def fRaw (s : State) (useB w sb : Bool) (d a b : BitVec 7) (k : Bool → Nat → Nat → Code) : Out :=
  vOp s { useB := useB } w sb d a b fun t x y _ => laneOf (k (flushes t) (x.toNat % 2 ^ 32) (y.toNat % 2 ^ 32))

/-- Minimum and maximum (R102): `big` asks for the larger, `num` for the number where one operand is NaN. -/
def minMax (big num ftz : Bool) (a b : Nat) : Code :=
  let x := unpack f32 ftz a
  let y := unpack f32 ftz b
  let fl := sigFlag [x, y]
  if x.isNan && y.isNan then { bits := f32.nanCode, flags := fl }
  else if x.isNan then { bits := if num then ftzRead f32 ftz b else f32.nanCode, flags := fl }
  else if y.isNan then { bits := if num then ftzRead f32 ftz a else f32.nanCode, flags := fl }
  else
    let c := cmpFp x y
    let xLess := decide (c < 0) || (c == 0 && x.neg && !y.neg)
    { bits := if xLess != big then ftzRead f32 ftz a else ftzRead f32 ftz b }

/-- A compare (R103): signaling ones raise IV for any NaN. -/
def compareFp (f : Fmt) (signaling ftz : Bool) (a b : Nat) (holds : Int → Bool) (unordered : Bool) : Code :=
  let x := unpack f ftz a
  let y := unpack f ftz b
  let nan := x.isNan || y.isNan
  { bits := if (if nan then unordered else holds (cmpFp x y)) then 1 else 0
    flags := if nan && signaling then flagIV else sigFlag [x, y] }

/-- A change of the sign bit (R104). -/
def signOp (ftz : Bool) (a : Nat) (g : Nat → Nat) : Code :=
  let x := unpack f32 ftz a
  if x.isNan then { bits := f32.nanCode, flags := sigFlag [x] } else { bits := g (ftzRead f32 ftz a) }

/-- `fscale` (R111): a count beyond ±1000 gives what ±1000 gives. -/
def scaleRes (x : Fp) (k : Int) : Res :=
  match x with
  | .fin n m e => { val := .fin n m (if m = 0 then e else e + max (-1000) (min 1000 k)) }
  | x => { val := x, flags := sigFlag [x] }

/-- The mode that a rounding field names (R50). -/
def modeOf (r : BitVec 3) (tstat : Word) (q : Nat) : RMode :=
  match r.toNat with
  | 0 => .rne
  | 1 => .rtz
  | 2 => .rup
  | 3 => .rdn
  | 4 => .rna
  | 5 => .rsr q
  | _ => rmOf tstat

/-- `frnd` (R112). -/
def roundIntegral (rm : RMode) (ftz : Bool) (a : Nat) : Code :=
  let x := unpack f32 ftz a
  match x with
  | .nan q => { bits := f32.nanCode, flags := if q then flagIV else 0 }
  | .inf _ => { bits := a }
  | .fin n m e =>
    if m = 0 || 0 ≤ e then { bits := ftzRead f32 ftz a }
    else
      let r := roundTo rm n m e 0 false
      { bits := (round f32 .rne false (.fin n r.1 0)).bits, flags := if r.2 then flagNX else 0 }

/-- The class mask (R113). -/
def classOf (ftz : Bool) (a : Nat) : Code :=
  let x := unpack f32 ftz a
  let bit (i : Nat) : Code := { bits := 2 ^ i, flags := sigFlag [x] }
  match x with
  | .nan q => bit (if q then 8 else 9)
  | .inf n => bit (if n then 0 else 7)
  | .fin n m _ =>
    if m = 0 then bit (if n then 3 else 4)
    else if a % f32.signBit < 2 ^ 23 then bit (if n then 2 else 5)
    else bit (if n then 1 else 6)

/-! ### The conversion table (R80, R81) -/

/-- The type of an element of a conversion. -/
inductive NumTy where
  | flt (f : Fmt)
  | int (signed : Bool) (bits : Nat)
  deriving DecidableEq, Repr

def NumTy.bits : NumTy → Nat
  | .flt f => 1 + f.ebits + f.fbits
  | .int _ n => n

/-- An entry: element types, how many elements, whether it saturates, and whether rsr is permitted. -/
structure CvtEntry where
  src : NumTy
  dst : NumTy
  n : Nat := 1
  sat : Bool := false
  rsr : Bool := false
  deriving DecidableEq, Repr

/-- The table of R80 by index. -/
def cvtEntry : Nat → Option CvtEntry
  | 0 => some { src := .flt f32, dst := .flt f16, rsr := true }
  | 1 => some { src := .flt f32, dst := .flt bf16, rsr := true }
  | 2 => some { src := .flt f16, dst := .flt f32 }
  | 3 => some { src := .flt bf16, dst := .flt f32 }
  | 4 => some { src := .flt f32, dst := .flt f64 }
  | 5 => some { src := .flt f64, dst := .flt f32 }
  | 6 => some { src := .flt f32, dst := .int true 32 }
  | 7 => some { src := .flt f32, dst := .int false 32 }
  | 8 => some { src := .int true 32, dst := .flt f32 }
  | 9 => some { src := .int false 32, dst := .flt f32 }
  | 10 => some { src := .flt f64, dst := .int true 64 }
  | 11 => some { src := .int true 64, dst := .flt f64 }
  | 12 => some { src := .flt f32, dst := .flt e4m3, sat := true, rsr := true }
  | 13 => some { src := .flt f32, dst := .flt e4m3, rsr := true }
  | 14 => some { src := .flt f32, dst := .flt e5m2, sat := true, rsr := true }
  | 15 => some { src := .flt f32, dst := .flt e5m2, rsr := true }
  | 16 => some { src := .flt e4m3, dst := .flt f32 }
  | 17 => some { src := .flt e5m2, dst := .flt f32 }
  | 18 => some { src := .flt f32, dst := .flt f16, n := 2, rsr := true }
  | 19 => some { src := .flt f32, dst := .flt bf16, n := 2, rsr := true }
  | 20 => some { src := .flt f16, dst := .flt f32, n := 2 }
  | 21 => some { src := .flt bf16, dst := .flt f32, n := 2 }
  | 22 => some { src := .flt e4m3, dst := .flt bf16, n := 4 }
  | 23 => some { src := .flt e5m2, dst := .flt bf16, n := 4 }
  | 24 => some { src := .flt bf16, dst := .flt e4m3, n := 4, sat := true }
  | 25 => some { src := .flt bf16, dst := .flt e5m2, n := 4, sat := true }
  | 26 => some { src := .flt f64, dst := .int true 32 }
  | 27 => some { src := .int true 32, dst := .flt f64 }
  | _ => none

/-- Whether an entry permits a rounding code: codes 0 to 4 and 6 always, 5 only where the entry names rsr, 7 never (R80). -/
def CvtEntry.permits (e : CvtEntry) (r : BitVec 3) : Bool := r != 7 && (r != 5 || e.rsr)

/-- An integer result: rounded in the mode, clamped with IV, and 0 with IV for NaN (R81). -/
def toInteger (rm : RMode) (signed : Bool) (bits : Nat) (x : Fp) : Code :=
  let lo : Int := if signed then -(2 ^ (bits - 1)) else 0
  let hi : Int := if signed then 2 ^ (bits - 1) - 1 else 2 ^ bits - 1
  let enc (v : Int) : Nat := (v % 2 ^ bits).toNat
  match x with
  | .nan _ => { bits := 0, flags := flagIV }
  | .inf n => { bits := enc (if n then lo else hi), flags := flagIV }
  | .fin n m e =>
    let r := roundTo rm n m e 0 false
    let v : Int := if n then -(r.1 : Int) else r.1
    if v < lo then { bits := enc lo, flags := flagIV }
    else if hi < v then { bits := enc hi, flags := flagIV }
    else { bits := enc v, flags := if r.2 then flagNX else 0 }

/-- One element of a conversion (R80, R81). -/
def convert (e : CvtEntry) (rm : RMode) (ftz : Bool) (x : Nat) : Code :=
  let v : Fp := match e.src with
    | .flt f => unpack f ftz x
    | .int true n => let i := if 2 ^ (n - 1) ≤ x then (x : Int) - 2 ^ n else x; .fin (decide (i < 0)) i.natAbs 0
    | .int false _ => .fin false x 0
  match e.dst with
  | .flt f => let c := round f rm ftz v e.sat; { c with flags := c.flags ||| sigFlag [v] }
  | .int sg n => toInteger rm sg n v

/-- A whole conversion: element i of the source becomes element i of the result; under rsr element i takes the i-th half of the draw (R77, R80). -/
def convertAll (e : CvtEntry) (r : BitVec 3) (tstat : Word) (draw : Word) (x : Nat) : Code :=
  (List.range e.n).foldl (fun (acc : Code) i =>
    let c := convert e (modeOf r tstat (draw.toNat / 2 ^ (16 * i) % 2 ^ 16)) (flushes tstat) (x / 2 ^ (e.src.bits * i) % 2 ^ e.src.bits)
    { bits := acc.bits + c.bits * 2 ^ (e.dst.bits * i), flags := acc.flags ||| c.flags }) { bits := 0 }

/-- The widths that an entry gives a `cvt`; an index outside the table gives single registers. -/
def cvtShape (i : Nat) : Shape :=
  match cvtEntry i with
  | none => { useB := false }
  | some e => { useB := false, wideD := e.n * e.dst.bits == 64, wideA := e.n * e.src.bits == 64 }

/-- `cvt` (R114): under rsr every thread takes its draw, and the index moves once for the group (R77). A stale latch source in CHECK mode raises LSTALE before the draw is
taken, so that RNGSAT stays as it was (DESIGN CHOICE, log 55). -/
def execCvt (w : Bool) (d a : BitVec 7) (r : BitVec 3) (i : BitVec 5) (s : State) : Out :=
  let sh := cvtShape i.toNat
  withGroup s fun x => checked s x (vChecks s x sh w false d.toNat a.toNat 0) <|
    match cvtEntry i.toNat with
    | none => .next (ill s x 8)
    | some e =>
      if !(e.permits r) then .next (ill s x 8)
      else
        let u := x.sub s
        let perform (s : State) := vPerform s x sh w false d.toNat a.toNat 0 fun l t v _ _ => laneOf (convertAll e r t (rngWord u l) v.toNat)
        if r = 5 then
          let stale := maskOf (x.lanes.filter fun l => (operands s x sh false d.toNat a.toNat 0 l).2)
          if staleTraps s x stale then .next (perform s)
          else .next (drawing s x (perform (s.modSub x.sg drawDone)))
        else .next (perform s)

/-- `frnd.f32` (R112). -/
def execFrndF32 (w : Bool) (d a : BitVec 7) (r : BitVec 3) (s : State) : Out :=
  withGroup s fun x => checked s x (vChecks s x { useB := false } w false d.toNat a.toNat 0 ++ [(r == 5 || r == 7, 8)])
    (.next (vPerform s x { useB := false } w false d.toNat a.toNat 0 fun _ t v _ _ =>
      laneOf (roundIntegral (modeOf r t 0) (flushes t) (v.toNat % 2 ^ 32))))

/-- `fdot2.bf16` (R109). -/
def execFdot2Bf16 (w sb : Bool) (d a b : BitVec 7) (s : State) : Out :=
  vOp s { readsD := true } w sb d a b fun t x y z =>
    let ftz := flushes t
    let rm := rmOf t
    let el (v : Dword) (i : Nat) : Fp := unpack bf16 ftz (half v i)
    laneOf (finish f32 rm ftz (dotRes rm (el x 0) (el y 0) (el x 1) (el y 1) (unpack f32 ftz z.toNat)))

/-- `fadd.f32` (R100). -/
def execFaddF32 (w sb : Bool) (d a b : BitVec 7) (s : State) : Out := fOp s f32 true false w sb d a b fun rm x y _ => addRes rm x y
/-- `fsub.f32` (R100). -/
def execFsubF32 (w sb : Bool) (d a b : BitVec 7) (s : State) : Out := fOp s f32 true false w sb d a b fun rm x y _ => addRes rm x y.negate
/-- `fmul.f32` (R100). -/
def execFmulF32 (w sb : Bool) (d a b : BitVec 7) (s : State) : Out := fOp s f32 true false w sb d a b fun _ x y _ => mulRes x y
/-- `ffma.f32` (R100). -/
def execFfmaF32 (w sb : Bool) (d a b : BitVec 7) (s : State) : Out := fOp s f32 true true w sb d a b fun rm x y z => fmaRes rm x y z
/-- `fdiv.f32` (R100). -/
def execFdivF32 (w sb : Bool) (d a b : BitVec 7) (s : State) : Out := fOp s f32 true false w sb d a b fun _ x y _ => divRes x y
/-- `fmin.f32` (R102). -/
def execFminF32 (w sb : Bool) (d a b : BitVec 7) (s : State) : Out := fRaw s true w sb d a b (minMax false false)
/-- `fmax.f32` (R102). -/
def execFmaxF32 (w sb : Bool) (d a b : BitVec 7) (s : State) : Out := fRaw s true w sb d a b (minMax true false)
/-- `fminnm.f32` (R102). -/
def execFminnmF32 (w sb : Bool) (d a b : BitVec 7) (s : State) : Out := fRaw s true w sb d a b (minMax false true)
/-- `fmaxnm.f32` (R102). -/
def execFmaxnmF32 (w sb : Bool) (d a b : BitVec 7) (s : State) : Out := fRaw s true w sb d a b (minMax true true)
/-- `fseq.f32` (R103). -/
def execFseqF32 (w sb : Bool) (d a b : BitVec 7) (s : State) : Out := fRaw s true w sb d a b fun z x y => compareFp f32 false z x y (fun c => c == 0) false
/-- `fslt.f32` (R103). -/
def execFsltF32 (w sb : Bool) (d a b : BitVec 7) (s : State) : Out := fRaw s true w sb d a b fun z x y => compareFp f32 true z x y (fun c => decide (c < 0)) false
/-- `fsle.f32` (R103). -/
def execFsleF32 (w sb : Bool) (d a b : BitVec 7) (s : State) : Out := fRaw s true w sb d a b fun z x y => compareFp f32 true z x y (fun c => decide (c ≤ 0)) false
/-- `fsun.f32` (R103). -/
def execFsunF32 (w sb : Bool) (d a b : BitVec 7) (s : State) : Out := fRaw s true w sb d a b fun z x y => compareFp f32 false z x y (fun _ => false) true
/-- `fneg.f32` (R104). -/
def execFnegF32 (w : Bool) (d a : BitVec 7) (s : State) : Out := fRaw s false w false d a 0 fun z x _ => signOp z x fun v => v ^^^ f32.signBit
/-- `fabs.f32` (R104). -/
def execFabsF32 (w : Bool) (d a : BitVec 7) (s : State) : Out := fRaw s false w false d a 0 fun z x _ => signOp z x fun v => v % f32.signBit
/-- `frcp.f32` (R105). -/
def execFrcpF32 (w : Bool) (d a : BitVec 7) (s : State) : Out := fOp s f32 false false w false d a 0 fun _ x _ _ => rcpRes x
/-- `frsq.f32` (R105). -/
def execFrsqF32 (w : Bool) (d a : BitVec 7) (s : State) : Out := fOp s f32 false false w false d a 0 fun _ x _ _ => rsqRes x
/-- `fsqrt.f32` (R100). -/
def execFsqrtF32 (w : Bool) (d a : BitVec 7) (s : State) : Out := fOp s f32 false false w false d a 0 fun _ x _ _ => sqrtRes x
/-- `fex2.f32` (R106, R107). -/
def execFex2F32 (w : Bool) (d a : BitVec 7) (s : State) : Out := fRaw s false w false d a 0 fun z x _ => fex2Code (BitVec.ofNat 32 x) z
/-- `flg2.f32` (R106, R107). -/
def execFlg2F32 (w : Bool) (d a : BitVec 7) (s : State) : Out := fRaw s false w false d a 0 fun z x _ => flg2Code (BitVec.ofNat 32 x) z
/-- `fsin.f32` (R106, R107). -/
def execFsinF32 (w : Bool) (d a : BitVec 7) (s : State) : Out := fRaw s false w false d a 0 fun z x _ => fsinCode (BitVec.ofNat 32 x) z
/-- `fcos.f32` (R106, R107). -/
def execFcosF32 (w : Bool) (d a : BitVec 7) (s : State) : Out := fRaw s false w false d a 0 fun z x _ => fcosCode (BitVec.ofNat 32 x) z
/-- `hadd2.f16` (R108). -/
def execHadd2F16 (w sb : Bool) (d a b : BitVec 7) (s : State) : Out := fOp2 s f16 false w sb d a b fun rm x y _ => addRes rm x y
/-- `hmul2.f16` (R108). -/
def execHmul2F16 (w sb : Bool) (d a b : BitVec 7) (s : State) : Out := fOp2 s f16 false w sb d a b fun _ x y _ => mulRes x y
/-- `hfma2.f16` (R108). -/
def execHfma2F16 (w sb : Bool) (d a b : BitVec 7) (s : State) : Out := fOp2 s f16 true w sb d a b fun rm x y z => fmaRes rm x y z
/-- `badd2.bf16` (R108). -/
def execBadd2Bf16 (w sb : Bool) (d a b : BitVec 7) (s : State) : Out := fOp2 s bf16 false w sb d a b fun rm x y _ => addRes rm x y
/-- `bmul2.bf16` (R108). -/
def execBmul2Bf16 (w sb : Bool) (d a b : BitVec 7) (s : State) : Out := fOp2 s bf16 false w sb d a b fun _ x y _ => mulRes x y
/-- `bfma2.bf16` (R108). -/
def execBfma2Bf16 (w sb : Bool) (d a b : BitVec 7) (s : State) : Out := fOp2 s bf16 true w sb d a b fun rm x y z => fmaRes rm x y z
/-- `dadd.f64` (R110). -/
def execDaddF64 (w sb : Bool) (d a b : BitVec 7) (s : State) : Out := fOp s f64 true false w sb d a b fun rm x y _ => addRes rm x y
/-- `dmul.f64` (R110). -/
def execDmulF64 (w sb : Bool) (d a b : BitVec 7) (s : State) : Out := fOp s f64 true false w sb d a b fun _ x y _ => mulRes x y
/-- `dfma.f64` (R110). -/
def execDfmaF64 (w sb : Bool) (d a b : BitVec 7) (s : State) : Out := fOp s f64 true true w sb d a b fun rm x y z => fmaRes rm x y z
/-- `dslt.f64` (R103). -/
def execDsltF64 (w sb : Bool) (d a b : BitVec 7) (s : State) : Out := 
  vOp s { wideA := true, wideB := true } w sb d a b fun _ x y _ => laneOf (compareFp f64 true false x.toNat y.toNat (fun c => decide (c < 0)) false)
/-- `dseq.f64` (R103). -/
def execDseqF64 (w sb : Bool) (d a b : BitVec 7) (s : State) : Out := 
  vOp s { wideA := true, wideB := true } w sb d a b fun _ x y _ => laneOf (compareFp f64 false false x.toNat y.toNat (fun c => c == 0) false)
/-- `fscale.f32` (R111). -/
def execFscaleF32 (w sb : Bool) (d a b : BitVec 7) (s : State) : Out := 
  vOp s {} w sb d a b fun t x y _ =>
    laneOf (finish f32 (rmOf t) (flushes t) (scaleRes (unpack f32 (flushes t) x.toNat) (loOf y).toInt))
/-- `fclass.f32` (R113). -/
def execFclassF32 (w : Bool) (d a : BitVec 7) (s : State) : Out := fRaw s false w false d a 0 fun z x _ => classOf z x

/-! ### Retired words (R116, R117) -/

/-- The effect of a retired V-class word, which the firmware performs: it writes vD of each thread, raises no flag (R79) and leaves the ring as it is.
`source` is the member whose A thread `l` reads, which B can name. Right after an `xsel`, A is read from the
member that the `xsel` selects (DESIGN CHOICE, log 11). -/
def retiredV (s : State) (readsD useB sb : Bool) (d a b : BitVec 7) (source : Nat → Word → Nat) (f : Cx → Nat → Word → Word → Word → Word) : Out :=
  withGroup s fun x => checked s x [(useB && sbBad sb b.toNat, 5), (!useB && sb, 5), (!(dstOk s x d.toNat 1), 7), (!(srcOk s x a.toNat false), 7),
      (useB && !(bOk s x sb b.toNat false), 7)] <|
    let ops := x.lanes.map fun l =>
      let vb := if useB then readB s x sb l b.toNat false else (0, false)
      let va := readA s x (source l (loOf vb.1)) a.toNat false
      let vd := if readsD then (readSrc s x l d.toNat false).1 else 0
      (l, va, vb, vd)
    let stale := maskOf ((ops.filter fun p => p.2.1.2 || p.2.2.1.2).map Prod.fst)
    if staleTraps s x stale then .next (raise s x (trapOf s x x.mask 7 0)) else
    let u := x.sub s
    let u' := ops.foldl (fun v p => v.modThread p.1 fun t =>
      { t with tstat := setStale t.tstat (p.2.1.2 || p.2.2.1.2) }.setReg (u.wbase.toNat + d.toNat)
        (f x p.1 (loOf p.2.1.1) (loOf p.2.2.1.1) (loOf p.2.2.2))) u
    .next (advance (s.setSub x.sg u') x x.lanes)

/-- `mad24.i32` (R117). -/
def execMad24I32 (sb : Bool) (d a b : BitVec 7) (s : State) : Out :=
  retiredV s true true sb d a b (fun l _ => l) fun _ _ p q r => (p.setWidth 24).signExtend 32 * (q.setWidth 24).signExtend 32 + r
/-- `fmul.lg` (R117): a zero operand, as FTZ reads it, gives +0. -/
def execFmulLg (sb : Bool) (d a b : BitVec 7) (s : State) : Out :=
  retiredV s false true sb d a b (fun l _ => l) fun _ _ p q _ =>
    let x := unpack f32 true p.toNat
    let y := unpack f32 true q.toNat
    if x.isZero || y.isZero then 0 else BitVec.ofNat 32 (finish f32 .rne true (mulRes x y)).bits
/-- The first member of the half of the subgroup that member `l` is in (R117). -/
def halfBase (l : Nat) : Nat := l / 32 * 32
/-- `vote32.ballot` (R117). -/
def execVote32Ballot (sb : Bool) (d a : BitVec 7) (s : State) : Out :=
  retiredV s false false sb d a 0 (fun l _ => l) fun x l _ _ _ =>
    (List.range 32).foldl (fun (m : Word) i =>
      if x.mask.getLsbD (halfBase l + i) && (readA s x (halfBase l + i) a.toNat false).1 != 0 then m ||| (1#32 <<< i) else m) 0
/-- `shfl32` (R117). -/
def execShfl32 (sb : Bool) (d a b : BitVec 7) (s : State) : Out :=
  retiredV s false true sb d a b (fun l q => halfBase l + q.toNat % 32) fun _ _ p _ _ => p

end Sys2Proof.Machine
end

