-- ==== Sys2Proof/Machine/MemAcc.lean ====
section
/-!
DEFINITION. Memory accesses of threads: loads, stores, acquire loads, release stores, multicast stores, atomics, `poll` (R138 to R150, R154, R155) and
the scalar accesses (R94, R95).
-/

namespace Sys2Proof.Machine

/-- One thread's access: its member, its address, and what the checks of R154 say of it. -/
structure LaneAcc where
  lane : Nat
  addr : Dword
  at_ : Except MemFault (List Spot)

/-- Checks 1 to 5 of R154 for the access of each member, in member order. -/
def locateEach (s : State) (P : Party) (sp : BitVec 2) (n : Nat) (natural : Bool) (need : Need) : List (Nat × Dword) → State × List LaneAcc
  | [] => (s, [])
  | (l, a) :: as =>
    let r := locate s P sp a n natural need
    let rest := locateEach r.1 P sp n natural need as
    (rest.1, ⟨l, a, r.2⟩ :: rest.2)

/-- The accesses that passed, and the faults of those that did not. -/
def passed (ls : List LaneAcc) : List (Nat × Dword × List Spot) :=
  ls.filterMap fun p => match p.at_ with
    | .ok xs => some (p.lane, p.addr, xs)
    | .error _ => none
def failed (ls : List LaneAcc) : List (Nat × MemFault) :=
  ls.filterMap fun p => match p.at_ with
    | .ok _ => none
    | .error e => some (p.lane, e)

/-- A check applied to the accesses that passed those before it. -/
def checkEach (f : Dword → List Spot → Option MemFault) (ls : List LaneAcc) : List LaneAcc :=
  ls.map fun p => match p.at_ with
    | .error _ => p
    | .ok xs => match f p.addr xs with
      | some e => { p with at_ := .error e }
      | none => p
/-- Check 6 of R154 applied to accesses that passed the others. -/
def checkData (s : State) (covered : List Spot → List Spot) (ls : List LaneAcc) : List LaneAcc :=
  checkEach (fun a xs => correctable s a xs (covered xs)) ls

/-- Members `ok` complete the word, the others raise their faults (R155). -/
def finishAcc (s : State) (x : Cx) (ok : List Nat) (faults : List (Nat × MemFault)) : State :=
  let ts := faultTraps s x 64 faults
  switchPoint (raiseAll (advance s x ok) x ts) x

/-- The effective addresses of a MEM word (R138). -/
def memAddrs (vs : List (Nat × Dword)) (off : Int) : List (Nat × Dword) := vs.map fun p => (p.1, p.2 + BitVec.ofInt 64 off)

/-- What a load of `n` bytes writes: one register for up to four bytes, extended; a pair for eight; four registers for sixteen (R140). -/
def loadedWords (n : Nat) (signed : Bool) (bs : List Byte) : List Word :=
  if n = 1 then [if signed then ((ofBytes bs).setWidth 8).signExtend 32 else (ofBytes bs).setWidth 32]
  else if n = 2 then [if signed then ((ofBytes bs).setWidth 16).signExtend 32 else (ofBytes bs).setWidth 32]
  else (List.range (n / 4)).map fun i => (ofBytes ((bs.drop (4 * i)).take 4)).setWidth 32
/-- Registers from `r` on written in order. -/
def Thread.setRegs (t : Thread) (r : Nat) : List Word → Thread
  | [] => t
  | w :: ws => (t.setReg r w).setRegs (r + 1) ws
/-- The registers that an access of `n` bytes takes. -/
def regCount (n : Nat) : Nat := if n ≤ 4 then 1 else n / 4

/-- The results of loads written to the registers of their threads. -/
def writeLoads (s : State) (x : Cx) (d : Nat) (vs : List (Nat × List Word)) : State :=
  let r := (x.sub s).wbase.toNat + d
  s.modSub x.sg fun u => vs.foldl (fun u p => u.modThread p.1 fun t => t.setRegs r p.2) u

/-- A load whose data is on its way: its arrival is an event (R141). -/
def loadIssued (s : State) (x : Cx) : State := (s.modSub x.sg fun u => { u with inflight := u.inflight + 1 }).post [.loadDataArrival x.sg]

/-- The first access of some that another package does not answer now: its address and the package (R393). -/
def unanswered (s : State) (ls : List LaneAcc) : Option (Dword × Nat) :=
  (passed ls).findSome? fun p => (p.2.2.zipIdx.find? fun y => !(spotAnswers s y.1)).map fun y =>
    (p.2.1 + BitVec.ofNat 64 y.2, match y.1 with
      | .glob x => pkgOf x.loc
      | .scr _ _ => 0)
/-- A load or a `poll` read of a thread that a package did not answer within 10 ms takes LINKDOWN at its word (R393). -/
def lateAt (s : State) (x : Cx) (l : Nat) (a : Dword) (r : Except MemFault (List Spot)) : Except MemFault (List Spot) :=
  match ((x.sub s).thread l).wait, r with
  | .late pkg, .ok xs => match xs.zipIdx.find? fun y => match y.1 with
      | .glob q => isRemote q.loc && pkgOf q.loc == pkg
      | .scr _ _ => false with
    | some y => .error (linkdown (a + BitVec.ofNat 64 y.2))
    | none => r
  | _, _ => r
def lateEach (s : State) (x : Cx) (ls : List LaneAcc) : List LaneAcc := ls.map fun p => { p with at_ := lateAt s x p.lane p.addr p.at_ }
/-- The group waits at its word for an answer of another package, from the moment at which it first did (R393). -/
def awaitAnswer (s : State) (x : Cx) (store : Bool) (a : Dword × Nat) : State :=
  let since := match ((x.sub s).thread (lowest x.mask)).wait with
    | .answer _ _ _ t => t
    | _ => s.etime
  blockAt s x x.lanes (.answer store a.2 a.1 since)
/-- Accesses that need an answer of their home: where another package gives none now, the group waits for it (R393). -/
def answered (s : State) (x : Cx) (store : Bool) (ls : List LaneAcc) (k : Out) : Out :=
  match unanswered s ls with
  | some a => .next (awaitAnswer s x store a)
  | none => k

/-- A load of `n` bytes (R138 to R142, R154, R155, R393). -/
def loadOp (s : State) (d a : BitVec 7) (sp : BitVec 2) (f : BitVec 6) (n : Nat) (signed : Bool) : Out :=
  withWord s fun x => checked s x [(!(dstOk s x d.toNat (regCount n)), 7), (!(srcOk s x a.toNat true), 7)] <|
    let as := readAll s x a.toNat true
    withStale s x as.2 fun s =>
      let r := locateEach s (x.party s) sp n false .load (memAddrs as.1 (f.toInt * n))
      let ls := lateEach r.1 x (checkData r.1 (fun _ => []) r.2)
      let vs := (passed ls).map fun p => (p.1, loadedWords n signed (p.2.2.map (readSpot r.1 x.core)))
      answered r.1 x false ls <|
      let s := writeLoads r.1 x d.toNat vs
      .next (finishAcc (if vs.isEmpty then s else loadIssued s x) x (vs.map Prod.fst) (failed ls))

/-- The data of a store of `n` bytes: of a register, a pair or four registers, or of a latch or fixed value (R140, R141). -/
def storeData (s : State) (x : Cx) (l d n : Nat) : List Byte × Bool :=
  if n ≤ 8 then
    let v := readSrc s x l d (n == 8)
    (bytesOf n v.1, v.2)
  else if d = 120 then (List.replicate n 0, false)
  else
    let t := (x.sub s).thread l
    let r := (x.sub s).wbase.toNat + d
    (bytesOf 8 (t.pair r) ++ bytesOf 8 (t.pair (r + 2)), false)
/-- The D field of a store (R41, R43, R141). -/
def storeOk (s : State) (x : Cx) (d n : Nat) : Bool := if n = 16 then quadSrcOk s x d else srcOk s x d (n == 8)
/-- The data of every member, and the members whose data was a stale latch. -/
def storeDatas (s : State) (x : Cx) (d n : Nat) : List (Nat × List Byte) × Dword :=
  let vs := x.lanes.map fun l => (l, storeData s x l d n)
  (vs.map fun p => (p.1, p.2.1), maskOf ((vs.filter fun p => p.2.2).map Prod.fst))
def dataOf (ds : List (Nat × List Byte)) (l : Nat) : List Byte := match ds.find? fun p => p.1 == l with
  | some p => p.2
  | none => []

/-- The 128-byte line of global memory or of a scratchpad in which an aligned access of `n` bytes lies, by its first byte (R143). -/
def eventLine (n : Nat) : List Spot → Option Spot
  | .glob x :: _ => if x.loc % n = 0 then some (.glob ⟨x.loc / 128 * 128, 0⟩) else none
  | .scr w off :: _ => if off % n = 0 then some (.scr w (off / 128 * 128)) else none
  | [] => none
/-- Whether the accesses of an instruction are one indivisible event: all aligned, all in one 128-byte line (R143). -/
def oneEvent (n : Nat) (ls : List (Nat × Dword × List Spot)) : Bool :=
  match ls with
  | [] => true
  | p :: _ => (eventLine n p.2.2).isSome && ls.all fun q => eventLine n q.2.2 == eventLine n p.2.2

/-- The stores of the members that passed, the higher member's byte last (R143); an ECC unit that the event rewrites in full is whole again (R8). -/
def storeEach (s : State) (c n : Nat) (ds : List (Nat × List Byte)) (ls : List (Nat × Dword × List Spot)) : State :=
  let s' := ls.foldl (fun s p => writeSpots s c p.2.2 (dataOf ds p.1)) s
  if oneEvent n ls then heal s' (ls.flatMap fun p => p.2.2) else ls.foldl (fun s p => heal s p.2.2) s'

/-- The stores of one event that pass check 6, which are those of the threads that remain: what a thread excluded by a fault would have rewritten is not rewritten
(R143, R154, R155). -/
def survivors (s : State) : Nat → List (Nat × Dword × List Spot) → List (Nat × Dword × List Spot)
  | 0, ps => ps
  | n + 1, ps =>
    let all := ps.flatMap fun p => p.2.2
    let qs := ps.filter fun p => (correctable s p.2.1 p.2.2 all).isNone
    if qs.length = ps.length then ps else survivors s n qs
/-- The event that the stores of an instruction make: the line in which all of them lie but those that fail on their own, and the bytes that it rewrites (R143). Of two
lines of which either could be it, that of the lowest member is (DESIGN CHOICE, log 48). -/
def eventOf (s : State) (n : Nat) (ps : List (Nat × Dword × List Spot)) : Option (Spot × List Spot) :=
  ((ps.filterMap fun p => eventLine n p.2.2).eraseDups.filter fun y =>
    ps.all fun q => eventLine n q.2.2 == some y || (correctable s q.2.1 q.2.2 q.2.2).isSome).findSome? fun y =>
      let qs := survivors s ps.length (ps.filter fun q => eventLine n q.2.2 == some y)
      if qs = [] then none else some (y, qs.flatMap fun q => q.2.2)
/-- Check 6 for stores: a store that rewrites the whole faulting unit passes, alone or with the others of its event (R143, R154). -/
def checkStores (s : State) (n : Nat) (ls : List LaneAcc) : List LaneAcc :=
  match eventOf s n (passed ls) with
  | some (y, all) => checkData s (fun xs => if eventLine n xs = some y then all else xs) ls
  | none => checkData s id ls

/-- A plain store of `n` bytes (R138 to R143, R154, R155). -/
def storeOp (s : State) (d a : BitVec 7) (sp : BitVec 2) (f : BitVec 6) (n : Nat) : Out :=
  withWord s fun x => checked s x [(!(storeOk s x d.toNat n), 7), (!(srcOk s x a.toNat true), 7)] <|
    let as := readAll s x a.toNat true
    let ds := storeDatas s x d.toNat n
    withStale s x (as.2 ||| ds.2) fun s =>
      let r := locateEach s (x.party s) sp n false .store (memAddrs as.1 (f.toInt * n))
      let ls := checkStores r.1 n r.2
      let ok := passed ls
      .next (finishAcc (storeEach r.1 x.core n ds.1 ok) x (ok.map Prod.fst) (failed ls))

/-- The four replicas that a multicast store names on a REP page; elsewhere the byte itself (R145, R183). -/
def replicas (s : State) (c : Nat) (y : Spot) : List Spot :=
  match y with
  | .scr _ _ => [y]
  | .glob q => if pteRep q.leaf then (List.range 4).map fun d => .glob { q with loc := q.loc - s.dieOfCore c * s.region + d * s.region } else [y]

/-- Check 6 of R154 for a multicast store: the lowest byte of which some replica cannot be stored to. -/
def multicastError (s : State) (c : Nat) (a : Dword) (xs : List Spot) : Option MemFault :=
  let all := xs.flatMap (replicas s c)
  (xs.zipIdx.find? fun p => (correctable s a (replicas s c p.1) all).isSome).map fun p => memerr 1 (a + BitVec.ofNat 64 p.2)

/-- The bytes of a multicast store, replica by replica: each goes to every replica of its place (R142, R145). -/
def multicast (s : State) (c : Nat) (xs : List Spot) (bs : List Byte) : List (Spot × Byte) :=
  (List.range 4).flatMap fun d => (xs.zip bs).filterMap fun p => (replicas s c p.1)[d]?.map (·, p.2)

/-- `st.mc.b64` (R145). -/
def execStMcB64 (d a : BitVec 7) (p : BitVec 2) (f : BitVec 6) (s : State) : Out :=
  withWord s fun x => checked s x [(!(storeOk s x d.toNat 8), 7), (!(srcOk s x a.toNat true), 7)] <|
    let as := readAll s x a.toNat true
    let ds := storeDatas s x d.toNat 8
    withStale s x (as.2 ||| ds.2) fun s =>
      let r := locateEach s (x.party s) p 8 true .store (memAddrs as.1 (f.toInt * 8))
      let ls := checkEach (multicastError r.1 x.core) r.2
      let ok := (passed ls).map Prod.fst
      let s' := (passed r.2).foldl (fun s q =>
        if ok.contains q.1 then
          let L := multicast r.1 x.core q.2.2 (dataOf ds.1 q.1)
          heal (writeParts s x.core 8 (L.map Prod.fst) (L.map Prod.snd)) (L.map Prod.fst)
        else s) r.1
      .next (finishAcc s' x ok (failed ls))

/-! ### Ordered accesses -/

/-- What a release of the group's subgroup publishes to the subgroup itself, at sg (R175, R178). -/
def ownRelease (s : State) (x : Cx) (S : Nat) : State :=
  if S = 0 then s.modSub x.sg fun u => { u with image := u.image.merge (s.core x.core).view } else s

/-- A release at scope `S` performed by the group before the rest of its word: it waits while a relock or another
package holds it (R325, R393), and a writeback that faults is precise at the word (R152, R178). Of a release store or a release atomic the checks of the accesses come
first; with no access that passes there is no release; and the fault of the release is raised by every member of the group (DESIGN CHOICE, log 48). -/
def withRelease (s : State) (x : Cx) (S : Nat) (k : State → State) : State :=
  if relocked s x.core S then blockAt s x x.lanes (.release S) else
  match release s (x.party s) S with
  | (s, some e) => raise s x { trapOf s x x.mask e.cause e.detail with addr := e.addr }
  | (s, none) => k (ownRelease s x S)

/-- A byte as last published to scope `S`, for a thread of subgroup `g` of workgroup `w` on core `c` (R144, R150). -/
def readPublished (s : State) (c w g S : Nat) : Spot → Byte
  | .glob q => s.imageByte (s.publishedImage c w g S q.loc) q.loc
  | .scr w off => Mem.read (s.wg w).mem off
/-- The view of a core moves to the store that a `poll` or an acquire load read, if it is later (R177). -/
def moveView (s : State) (c w g S : Nat) (xs : List Spot) : State :=
  xs.foldl (fun s y => match y with
    | .glob q =>
      let m := s.publishedImage c w g S q.loc
      let v := (s.core c).view
      (s.modCore c fun k => { k with view := m.take v q.loc }).ordered q.loc (v.stampAt q.loc) ((m.take v q.loc).stampAt q.loc)
    | .scr _ _ => s) s

/-- `ld.acq` (R144): the latest published value, then an acquire. -/
def loadAcq (s : State) (d a : BitVec 7) (c : BitVec 3) (sp : BitVec 2) (n : Nat) : Out :=
  withWord s fun x => checked s x [(!(dstOk s x d.toNat (regCount n)), 7), (!(srcOk s x a.toNat true), 7), (c == 7, 8)] <|
    let as := readAll s x a.toNat true
    withStale s x as.2 fun s =>
      let r := locateEach s (x.party s) sp n true .load as.1
      let ls := lateEach r.1 x (checkData r.1 (fun _ => []) r.2)
      let ok := passed ls
      let vs := ok.map fun p => (p.1, loadedWords n false (p.2.2.map (readPublished r.1 x.core (x.wg s) x.sg c.toNat)))
      answered r.1 x false ls <|
      let s := writeLoads (moveView r.1 x.core (x.wg s) x.sg c.toNat (ok.flatMap fun p => p.2.2)) x d.toNat vs
      .next (finishAcc (if vs.isEmpty then s else loadIssued (acquire s (x.party s) c.toNat) x) x (vs.map Prod.fst) (failed ls))

/-- Four-byte release stores at co scope or wider: one that writes NOTIFY of a needle ring publishes entries of that ring (R237). -/
def notifyEach (s : State) (x : Cx) (ds : List (Nat × List Byte)) (ls : List (Nat × Dword × List Spot)) : State :=
  ls.foldl (fun s p =>
    let s' := storeEach s x.core 4 ds [p]
    match p.2.2 with
    | .scr w off :: _ => if ringOf s w = some off then publishNotify s' w x.sg [p.1] (scrRead s w off 4) else s'
    | _ => s') (if ls.isEmpty then s else heal s (if oneEvent 4 ls then ls.flatMap fun p => p.2.2 else []))

/-- `st.rel` (R144): a release, then the store, published at the scope. -/
def storeRel (s : State) (d a : BitVec 7) (c : BitVec 3) (sp : BitVec 2) (n : Nat) : Out :=
  withWord s fun x => checked s x [(!(storeOk s x d.toNat n), 7), (!(srcOk s x a.toNat true), 7), (c == 7, 8)] <|
    let as := readAll s x a.toNat true
    let ds := storeDatas s x d.toNat n
    withStale s x (as.2 ||| ds.2) fun s =>
      let r := locateEach s (x.party s) sp n true .store as.1
      let ls := checkStores r.1 n r.2
      let ok := passed ls
      if ok.isEmpty then .next (finishAcc r.1 x [] (failed ls))
      else .next (withRelease r.1 x c.toNat fun s =>
        let s := if n = 4 && decide (2 ≤ c.toNat) then notifyEach s x ds.1 ok else storeEach s x.core n ds.1 ok
        finishAcc (ownRelease (s.publish x.core (x.wg s) c.toNat) x c.toNat) x (ok.map Prod.fst) (failed ls))

/-! ### Atomics -/

/-- The operands of an atomic: how many bytes it touches, how many registers D names, how many D takes back, and the new value from the old one and D
(R146, R147). -/
structure Atomic where
  size : Nat
  regs : Nat := 1
  back : Nat := 1
  f : Dword → Dword → Dword → Dword

/-- The D operand of an atomic: the low pair and the high pair. -/
def atomicData (s : State) (x : Cx) (l d regs : Nat) : (Dword × Dword) × Bool :=
  if regs = 4 then
    if d = 120 then ((0, 0), false)
    else let t := (x.sub s).thread l; let r := (x.sub s).wbase.toNat + d; ((t.pair r, t.pair (r + 2)), false)
  else let v := readSrc s x l d (regs == 2); ((v.1, 0), v.2)

/-- Check 6 of R154 for an atomic; at a memory-side atomic unit it reads the line of its location (R334). -/
def atomicError (s : State) (a : Dword) (xs : List Spot) : Option MemFault :=
  (correctable s a xs []).or (if xs.any fun y => match y with
    | .glob q => atUnit q.leaf q.loc && s.badAt (q.loc / 128 * 128) 128
    | .scr _ _ => false then some (memerr 1 a) else none)

/-- One thread's atomic: what stands at the place is read there, the new value takes its place in the order (R146, R148, R149). -/
def atomicStep (s : State) (c n : Nat) (spots : List Spot) (f : Dword → Dword) : State × Dword :=
  match spots with
  | [] => (s, 0)
  | .glob q :: _ =>
    let old := s.homeRead q.loc n
    (s.atomicWrite c q.loc (bytesOf n (f old)), old)
  | .scr w off :: _ =>
    let old := ofBytes ((List.range n).map fun i => Mem.read (s.wg w).mem (off + i))
    ((bytesOf n (f old)).zipIdx.foldl (fun s p => scrWrite s w (off + p.2) p.1) s, old)

/-- The atomics of a group in ascending member order, with nothing between them (R149). -/
def atomicSteps (s : State) (x : Cx) (A : Atomic) (d : Nat) (ds : List (Nat × Dword × Dword)) (w : Bool) : List (Nat × Dword × List Spot) → State
  | [] => s
  | (l, _, spots) :: ps =>
    let v := match ds.find? fun p => p.1 == l with
      | some p => p.2
      | none => (0, 0)
    let r := atomicStep s x.core A.size spots fun m => A.f m v.1 v.2
    let reg := (x.sub s).wbase.toNat + d
    let s := if w then r.1 else r.1.modThread x.sg l fun t => if A.back = 2 then t.setPair reg r.2 else t.setReg reg (loOf r.2)
    atomicSteps s x A d ds w ps

/-- An atomic word (R146 to R149): `w` discards the old value. -/
def atomicOp (s : State) (w : Bool) (c : BitVec 3) (o : BitVec 2) (d a : BitVec 7) (A : Atomic) : Out :=
  withWord s fun x => checked s x
    [(!(if w then (if A.regs = 4 then quadSrcOk s x d.toNat else srcOk s x d.toNat (A.regs == 2)) else dstOk s x d.toNat A.regs), 7),
     (!(srcOk s x a.toNat true), 7), (c == 7, 8)] <|
    let as := readAll s x a.toNat true
    let vs := x.lanes.map fun l => (l, atomicData s x l d.toNat A.regs)
    withStale s x (as.2 ||| maskOf ((vs.filter fun p => p.2.2).map Prod.fst)) fun s =>
      let r := locateEach s (x.party s) 0 A.size true .store as.1
      let ls := checkEach (atomicError r.1) r.2
      let ok := passed ls
      let steps (s : State) : State :=
        let s := atomicSteps s x A d.toNat (vs.map fun p => (p.1, p.2.1)) w ok
        let s := if o.getLsbD 1 then ownRelease (s.publish x.core (x.wg s) c.toNat) x c.toNat else s
        finishAcc (if o.getLsbD 0 then acquire s (x.party s) c.toNat else s) x (ok.map Prod.fst) (failed ls)
      if ok.isEmpty then .next (finishAcc r.1 x [] (failed ls))
      else answered r.1 x true ls (.next (if o.getLsbD 1 then withRelease r.1 x c.toNat steps else steps r.1))

/-- A 32-bit new value. -/
def atom32 (f : Word → Word → Word) : Atomic := { size := 4, f := fun m d _ => (f (loOf m) (loOf d)).setWidth 64 }
/-- The bf16 sum of one element, in rne without FTZ (R147). -/
def addBf (a b : Dword) (i : Nat) : Code := finish bf16 .rne false (addRes .rne (unpack bf16 false (half a i)) (unpack bf16 false (half b i)))

/-! The atomics of R147, in the order of their OP. -/

def atomAddI32 : Atomic := atom32 fun m v => m + v
def atomAddF32 : Atomic := atom32 fun m v => BitVec.ofNat 32 (finish f32 .rne false (addRes .rne (unpack f32 false m.toNat) (unpack f32 false v.toNat))).bits
def atomMinI32 : Atomic := atom32 fun m v => if v.toInt < m.toInt then v else m
def atomMaxI32 : Atomic := atom32 fun m v => if m.toInt < v.toInt then v else m
def atomMinN32 : Atomic := atom32 fun m v => if v.toNat < m.toNat then v else m
def atomMaxN32 : Atomic := atom32 fun m v => if m.toNat < v.toNat then v else m
def atomAndB32 : Atomic := atom32 fun m v => m &&& v
def atomOrB32 : Atomic := atom32 fun m v => m ||| v
def atomXorB32 : Atomic := atom32 fun m v => m ^^^ v
def atomExchB32 : Atomic := atom32 fun _ v => v
def atomCasB32 : Atomic := { size := 4, regs := 2, f := fun m v _ => if loOf m = loOf v then v >>> 32 else m }
def atomAddI64 : Atomic := { size := 8, regs := 2, back := 2, f := fun m v _ => m + v }
def atomExchB64 : Atomic := { size := 8, regs := 2, back := 2, f := fun _ v _ => v }
def atomCasB64 : Atomic := { size := 8, regs := 4, back := 2, f := fun m v n => if m = v then n else m }
def atomAdd2Bf16 : Atomic := { size := 4, f := fun m v _ => BitVec.ofNat 64 (pack2 (addBf m v 0) (addBf m v 1)).bits }
/-- An atomic of R147 by its OP from 0x20 on. -/
def atomics : List Atomic :=
  [atomAddI32, atomAddF32, atomMinI32, atomMaxI32, atomMinN32, atomMaxN32, atomAndB32, atomOrB32,
   atomXorB32, atomExchB32, atomCasB32, atomAddI64, atomExchB64, atomCasB64, atomAdd2Bf16]

/-- `atom.add.i32` (R147). -/
def execAtomAddI32 (w : Bool) (c : BitVec 3) (o : BitVec 2) (d a : BitVec 7) (s : State) : Out := atomicOp s w c o d a atomAddI32
/-- `atom.add.f32` (R147). -/
def execAtomAddF32 (w : Bool) (c : BitVec 3) (o : BitVec 2) (d a : BitVec 7) (s : State) : Out := atomicOp s w c o d a atomAddF32
/-- `atom.min.i32` (R147). -/
def execAtomMinI32 (w : Bool) (c : BitVec 3) (o : BitVec 2) (d a : BitVec 7) (s : State) : Out := atomicOp s w c o d a atomMinI32
/-- `atom.max.i32` (R147). -/
def execAtomMaxI32 (w : Bool) (c : BitVec 3) (o : BitVec 2) (d a : BitVec 7) (s : State) : Out := atomicOp s w c o d a atomMaxI32
/-- `atom.min.n32` (R147). -/
def execAtomMinN32 (w : Bool) (c : BitVec 3) (o : BitVec 2) (d a : BitVec 7) (s : State) : Out := atomicOp s w c o d a atomMinN32
/-- `atom.max.n32` (R147). -/
def execAtomMaxN32 (w : Bool) (c : BitVec 3) (o : BitVec 2) (d a : BitVec 7) (s : State) : Out := atomicOp s w c o d a atomMaxN32
/-- `atom.and.b32` (R147). -/
def execAtomAndB32 (w : Bool) (c : BitVec 3) (o : BitVec 2) (d a : BitVec 7) (s : State) : Out := atomicOp s w c o d a atomAndB32
/-- `atom.or.b32` (R147). -/
def execAtomOrB32 (w : Bool) (c : BitVec 3) (o : BitVec 2) (d a : BitVec 7) (s : State) : Out := atomicOp s w c o d a atomOrB32
/-- `atom.xor.b32` (R147). -/
def execAtomXorB32 (w : Bool) (c : BitVec 3) (o : BitVec 2) (d a : BitVec 7) (s : State) : Out := atomicOp s w c o d a atomXorB32
/-- `atom.exch.b32` (R147). -/
def execAtomExchB32 (w : Bool) (c : BitVec 3) (o : BitVec 2) (d a : BitVec 7) (s : State) : Out := atomicOp s w c o d a atomExchB32
/-- `atom.cas.b32` (R147). -/
def execAtomCasB32 (w : Bool) (c : BitVec 3) (o : BitVec 2) (d a : BitVec 7) (s : State) : Out := atomicOp s w c o d a atomCasB32
/-- `atom.add.i64` (R147). -/
def execAtomAddI64 (w : Bool) (c : BitVec 3) (o : BitVec 2) (d a : BitVec 7) (s : State) : Out := atomicOp s w c o d a atomAddI64
/-- `atom.exch.b64` (R147). -/
def execAtomExchB64 (w : Bool) (c : BitVec 3) (o : BitVec 2) (d a : BitVec 7) (s : State) : Out := atomicOp s w c o d a atomExchB64
/-- `atom.cas.b64` (R147). -/
def execAtomCasB64 (w : Bool) (c : BitVec 3) (o : BitVec 2) (d a : BitVec 7) (s : State) : Out := atomicOp s w c o d a atomCasB64
/-- `atom.add2.bf16` (R147). -/
def execAtomAdd2Bf16 (w : Bool) (c : BitVec 3) (o : BitVec 2) (d a : BitVec 7) (s : State) : Out := atomicOp s w c o d a atomAdd2Bf16
/-- `ld.i8` (R140). -/
def execLdI8 (d a : BitVec 7) (p : BitVec 2) (f : BitVec 6) (s : State) : Out := loadOp s d a p f 1 true
/-- `ld.n8` (R140). -/
def execLdN8 (d a : BitVec 7) (p : BitVec 2) (f : BitVec 6) (s : State) : Out := loadOp s d a p f 1 false
/-- `ld.i16` (R140). -/
def execLdI16 (d a : BitVec 7) (p : BitVec 2) (f : BitVec 6) (s : State) : Out := loadOp s d a p f 2 true
/-- `ld.n16` (R140). -/
def execLdN16 (d a : BitVec 7) (p : BitVec 2) (f : BitVec 6) (s : State) : Out := loadOp s d a p f 2 false
/-- `ld.b32` (R140). -/
def execLdB32 (d a : BitVec 7) (p : BitVec 2) (f : BitVec 6) (s : State) : Out := loadOp s d a p f 4 false
/-- `ld.b64` (R140). -/
def execLdB64 (d a : BitVec 7) (p : BitVec 2) (f : BitVec 6) (s : State) : Out := loadOp s d a p f 8 false
/-- `ld.b128` (R140). -/
def execLdB128 (d a : BitVec 7) (p : BitVec 2) (f : BitVec 6) (s : State) : Out := loadOp s d a p f 16 false
/-- `st.b8` (R140). -/
def execStB8 (d a : BitVec 7) (p : BitVec 2) (f : BitVec 6) (s : State) : Out := storeOp s d a p f 1
/-- `st.b16` (R140). -/
def execStB16 (d a : BitVec 7) (p : BitVec 2) (f : BitVec 6) (s : State) : Out := storeOp s d a p f 2
/-- `st.b32` (R140). -/
def execStB32 (d a : BitVec 7) (p : BitVec 2) (f : BitVec 6) (s : State) : Out := storeOp s d a p f 4
/-- `st.b64` (R140). -/
def execStB64 (d a : BitVec 7) (p : BitVec 2) (f : BitVec 6) (s : State) : Out := storeOp s d a p f 8
/-- `st.b128` (R140). -/
def execStB128 (d a : BitVec 7) (p : BitVec 2) (f : BitVec 6) (s : State) : Out := storeOp s d a p f 16
/-- `ld.acq.b32` (R144). -/
def execLdAcqB32 (d a : BitVec 7) (c : BitVec 3) (p : BitVec 2) (s : State) : Out := loadAcq s d a c p 4
/-- `st.rel.b32` (R144). -/
def execStRelB32 (d a : BitVec 7) (c : BitVec 3) (p : BitVec 2) (s : State) : Out := storeRel s d a c p 4
/-- `ld.acq.b64` (R144). -/
def execLdAcqB64 (d a : BitVec 7) (c : BitVec 3) (p : BitVec 2) (s : State) : Out := loadAcq s d a c p 8
/-- `st.rel.b64` (R144). -/
def execStRelB64 (d a : BitVec 7) (c : BitVec 3) (p : BitVec 2) (s : State) : Out := storeRel s d a c p 8

/-! ### `poll` (R150, R162) -/

/-- The fields of a `poll` word. -/
structure Poll where
  size : Nat
  d : Nat
  a : Nat
  scope : Nat
  sp : BitVec 2
  hint : Bool
  deriving DecidableEq, Repr

/-- Operand checks of a `poll` (R141, R150). -/
def pollChecks (s : State) (x : Cx) (p : Poll) : List (Bool × Nat) :=
  [(!(dstOk s x p.d (regCount p.size)), 7), (!(srcOk s x p.a true), 7), (p.scope == 7, 8)]

/-- What a list gives a member. -/
def dwordFor (as : List (Nat × Dword)) (l : Nat) : Dword := match as.find? fun p => p.1 == l with
  | some p => p.2
  | none => 0

/-- Members `ls` watch at the word, each the location at its address (R150, R162). -/
def watchAt (s : State) (x : Cx) (ls : List Nat) (addr : Nat → Dword) : State :=
  let n := (s.row x.core x.row).issued + 1
  let now := s.cycle x.core
  let s := s.modSub x.sg fun u => ls.foldl (fun u l => u.modThread l fun t => { t with wait := .poll (addr l), lastIssue := n, readyAt := now, lastAt := now }) u
  switchPoint (s.modRow x.core x.row fun r => { r with issued := n }) x

/-- One read by every member of `x`: those that see a change, or have no hint, take the value and go on; the others stay at the word (R150). The second part
says whether some member went on. -/
def pollRead (s : State) (x : Cx) (p : Poll) (as : List (Nat × Dword)) : State × Bool :=
  let r := locateEach s (x.party s) p.sp p.size true .load as
  let ls := lateEach r.1 x (checkData r.1 (fun _ => []) r.2)
  let ok := passed ls
  let reg := (x.sub s).wbase.toNat + p.d
  let expect (l : Nat) : Dword := if p.size = 8 then ((x.sub s).thread l).pair reg else (((x.sub s).thread l).reg reg).setWidth 64
  let vs := ok.map fun q => (q.1, ofBytes (q.2.2.map (readPublished r.1 x.core (x.wg s) x.sg p.scope)))
  match unanswered r.1 ls with
  | some a => (awaitAnswer r.1 x false a, false)
  | none =>
  let go := vs.filter fun q => !p.hint || q.2 != expect q.1
  let stay := (vs.filter fun q => p.hint && q.2 == expect q.1).map Prod.fst
  let s := moveView r.1 x.core (x.wg s) x.sg p.scope (ok.flatMap fun q => q.2.2)
  let s := writeLoads s x p.d (go.map fun q => (q.1, loadedWords p.size false (bytesOf p.size q.2)))
  let s := if stay.isEmpty then s else watchAt s x stay (dwordFor as)
  (finishAcc s x (go.map Prod.fst) (failed ls), !go.isEmpty)

/-- A `poll` word (R150). -/
def pollOp (s : State) (p : Poll) : Out :=
  withWord s fun x => checked s x (pollChecks s x p) <|
    let as := readAll s x p.a true
    withStale s x as.2 fun s => .next (pollRead s x p as.1).1
/-- `poll.b32` (R150). -/
def execPollB32 (y : Bool) (d a : BitVec 7) (c : BitVec 3) (p : BitVec 2) (s : State) : Out := pollOp s ⟨4, d.toNat, a.toNat, c.toNat, p, y⟩
/-- `poll.b64` (R150). -/
def execPollB64 (y : Bool) (d a : BitVec 7) (c : BitVec 3) (p : BitVec 2) (s : State) : Out := pollOp s ⟨8, d.toNat, a.toNat, c.toNat, p, y⟩

/-- The fields of a word, if it is a `poll` with the hint (R39, R51). -/
def pollWord (w : Word) : Option Poll :=
  let op := (w.extractLsb' 23 9).toNat
  if (op == 0xb0 || op == 0xb1) && w.getLsbD 22 then
    some ⟨if op = 0xb0 then 4 else 8, (w.extractLsb' 15 7).toNat, (w.extractLsb' 8 7).toNat, (w.extractLsb' 5 3).toNat, w.extractLsb' 3 2, true⟩
  else none

/-! ### Scalar accesses (R94, R95) -/

/-- The base pair of a scalar access: an even pair, a latch of the D-form, or zero (R94). -/
def sBaseOk (f : Form) (a : Nat) : Bool := spairOk a || (f == .d && decide (112 ≤ a) && decide (a ≤ 115)) || a == 120
/-- A scalar source of 32 or 64 bits, and whether it was a stale latch; a latch delivers the entry of the lowest member (R24, R43). -/
def readScalarWide (s : State) (x : Cx) (a : Nat) (wide : Bool) : Dword × Bool :=
  if a ≤ 111 then (if wide then (x.sub s).spair a else ((x.sub s).sreg a).setWidth 64, false)
  else if a ≤ 115 then match ((x.sub s).latch (lowest x.mask)).entry (a - 112) with
    | some v => (if wide then v else v &&& 0xffffffff#64, false)
    | none => (0, true)
  else (0, false)
/-- A scalar source field, 32 or 64 bits. -/
def sDataOk (f : Form) (d : Nat) (wide : Bool) : Bool := if wide then sBaseOk f d else sSrcOk f d
def lowestIf (x : Cx) (b : Bool) : Dword := if b then 1#64 <<< lowest x.mask else 0
/-- A fault of the whole group at its word. -/
def raiseGroup (s : State) (x : Cx) (e : MemFault) : State := raise s x { trapOf s x x.mask e.cause e.detail with addr := e.addr }

/-- `sld` (R94, R95): one access for the group; no switch point. A stale latch read sets LSTALE in the lowest member (DESIGN CHOICE, log 20), and the bytes of a
misaligned access are read in one step (DESIGN CHOICE, log 54). -/
def scalarLoad (s : State) (d a : BitVec 7) (sp : BitVec 2) (f : BitVec 6) (n : Nat) : Out :=
  withWord s fun x => checked s x [(!(if n = 8 then spairOk d.toNat else sDstOk d.toNat), 7), (!(sBaseOk x.form a.toNat), 7)] <|
    let b := readScalarWide s x a.toNat true
    withStale s x (lowestIf x b.2) fun s =>
      let a := b.1 + BitVec.ofInt 64 (f.toInt * n)
      let q := locate s (x.party s) sp a n false .load
      let r := (q.1, lateAt q.1 x (lowest x.mask) a q.2)
      answered r.1 x false [⟨lowest x.mask, a, r.2⟩] <|
      match loadFrom r x.core a with
      | (s, .error e) => .next (raiseGroup s x e)
      | (s, .ok v) => .next (advance (s.modSub x.sg fun u => if n = 8 then u.setSpair d.toNat v else u.setSreg d.toNat (loOf v)) x x.lanes)
/-- `sst` (R94, R95), as `sld` in what log 20 and log 54 say. -/
def scalarStore (s : State) (d a : BitVec 7) (sp : BitVec 2) (f : BitVec 6) (n : Nat) : Out :=
  withWord s fun x => checked s x [(!(sDataOk x.form d.toNat (n == 8)), 7), (!(sBaseOk x.form a.toNat), 7)] <|
    let b := readScalarWide s x a.toNat true
    let v := readScalarWide s x d.toNat (n == 8)
    withStale s x (lowestIf x (b.2 || v.2)) fun s =>
      match storeAt s (x.party s) sp (b.1 + BitVec.ofInt 64 (f.toInt * n)) (bytesOf n v.1) false with
      | (s, .error e) => .next (raiseGroup s x e)
      | (s, .ok _) => .next (advance s x x.lanes)
/-- `sld.b32` (R94). -/
def execSldB32 (d a : BitVec 7) (p : BitVec 2) (f : BitVec 6) (s : State) : Out := scalarLoad s d a p f 4
/-- `sld.b64` (R94). -/
def execSldB64 (d a : BitVec 7) (p : BitVec 2) (f : BitVec 6) (s : State) : Out := scalarLoad s d a p f 8
/-- `sst.b32` (R94). -/
def execSstB32 (d a : BitVec 7) (p : BitVec 2) (f : BitVec 6) (s : State) : Out := scalarStore s d a p f 4
/-- `sst.b64` (R94). -/
def execSstB64 (d a : BitVec 7) (p : BitVec 2) (f : BitVec 6) (s : State) : Out := scalarStore s d a p f 8

end Sys2Proof.Machine
end

