-- ==== Sys2Proof/Machine/Barrier.lean ====
section
/-!
DEFINITION. Barriers: `bar.wg` (R170), `bar.cl` (R293, R294) and the counted barriers (R171 to R174).
-/

namespace Sys2Proof.Machine

/-- `bar.wg` (R170): the threads block; when every live thread of the workgroup has, all are released with `phase.ar.wg`. -/
def execBarWg (s : State) : Out :=
  withWord s fun x => .next (withRelease s x 1 fun s => settleBarWg (blockAt s x x.lanes .barWg) (x.wg s))

/-- `bar.cl` (R293, R294). -/
def execBarCl (i : BitVec 21) (s : State) : Out :=
  withWord s fun x => checked s x [(decide (32 ≤ i.toNat) || !((x.launch s).lpb.clbar.getLsbD i.toNat), 8)]
    (.next (withRelease s x 3 fun s =>
      let w := s.wg (x.wg s)
      settleBarCl (blockAt s x x.lanes (.barCl (i.setWidth 5))) w.launch w.cluster (i.setWidth 5)))

/-! ### Counted barriers -/

/-- The object at a generic address: the workgroup that holds it and its offset, or the fault (R172, R174). Every step on an object reads it (R8). -/
def barrierAt (s : State) (P : Party) (a : Dword) : State × Except MemFault (Nat × Nat) :=
  if a.toNat < 2 ^ 56 then (s, .error (xlat 1 a)) else
  match locate s P 0 a 8 true .store with
  | (s, .error e) => (s, .error (if e.cause = 3 then alignFault 3 a else e))
  | (s, .ok spots) =>
    match correctable s a spots [] with
    | some e => (s, .error e)
    | none => match spots with
      | .scr w off :: _ => (s, .ok (w, off))
      | _ => (s, .error (xlat 1 a))

/-- The scope of the boundary of a counted barrier at an address: core in the own window, cluster in the cluster window (R173). -/
def barrierScope (a : Dword) : Nat := if a.toNat / 2 ^ 56 = 0xff then 2 else 3

/-- SENSE, ARRIVED and EXPECTED of an object (R171). -/
def barrierWord (s : State) (w off : Nat) : Dword := ofBytes ((List.range 8).map fun i => Mem.read (s.wg w).mem (off + i))
def setBarrier (s : State) (w off : Nat) (v : Dword) : State := (bytesOf 8 v).zipIdx.foldl (fun s p => scrWrite s w (off + p.2) p.1) s
/-- The object after `n` arrivals: a completed round flips SENSE and discards the surplus (R172). -/
def arrived (v : Dword) (n : Nat) : Dword :=
  let expected := v.toNat % 2 ^ 32
  let count := v.toNat / 2 ^ 32 % 2 ^ 31 + n
  let sense := v.toNat / 2 ^ 63
  BitVec.ofNat 64 (if expected ≤ count then (1 - sense) * 2 ^ 63 + expected else sense * 2 ^ 63 + count * 2 ^ 32 + expected)
/-- `n` arrivals at an object, in one indivisible step (R172). -/
def arriveStep (s : State) (w off n : Nat) : State := setBarrier s w off (arrived (barrierWord s w off) n)
/-- The arrival records of the group name the object, with the SENSE of the moment (R171, R172). -/
def recordArrival (s : State) (x : Cx) (a : Dword) (sense : Bool) : State :=
  s.modThreads x.sg x.lanes fun t => { t with arrival := some (a, sense) }

/-- `barc.init` (R172). -/
def execBarcInit (a b : BitVec 7) (s : State) : Out :=
  withWord s fun x =>
    let count := ((x.sub s).sreg b.toNat).toNat
    checked s x [(!(spairOk a.toNat), 7), (!(decide (b.toNat ≤ 111)), 7), (count == 0 || decide (2 ^ 31 ≤ count), 8)] <|
      let addr := (x.sub s).spair a.toNat
      match barrierAt s (x.party s) addr with
      | (s, .error e) => .next (raiseGroup s x e)
      | (s, .ok (w, off)) =>
        let sense := (barrierWord s w off).getLsbD 63
        let s := setBarrier s w off (BitVec.ofNat 64 ((if sense then 2 ^ 63 else 0) + count))
        .next (done (recordArrival s x addr sense) x)

/-- `barc.arrive` (R172, R173). -/
def execBarcArrive (a : BitVec 7) (s : State) : Out :=
  withWord s fun x => checked s x [(!(spairOk a.toNat), 7)] <|
    let addr := (x.sub s).spair a.toNat
    match barrierAt s (x.party s) addr with
    | (s, .error e) => .next (raiseGroup s x e)
    | (s, .ok (w, off)) => .next (withRelease s x (barrierScope addr) fun s =>
        let s := recordArrival s x addr ((barrierWord s w off).getLsbD 63)
        done (arriveStep s w off x.lanes.length) x)

/-- `barc.wait` (R172, R173): threads whose record names the object wait for its SENSE to change and then acquire; others go on at once. -/
def execBarcWait (a : BitVec 7) (s : State) : Out :=
  withWord s fun x => checked s x [(!(spairOk a.toNat), 7)] <|
    let addr := (x.sub s).spair a.toNat
    match barrierAt s (x.party s) addr with
    | (s, .error e) => .next (raiseGroup s x e)
    | (s, .ok (w, off)) =>
      let sense := (barrierWord s w off).getLsbD 63
      let rec_ (l : Nat) : Option Bool := match ((x.sub s).thread l).arrival with
        | some (b, v) => if b = addr then some v else none
        | none => none
      let stay := x.lanes.filter fun l => rec_ l == some sense
      let go := x.lanes.filter fun l => rec_ l != some sense
      let taking := go.any fun l => (rec_ l).isSome
      let s := if stay.isEmpty then s else blockAt s x stay (.barc addr)
      let s := if taking then acquire s (x.party s) (barrierScope addr) else s
      .next (switchPoint (if go.isEmpty then s else advance s x go) x)

end Sys2Proof.Machine
end

