-- ==== Sys2Proof/Machine/System.lean ====
section
/-!
DEFINITION. System words: `trap`, `rft`, `tfence`, `halt` (R82, R265 to R267), `sleep` and `sleepc` (R274), the control registers (R34, R96, R320 to R323), and
the retired words that spec/ gives no effect (R270).
-/

namespace Sys2Proof.Machine

/-- Whether a subgroup runs at supervisor level: in a trap handler that is no continuation (R257, R269). -/
def supervisor (u : Sub) : Bool := u.inHandler && match u.handler with
  | some h => !h.cont
  | none => false

/-- `trap` (R266): a trap of KIND 1 in every thread of the group. -/
def execTrap (i : BitVec 21) (s : State) : Out :=
  withWord s fun x =>
    let dbg := i.getLsbD 20 && (x.launch s).dbg
    .next (raise s x { trapOf s x x.mask (if dbg then 0x0e else 0x0d) 0 with aux := i.setWidth 32, kind := 1 })

/-- The members of the group that a uniform word is performed for: the group, where it and the members waiting at the word are all that it needs (R211). -/
def uniformReady (s : State) (x : Cx) : Bool :=
  let u := x.sub s
  (lanesOf (uniformNeed u)).all fun m => x.mask.getLsbD m || ((u.thread m).wait == .uniform && (u.thread m).pc == x.pc s)

/-- A uniform word: the threads wait at it until every thread it needs stands there, and it is then performed for all of them (R211). -/
def uniformly (s : State) (x : Cx) (k : Cx → Out) : Out :=
  if uniformReady s x then k { x with mask := uniformNeed (x.sub s) }
  else .next (blockAt s x x.lanes .uniform)

/-- A word that only some level may issue: ILL with detail 0x02 elsewhere, before every later check (R55). -/
def withLevel (s : State) (may : Sub → Bool) (k : Cx → Out) : Out :=
  withGroup s fun x => if may (x.sub s) then withWord s k else .next (ill s x 2)

/-- `rft` (R265). -/
def execRft (s : State) : Out :=
  withLevel s Sub.inHandler fun x =>
    uniformly s x fun y =>
      let waits := match (y.sub s).handler with
        | some h => h.cont && !h.signalled
        | none => false
      if waits then .next (blockAt s y y.lanes .signal) else .next (endHandler (switchPoint s y) y.sg)

/-- `tfence` (R82): the threads of the group that hold an enabled flag trap ARITH, and the word is then performed in none. -/
def execTfence (s : State) : Out :=
  withWord s fun x =>
    let u := x.sub s
    let hit := maskOf (x.lanes.filter fun l => ((u.thread l).tstat &&& u.fen &&& 0x1f#32) != 0)
    if hit = 0 then .next (done s x) else .next (raise s x (trapOf s x hit 8 0))

/-- `halt` (R267): the subgroup stops after the word. -/
def execHalt (s : State) : Out :=
  withLevel s supervisor fun x => .next (done (s.modSub x.sg fun u => { u with halted := true }) x)

/-- `sleep` (R274): a target that has passed completes at once. -/
def execSleep (a : BitVec 7) (s : State) : Out :=
  withWord s fun x => checked s x [(!(spairOk a.toNat), 7)] <|
    let t := (x.sub s).spair a.toNat
    if t ≤ s.etime then .next (done s x) else .next (blockAt s x x.lanes (.sleep t))

/-- `sleepc` (R274): a count that a thread still holds at this word goes on from where it stood. -/
def execSleepc (i : BitVec 21) (s : State) : Out :=
  withWord s fun x =>
    let pc := x.pc s
    let left (t : Thread) : Nat := match t.slept with
      | some (p, n) => if p = pc then n else i.toNat
      | none => i.toNat
    let go := x.lanes.filter fun l => left ((x.sub s).thread l) == 0
    let stay := x.lanes.filter fun l => left ((x.sub s).thread l) != 0
    let s := s.modThreads x.sg go fun t => { t with slept := none }
    let s := if stay.isEmpty then s
      else (blockAt s x stay .sleepc).modThreads x.sg stay fun t => { t with slept := some (pc, left t) }
    .next (switchPoint (if go.isEmpty then s else advance s x go) x)

/-! ### Control registers -/

/-- SSTAT as software reads it: MOWN is the engine's (R32). -/
def sstatRead (s : State) (x : Cx) : Word := setBit (x.sub s).sstat 5 ((s.engine x.core).owner == some x.sg)

/-- DCLK (R321). -/
def dclk (d : Die) : Word := (d.lcode.setWidth 32 <<< 4) ||| d.dcode.setWidth 32
/-- LOC (R321). -/
def locWord (s : State) (c : Nat) : Word :=
  BitVec.ofNat 32 (s.dieOfCore c * 2 ^ 16 + clusterOf c * 2 ^ 8 + (if isL c then 16 else 0) + coreIndex c)
/-- Word `w` of a step-log entry (R323). -/
def stepWord (e : Step) (w : Nat) : Word :=
  if w = 0 then loOf e.etime else if w = 1 then hiOf e.etime else if w = 2 then loOf e.cyc else if w = 3 then hiOf e.cyc
  else if w = 4 then loOf e.scyc else if w = 5 then hiOf e.scyc else if w = 6 then e.seq else e.codes

/-- The register a number names, as `srd` delivers it (R34, R320). -/
def readCtl (s : State) (x : Cx) (n : Nat) : Option Word :=
  let u := x.sub s
  let t := u.thread (lowest x.mask)
  let d := s.die (s.dieOfCore x.core)
  if n = 1 then some t.tstat else if n = 2 then some t.est else if n = 3 then some (t.batch.setWidth 32)
  else if n = 0x10 then some (sstatRead s x) else if n = 0x11 then some u.fen else if n = 0x12 then some (u.wbase.setWidth 32)
  else if n = 0x20 then some ((s.core x.core).mode.setWidth 32)
  else if n = 0x30 then some (loOf d.cyc) else if n = 0x31 then some (hiOf u.smpCyc)
  else if n = 0x32 then some (loOf u.smpScyc) else if n = 0x33 then some (hiOf u.smpScyc)
  else if n = 0x34 then some (loOf u.smpEtime) else if n = 0x35 then some (hiOf u.smpEtime)
  else if n = 0x36 then some (dclk d) else if n = 0x37 then some (locWord s x.core) else if n = 0x38 then some d.dsteps
  else if 0x40 ≤ n && n < 0x80 then some (stepWord (d.log.get ((n - 0x40) / 8) {}) (n % 8))
  else none

/-- A read of 0x0030 takes a sample (R320). -/
def takeSample (s : State) (x : Cx) : State :=
  let d := s.die (s.dieOfCore x.core)
  s.modSub x.sg fun u => { u with smpCyc := d.cyc, smpScyc := d.scyc, smpEtime := s.etime }

/-- `srd` (R96): no switch point. -/
def execSrd (d : BitVec 7) (n : BitVec 16) (s : State) : Out :=
  withWord s fun x => checked s x [(!(sDstOk d.toNat), 7)] <|
    match readCtl s x n.toNat with
    | none => .next (ill s x 8)
    | some v =>
      let s := if n = 0x30 then takeSample s x else s
      .next (advance (s.modSub x.sg fun u => u.setSreg d.toNat v) x x.lanes)

/-- `swr` (R34, R96): what it writes, where the number and the level permit it. -/
def writeCtl (s : State) (x : Cx) (n : Nat) (v : Word) : Option State :=
  if n = 1 then some (s.modThreads x.sg x.lanes fun t => { t with tstat := v &&& tstatWritable })
  else if n = 0x10 then some (s.modSub x.sg fun u => { u with sstat := (u.sstat &&& ~~~7#32) ||| (v &&& 7#32) })
  else if n = 0x11 then some (s.modSub x.sg fun u => { u with fen := v &&& 0x1f#32 })
  else if n = 0x20 && supervisor (x.sub s) then
    some (s.modCore x.core fun k => { k with mode := if v &&& 3#32 = 3 then k.mode else v.setWidth 2 })
  else none

/-- `swr` (R96): no switch point. -/
def execSwr (d : BitVec 7) (n : BitVec 16) (s : State) : Out :=
  withWord s fun x => checked s x [(!(sDstOk d.toNat), 7)] <|
    match writeCtl s x n.toNat ((x.sub s).sreg d.toNat) with
    | none => .next (ill s x 8)
    | some s => .next (advance s x x.lanes)

/-! ### Retired words outside the V class (R55, R270): firmware performs what the word did on an earlier machine, of which spec/ says nothing, and the threads
go on at the next word (log 11) -/

/-- RETIRED, handled by firmware: the threads continue at the next word, and the row comes to the switch point that a word of the M or X class carries (R270, R271). -/
def retiredWord (s : State) : Out := withGroup s fun x => .next (done s x)
/-- RETIRED at a word of the S class, which carries no switch point (R25, R271). -/
def retiredScalar (s : State) : Out := withGroup s fun x => .next (advance s x x.lanes)
/-- LD_TEX2. -/
def execLdTex2 (_z : BitVec 23) (s : State) : Out := retiredWord s
/-- ST_SHARED32. -/
def execStShared32 (_z : BitVec 23) (s : State) : Out := retiredWord s
/-- SBAR32. -/
def execSbar32 (_z : BitVec 23) (s : State) : Out := retiredScalar s
/-- SJOIN32. -/
def execSjoin32 (_z : BitVec 23) (s : State) : Out := retiredScalar s
/-- A word of group 0x1C or 0x1D (R53). -/
def execRetiredXGroup (_g : BitVec 1) (_z : BitVec 25) (s : State) : Out := retiredWord s

end Sys2Proof.Machine
end

