-- ==== Sys2Proof/Machine/Migrate.lean ====
section
/-!
DEFINITION. Free subgroup positions (R157, R158, R169), the context of an idle core (R28), and migration (R301 to R303).
-/

namespace Sys2Proof.Machine

/-- Whether a subgroup of a context stands on a core: one whose workgroup is resident, or one that migrated there, whose workgroup's home core may be switched out. -/
def standsOn (s : State) (c ctx : Nat) (u : Sub) : Bool :=
  u.core == c && (s.wg u.wg).ctx == ctx && ((s.wg u.wg).resident || (s.wg u.wg).home != c)
/-- Whether a position is free to a context: the core runs the context or none, no subgroup of it stands there, and no estate holds it (R11, R158, R169). -/
def slotTaken (s : State) (c ctx r k : Nat) : Bool := s.subs.any fun p => p.2.row == r && p.2.slot == k && standsOn s c ctx p.2
def slotFree (s : State) (c ctx r k : Nat) : Bool := !(slotTaken s c ctx r k) && !(heldPosition s c r k)
/-- Whether a context holds state on a core: a resident subgroup, a held position or a needle command (R276). -/
def holdsState (s : State) (c ctx : Nat) : Bool :=
  (s.subs.any fun p => standsOn s c ctx p.2)
  || (s.fe.estates.any fun e => e.ctx == ctx && match e.place with
      | .inPlace k _ _ _ => k == c
      | _ => false)
  || (s.wgs.any fun p => p.2.home == c && p.2.ctx == ctx && p.2.resident && p.2.posted != [])
/-- Whether a core is open to a context without a swap: it runs it, it is idle, or its last context holds nothing there (R276). -/
def coreOpen (s : State) (c ctx : Nat) : Bool := s.hasCore c && match (s.core c).ctx with
  | none => true
  | some o => o == ctx || !(holdsState s c o)

/-- The position that subgroup `j` takes among those `free` accepts: the lowest of row j mod 2 on a D-core, else the lowest of the other row (R158). -/
def positionFor (c j : Nat) (free : Nat → Nat → Bool) : Option (Nat × Nat) :=
  let inRow (r : Nat) : Option (Nat × Nat) := ((List.range (slotsOf c)).find? (free r)).map fun k => (r, k)
  if isL c then inRow 0 else (inRow (j % 2)).or (inRow (1 - j % 2))

/-- What a core keeps of the context that leaves it: CORE_CTL, FAIR_T and the ownership of its engine (R229, R276). Pre-emption is a switch point, at which a written MODE
takes effect (R25, R28). -/
def leaveContext (s : State) (c : Nat) : State :=
  match (s.core c).ctx with
  | none => s
  | some o =>
    let s := (List.range (rowsOf c)).foldl (fun s r => applyMode s c r) s
    s.modCore c fun k => { k with
      ctx := none, mode := 2, fairT := 4096, lines := []
      saved := k.saved.set o { mode := k.mode, fairT := k.fairT, owner := k.engine.owner, queue := k.engine.queue }
      engine := { k.engine with owner := none, queue := [] } }
/-- A core takes up a context: CORE_CTL and FAIR_T are what it left there, NORMAL and 4096 at first, and MODE is in effect on its rows (R28, R276). -/
def startContext (s : State) (c ctx : Nat) : State :=
  if (s.core c).ctx = some ctx then s else
  let s := leaveContext s c
  let x := (s.core c).saved.get ctx {}
  let s := (List.range (rowsOf c)).foldl (fun s r => if (s.row c r).mode = x.mode then s else s.modRow c r fun w => { w with mode := x.mode }) s
  s.modCore c fun k => { k with
    ctx := some ctx, mode := x.mode, fairT := x.fairT, lines := [], saved := k.saved.del ctx
    engine := { k.engine with owner := x.owner, queue := x.queue } }

/-- The core of the other kind in the cluster that has a position for a subgroup, and the position (R302). -/
def migrTarget (s : State) (c ctx j : Nat) : Option (Nat × Nat × Nat) :=
  let k := clusterOf c
  ((if isL c then (List.range 6).map (dCore k) else (List.range 2).map (lCore k)).filter fun t => coreOpen s t ctx && clocked s (.row t 0)).findSome? fun t =>
    (positionFor t j (slotFree s t ctx)).map fun p => (t, p.1, p.2)

/-- A register file carried to the other form by the pairs of a transit entry; registers that are not named are zero (R302). -/
def carry (toL : Bool) (pairs : List (Nat × Nat)) (t : Thread) : Tbl Word :=
  pairs.foldl (fun (v : Tbl Word) p =>
    let from_ := if toL then p.1 else p.2
    let to_ := if toL then p.2 else p.1
    if t.reg from_ = 0 then v else v.set to_ (t.reg from_)) []

/-- The point of a transit entry in a form (R301). -/
def transitPc (i : Image) (e : Transit) (f : Form) : Dword := match f with
  | .d => i.sectD + BitVec.ofNat 64 e.dpc
  | .l => i.sectL + BitVec.ofNat 64 e.lpc
def otherForm : Form → Form
  | .d => .l
  | .l => .d

/-- The subgroup stands on its new core (R302). -/
def moveSub (s : State) (x : Cx) (e : Transit) (t r k : Nat) : State :=
  let i := (x.launch s).image
  let toL := isL t
  let f := formOf t
  let now := s.cycle t
  let o := x.sub s
  let u := (lanesOf o.live).foldl (fun (u : Sub) l => u.modThread l fun p =>
      { wake now (transitPc i e f) p with v := carry toL e.pairs p, twin := transitPc i e (otherForm f), since := 0, lastIssue := 0 })
    { o with core := t, row := r, slot := k, ring := [], wbase := BitVec.ofNat 8 (if toL then e.lwb else e.dwb), sstat := setBit o.sstat 4 toL }
  let s := s.modLaunch (s.wg u.wg).launch fun (l : Launch) => { l with cores := t :: l.cores.filter (· != t) }
  let s := traceLanes (s.setSub x.sg u) x.sg 13 (lanesOf u.live) (fun _ => x.pc s) fun _ => transitPc i e f
  s.modRow x.core x.row fun w => { w with issuing := none, atSwitch := true, xsel := none }

/-- `migr` (R302, R303). A request is declined in a trap handler and where no position is free. -/
def execMigr (i : BitVec 16) (s : State) : Out :=
  withWord s fun x =>
    let im := (x.launch s).image
    let entry := im.transit[i.toNat]?
    let bad := !im.lform || match entry with
      | none => true
      | some e => x.pc s != transitPc im e x.form
    checked s x [(bad, 8)] <|
      match entry with
      | none => .next (ill s x 8)
      | some e =>
        uniformly s x fun y =>
          let passed (s : State) : State := s.modThreads y.sg y.lanes fun t => { t with twin := transitPc im e (otherForm y.form), since := 0 }
          let target := if (y.sub s).inHandler then none else migrTarget s y.core (y.party s).ctx (y.sub s).index
          match target with
          | none => .next (passed (done s y))
          | some (t, r, k) =>
            if y.mode s == 1 && (y.sub s).ring.any (fun p => p.2 != {}) then .next (raise s y (trapOf s y y.mask 7 0)) else
            .next (withRelease s y 3 fun s =>
              let P := y.party s
              let s := acquire s P 3
              let s := leaveEngine s y.core y.sg
              let s := moveSub (startContext s t P.ctx) y e t r k
              acquire (s.publish t P.wg 3) { P with core := t } 3)

end Sys2Proof.Machine
end

