-- ==== Sys2Proof/Machine/Traps.lean ====
section
/-!
DEFINITION. The events of traps, fault service and sleeping: TRAP_ENTRY, ASYNC_TRAP_ENTRY (R259, R260, R272), fault service and continuations (R268, R269), the end of a
sleep (R274) and of a fairness interval (R161).
-/

namespace Sys2Proof.Machine

/-- TRAP_ENTRY (R260): the precise trap that can be taken is taken. -/
def execTrapEntry (sg : Nat) (s : State) : Out :=
  match takeable s sg with
  | none => .next s
  | some t => .next (takePrecise s sg t)

/-- A DBG request is done once every subgroup of its workgroup has taken the trap or retired (R378). -/
def settleDebug (s : State) : State :=
  match s.dbgr.target with
  | none => s
  | some w =>
    if (s.subsOf w).any fun g => (s.sub g).asyncs.any fun t => t.cause == 0x0e && t.kind == 2 then s
    else { s with dbgr := { s.dbgr with busy := false, done := true, target := none } }

/-- Whether the lane row of a subgroup stands at a switch point (R272). -/
def atSwitchPoint (s : State) (g : Nat) : Bool := !(midRun s (s.sub g).core (s.sub g).row) && !(wordHolds s (s.sub g).core (s.sub g).row)

/-- ASYNC_TRAP_ENTRY (R272). -/
def execAsyncTrapEntry (sg : Nat) (s : State) : Out :=
  match asyncTakeable s sg with
  | none => .next s
  | some t => if atSwitchPoint s sg then .next (settleDebug (takeAsync s sg t)) else .next s

/-- CONTINUATION_ENTRY (R269). -/
def execContinuationEntry (sg : Nat) (s : State) : Out :=
  match continuable s sg with
  | none => .next s
  | some (t, pc, bar) => .next (enterContinuation s sg t pc bar)

/-! ### Fault service (R268, R269) -/

/-- The place, in a subgroup's list, of the page fault that service ends next: the oldest for which it has not ended yet. -/
def serviceIndex (u : Sub) : Nat := match u.handler with
  | some h => if h.cont && h.signalled then 1 else 0
  | none => 0

/-- Whether the continuation that runs is that of the page fault at a place of the list. -/
def continues (u : Sub) (i : Nat) : Bool := i == 0 && match u.handler with
  | some h => h.cont && !h.signalled
  | none => false

/-- Whether a page fault was raised by threads of the handler that runs (R264). -/
def ofHandler (u : Sub) (t : Trap) : Bool := u.inHandler && match u.handler with
  | some h => t.mask &&& h.mask != 0
  | none => false

/-- Service ends for the fault of the running continuation: one arrival on its barrier, and SVC in the frame if the fault was unresolvable, stored as the core
stores (R269); where the frame or the barrier cannot be read or written, the fault domain ends (R8, R364). A continuation whose threads have all retired ends with
it (R264). -/
def signalContinuation (s : State) (g : Nat) (unresolvable : Bool) : State :=
  let u := s.sub g
  match u.handler with
  | none => s
  | some h =>
    let P : Party := ⟨u.core, (s.wg u.wg).ctx, u.wg⟩
    let s : State := if unresolvable then
      match loadAt s P 0 h.frame 4 false with
      | (s, .ok v) => match storeAt s P 0 h.frame (bytesOf 4 (v ||| 0x10000)) false with
        | (s, .ok _) => s
        | (s, .error e) => endDomainOf s g e.cause (u.thread (lowest h.mask)).pc
      | (s, .error e) => endDomainOf s g e.cause (u.thread (lowest h.mask)).pc
    else s
    if (s.subs.find? g).isNone then s else
    if s.badScr u.wg h.bar then endDomainOf s g 5 (u.thread (lowest h.mask)).pc else
    let s := (arriveStep s u.wg h.bar 1).modSub g fun u => { u with handler := some { h with signalled := true } }
    if h.mask &&& (s.sub g).live = 0 then retire s g 0 else s

/-- The page fault at a place of a subgroup's list has left service. -/
def dropService (s : State) (g i : Nat) : State := s.modSub g fun u => { u with service := u.service.eraseIdx i }

/-- FAULT_SERVICE_RESOLVED (R268, R269): the threads are ready at FAULT_PC again, or the continuation's barrier is arrived on. -/
def execFaultServiceResolved (sg : Nat) (s : State) : Out :=
  let u := s.sub sg
  let i := serviceIndex u
  match u.service[i]? with
  | none => .next s
  | some t =>
    if continues u i then .next (signalContinuation s sg false) else
    let now := s.cycle u.core
    .next ((dropService s sg i).modThreads sg (trapLanes t) fun th => if th.wait = .service then wake now t.pc th else th)

/-- FAULT_SERVICE_UNRESOLVABLE (R269): a supervisor trap XLAT with SVC = 1 becomes pending; raised by threads of a handler, the fault ends the fault domain
(R264). -/
def execFaultServiceUnresolvable (sg : Nat) (s : State) : Out :=
  let u := s.sub sg
  let i := serviceIndex u
  match u.service[i]? with
  | none => .next s
  | some t =>
    if continues u i then .next (signalContinuation s sg true)
    else if ofHandler u t then .next (endDomainOf s sg t.cause t.pc)
    else
      let s := (dropService s sg i).modThreads sg (trapLanes t) fun th => if th.wait = .service then { th with wait := .trapped } else th
      .next (s.modSub sg fun u => { u with traps := u.traps ++ [{ t with svc := true, order := u.raised }], raised := u.raised + 1 })

/-! ### Time (R161, R274) -/

/-- FAIR_T_EXPIRY (R161): the path that issues has done so for FAIR_T cycles while another path of its subgroup is ready. -/
def execFairTExpiry (core row : Nat) (s : State) : Out :=
  let r := s.row core row
  match r.issuing with
  | none => .next s
  | some (g, m) =>
    if decide (fairness (s.core core) ≤ s.cycle core - r.runAt) && ((List.range 64).any fun l => threadReady s g l && !(m.getLsbD l))
    then .next (s.modRow core row fun r => { r with fairOut := true }) else .next s

/-- SLEEP_EXPIRY (R274): the threads whose target ETIME has reached are ready at their word, which tests ETIME again. -/
def execSleepExpiry (sg : Nat) (s : State) : Out :=
  let u := s.sub sg
  let now := s.cycle u.core
  let due (t : Thread) : Bool := match t.wait with
    | .sleep target => decide (target ≤ s.etime)
    | _ => false
  .next (s.modThreads sg (u.threads.keys.filter fun l => due (u.thread l)) fun t => wake now t.pc t)

/-- SLEEPC_EXPIRY (R274): the threads whose count has run out are ready at their word. -/
def execSleepcExpiry (sg : Nat) (s : State) : Out :=
  let u := s.sub sg
  let now := s.cycle u.core
  let due (t : Thread) : Bool := t.wait == .sleepc && match t.slept with
    | some (_, n) => n == 0
    | none => true
  .next (s.modThreads sg (u.threads.keys.filter fun l => due (u.thread l)) fun t => wake now t.pc t)

end Sys2Proof.Machine
end

