-- ==== Sys2Proof/Machine/Clock.lean ====
section
/-!
DEFINITION. Clock domains and counters (R318 to R323), frequency steps (DVFS_STEP, RELOCK_END), and the issue-slot counters (R382, R383).
-/

namespace Sys2Proof.Machine

/-- Ticks of one ns of ETIME (log 7). -/
def tickNs : Nat := 5354228880
/-- The frequency of a code, in units of 0.1 GHz (R318). -/
def freqOf (domL : Bool) (code : BitVec 4) : Nat := if domL then 12 + code.toNat else 8 + code.toNat
/-- Whether a code is in the table of R318. -/
def codeOk (domL : Bool) (code : BitVec 4) : Bool := if domL then decide (code.toNat ≤ 12) else decide (code.toNat ≤ 10)
/-- Ticks of one cycle (R318): 10 / n ns for a frequency of n × 0.1 GHz. -/
def period (domL : Bool) (code : BitVec 4) : Nat := 10 * tickNs / freqOf domL code
/-- INC of a D code: 91,750,400 over the frequency in MHz, rounded to nearest (R318). -/
def incOf (code : BitVec 4) : Nat := (2 * 917504 + freqOf false code) / (2 * freqOf false code)

/-- Code, relock and time of the last relock's end of a domain. -/
def Die.code (d : Die) (domL : Bool) : BitVec 4 := if domL then d.lcode else d.dcode
def Die.relock (d : Die) (domL : Bool) : Option Relock := if domL then d.relockL else d.relockD
def Die.freed (d : Die) (domL : Bool) : Option Dword := if domL then d.freeL else d.freeD
/-- Whether a step of a domain may begin: none is running, and the last ended at least 8 µs ago (R322). -/
def stepMay (s : State) (d : Die) (domL : Bool) : Bool := (d.relock domL).isNone && match d.freed domL with
  | none => true
  | some t => decide (t.toNat + 8000 ≤ s.etime.toNat)

/-- CODES of a step-log entry (R323). -/
def stepCodes (domL : Bool) (old new : BitVec 4) : Word :=
  BitVec.ofNat 32 (old.toNat + 16 * new.toNat + (if domL then 256 else 0))

/-- The die with a step begun: the step-log entry is written, and the clock stands until the relock ends (R322, R323). -/
def beginStep (s : State) (d : Die) (domL : Bool) (code : BitVec 4) : Die :=
  let e : Step := { etime := s.etime, cyc := d.cyc, scyc := d.scyc, seq := d.dsteps + 1, codes := stepCodes domL (d.code domL) code }
  let r : Relock := { until_ := s.etime + 2000, code := code }
  let edge := s.ticks + 2000 * tickNs
  let d := if domL then { d with wantL := none } else { d with wantD := none }
  let d := { d with log := d.log.set (d.dsteps.toNat % 8) e, dsteps := d.dsteps + 1 }
  if domL then { d with relockL := some r, edgeL := edge } else { d with relockD := some r, edgeD := edge }

/-- Whether a domain's clock stands at a cycle boundary now: its next edge is a whole cycle away. -/
def atBoundary (s : State) (d : Die) (domL : Bool) : Bool :=
  if domL then d.edgeL == s.ticks + period true d.lcode else d.edgeD == s.ticks + period false d.dcode
/-- DVFS_STEP (R322): a step to a code of the table, where one may begin. The clock stops at a cycle boundary: a step that comes within a cycle waits for its end. -/
def execDvfsStep (die : Nat) (domL : Bool) (code : BitVec 4) (s : State) : Out :=
  let d := s.die die
  if !(decide (die < 4) && codeOk domL code && stepMay s d domL) then .next s
  else if !(atBoundary s d domL) then .next (s.setDie die (if domL then { d with wantL := some code } else { d with wantD := some code }))
  else
    let x := beginStep s d domL code
    .next (traceUnit (s.setDie die x) 12 0 (x.dsteps.setWidth 64))

/-- The die with a relock ended: DCLK shows the new code, and the first cycle at the new frequency follows (R322). -/
def endRelock (s : State) (d : Die) (domL : Bool) (r : Relock) : Die :=
  let edge := s.ticks + period domL r.code
  if domL then { d with relockL := none, lcode := r.code, edgeL := edge, freeL := some s.etime }
  else { d with relockD := none, dcode := r.code, edgeD := edge, freeD := some s.etime }

/-- The subgroups with a thread whose release waits for a relock. -/
def heldReleases (s : State) : List Nat :=
  (s.subs.filter fun p => p.2.threads.any fun t => match t.2.wait with
    | .release _ => true
    | _ => false).map Prod.fst

/-- The cluster barriers at which a thread waits: launch, cluster and id. -/
def awaitedBars (s : State) : List (Nat × Nat × BitVec 5) :=
  (s.subs.flatMap fun (p : Nat × Sub) => p.2.threads.filterMap fun (t : Nat × Thread) => match t.2.wait with
    | .barCl id => some ((s.wg p.2.wg).launch, (s.wg p.2.wg).cluster, id)
    | _ => none).eraseDups

/-- RELOCK_END (R322, R325): what the relock held happens now: releases, cluster barriers, and the events of units whose clock stood. When the last relock of a
function-level reset ends, the reset completes (R325, R371). -/
def execRelockEnd (die : Nat) (domL : Bool) (s : State) : Out :=
  let d := s.die die
  match d.relock domL with
  | none => .next s
  | some r =>
    if s.etime < r.until_ then .next s else
    let s := s.setDie die (endRelock s d domL r)
    let s := (awaitedBars s).foldl (fun s b => settleBarCl s b.1 b.2.1 b.2.2) s
    let reset := s.link.flr && (List.range 4).all fun k => (s.die k).relockD.isNone && (s.die k).relockL.isNone
    .next ({ s with parked := [] }.post ((heldReleases s).map Event.releaseComplete ++ s.parked ++ if reset then [Event.flrComplete] else []))

/-! ### Issue slots (R382, R383) -/

/-- What a thread that is not ready waits on, as R382 classes it: 5 ENGINE, 6 BARRIER, 7 MEM, else 9. A uniform word counts as ENGINE, a `migr` as BARRIER. -/
def waitClass (s : State) (c : Nat) (t : Thread) : SlotClass := match t.wait with
  | .uniform => match buffered (s.core c) t.pc with
    | some w => if w.extractLsb' 23 9 = 0x149 then 6 else 5
    | none => 5
  | .owner => 5
  | .ring => 5
  | .chunks _ _ => 5
  | .orrery => 5
  | .tiles => 5
  | .knot _ => 6
  | .barWg => 6
  | .barCl _ => 6
  | .barc _ => 6
  | .batch _ => 6
  | .released => 6
  | .service => 7
  | .answer _ _ _ _ => 7
  | .late _ => 7
  | _ => 9

/-- Whether a live thread waits at `poll` or `sleep` (R382). -/
def pollsOrSleeps (t : Thread) : Bool := match t.wait with
  | .poll _ => true
  | .sleep _ => true
  | .sleepc => true
  | _ => false

/-- Every group of live threads of a lane row, as a candidate of R160. -/
def waiters (s : State) (c r : Nat) : List Cand :=
  (rowSubs s c r).flatMap fun g =>
    let u := s.sub g
    (byPc u (lanesOf u.live)).map fun p =>
      { sg := g, mask := maskOf p.2, watch := false, starve := none, prio := (s.launchOf g).prio, dp := u.dp
        last := p.2.foldl (fun a l => max a (u.thread l).lastIssue) 0, slot := u.slot, low := p.2.headD 0 }

/-- The class of the slot of a row in which nothing issued (R382). -/
def idleClass (s : State) (c r : Nat) : SlotClass :=
  let ws := waiters s c r
  if rowSubs s c r == [] then 0
  else if ws.all fun k => pollsOrSleeps ((s.sub k.sg).thread k.low) then 3
  else match bestOf ws with
    | none => 9
    | some k => if (s.sub k.sg).halted then 6 else waitClass s c ((s.sub k.sg).thread k.low)

/-- The class of the slot that ends now (R382). -/
def slotClass (s : State) (c r : Nat) : SlotClass := match (s.row c r).spent with
  | some k => k
  | none => idleClass s c r

/-- A slot of a row ends: it is counted, unless CNT_CTL.FREEZE holds the counters, and the next begins (R382, R383). NOSG is what the other leaves leave of SLOTS. -/
def endSlot (s : State) (c r : Nat) : State :=
  let k := (slotClass s c r).toNat
  s.modRow c r fun row => { row with
    counts := if s.dbgr.freeze || k == 0 then row.counts else row.counts.set k (row.counts.get k 0 + 1)
    spent := row.held.head?
    held := row.held.drop 1
    runAt := if row.spent.isNone then s.cycle c + 1 else row.runAt }

/-! ### One cycle (R319) -/

/-- A cycle of a core counts for the threads that stand on it: one in `sleepc` has one cycle less to wait (R274), one that is not ready has waited for no slot (R161), and
for a thread that is switched out the timer stands (R276). -/
def countThread (s : State) (c g : Nat) (p : Nat × Thread) : Nat × Thread :=
  let t := p.2
  if !(canRun s g) then (p.1, { t with readyAt := t.readyAt + 1 }) else
  let t := if t.wait = .sleepc then { t with slept := t.slept.map fun q => (q.1, q.2 - 1) } else t
  (p.1, if threadReady s g p.1 && !(stalls s c g t.pc [p.1]) then t else { t with readyAt := s.cycle c + 1 })
def countThreads (s : State) (c : Nat) : State :=
  { s with subs := s.subs.map fun (p : Nat × Sub) => (p.1, if p.2.core = c then { p.2 with threads := p.2.threads.map (countThread s c p.1) } else p.2) }

/-- The cores of a die's domain on which something was placed: D-cores, or L-cores. -/
def domainCores (s : State) (die : Nat) (domL : Bool) : List Nat :=
  s.cores.keys.filter fun c => isL c == domL && s.dieOfCore c == die

/-- The rows of a core end their slots, and the cycle counts for its threads. -/
def coreCycle (s : State) (c : Nat) : State := (List.range (rowsOf c)).foldl (fun s r => endSlot s c r) (countThreads s c)

/-- The needles of a die may perform their next words (R318). -/
def needleCycle (s : State) (die : Nat) : State :=
  { s with cores := s.cores.map fun (p : Nat × Core) => (p.1, if s.dieOfCore p.1 = die then
      { p.2 with needles := p.2.needles.map fun (q : Nat × Needle) => (q.1, { q.2 with spent := false }) } else p.2) }

/-- The time is `t` now: ETIME has made up for what it is to correct, at 50 ppm at most (R394). -/
def passTime (s : State) (t : Nat) : State :=
  let most : Int := ((t - s.ticks) / 20000 : Nat)
  let d := max (-most) (min most s.fabric.slew)
  if s.fabric.slew = 0 then { s with ticks := t }
  else { s with ticks := t, fabric := { s.fabric with skew := s.fabric.skew + d, slew := s.fabric.slew - d } }

/-- One edge of a domain's clock: its counters and the slots of its rows (R319, R382). A D edge adds INC to SCYC. -/
def clockEdge (s : State) (die : Nat) (domL : Bool) : State :=
  let d := s.die die
  let t := max s.ticks (if domL then d.edgeL else d.edgeD)
  let s := (domainCores s die domL).foldl coreCycle (passTime s t)
  let n : Dword := if s.dbgr.freeze then 0 else 1
  if domL then s.modDie die fun d => { d with lcyc := d.lcyc + 1, slotsL := d.slotsL + n, edgeL := t + period true d.lcode }
  else (needleCycle s die).modDie die fun d =>
    { d with cyc := d.cyc + 1, slotsD := d.slotsD + n, scyc := d.scyc + BitVec.ofNat 64 (incOf d.dcode), edgeD := t + period false d.dcode }

end Sys2Proof.Machine
end

