-- ==== Sys2Proof/Machine/FrontEnd.lean ====
section
/-!
DEFINITION. The front end: queue blocks and their service (R348 to R352), entries (R353), and the entries that are no launch and no region operation: NOP, SIGNAL, WAIT,
RELEASE_ESTATES and kernel graphs (R206, R353, R359).
-/

namespace Sys2Proof.Machine

/-- Whether requests of the host arrive: the device is powered, the link has trained, no function-level reset runs, and the link is up (R370, R371, R373, R376). -/
def hostUp (s : State) : Bool := s.link.bringUp != .off && s.link.config && !s.link.flr && (s.link.linkState == 0 || s.link.linkState == 3)
/-- An answer to the host or the sideband (R186, R368, R374). -/
def answer (s : State) (r : Reply) : State := { s with link := { s.link with reads := s.link.reads ++ [r] } }
/-- A STATUS of the journal (R362). -/
abbrev Status := Nat

def State.queue (s : State) (q : Nat) : Queue := s.fe.queues.get q {}
def State.modQueue (s : State) (q : Nat) (f : Queue → Queue) : State := { s with fe := { s.fe with queues := s.fe.queues.set q (f (s.queue q)) } }
/-- QBASE.HOST and the number of slots (R348). -/
def Queue.host (x : Queue) : Bool := x.base.getLsbD 63
def Queue.slots (x : Queue) : Nat := 2 ^ (x.log.setWidth 5).toNat
/-- Slots reserved and not yet consumed (R349). -/
def Queue.waiting (x : Queue) : Nat := (x.reserved + 2 ^ 32 - x.cons.toNat) % 2 ^ 32

/-- The context of a queue: the lowest-numbered one of which QRCB names a legal RCB; none for a bootstrap queue (R348, R356, R358, log 16). -/
def queueCtx (s : State) (x : Queue) : Option Nat :=
  if x.rcb = 0 then none else s.fe.contexts.keys.find? fun c => (readRcb s c x.rcb).isSome
/-- The effective priority of a queue (R352). -/
def queuePrio (s : State) (x : Queue) : Nat := match queueCtx s x with
  | none => 0
  | some c => match ancestry s c 8 x.rcb with
    | none => 0
    | some rs => effField rs 0 0x0e 1

/-- The place of a host physical address. -/
def hostPlace (a : Dword) : Loc := locOf 2 (a.setWidth 52).toNat
/-- Bytes in the memory of a queue's ring (R348, R350): read at their homes, as an acquire at sy takes them, or the fault of the read. -/
def queueFetch (s : State) (x : Queue) (a : Dword) (n : Nat) : Except MemFault (List Byte) :=
  if x.host then (if s.badAt (hostPlace a) n then .error (memerr 1 a) else .ok (s.homeBytes (hostPlace a) n))
  else match queueCtx s x with
    | none => .error (xlat 2 a)
    | some c => readHome s c a n
def queueRead (s : State) (x : Queue) (a : Dword) (n : Nat) : Option (List Byte) := match queueFetch s x a n with
  | .ok bs => some bs
  | .error _ => none
/-- A fault of the front end's work for a queue ends the fault domain of the queue's region (R364). -/
def endQueue (s : State) (x : Queue) (f : MemFault) : State := match queueCtx s x with
  | none => s
  | some c => match domainAt s c x.rcb with
    | none => s
    | some d => endDomain s c d f.cause 0
def queueWrite (s : State) (x : Queue) (a : Dword) (bs : List Byte) : State :=
  match (if x.host then writePlace s (hostPlace a) bs else match queueCtx s x with
    | none => .ok s
    | some c => writeHome s c a bs) with
  | .ok s => s
  | .error f => endQueue s x f

/-- The slot at QCONS, and the address of the commit-map word that holds its bit (R348, R350). -/
def Queue.slot (x : Queue) : Nat := x.cons.toNat % x.slots
def Queue.mapWord (x : Queue) : Dword := x.map + BitVec.ofNat 64 (8 * (x.slot / 64))
/-- Whether the slot at QCONS is committed. -/
def committed (s : State) (x : Queue) : Bool := match queueRead s x x.mapWord 8 with
  | none => false
  | some bs => (ofBytes bs).getLsbD (x.slot % 64)
/-- QCTL.STALL (R348). -/
def stalled (s : State) (x : Queue) : Bool := x.enable && x.waiting != 0 && !(committed s x)
/-- Whether a queue is served (R362, R373, R376). -/
def served (s : State) (x : Queue) : Bool :=
  x.enable && s.link.bringUp == .ready && s.fe.jset && s.link.linkState == 0 && !s.link.flr
/-- Whether the front end can take an entry of a queue now. -/
def takes (s : State) (x : Queue) : Bool := served s x && !x.drain && committed s x
/-- Whether the front end has something to do for a queue: an entry to take, or a map that cannot be read (R364). -/
def serves (s : State) (x : Queue) : Bool := served s x && !x.drain && ((queueRead s x x.mapWord 8).isNone || committed s x)

/-- The queue to serve next, among those awake: the highest effective priority, and turns among equals (R352). -/
def nextQueue (s : State) : Option Nat :=
  let qs := (s.fe.queues.filter fun p => p.2.awake && serves s p.2).map fun p => (p.1, queuePrio s p.2, (p.1 + 512 - s.fe.turn - 1) % 256)
  (qs.foldl (fun (b : Option (Nat × Nat × Nat)) q => match b with
    | none => some q
    | some o => if o.2.1 < q.2.1 || (o.2.1 == q.2.1 && decide (q.2.2 < o.2.2)) then some q else some o) none).map (·.1)

/-- QRSV_READ (R349): the next slot is reserved, or the read returns FULL. -/
def execQrsvRead (q : Nat) (s : State) : Out :=
  if !(hostUp s) || decide (256 ≤ q) then .next s else
  let x := s.queue q
  if x.waiting = x.slots then .next (answer s (.data 0xffffffff)) else
  let s := answer s (.data (BitVec.ofNat 64 (x.reserved % x.slots)))
  .next (s.modQueue q fun x => { x with reserved := (x.reserved + 1) % 2 ^ 32 })

/-- Whether ENABLE may be set (R348). -/
def enableOk (x : Queue) : Bool :=
  decide (6 ≤ x.log.toNat) && decide (x.log.toNat ≤ 16) && !(x.rcb == 0 && !x.host)

/-- QCTL_ENABLE (R348): enabling zeroes QCONS, the reservation count and the map. -/
def execQctlEnable (q : Nat) (on : Bool) (s : State) : Out :=
  if !(hostUp s) || decide (256 ≤ q) then .next s else
  let x := s.queue q
  if !on then .next (s.modQueue q fun x => { x with enable := false })
  else if x.enable || !(enableOk x) then .next s else
  let x := { x with enable := true, cons := 0, reserved := 0 }
  .next ((queueWrite s x x.map (List.replicate (x.slots / 8) 0)).modQueue q fun _ => x)

/-- QCTL_DRAIN (R348). -/
def execQctlDrain (q : Nat) (s : State) : Out :=
  if !(hostUp s) || decide (256 ≤ q) then .next s else .next (s.modQueue q fun x => { x with drain := true })

/-- Whether a queue has an entry that has not ended. -/
def queueBusy (s : State) (q : Nat) : Bool := s.fe.entries.any fun p => p.2.queue == q && p.2.graph.isNone

/-- QUEUE_DRAIN_END (R348). -/
def execQueueDrainEnd (q : Nat) (s : State) : Out :=
  if (s.queue q).drain && !(queueBusy s q) then .next (s.modQueue q fun x => { x with drain := false }) else .next s

/-- QUEUE_WAKE (R351): a wake core serves the queue from now on. -/
def execQueueWake (q : Nat) (s : State) : Out :=
  if (s.queue q).enable then .next (s.modQueue q fun x => { x with awake := true }) else .next s

/-- QUEUE_RESCAN (R351). -/
def execQueueRescan (s : State) : Out :=
  .next { s with fe := { s.fe with queues := s.fe.queues.map fun (p : Nat × Queue) => (p.1, { p.2 with awake := p.2.awake || p.2.enable }) } }

/-! ### Entries (R353) -/

/-- Whether the reserved bytes of a body are zero and its fields in their lists (R353). -/
def bodyOk (op : Nat) (bs : List Byte) : Bool :=
  if op = 0 then true
  else if op = 1 then zeroSpan bs 0x18 40
  else if op = 2 then zeroSpan bs 0x1a 38
  else if op = 3 then zeroSpan bs 0x21 31 && decide (fieldAt bs 0x20 1 ≤ 1)
  else if op = 4 then zeroSpan bs 0x21 31 && decide (fieldAt bs 0x20 1 ≤ 2)
  else if op = 5 then zeroSpan bs 0x19 39
  else if op = 6 then zeroSpan bs 0x21 7 && zeroSpan bs 0x30 16 && decide (fieldAt bs 0x20 1 ≤ 7)
  else false
/-- Whether an entry is not refused with ENTRY: it is listed, its reserved bits are zero, and a bootstrap queue takes it (R353, R358). -/
def entryOk (x : Queue) (bs : List Byte) : Bool :=
  decide (fieldAt bs 1 1 ≤ 1) && zeroSpan bs 2 2 && zeroSpan bs 8 8 && bodyOk (fieldAt bs 0 1) bs
  && (x.rcb != 0 || (fieldAt bs 0 1 == 6 && fieldAt bs 0x20 1 % 2 == 1))

/-- The next accept sequence number, with a journal entry in state accepted (R352, R362). -/
def accept (s : State) (e : Entry) : State × Nat :=
  let seq := s.fe.jseq.toNat
  let e := { e with state := 1, tacc := s.etime }
  let s := { s with fe := { s.fe with jseq := s.fe.jseq + 1, entries := s.fe.entries.set seq e } }
  (journal s seq e 1 0 0 0 0, seq)

/-- An entry refused with a status (R348, R357). -/
def refuse (s : State) (seq : Nat) (status : Status) : State :=
  match s.fe.entries.find? seq with
  | none => s
  | some e =>
    let s := finishEntry s seq 5 status 0 0
    if e.graph.isSome then s else s.modQueue e.queue fun x => { x with stat := BitVec.ofNat 32 status }
/-- An entry faulted at an address (R353). -/
def faultEntry (s : State) (seq : Nat) (e : MemFault) : State := finishEntry s seq 4 0x12 e.cause 0

/-- The next bequest sequence number of the region that an entry or a node names, which bounds what a RELEASE_ESTATES removes (R206). -/
def nextOf (s : State) (ctx : Nat) (a : Dword) : Dword := match readRcb s ctx a with
  | some r => (s.fe.regions.get r.1 {}).seq
  | none => 0

/-- ENTRY_CONSUME (R350, R352): the committed slot at QCONS is copied, its bit cleared, and the entry accepted or refused. A map or an entry that cannot be read ends the
fault domain of the queue's region (R364), and the queue is served no more until its next wake. -/
def execEntryConsume (q : Nat) (s : State) : Out :=
  let x := s.queue q
  let idle (s : State) : Out := .next (s.modQueue q fun x => { x with awake := false })
  if !(serves s x) then idle s else
  match queueFetch s x x.mapWord 8, queueFetch s x (x.base + BitVec.ofNat 64 (64 * x.slot)) 64 with
  | .error f, _ => idle (endQueue s x f)
  | .ok _, .error f => idle (endQueue s x f)
  | .ok m, .ok bs =>
    let ctx := (queueCtx s x).getD 0
    let s := queueWrite s x x.mapWord (bytesOf 8 (ofBytes m &&& ~~~(1#64 <<< (x.slot % 64))))
    let s := s.modQueue q fun x => { x with cons := x.cons + 1 }
    let s := { s with fe := { s.fe with turn := q } }
    let (s, seq) := accept s { queue := q, op := BitVec.ofNat 8 (fieldAt bs 0 1), fence := fieldAt bs 1 1 % 2 == 1, tag := wordAt bs 4, ctx := ctx, rcb := x.rcb,
                               bytes := bs, cut := nextOf s ctx (dwordAt bs 0x10) }
    .next (if entryOk x bs then s else refuse s seq 1)

/-- Whether an entry may start: an earlier WAIT of its queue holds it, FENCE (and a SIGNAL or a REGION_UPDATE, as if with it) waits for every earlier entry, and a launch for
the admission of every earlier launch (R352, R353, R358). A graph node starts through its graph. -/
def startable (s : State) (seq : Nat) (e : Entry) : Bool :=
  e.state == 1 && (e.graph.isSome ||
    let before := s.fe.entries.filter fun p => decide (p.1 < seq) && p.2.queue == e.queue && p.2.graph.isNone
    !(before.any fun p => p.2.op == 4)
    && (!(e.fence || e.op == 3 || e.op == 6) || before == [])
    && (e.op != 1 || !(before.any fun p => p.2.op == 1 && (s.fe.launches.find? p.1).isNone)))

/-- An entry that may start, for the meaning of its operation. -/
def starting (s : State) (seq : Nat) (op : BitVec 8) (k : Entry → Out) : Out :=
  match s.fe.entries.find? seq with
  | none => .next s
  | some e => if e.op == op && startable s seq e then k e else .next s

/-- NOP (R350). -/
def execNop (seq : Nat) (s : State) : Out :=
  starting s seq 0 fun _ => .next (finishEntry (startEntry s seq) seq 3 0 0 0)

/-- The place of a 64-bit word that SIGNAL or WAIT names (R353). The atomic of a SIGNAL reads the whole line of it at a memory-side unit (R334). -/
def wordPlace (s : State) (ctx : Nat) (a : Dword) (need : Need) : Except MemFault Loc :=
  if a.toNat % 8 != 0 then .error (alignFault 1 a) else
  match translateHome s ctx a.toNat need with
  | .error e => .error e
  | .ok x => match s.remoteFault ctx x.loc a (need == .store) with
    | some e => .error e
    | none =>
      if s.badAt x.loc 8 || (need == .store && atUnit x.leaf x.loc && s.badAt (x.loc / 128 * 128) 128) then .error (memerr 1 a) else .ok x.loc

/-- An atomic of the front end or the host: it enters the order of its location at the home (R149, R334). -/
def homeAtomic (s : State) (p : Loc) (bs : List Byte) : State := (s.atomicPut p bs).cleanLines ((List.range bs.length).map fun i => p + i)

/-- SIGNAL (R353). -/
def execSignal (seq : Nat) (s : State) : Out :=
  starting s seq 3 fun e =>
    match wordPlace s e.ctx (dwordAt e.bytes 0x10) .store with
    | .error f => .next (faultEntry s seq f)
    | .ok p =>
      let v := dwordAt e.bytes 0x18
      let new := if fieldAt e.bytes 0x20 1 = 0 then v else s.homeRead p 8 + v
      .next (finishEntry (homeAtomic (startEntry s seq) p (bytesOf 8 new)) seq 3 0 0 0)

/-- WAIT (R353): the entry starts; an address that faults ends it. -/
def execWait (seq : Nat) (s : State) : Out :=
  starting s seq 4 fun e =>
    match wordPlace s e.ctx (dwordAt e.bytes 0x10) .load with
    | .error f => .next (faultEntry s seq f)
    | .ok _ => .next (startEntry s seq)

/-- The test of a WAIT (R353). -/
def waitTest (e : Entry) (v : Dword) : Bool :=
  let w := dwordAt e.bytes 0x18
  let m := fieldAt e.bytes 0x20 1
  if m = 0 then decide (w ≤ v) else if m = 1 then v == w else v != w
/-- Whether a WAIT that has started can end. -/
def waitEnds (s : State) (e : Entry) : Bool := match wordPlace s e.ctx (dwordAt e.bytes 0x10) .load with
  | .error _ => true
  | .ok p => waitTest e (s.homeRead p 8)

/-- WAIT_SATISFIED (R353). -/
def execWaitSatisfied (seq : Nat) (s : State) : Out :=
  match s.fe.entries.find? seq with
  | none => .next s
  | some e =>
    if e.op != 4 || e.state != 2 then .next s else
    match wordPlace s e.ctx (dwordAt e.bytes 0x10) .load with
    | .error f => .next (faultEntry s seq f)
    | .ok p => if waitTest e (s.homeRead p 8) then .next (finishEntry s seq 3 0 0 0) else .next s

/-- RELEASE_ESTATES (R206): the estates of the region that existed at acceptance and whose tag the mask names are removed. -/
def execReleaseEstates (seq : Nat) (s : State) : Out :=
  starting s seq 5 fun e =>
    match readRcb s e.ctx (dwordAt e.bytes 0x10) with
    | none => .next (refuse s seq 7)
    | some (r, _) =>
      let mask := fieldAt e.bytes 0x18 1
      let s := removeEstates (startEntry s seq) fun x => x.region == r && x.ctx == e.ctx && decide (x.seq < e.cut) && mask.testBit x.tag.toNat
      .next (finishEntry s seq 3 0 0 0)

/-! ### Kernel graphs (R359) -/

/-- PREDi of a node. -/
def predsOf (bs : List Byte) : List Nat := (List.range (fieldAt bs 1 1)).map fun i => fieldAt bs (4 + 2 * i) 2
/-- Whether a node of a graph is legal (R359). A loop whose COUNT is 0 has an empty body, which breaks no rule. -/
def nodeOk (e : Entry) (i : Nat) : Bool :=
  let bs := e.nodeBytes i
  let kind := fieldAt bs 0 1
  let first := fieldAt bs 0x18 2
  let count := fieldAt bs 0x1a 2
  decide (fieldAt bs 1 1 ≤ 4) && zeroSpan bs 2 2 && zeroSpan bs 0x0c 4 && (predsOf bs).all (fun p => decide (p < i))
  && (if kind = 7 then zeroSpan bs 0x20 32 && fieldAt bs 0x1c 4 != 0 && (count == 0 || (decide (i < first) && decide (first + count ≤ e.ncount)))
      else (kind == 1 || kind == 3 || kind == 4 || kind == 5) && bodyOk kind bs)
  && (match e.loopOf i with
      | none => true
      | some l => (predsOf bs).all fun p => decide (e.loopFirst l ≤ p))
/-- Whether no two loop bodies of a graph overlap (R359). -/
def bodiesApart (e : Entry) : Bool :=
  let ls := (List.range e.ncount).filter e.isLoop
  ls.all fun l => ls.all fun m => l == m || e.loopCount l == 0 || e.loopCount m == 0 || decide (e.loopFirst l + e.loopCount l ≤ e.loopFirst m) || decide (e.loopFirst m + e.loopCount m ≤ e.loopFirst l)

/-- GRAPH (R359): the nodes are read and checked. -/
def execGraph (seq : Nat) (s : State) : Out :=
  starting s seq 2 fun e =>
    let n := e.ncount
    if n = 0 || 1024 < n then .next (refuse s seq 0x10) else
    match readHome s e.ctx (dwordAt e.bytes 0x10) (64 * n) with
    | .error f => .next (faultEntry s seq f)
    | .ok ns =>
      let e := { e with bytes := e.bytes ++ ns }
      if !((List.range n).all (nodeOk e) && bodiesApart e) then .next (refuse s seq 0x10)
      else .next (startEntry (s.modEntry seq fun _ => e) seq)

/-- Whether a node of a graph that runs can start: its predecessors have ended, and its loop runs an iteration (R359). -/
def nodeReady (e : Entry) (i : Nat) : Bool :=
  e.state == 2 && decide (i < e.ncount) && e.node? i == 0 && (predsOf (e.nodeBytes i)).all (fun p => decide (2 ≤ e.node? p))
  && match e.loopOf i with
    | none => true
    | some l => e.node? l == 1 && e.iters.get l 0 % 2 == 1

/-- The event that an entry's operation is (R353). -/
def opEvent (seq : Nat) (op : BitVec 8) (bs : List Byte) : List Event :=
  if op = 0 then [.nop seq] else if op = 1 then [.launch seq] else if op = 2 then [.graph seq] else if op = 3 then [.signal seq] else if op = 4 then [.wait seq]
  else if op = 5 then [.releaseEstates seq]
  else if op = 6 then
    let ops := fieldAt bs 0x20 1
    if ops.testBit 0 then [.regionCreate seq] else if ops.testBit 2 then [.regionCheckpoint seq] else if ops.testBit 1 then [.regionDestroy seq] else [.regionUpdate seq]
  else []

/-- GRAPH_NODE_START (R359): the node receives a journal entry of its own; after a predecessor that faulted it ends as faulted with GRAPH. -/
def execGraphNodeStart (seq node : Nat) (s : State) : Out :=
  match s.fe.entries.find? seq with
  | none => .next s
  | some e =>
    if !(e.op == 2 && nodeReady e node) then .next s else
    let bs := e.nodeBytes node
    let iter := match e.loopOf node with
      | none => 0
      | some l => e.iters.get l 0 / 2
    let (s, n) := accept s { queue := e.queue, graph := some seq, node := node, iter := iter, op := BitVec.ofNat 8 (fieldAt bs 0 1), tag := e.tag, ctx := e.ctx, rcb := e.rcb,
                             bytes := bs, cut := nextOf s e.ctx (dwordAt bs 0x10) }
    let s := s.modEntry seq fun p => { p with nodes := p.nodes.set node 1, iters := p.iters.set node 0 }
    if (predsOf bs).any fun p => e.node? p == 3 then .next (finishEntry s n 4 0x10 0 0)
    else if fieldAt bs 0 1 = 7 then .next ((startEntry s n).post [.loopIteration seq node])
    else .next (s.post (opEvent n (BitVec.ofNat 8 (fieldAt bs 0 1)) bs))

/-- The entry of a node of a graph that runs. -/
def nodeEntry (s : State) (seq node : Nat) : Option Nat :=
  (List.find? (fun (p : Nat × Entry) => p.2.graph == some seq && p.2.node == node) s.fe.entries).map Prod.fst

/-- Whether a loop node can test its condition: it waits for no body node (R359). -/
def loopReady (e : Entry) (node : Nat) : Bool :=
  e.isLoop node && e.node? node == 1 && (e.iters.get node 0 % 2 == 0 ||
    (List.range (e.loopCount node)).all fun j => decide (2 ≤ e.node? (e.loopFirst node + j)))

/-- LOOP_ITERATION (R359): the loop faults if a body node has; else it tests COND and LIMIT, and completes or runs its body once more. -/
def execLoopIteration (seq node : Nat) (s : State) : Out :=
  match s.fe.entries.find? seq, nodeEntry s seq node with
  | some e, some n =>
    if !(loopReady e node) then .next s else
    let k := e.iters.get node 0
    let body := (List.range (e.loopCount node)).map fun j => e.loopFirst node + j
    if k % 2 = 1 && body.any fun i => e.node? i == 3 then .next (finishEntry s n 4 0x10 0 0) else
    let iter := (k + 1) / 2
    match readHome s e.ctx (dwordAt (e.nodeBytes node) 0x10) 4 with
    | .error f => .next (faultEntry s n f)
    | .ok bs =>
      if ofBytes bs = 0 then .next (finishEntry s n 3 0 0 0)
      else if iter = fieldAt (e.nodeBytes node) 0x1c 4 then .next (finishEntry s n 3 0x11 0 0)
      else .next (s.modEntry seq fun p => { p with iters := p.iters.set node (2 * iter + 1), nodes := body.foldl (fun m i => m.set i 0) p.nodes })
  | _, _ => .next s

/-- What the front end can do next for an entry. -/
def entryDue (s : State) (seq : Nat) (e : Entry) : List Event :=
  if startable s seq e && !(e.op == 1 && (s.fe.launches.find? seq).isSome) then opEvent seq e.op e.bytes
  else if e.op == 4 && e.state == 2 then (if waitEnds s e then [.waitSatisfied seq] else [])
  else if e.op == 2 && e.state == 2 then
    ((List.range e.ncount).filter (nodeReady e)).map (.graphNodeStart seq) ++ ((List.range e.ncount).filter (loopReady e)).map (.loopIteration seq)
  else []

/-- What the front end can do next: entries to take and to run, and queues whose drain ends. -/
def frontEndDue (s : State) : List Event :=
  (match nextQueue s with
    | none => []
    | some q => [.entryConsume q])
  ++ s.fe.entries.flatMap (fun p => entryDue s p.1 p.2)
  ++ ((s.fe.queues.filter fun p => p.2.drain && !(queueBusy s p.1)).map fun p => .queueDrainEnd p.1)

end Sys2Proof.Machine
end

