-- ==== Sys2Proof/Machine/Admission.lean ====
section
/-!
DEFINITION. Launches up to their admission: checkpoint images and LPBs (R354, R355), code images (R62 to R66, R301), the lists of R187 and R190, the checks of R357, and the
traversal order (R326).

spec/ gives the section descriptors and the kernel table of a code image no layout; the one used here is the model's (log 10): a section descriptor is TYPE (4), reserved
(4), OFF (8), SIZE (8), with TYPE 1 the D-form, 2 the L-form and 3 the needle code; a kernel's entry is 256 bytes: the offsets of its entry point in the two sections (4 each),
REGS (2), TRAV (1), TWM (1), SCRATCH (4), BEQUEST (16), INHERIT present (1), and four inheritance entries from byte 64.
-/

namespace Sys2Proof.Machine

/-- The part number and the clusters of a package, and ID_GRADE (R3). -/
def partOf (s : State) : Nat := if s.g9140 then 0x9140 else 0x9200
def idGrade (s : State) : Nat := partOf s * 2 ^ 16 + s.nClusters * 2 ^ 8 + (if s.g9140 then 8 else 12) * 2 ^ 4 + s.stepping.toNat

/-! ### Code images -/

/-- A section descriptor: TYPE, OFF and SIZE (log 10). -/
structure Section where
  type : Nat
  off : Nat
  size : Nat
  deriving DecidableEq, Repr

def sectionsOf (bs : List Byte) (n : Nat) : List Section :=
  (List.range n).map fun i => ⟨fieldAt bs (24 * i) 4, fieldAt bs (24 * i + 8) 8, fieldAt bs (24 * i + 16) 8⟩

/-- What a code image gives a launch: its sections in memory and the kernel's entry (R62). -/
structure Sci where
  flags : Nat := 0
  sections : List Section := []
  transitOff : Nat := 0
  kernel : List Byte := []
  deriving DecidableEq, Repr

def Sci.section? (i : Sci) (t : Nat) : Option Section := i.sections.find? fun x => x.type == t
/-- Little-endian words of bytes. -/
def wordsOf (bs : List Byte) : List Word := (List.range (bs.length / 4)).map fun i => wordAt bs (4 * i)

/-- Whether a code-image header is legal (R62, R63, R64). -/
def sciHeaderOk (h : List Byte) : Bool :=
  fieldAt h 0 4 == 0x00494353 && fieldAt h 4 2 == 1 && decide (fieldAt h 6 2 < 16) && zeroSpan h 0x28 24 && fieldAt h 8 4 % 16 == 0
  && !((fieldAt h 6 2).testBit 1 && fieldAt h 8 4 / 256 != 0)
/-- Whether its configuration signature fits the package (R64). -/
def sciSigOk (s : State) (h : List Byte) : Bool :=
  let sig := fieldAt h 8 4
  ((fieldAt h 6 2).testBit 1 || (sig / 2 ^ 16 == partOf s && sig / 2 ^ 8 % 256 == s.nClusters)) && decide (sig / 16 % 16 ≤ s.stepping.toNat) && (fieldAt h 6 2).testBit 2
/-- Whether the code sections are there and start on 64-byte boundaries (R62). For an image where they do not, spec/ names no status; the model refuses it with IMG_FMT,
and tests the sections of form code alone (DESIGN CHOICE, log 10). -/
def sciSectionsOk (code : Nat) (i : Sci) : Bool :=
  (i.section? 1).isSome && (!(i.flags.testBit 3) || (i.section? 2).isSome) && i.sections.all fun x => decide (2 < x.type) || (code + x.off) % 64 == 0

/-- Whether the sections of an image can be read (R354, R357). -/
def codeReadable (s : State) (ctx : Nat) (code : Dword) (xs : List Section) : Bool :=
  xs.all fun x => match readHome s ctx (code + BitVec.ofNat 64 x.off) x.size with
    | .ok _ => true
    | .error _ => false

/-- Check 2 of R357: the code image named by CODE, and the entry of a kernel. -/
def readSci (s : State) (ctx : Nat) (code : Dword) (kernel : Nat) : Except Status Sci :=
  match readHome s ctx code 64 with
  | .error _ => .error 5
  | .ok h =>
    if !(sciHeaderOk h) then .error 2 else
    match readHome s ctx (code + dwordAt h 0x10) (24 * fieldAt h 0x0c 4), readHome s ctx (code + dwordAt h 0x20 + BitVec.ofNat 64 (256 * kernel)) 256 with
    | .ok ds, .ok k =>
      let i : Sci := { flags := fieldAt h 6 2, sections := sectionsOf ds (fieldAt h 0x0c 4), transitOff := fieldAt h 0x18 8, kernel := k }
      if !(sciSigOk s h) then .error 3
      else if !(sciSectionsOk code.toNat i) then .error 2
      else if codeReadable s ctx code i.sections then .ok i else .error 5
    | _, _ => .error 5

/-- One entry of the transit table, whose 16 bytes are `bs` (R301). -/
def transitEntry (s : State) (ctx : Nat) (code : Dword) (bs : List Byte) : Except Status Transit :=
  let n := fieldAt bs 0x0a 2
  match readHome s ctx (code + BitVec.ofNat 64 (fieldAt bs 0x0c 4)) (2 * n) with
  | .error _ => .error 5
  | .ok ps => .ok { dpc := fieldAt bs 0 4, lpc := fieldAt bs 4 4, dwb := fieldAt bs 8 1, lwb := fieldAt bs 9 1
                    pairs := (List.range n).map fun i => (fieldAt ps (2 * i) 1, fieldAt ps (2 * i + 1) 1) }
/-- Whether the loader takes a transit entry (R301). -/
def transitOk (i : Sci) (regs : Nat) (e : Transit) : Bool :=
  let inSect (t pc : Nat) : Bool := match i.section? t with
    | none => false
    | some x => decide (pc < x.size)
  decide (e.pairs.length ≤ 256) && decide (e.pairs.map Prod.fst).Nodup && decide (e.pairs.map Prod.snd).Nodup
  && e.pairs.all (fun p => decide (p.1 < regs) && decide (p.2 < regs)) && wbaseOk .d e.dwb && wbaseOk .l e.lwb && inSect 1 e.dpc && inSect 2 e.lpc
def transitEntries (s : State) (ctx : Nat) (code : Dword) (i : Sci) (regs : Nat) : List (List Byte) → Except Status (List Transit)
  | [] => .ok []
  | b :: bs =>
    match transitEntry s ctx code b, transitEntries s ctx code i regs bs with
    | .ok e, .ok es => if transitOk i regs e then .ok (e :: es) else .error 2
    | .error e, _ => .error e
    | _, .error e => .error e
/-- The transit table of an image; an image without the L-form has none (R65, R301). -/
def readTransit (s : State) (ctx : Nat) (code : Dword) (i : Sci) (regs : Nat) : Except Status (List Transit) :=
  if i.transitOff = 0 || !(i.flags.testBit 3) then .ok [] else
  let a := code + BitVec.ofNat 64 i.transitOff
  match readHome s ctx a 4 with
  | .error _ => .error 5
  | .ok n =>
    let n := fieldAt n 0 4
    match readHome s ctx (a + 4) (16 * n) with
    | .error _ => .error 5
    | .ok bs => transitEntries s ctx code i regs ((List.range n).map fun j => (bs.drop (16 * j)).take 16)

/-- The needle code of an image: its `.needle` sections one after the other (R232). -/
def readNeedle (s : State) (ctx : Nat) (code : Dword) : List Section → List Word
  | [] => []
  | x :: xs =>
    (if x.type = 3 then match readHome s ctx (code + BitVec.ofNat 64 x.off) x.size with
      | .ok bs => wordsOf bs
      | .error _ => []
    else []) ++ readNeedle s ctx code xs
def needleSize (i : Sci) : Nat := (i.sections.filter fun x => x.type == 3).foldl (fun a x => a + x.size) 0

/-- The image facts of a launch. -/
def imageOf (s : State) (ctx : Nat) (code : Dword) (i : Sci) (transit : List Transit) : Image :=
  let at_ (t : Nat) : Section := (i.section? t).getD ⟨t, 0, 0⟩
  let va (t : Nat) : Dword := code + BitVec.ofNat 64 (at_ t).off
  { narrow := i.flags.testBit 0, lform := i.flags.testBit 3, sectD := va 1, sectL := va 2, sizeD := (at_ 1).size, sizeL := (at_ 2).size
    entryD := va 1 + BitVec.ofNat 64 (fieldAt i.kernel 0 4), entryL := va 2 + BitVec.ofNat 64 (fieldAt i.kernel 4 4)
    needle := readNeedle s ctx code i.sections, transit := transit }

/-! ### Lists of the LPB (R187, R190) -/

/-- Whether two lists of registers `[b, b + n)` overlap. -/
def rangesMeet (a b : Nat × Nat) : Bool := decide (a.1 < b.1 + b.2) && decide (b.1 < a.1 + a.2)
/-- The legal values of a list of at most four entries: the valid ones first, the others wholly zero (R187, R190). -/
def validPrefix (es : List (List Byte)) : Option (List (List Byte)) :=
  let v := es.takeWhile fun b => decide (128 ≤ fieldAt b 0 1)
  if (es.drop v.length).all fun b => b.all (· == 0) then some v else none
/-- Whether tags differ, and ranges lie below REGS and apart (R187, R190). -/
def listOk (regs : Nat) (es : List (Nat × Nat × Nat)) : Bool :=
  decide (es.map (·.1)).Nodup && es.all (fun e => decide (1 ≤ e.2.2) && decide (e.2.2 ≤ 32) && decide (e.2.1 + e.2.2 ≤ regs))
  && es.zipIdx.all fun p => es.zipIdx.all fun q => p.2 == q.2 || !(rangesMeet p.1.2 q.1.2)

def bequestOf (b : List Byte) : Bequest := ⟨BitVec.ofNat 3 (fieldAt b 0 1), fieldAt b 1 1, fieldAt b 2 1⟩
/-- The bequest list, where it is legal (R187). -/
def parseBequest (bs : List Byte) (regs : Nat) : Option (List Bequest) :=
  (validPrefix ((List.range 4).map fun i => (bs.drop (4 * i)).take 4)).bind fun v =>
    if v.all (fun b => fieldAt b 0 1 / 8 % 16 == 0 && fieldAt b 3 1 == 0) && listOk regs (v.map fun b => (fieldAt b 0 1 % 8, fieldAt b 1 1, fieldAt b 2 1))
    then some (v.map bequestOf) else none

/-- A signed field. -/
def signedAt (bs : List Byte) (o n : Nat) : Int :=
  let v := fieldAt bs o n
  if v < 2 ^ (8 * n - 1) then v else (v : Int) - 2 ^ (8 * n)
def inheritOf (b : List Byte) : Inherit :=
  let f := fieldAt b 0 1
  { tag := BitVec.ofNat 3 f, dst := fieldAt b 1 1, count := fieldAt b 2 1, affine := f.testBit 5, fault := f.testBit 4, copy := f.testBit 3
    m := (List.range 3).map fun i => signedAt b (4 + 2 * i) 2, o := (List.range 3).map fun i => signedAt b (0x0c + 4 * i) 4
    ext := (List.range 3).map fun i => fieldAt b (0x18 + 4 * i) 4 }
/-- Whether the fields of one valid inheritance entry are legal (R190). -/
def inheritOk (b : List Byte) : Bool :=
  !((fieldAt b 0 1).testBit 6) && fieldAt b 3 1 == 0 && zeroSpan b 0x24 12 &&
  if (fieldAt b 0 1).testBit 5 then zeroSpan b 0x0a 2 && (List.range 3).all (fun i => fieldAt b (0x18 + 4 * i) 4 != 0) else zeroSpan b 4 32
/-- The inheritance specification, where it is legal (R190). -/
def parseInherit (bs : List Byte) (regs : Nat) : Option (List Inherit) :=
  (validPrefix ((List.range 4).map fun i => (bs.drop (48 * i)).take 48)).bind fun v =>
    if v.all inheritOk && listOk regs (v.map fun b => (fieldAt b 0 1 % 8, fieldAt b 1 1, fieldAt b 2 1)) then some (v.map inheritOf) else none

/-! ### The LPB (R355) -/

/-- The launch defaults: of the kernel's entry with DEFL, else the LPB's own (R355). -/
structure Defaults where
  regs : Nat
  scratch : Nat
  trav : Nat
  width : Nat
  bequest : List Byte
  deriving DecidableEq, Repr

def defl (p : List Byte) : Bool := (fieldAt p 0x0c 4).testBit 7
def defaultsOf (p : List Byte) (i : Sci) : Defaults :=
  if defl p then ⟨fieldAt i.kernel 8 2, fieldAt i.kernel 0x0c 4, fieldAt i.kernel 0x0a 1, fieldAt i.kernel 0x0b 1 + 1, (i.kernel.drop 0x10).take 16⟩
  else ⟨fieldAt p 0x22 2, fieldAt p 0x24 4, fieldAt p 0x0c 4 / 16 % 8, fieldAt p 0x0c 4 / 256 % 64 + 1, (p.drop 0x40).take 16⟩
/-- The bytes of the inheritance entries: none, or those that can be read (R190, R355). -/
def inheritBytes (s : State) (ctx : Nat) (p : List Byte) (i : Sci) : Option (List Byte) :=
  if defl p then some (if fieldAt i.kernel 0x20 1 = 0 then List.replicate 192 0 else (i.kernel.drop 64).take 192)
  else if dwordAt p 0x50 = 0 then some (List.replicate 192 0)
  else match readHome s ctx (dwordAt p 0x50) 192 with
    | .ok bs => some bs
    | .error _ => none

/-- KIND, threads of a workgroup and the kinds of core a launch may take: D-cores alone for an image without the L-form (R65). -/
def kindOf (p : List Byte) : Nat := fieldAt p 0x0c 4 / 2 % 4
def threadsOf (p : List Byte) : Nat := fieldAt p 0x1c 2 * fieldAt p 0x1e 2 * fieldAt p 0x20 2

/-- Check 3 of R357: LPB 4, TRAV 8. A residue buffer's base and size are multiples of 16; a size below 16 is left to check 7 (R205, R355). -/
def lpbStatus (p : List Byte) (i : Sci) (d : Defaults) : Option Status :=
  let k := kindOf p
  let own := fieldAt p 0x22 2 == 0 && fieldAt p 0x24 4 == 0 && fieldAt p 0x0c 4 / 16 % 8 == 0 && fieldAt p 0x0c 4 / 256 % 64 == 0 && zeroSpan p 0x40 24
  if !(decide (fieldAt p 0x0c 4 < 2 ^ 14) && !((fieldAt p 0x0c 4).testBit 3) && zeroSpan p 0x88 120 && (!(defl p) || own) && decide (k < 3) && decide (d.trav < 4) && decide (d.width ≤ 64)
      && (k != 2 || i.flags.testBit 3) && fieldAt p 0x10 4 != 0 && fieldAt p 0x14 4 != 0 && fieldAt p 0x18 4 != 0
      && decide (1 ≤ threadsOf p) && decide (threadsOf p ≤ if k = 2 then 256 else 1024) && d.regs % 16 == 0 && decide (16 ≤ d.regs) && decide (d.regs ≤ 256)
      && decide (d.scratch ≤ if k = 2 then 262144 else 524288) && decide (fieldAt p 0x70 4 ≤ 32768)
      && (dwordAt p 0x58 == 0 || ((dwordAt p 0x58).toNat % 16 == 0 && (decide (fieldAt p 0x60 4 < 16) || fieldAt p 0x60 4 % 16 == 0)))) then some 4
  else if decide (2 ≤ d.trav) && !([1, 2, 4, 8, 16, 32, 64].contains d.width) then some 8
  else none

/-- The LPB as the machine keeps it. -/
def lpbOf (p : List Byte) (i : Sci) (d : Defaults) (bq : List Bequest) (ih : List Inherit) : Lpb :=
  { code := dwordAt p 0, kernel := wordAt p 8, coop := (fieldAt p 0x0c 4).testBit 0
    kind := if i.flags.testBit 3 then BitVec.ofNat 2 (kindOf p) else 1
    trav := BitVec.ofNat 3 d.trav, width := d.width, gx := fieldAt p 0x10 4, gy := fieldAt p 0x14 4, gz := fieldAt p 0x18 4
    wx := fieldAt p 0x1c 2, wy := fieldAt p 0x1e 2, wz := fieldAt p 0x20 2, regs := d.regs, scratch := d.scratch
    args := dwordAt p 0x28, rcb := dwordAt p 0x30, rngkey := dwordAt p 0x38, bequest := bq, inherit := ih
    residue := dwordAt p 0x58, ressize := fieldAt p 0x60 4, nring := if wordAt p 0x64 = 0xffffffff then none else some (fieldAt p 0x64 4)
    tlrbase := dwordAt p 0x68, tlrcount := fieldAt p 0x70 4, clbar := wordAt p 0x74, trapframe := dwordAt p 0x78, slotdir := dwordAt p 0x80 }

def Lpb.threads (p : Lpb) : Nat := p.wx * p.wy * p.wz
/-- SCRATCH rounded up to whole units of 1 KiB (R158). -/
def Lpb.alloc (p : Lpb) : Nat := (p.scratch + 1023) / 1024 * 1024
def Lpb.groups (p : Lpb) : Nat := p.gx * p.gy * p.gz
/-- Subgroups of a workgroup (R11, R36). -/
def Launch.nsub (l : Launch) : Nat := let w := if l.image.narrow then 32 else 64; (l.lpb.threads + w - 1) / w
/-- Whether a core is of a kind that the launch allows (R327, R355). -/
def Lpb.allows (p : Lpb) (c : Nat) : Bool := p.kind == 0 || (p.kind == 1 && !(isL c)) || (p.kind == 2 && isL c)
/-- Whether one workgroup fits an idle core of a kind (R157). -/
def fitsKind (l : Launch) (c : Nat) : Bool :=
  l.lpb.allows c && decide (l.nsub ≤ rowsOf c * slotsOf c) && decide (l.lpb.alloc ≤ scratchOf c)

/-! ### Regions and budgets (R356, R357) -/

/-- Whether a place is that of the RCB with which a context was made (R13). -/
def isRoot (s : State) (ctx : Nat) (p : Loc) : Bool := (s.fe.contexts.find? ctx).any fun c => c.root == p

/-- Check 4 of R357: the RCB and its ancestry, own first, up to the root of the context; XCTX 7, DEPTH 6 (R13). -/
def chainOf (s : State) (ctx : Nat) : Nat → Dword → Except Status (List (Loc × List Byte))
  | 0, _ => .error 6
  | fuel + 1, a =>
    match readRcb s ctx a with
    | none => .error 7
    | some r => if dwordAt r.2 0 = 0 then (if isRoot s ctx r.1 then .ok [r] else .error 7) else match chainOf s ctx fuel (dwordAt r.2 0) with
      | .ok rs => .ok (r :: rs)
      | .error e => .error e

/-- A region that sets a bound of its own for the field with override bit `b`: its place and the bound (R356). -/
def boundsOf (b o n : Nat) : List (Loc × List Byte) → List (Loc × Nat)
  | [] => []
  | [r] => [(r.1, fieldAt r.2 o n)]
  | r :: rs => if (wordAt r.2 8).getLsbD b then (r.1, fieldAt r.2 o n) :: boundsOf b o n rs else boundsOf b o n rs
def coreBounds := boundsOf 4 0x18 4
def regBounds := boundsOf 5 0x20 8
def spBounds := boundsOf 6 0x28 8

/-- What a workgroup of a launch draws: register bytes and scratchpad bytes (R356). -/
def Lpb.regBytes (p : Lpb) : Nat := p.threads * p.regs * 4

/-- Status 0x0A: one workgroup fits every budget and a core of an allowed kind (R357, check 6). -/
def budgetOk (rs : List (Loc × List Byte)) (l : Launch) : Bool :=
  (fitsKind l 0 || fitsKind l 1) && (coreBounds rs).all (fun b => decide (1 ≤ b.2)) && (regBounds rs).all (fun b => decide (l.lpb.regBytes ≤ b.2))
  && (spBounds rs).all (fun b => decide (l.lpb.alloc ≤ b.2))

/-- Workgroups of a launch that an idle core of a kind takes (R357, check 8). -/
def perCore (l : Launch) (c : Nat) : Nat :=
  if !(fitsKind l c) then 0
  else if l.lpb.alloc = 0 then rowsOf c * slotsOf c / l.nsub else min (rowsOf c * slotsOf c / l.nsub) (scratchOf c / l.lpb.alloc)
/-- Status 0x09: every workgroup of a cooperative launch fits at once (R357, check 8). -/
def coopOk (s : State) (rs : List (Loc × List Byte)) (l : Launch) : Bool :=
  let d := perCore l 0
  let k := max d (perCore l 1)
  let w := l.lpb.groups
  let need := (w + k - 1) / k
  k != 0 && decide (need ≤ s.nClusters * (if k = d then 6 else 2)) && (coreBounds rs).all (fun b => decide (need ≤ b.2))
  && (regBounds rs).all (fun b => decide (w * l.lpb.regBytes ≤ b.2)) && (spBounds rs).all (fun b => decide (w * l.lpb.alloc ≤ b.2))

/-! ### Estates at admission (R203) -/

/-- Room that one thread's bequests take, and that a launch reserves (R203). -/
def bequestRoom (p : Lpb) : Nat := p.groups * p.threads * (p.bequest.map fun e => recordSize e.count).foldl (· + ·) 0
/-- Whether every page of the backing store is writable memory of the package (R203, rule 2). -/
def storeMapped (s : State) (ctx base size : Nat) : Bool :=
  (List.range ((base % 4096 + size + 4095) / 4096)).all fun i => match translateHome s ctx (base / 4096 * 4096 + 4096 * i) .store with
    | .error _ => false
    | .ok x => !(isRemote x.loc) && decide (tierOf x.loc < 2)
/-- The region whose store estates of a launch are drawn from, with its base and size (R356). -/
def storeOf (rs : List (Loc × List Byte)) : Loc × Nat × Nat := match effective 8 rs with
  | none => (0, 0, 0)
  | some r => (r.1, fieldAt r.2 0x38 8, fieldAt r.2 0x40 8)
/-- Check 7 of R357, for a launch whose lists are legal; `room` is what it reserves: EST_SPEC 0x0B, EST_XPKG 0x0C, EST_BUDGET 0x0D (R203, R205). -/
def estateStatus (s : State) (rs : List (Loc × List Byte)) (ctx : Nat) (p : Lpb) (room : Nat) : Option Status :=
  if p.residue != 0 && decide (p.ressize < 16) then some 0x0b
  else if p.bequest == [] && p.inherit == [] && room == 0 then none
  else
    let st := storeOf rs
    if !(storeMapped s ctx st.2.1 st.2.2) then some 0x0c
    else if st.2.2 < (s.fe.regions.get st.1 {}).reserved + room then some 0x0d else none

/-! ### Traversal (R326) -/

/-- One step of the Hilbert curve. -/
def hilbertStep (x y t q : Nat) : Nat × Nat :=
  let rx := t / 2 % 2
  let ry := (t ^^^ rx) % 2
  let p := if ry = 0 then (let f := if rx = 1 then (q - 1 - x, q - 1 - y) else (x, y); (f.2, f.1)) else (x, y)
  (p.1 + q * rx, p.2 + q * ry)
def hilbert : Nat → Nat → Nat → Nat → Nat → Nat × Nat
  | 0, _, x, y, _ => (x, y)
  | fuel + 1, q, x, y, t => let p := hilbertStep x y t q; hilbert fuel (2 * q) p.1 p.2 (t / 4)
/-- Bits 0, 2, 4, ... of a number. -/
def evenBits : Nat → Nat → Nat
  | 0, _ => 0
  | fuel + 1, d => d % 2 + 2 * evenBits fuel (d / 4)
/-- The curve of Morton or Hilbert order on a square of side 2^n. -/
def curve (hil : Bool) (n d : Nat) : Nat × Nat := if hil then hilbert n 1 0 0 d else (evenBits n d, evenBits n (d / 2))
/-- The smallest n with 2^n at least `k`. -/
def logUp : Nat → Nat → Nat
  | 0, _ => 0
  | fuel + 1, k => if k ≤ 1 then 0 else logUp fuel ((k + 1) / 2) + 1

/-- The workgroups of one z-plane in traversal order, as (x, y) (R326). -/
def planeOrder (trav w gx gy : Nat) : List (Nat × Nat) :=
  let up (a : Nat) : Nat := (a + w - 1) / w
  if trav = 0 then (List.range (up gy)).flatMap fun t => (List.range gx).flatMap fun x =>
    (List.range (min (t * w + w) gy - t * w)).map fun j => (x, t * w + j)
  else if trav = 1 then (List.range (up gx)).flatMap fun t => (List.range gy).flatMap fun y =>
    (List.range (min (t * w + w) gx - t * w)).map fun j => (t * w + j, y)
  else
    let n := max (logUp 32 (up gx)) (logUp 32 (up gy))
    (List.range (4 ^ n)).flatMap fun d =>
      let b := curve (trav == 3) n d
      (List.range w).flatMap fun j => ((List.range w).map fun i => (b.1 * w + i, b.2 * w + j)).filter fun p => decide (p.1 < gx) && decide (p.2 < gy)
/-- The linear ids of a launch's workgroups in traversal order (R14, R326). -/
def traversal (p : Lpb) : List Nat :=
  (List.range p.gz).flatMap fun z => (planeOrder p.trav.toNat p.width p.gx p.gy).map fun q => (z * p.gy + q.2) * p.gx + q.1

/-! ### Admission (R357) -/

/-- Check 1 of R357: the image's header and LPB, 320 bytes; IMG_ADDR 5, IMG_FMT 2 (R354). -/
def readImage (s : State) (ctx : Nat) (a : Dword) : Except Status (List Byte) :=
  if a.toNat % 64 != 0 then .error 5 else
  match readHome s ctx a 320 with
  | .error _ => .error 5
  | .ok h =>
    if fieldAt h 0 4 != 0x00504b43 || decide (1 < fieldAt h 4 2) || decide (1 < fieldAt h 6 2) || !(zeroSpan h 0x20 32) then .error 2
    else if fieldAt h 4 2 = 0 && !(zeroSpan h 0x10 16) then .error 2
    else if fieldAt h 4 2 = 1 && (fieldAt h 0x10 4 / 256 != idGrade s / 256 || fieldAt h 0x10 4 % 16 != idGrade s % 16) then .error 2
    else .ok h

/-- A SAVED image's state, whose number and tag its section of TYPE 2 holds; IMG_FMT where a TYPE is outside 1 to 15 or reserved bytes of a descriptor are not zero, and
IMG_ADDR where a section cannot be read (R6, R354, log 13). -/
def readSaved (s : State) (ctx : Nat) (a : Dword) (h : List Byte) : Except Status Saved :=
  let n := fieldAt h 0x14 4
  match readHome s ctx (a + dwordAt h 0x18) (24 * n) with
  | .error _ => .error 5
  | .ok ds =>
    let xs := sectionsOf ds n
    if (xs.any fun x => x.type == 0 || decide (15 < x.type)) || (List.range n).any fun i => fieldAt ds (24 * i + 4) 4 != 0 then .error 2
    else if !(codeReadable s ctx a xs) then .error 5 else
    match xs.find? fun x => x.type == 2 with
    | none => .error 2
    | some x => match readHome s ctx (a + BitVec.ofNat 64 x.off) 16 with
      | .error _ => .error 5
      | .ok bs => match s.fe.saved.find? (dwordAt bs 0).toNat with
        | none => .error 2
        | some v => if v.tag = dwordAt bs 8 then .ok v else .error 2
/-- The estate records of a SAVED image (R201, R354). -/
def savedRecords (s : State) (ctx : Nat) (a : Dword) (h : List Byte) : List Byte :=
  match readHome s ctx (a + dwordAt h 0x18) (24 * fieldAt h 0x14 4) with
  | .error _ => []
  | .ok ds => ((sectionsOf ds (fieldAt h 0x14 4)).filter fun x => x.type == 1).flatMap fun x =>
      match readHome s ctx (a + BitVec.ofNat 64 x.off) x.size with
      | .error _ => []
      | .ok bs => bs
/-- Records cut one after the other: key, sequence number, tag and registers (R201). -/
def cutRecords : Nat → List Byte → List (Dword × Dword × BitVec 3 × List Word)
  | 0, _ => []
  | fuel + 1, bs =>
    let n := fieldAt bs 0x11 1
    if n = 0 then [] else
    (dwordAt bs 0, dwordAt bs 8, BitVec.ofNat 3 (fieldAt bs 0x10 1), (List.range n).map fun j => wordAt bs (0x20 + 4 * j)) :: cutRecords fuel (bs.drop (recordSize n))

/-- The region that an RCB address names to the context of a launch now: its place, fault domain and store; the launch's own where the RCB is not legal (R207). -/
def regionNow (s : State) (l : Launch) (rcb : Dword) : Loc × Word × Loc := match chainOf s l.ctx 8 rcb with
  | .ok rs => ((rs.map Prod.fst).headD 0, BitVec.ofNat 32 (effField rs 1 0x10 4), (storeOf rs).1)
  | .error _ => (l.region, l.fdom, l.store)
/-- The estates of the records `rs` of an image, whose marks are those that the machine kept of it (`es`); one that its region holds still is not made again (R207). -/
def estatesFrom (s : State) (l : Launch) : List (Dword × Dword × BitVec 3 × List Word) → List (Dword × Bool × Dword × Nat) → List Estate
  | [], _ => []
  | r :: rs, es =>
    match es.find? fun e => e.2.2.1 == r.2.1 with
    | none => estatesFrom s l rs es
    | some e =>
      let at_ := regionNow s l e.1
      let x : Estate := { ctx := l.ctx, region := at_.1, fdom := at_.2.1, store := at_.2.2, key := r.1, tag := r.2.2.1, seq := r.2.1, regs := r.2.2.2,
                          launch := e.2.2.2, eligible := e.2.1, since := s.fe.order, place := .store 0 }
      if s.fe.estates.any x.same then estatesFrom s l rs (es.erase e) else x :: estatesFrom s l rs (es.erase e)
/-- The estates that a restore writes into the backing store: those of the image that the region does not hold still (R207). -/
def restoredEstates (s : State) (l : Launch) (v : Saved) (bs : List Byte) : List Estate := estatesFrom s l (cutRecords bs.length bs) v.estates

/-- The code image that a launch takes: the newest where the loader has superseded the one that CODE names (R304). `fuel` bounds the swaps. -/
def currentCode (s : State) (ctx : Nat) : Nat → Dword → Dword
  | 0, a => a
  | fuel + 1, a => match (s.fe.images.find? fun i => i.ctx == ctx && i.code == a).bind (·.by_) with
    | none => a
    | some b => currentCode s ctx fuel b
/-- The loader maps the image of a launch, where it has not (R304). -/
def mapImage (s : State) (l : Launch) : State :=
  if s.fe.images.any fun i => i.ctx == l.ctx && i.code == l.lpb.code then s
  else { s with fe := { s.fe with images := s.fe.images ++ [{ ctx := l.ctx, code := l.lpb.code, image := l.image }] } }

/-- Whether a launch waits behind rule 4 of R203: an earlier launch of its region that has a bequest list has not ended. -/
def heldByOrder (s : State) (seq : Nat) (l : Launch) : Bool :=
  l.lpb.inherit != [] && s.fe.entries.any fun p => decide (p.1 < seq) && p.2.op == 1 && p.2.ctx == l.ctx &&
    match s.fe.launches.find? p.1 with
    | some o => o.regions.head? == l.regions.head? && o.lpb.bequest != []
    | none => (match readImage s p.2.ctx (dwordAt p.2.bytes 0x10) with
      | .error _ => false
      | .ok h =>
        let q := h.drop 64
        match readSci s p.2.ctx (currentCode s p.2.ctx 64 (dwordAt q 0)) (fieldAt q 8 4), readRcb s p.2.ctx (dwordAt q 0x30) with
        | .ok i, some r => some r.1 == l.regions.head? && (match parseBequest (defaultsOf q i).bequest (defaultsOf q i).regs with
            | some b => b != []
            | none => false)
        | _, _ => false)

/-- Checks 1 to 5 of R357: the launch as its image gives it, the RCBs of its ancestry, and whether its lists are legal; or the status. -/
def readLaunch (s : State) (e : Entry) : Except Status (Launch × List (Loc × List Byte) × Bool × List Byte) :=
  match (readImage s e.ctx (dwordAt e.bytes 0x10)).bind fun h =>
      if fieldAt h 4 2 = 0 then .ok h else (readSaved s e.ctx (dwordAt e.bytes 0x10) h).map fun _ => h with
  | .error st => .error st
  | .ok h =>
    let p := h.drop 64
    let code := currentCode s e.ctx 64 (dwordAt p 0)
    match readSci s e.ctx code (fieldAt p 8 4) with
    | .error st => .error st
    | .ok i =>
      let d := defaultsOf p i
      match readTransit s e.ctx code i d.regs with
      | .error st => .error st
      | .ok tr =>
        match lpbStatus p i d with
        | some st => .error st
        | none =>
          match chainOf s e.ctx 8 (dwordAt p 0x30) with
          | .error st => .error st
          | .ok rs =>
            let bq := parseBequest d.bequest d.regs
            let ih := (inheritBytes s e.ctx p i).bind fun b => parseInherit b d.regs
            let lpb := { lpbOf p i d (bq.getD []) (ih.getD []) with code := code }
            let legal := bq.isSome && ih.isSome
            let l : Launch := {
              ctx := e.ctx, regions := rs.map Prod.fst, prio := effField rs 0 0x0e 1, fdom := BitVec.ofNat 32 (effField rs 1 0x10 4)
              dbg := effField rs 3 0x16 1 == 1, vector := BitVec.ofNat 64 (effField rs 7 0x30 8), lpb := lpb, raw := p
              image := imageOf s e.ctx code i tr, todo := traversal lpb, store := (storeOf rs).1 }
            if 8192 < needleSize i then .error 0x0e
            else match lpb.nring with
              | some r => if r % 64 != 0 || decide (lpb.alloc < r + 2240) then .error 0x0f else .ok (l, rs, legal, h)
              | none => .ok (l, rs, legal, h)

/-- Checks 6 to 8 of R357. -/
def fitStatus (s : State) (l : Launch) (rs : List (Loc × List Byte)) (legal : Bool) (room : Nat) : Option Status :=
  if !(budgetOk rs l) then some 0x0a
  else if !legal then some 0x0b
  else match estateStatus s rs l.ctx l.lpb room with
    | some st => some st
    | none => if l.lpb.coop && !(coopOk s rs l) then some 9 else none

/-- Room of a region's store reserved (R203). -/
def takeRoom (s : State) (ctx : Nat) (store : Loc) (n : Nat) : State :=
  let reg := s.fe.regions.get store { ctx := ctx }
  { s with fe := { s.fe with regions := s.fe.regions.set store { reg with reserved := reg.reserved + n } } }
/-- A launch admitted: its room is reserved (R203), it takes its place in the order of admissions (R192), and its code image is mapped (R304). -/
def admitted (s : State) (seq : Nat) (l : Launch) (room : Nat) : State :=
  let s := mapImage (takeRoom s l.ctx l.store room) l
  let l := { l with reserved := room, admitted := s.fe.order }
  { s with fe := { s.fe with launches := s.fe.launches.set seq l, order := s.fe.order + 1 } }

/-- A stopped workgroup whose numbers in the model are `d` higher: an image that is launched twice makes two workgroups. -/
def Stopped.shift (d : Nat) (x : Stopped) : Stopped :=
  { x with
    num := x.num + d
    wg := { x.wg with
      posted := x.wg.posted.map fun (p : Nat × Posted) => (p.1, { p.2 with sg := p.2.sg + d, cmd := p.2.cmd + d })
      stopped := x.wg.stopped.map fun (p : Nat × Needle) => (p.1, { p.2 with cmd := p.2.cmd.map fun q => (q.1 + d, q.2) }) }
    subs := x.subs.map fun (p : Nat × Sub) => (p.1 + d, { p.2 with
      wg := p.2.wg + d, threads := p.2.threads.map fun (t : Nat × Thread) => (t.1, { t.2 with posts := t.2.posts.map fun q => (q.1, q.2 + d) }) })
    owners := x.owners.map fun p => (p.1, p.2 + d)
    waiters := x.waiters.map fun p => (p.1, p.2 + d)
    turns := x.turns.map fun p => (p.1, p.2.map (· + d))
    cmds := x.cmds.map fun (p : Nat × Cmd) => (p.1 + d, { p.2 with joins := p.2.joins.map fun j => ((j.1.1 + d, j.1.2), j.2) })
    orrery := x.orrery.map fun (o : OCmd) => { o with sg := o.sg + d, wg := o.wg + d, cmd := o.cmd + d }
    tasks := x.tasks.map fun (t : TileTask) => { t with num := t.num + d, wg := t.wg + d, sg := t.sg + d, cmd := t.cmd + d, deps := t.deps.map (· + d) } }

/-- What a launch and its estates take of a region's store at a restore (R203, R207). -/
def restoreRoom (l : Launch) (v : Saved) (es : List Estate) : Nat :=
  v.launch.reserved + ((es.filter fun e => e.store == l.store).map fun e => recordSize e.regs.length).foldl (· + ·) 0
/-- An estate of an image written into its region's backing store (R207, R209). -/
def restoreEstate (s : State) (l : Launch) (e : Estate) : State :=
  let r := storeOffset s e
  let s := if e.store = l.store then r.1 else takeRoom r.1 e.ctx e.store (recordSize e.regs.length)
  storeEstate { s with fe := { s.fe with estates := s.fe.estates ++ [{ e with place := .store r.2 }] } } e r.2
/-- The sequence counter of a region is at least what an image carries for it (R189, R207). -/
def raiseSeq (s : State) (l : Launch) (q : Dword × Dword) : State :=
  let r := (regionNow s l q.1).1
  let reg := s.fe.regions.get r { ctx := l.ctx, rcb := q.1 }
  { s with fe := { s.fe with regions := s.fe.regions.set r { reg with seq := if reg.seq < q.2 then q.2 else reg.seq } } }

/-- A launch of a SAVED image takes up the state the image holds, under its own context: its workgroups wait to be placed again, and the estates of the image are written
into the store; those that the stopped launch had left are this launch's (R207, R280). -/
def resume (s : State) (seq : Nat) (l : Launch) (v : Saved) (es : List Estate) : State :=
  let d := s.fresh
  let l := { l with
    todo := v.launch.todo
    stopped := v.stopped.map fun x => { x.shift d with wg := { (x.shift d).wg with launch := seq, ctx := l.ctx } }
    cores := v.launch.cores
    failure := v.launch.failure }
  let s := admitted { s with fresh := 2 * d } seq l (restoreRoom l v es)
  let s := s.modLaunch seq fun (x : Launch) => { x with reserved := v.launch.reserved }
  let s := es.foldl (fun s e => restoreEstate s l e) s
  let s := { s with fe := { s.fe with
      estates := s.fe.estates.map fun (e : Estate) => if e.launch = v.was && !e.eligible && e.ctx == l.ctx then { e with launch := seq } else e } }
  v.seqs.foldl (fun s q => raiseSeq s l q) s

/-- LAUNCH (R352, R354): an entry whose dependences have resolved goes to admission. -/
def execLaunch (seq : Nat) (s : State) : Out :=
  starting s seq 1 fun _ => if (s.fe.launches.find? seq).isSome then .next s else .next (s.post [.launchAdmission seq])

/-- LAUNCH_ADMISSION (R357): the checks in order; the first that fails refuses the launch. A launch held by rule 4 of R203 waits. -/
def execLaunchAdmission (seq : Nat) (s : State) : Out :=
  starting s seq 1 fun e =>
    if (s.fe.launches.find? seq).isSome then .next s else
    match readLaunch s e with
    | .error st => .next (refuse s seq st)
    | .ok (l, rs, legal, h) =>
      if heldByOrder s seq l then .next s else
      if fieldAt h 4 2 = 0 then
        match fitStatus s l rs legal (bequestRoom l.lpb) with
        | some st => .next (refuse s seq st)
        | none => .next (admitted s seq l (bequestRoom l.lpb))
      else
        match readSaved s e.ctx (dwordAt e.bytes 0x10) h with
        | .error st => .next (refuse s seq st)
        | .ok v =>
          let es := restoredEstates s l v (savedRecords s e.ctx (dwordAt e.bytes 0x10) h)
          let room := restoreRoom l v es
          match fitStatus s l rs legal room with
          | some st => .next (refuse s seq st)
          | none => .next (resume s seq l v es)

end Sys2Proof.Machine
end

