-- ==== Sys2Proof/Machine/Phase.lean ====
section
/-!
DEFINITION. Ordering words and what goes with them: `phase` (R179), `fence.sg` (R180), `icinv` (R184, R185), `pfrange` (R290), the stash words
(R151 to R153), and the events of loads, releases, page walks, rereads and line fills.
-/

namespace Sys2Proof.Machine

/-- `phase.acq` (R179). -/
def execPhaseAcq (c : BitVec 3) (s : State) : Out :=
  withWord s fun x => checked s x [(c == 7, 8)] (.next (done (acquire s (x.party s) c.toNat) x))
/-- `phase.rel` (R179). -/
def execPhaseRel (c : BitVec 3) (s : State) : Out :=
  withWord s fun x => checked s x [(c == 7, 8)] (.next (withRelease s x c.toNat fun s => done s x))
/-- `phase.ar` (R179): a release followed by an acquire. -/
def execPhaseAr (c : BitVec 3) (s : State) : Out :=
  withWord s fun x => checked s x [(c == 7, 8)] (.next (withRelease s x c.toNat fun s => done (acquire s (x.party s) c.toNat) x))
/-- `fence.sg` (R180): the earlier accesses of the group are performed already, since every word is. -/
def execFenceSg (s : State) : Out := withWord s fun x => .next (done s x)

/-- Whether a 64-byte line overlaps [base, base + length) (R185). -/
def overlaps (line base len : Nat) : Bool := decide (0 < len) && decide (line < base + len) && decide (base < line + 64)
/-- `icinv` (R185). -/
def execIcinv (sb : Bool) (a b : BitVec 7) (s : State) : Out :=
  withWordAfter s (fun _ => [(sbBad sb b.toNat, 5)]) fun x => checked s x [(!(srcOk s x a.toNat true), 7), (!(bOk s x sb b.toNat false), 7)] <|
    let vs := x.lanes.map fun l => (l, readSrc s x l a.toNat true, readB s x sb l b.toNat false)
    withStale s x (maskOf ((vs.filter fun p => p.2.1.2 || p.2.2.2).map Prod.fst)) fun s =>
      .next (done (s.modCore x.core fun k => { k with
        lines := k.lines.filter fun q => !(vs.any fun p => overlaps q.1 p.2.1.1.toNat p.2.2.1.toNat) }) x)

/-! ### Prefetch (R290) -/

/-- `pfrange` (R290). What the L2 holds is not observable: the command only has its completion. -/
def execPfrange (sb : Bool) (d a b : BitVec 7) (s : State) : Out :=
  withWordAfter s (fun _ => [(sbBad sb b.toNat, 5)]) fun x =>
    let lenB := (readB s x sb (lowest x.mask) b.toNat false).1
    let arrive := lenB.getLsbD 31
    checked s x [(!(if arrive then spairOk d.toNat else sDstOk d.toNat), 7), (!(srcOk s x a.toNat true), 7),
        (!(bOk s x sb b.toNat false), 7)] <|
      let vs := x.lanes.map fun l => (l, readSrc s x l a.toNat true, readB s x sb l b.toNat false)
      withStale s x (maskOf ((vs.filter fun p => p.2.1.2 || p.2.2.2).map Prod.fst)) fun s =>
        let n := s.fresh
        let s := { s with fresh := s.fresh + 1 }
        if arrive then
          let addr := (x.sub s).spair d.toNat
          match barrierAt s (x.party s) addr with
          | (s, .error e) => .next (raiseGroup s x e)
          | (s, .ok p) =>
            let s := { s with prefetches := s.prefetches.set n { barrier := some p, wg := x.wg s } }
            .next ((done s x).post [.pfrangeComplete n])
        else
          let token := ((x.sub s).thread (lowest x.mask)).batch
          let s := joinCmd s x.sg x.core x.lanes n
          let s := { s with prefetches := s.prefetches.set n { cmd := some n, wg := x.wg s } }
          let s := s.modSub x.sg fun u => u.setSreg d.toNat (token.setWidth 32)
          .next ((done s x).post [.pfrangeComplete n])

/-- PFRANGE_COMPLETE (R290): the command counts as complete, or arrives on its barrier, which it does once the workgroup that holds the object is resident; an object
with an uncorrectable error takes no arrival (R8). -/
def execPfrangeComplete (cmd : Nat) (s : State) : Out :=
  match s.prefetches.find? cmd with
  | none => .next s
  | some p =>
    let gone : State := { s with prefetches := s.prefetches.del cmd }
    match p.barrier with
    | none => .next (finishCmd gone cmd {})
    | some (w, off) =>
      if (s.wgs.find? w).isNone || (s.badScr w off) then .next gone
      else if (s.wg w).resident then .next (arriveStep gone w off 1)
      else .next s
/-- The prefetches whose arrival has waited for a workgroup to be resident (R290). -/
def heldArrivals (s : State) (w : Nat) : List Event :=
  (s.prefetches.filter fun (p : Nat × Prefetch) => match p.2.barrier with
    | some (v, _) => v == w
    | none => false).map fun p => .pfrangeComplete p.1

/-! ### Stash mapping (R151 to R153) -/

/-- The fault of a `stmap`, by the table of R151. Where an ALIGN and an XLAT case hold at once, ALIGN goes first (DESIGN CHOICE, log 58). -/
def stmapFault (w : Wg) (off len : Nat) (base : Dword) : Option MemFault :=
  if off % 128 != 0 || base.toNat % 128 != 0 || len % 128 != 0 || len == 0 then some { cause := 3, detail := 4, addr := 0 }
  else if w.size < off + len || decide (2 ^ 56 < base.toNat + len)
    || w.stash.any (fun t => decide (t.off < off + len) && decide (off < t.off + t.len)) || decide (8 ≤ w.stash.length)
  then some { cause := 4, detail := 5, addr := 0 }
  else none

/-- `stmap` (R151). -/
def execStmap (sb : Bool) (d a b : BitVec 7) (s : State) : Out :=
  withWordAfter s (fun _ => [(sbBad sb b.toNat, 5)]) fun x =>
    checked s x [(!(srcOk s x d.toNat false), 7), (!(srcOk s x a.toNat true), 7), (!(bOk s x sb b.toNat false), 7)] <|
    let l := lowest x.mask
    let o := readSrc s x l d.toNat false
    let g := readSrc s x l a.toNat true
    let n := readB s x sb l b.toNat false
    withStale s x (lowestIf x (o.2 || g.2 || n.2)) fun s =>
      match stmapFault (s.wg (x.wg s)) o.1.toNat n.1.toNat g.1 with
      | some e => .next (raiseGroup s x e)
      | none => .next (done (s.modWg (x.wg s) fun w =>
          { w with stash := w.stash ++ [{ off := o.1.toNat, base := g.1.toNat, len := n.1.toNat }] }) x)

/-- `stunmap` (R153): the dirty lines are written back, and the mapping goes. -/
def execStunmap (a : BitVec 7) (s : State) : Out :=
  withWord s fun x => checked s x [(!(srcOk s x a.toNat false), 7)] <|
    let o := readSrc s x (lowest x.mask) a.toNat false
    withStale s x (lowestIf x o.2) fun s =>
      let w := x.wg s
      match List.find? (fun (t : Stash) => t.off == o.1.toNat) (s.wg w).stash with
      | none => .next (raiseGroup s x { cause := 4, detail := 5, addr := 0 })
      | some t =>
        match writeBack s (x.party s) w t t.dirty with
        | (s, some e) => .next (raiseGroup s x e)
        | (s, none) => .next (done (s.modWg w fun g => { g with stash := g.stash.filter fun q => q.off != t.off }) x)

/-! ### Events -/

/-- LOAD_DATA_ARRIVAL (R141): the data of one load has arrived; the registers hold it since the load was performed. -/
def execLoadDataArrival (sg : Nat) (s : State) : Out :=
  if (s.subs.find? sg).isNone then .next s else .next (s.modSub sg fun u => { u with inflight := u.inflight - 1 })

/-- RELEASE_COMPLETE (R178, R325): the threads whose release was held by a relock perform their word now. -/
def execReleaseComplete (sg : Nat) (s : State) : Out :=
  if (s.subs.find? sg).isNone then .next s else
  let u := s.sub sg
  let now := s.cycle u.core
  .next (s.setSub sg { u with threads := u.threads.map fun (p : Nat × Thread) => (p.1, match p.2.wait with
    | .release n => if relocked s u.core n then p.2 else wake now p.2.pc p.2
    | _ => p.2) })

/-- PAGE_WALK_COMPLETE (R340). -/
def execPageWalkComplete (core : Nat) (s : State) : Out :=
  if (s.core core).walks = 0 then .next s else .next (s.modCore core fun k => { k with walks := k.walks - 1 })

/-- The locations that the watchers of a group watch (R150). -/
def watched (s : State) (x : Cx) : List (Nat × Dword) :=
  x.lanes.filterMap fun l => match ((s.sub x.sg).thread l).wait with
    | .poll a => some (l, a)
    | _ => none

/-- POLL_REREAD (R150, R162): the lane row spends a slot on rereading for every watcher of the group that was chosen; the back-off of its subgroup follows. -/
def execPollReread (core row : Nat) (s : State) : Out :=
  let s := { s with turn := .row core row }
  match s.issuing with
  | none => .next s
  | some x =>
    if (x.sub s).live &&& x.mask = 0 then .next s else
    match fetchWord s x with
    | (s, none) => .next s
    | (s, some w) =>
      match pollWord w with
      | none => .next (switchPoint (s.modThreads x.sg x.lanes fun t => { t with wait := .none }) x)
      | some p =>
        match (pollChecks s x p).find? Prod.fst with
        | some c => .next (ill s x c.2)
        | none =>
          let r := pollRead s x p (watched s x)
          if (r.1.subs.find? x.sg).isNone then .next r.1 else
          .next (r.1.modSub x.sg fun u => if r.2 then { u with dp := 128, dec := 1 } else { u with dp := u.dp - u.dec, dec := min 64 (2 * u.dec) })

/-- FETCH_BUFFER_FILL (R184): the buffer of a core takes a line, as it stands in the core's view at this moment. -/
def execFetchBufferFill (core : Nat) (line : BitVec 64) (s : State) : Out :=
  match (s.core core).ctx with
  | none => .next s
  | some ctx => .next (fillLineAt s core ctx line).1

end Sys2Proof.Machine
end

