-- ==== Sys2Proof/Machine/Matrix.lean ====
section
/-!
DEFINITION. The matrix engine: exact values (R71 to R74, R220), planes (R216 to R218), streaming (R219), read-out (R221), status (R223), ownership (R212, R213) and
the exchange of contexts (R226 to R229).
-/

namespace Sys2Proof.Machine

/-! ### Exact values (R219, R220) -/

namespace Exact
def isZero : Exact → Bool
  | .fin m => m == 0
  | _ => false
def neg : Exact → Bool
  | .fin m => decide (m < 0)
  | .inf n => n
  | .nan => false
/-- A product: NaN for a NaN operand or 0 × ∞ (R220). -/
def mul : Exact → Exact → Exact
  | .nan, _ => .nan
  | _, .nan => .nan
  | .fin a, .fin b => .fin (a * b)
  | a, b => if a.isZero || b.isZero then .nan else .inf (a.neg != b.neg)
/-- A sum: NaN for a NaN or for opposite infinities (R220). -/
def add : Exact → Exact → Exact
  | .nan, _ => .nan
  | _, .nan => .nan
  | .fin a, .fin b => .fin (a + b)
  | .inf a, .inf b => if a == b then .inf a else .nan
  | .inf a, .fin _ => .inf a
  | .fin _, .inf b => .inf b
end Exact

/-- The exact value of a number in units of 2^-q. -/
def exactOf (q : Nat) : Fp → Exact
  | .nan _ => .nan
  | .inf n => .inf n
  | .fin n m e => let v : Int := (m * 2 ^ (e + q).toNat : Nat); .fin (if n then -v else v)
/-- The number an exact value in units of 2^-320 is. -/
def fpOf : Exact → Fp
  | .nan => .nan false
  | .inf n => .inf n
  | .fin m => .fin (decide (m < 0)) m.natAbs (-320)

/-- What add(acc, part) gives, and what a close that gives it records (R220). -/
structure Closed where
  val : Word
  nan : Bool := false
  ovf : Bool := false
  deriving DecidableEq, Repr

/-- add(acc, part) (R220). -/
def addPart (acc : Word) (part : Exact) : Closed :=
  let a := unpack f32 false acc.toNat
  match a, part with
  | .nan _, _ => { val := BitVec.ofNat 32 f32.nanCode, nan := true }
  | _, .nan => { val := BitVec.ofNat 32 f32.nanCode, nan := true }
  | .inf n, .inf m => if n == m then { val := acc } else { val := BitVec.ofNat 32 f32.nanCode, nan := true }
  | .inf _, .fin _ => { val := acc }
  | .fin _ _ _, .inf m => { val := BitVec.ofNat 32 (round f32 .rne false (.inf m)).bits }
  | .fin _ _ _, .fin m =>
    if m = 0 then { val := acc } else
    match (exactOf 320 a).add part with
    | .fin 0 => { val := 0 }
    | v =>
      let c := round f32 .rne false (fpOf v)
      { val := BitVec.ofNat 32 c.bits, ovf := c.flags &&& flagOF != 0 }

/-! ### Element formats (R68, R71, R72, R216, R219) -/

/-- The scalar formats of WFMT and AFMT codes 0 to 3. -/
def scalarFmt (c : Nat) : Fmt := if c = 0 then bf16 else if c = 1 then f16 else if c = 2 then e4m3 else e5m2
/-- Bytes of `k` elements along k (R217). -/
def packedBytes (fmt k : Nat) : Nat := if fmt ≤ 1 then 2 * k else if fmt ≤ 3 then k else if fmt = 4 then 10 * (k / 16) else 9 * (k / 32)
def round16 (n : Nat) : Nat := (n + 15) / 16 * 16

/-- Twice the E2M1 magnitude of a code (R71). -/
def e2m1 (c : Nat) : Nat := if c < 4 then c else if c < 6 then 4 + 2 * (c - 4) else 8 + 4 * (c - 6)
/-- An E8M0 scale applied to m · 2^e; 0xFF makes a NaN (R71, R72). -/
def blockValue (neg : Bool) (m : Nat) (e : Int) (scale : Nat) : Fp := if scale = 0xff then .nan false else .fin neg m (e + scale - 127)
/-- Element `i` of nx4 blocks (R71). -/
def nx4 (b : Nat → Nat) (i : Nat) : Fp :=
  let o := i / 16 * 10
  let j := i % 16
  let nib := b (o + j / 2) / 16 ^ (j % 2) % 16
  blockValue (decide (8 ≤ nib)) (e2m1 (nib % 8)) (-1 - (b (o + 8) / 2 ^ (j / 2) % 2 : Nat)) (b (o + 9))
/-- Weight `i` of lc2 blocks under a magnitude table (R72). -/
def lc2 (table : Nat → Nat) (b : Nat → Nat) (i : Nat) : Fp :=
  let o := i / 32 * 9
  let g := i % 32 / 8
  let j := i % 8
  let c := table (b (o + 2 * g + 1)) / 4 ^ j % 4
  blockValue (b (o + 2 * g) / 2 ^ j % 2 == 1) (1 + 2 * c) (-1) (b (o + 8))
/-- Element `i` of a row or column of a format, from its bytes. -/
def element (fmt : Nat) (table : Nat → Nat) (b : Nat → Nat) (i : Nat) : Fp :=
  if fmt ≤ 1 then unpack (scalarFmt fmt) false (b (2 * i) + 256 * b (2 * i + 1))
  else if fmt ≤ 3 then unpack (scalarFmt fmt) false (b i)
  else if fmt = 4 then nx4 b i else lc2 table b i
/-- The elements of a row or column in units of 2^-160. -/
def elements (fmt : Nat) (table : Nat → Nat) (b : Nat → Nat) (k : Nat) : List Exact := (List.range k).map fun i => exactOf 160 (element fmt table b i)

/-- Values of `n` codes with a code sum, ascending (R73). -/
def withSum : Nat → Nat → List Nat
  | 0, s => if s = 0 then [0] else []
  | n + 1, s => (List.range (min 3 s + 1)).flatMap fun c => (withSum n (s - c)).map fun w => c * 4 ^ n + w
/-- The default magnitude table (R73). -/
def defaultTable : List Nat := ((List.range 5).flatMap (withSum 8)).take 256
/-- Entry `t` of a plane's magnitude table (R73, R74). -/
def Plane.entry (p : Plane) (t : Nat) : Nat := match p.lc2.find? t with
  | some v => v.toNat
  | none => defaultTable.getD t 0

/-! ### Operands in scratchpad (R215) -/

/-- The allocation offset a logical byte maps to under a swizzle mode (R215). -/
def swizzle (mode a : Nat) : Nat := a ^^^ ((a / 128 &&& (2 ^ mode - 1)) * 16)

/-- An operand of a command: workgroup, allocation offset and length. -/
structure Operand where
  wg : Nat
  off : Nat
  len : Nat
  swz : Nat
  deriving DecidableEq, Repr

/-- The checks of R215 on a command's whole range, in order. -/
def operandAt (s : State) (P : Party) (a : Dword) (len stride swz : Nat) : Except MemFault Operand :=
  match decodeAddr s P.core P.ctx P.wg 0 a with
  | some (.scr w off) =>
    if (s.wg w).size < off + len then .error (xlat 1 (a + BitVec.ofNat 64 ((s.wg w).size - off)))
    else if a.toNat % 16 != 0 || stride % 16 != 0 then .error (alignFault 3 a)
    else if w != P.wg && !(s.wg w).resident then .error (spnr a)
    else .ok ⟨w, off, len, swz⟩
  | _ => .error (xlat 1 a)

/-- Whether a range overlaps a stash range (R151, R215). -/
def stashed (s : State) (o : Operand) : Bool := (s.wg o.wg).stash.any fun t => decide (t.off < o.off + o.len) && decide (o.off < t.off + t.len)

/-- Byte `i` of an operand, and whether it has an uncorrectable error. -/
def Operand.byte (o : Operand) (s : State) (i : Nat) : Nat := (Mem.read (s.wg o.wg).mem (swizzle o.swz (o.off + i))).toNat
def Operand.bad (o : Operand) (s : State) (i n : Nat) : Bool :=
  (s.wg o.wg).bad != [] && (List.range n).any fun j => s.badScr o.wg (swizzle o.swz (o.off + i + j))

/-! ### Sticky bits and saved state (R223, R228) -/

/-- The saved state of a context on a core: its matrix save area, and the offset of the core's slot in it (R228). -/
def saveSlot (s : State) (c ctx : Nat) : Nat :=
  let area := match s.fe.contexts.find? ctx with
    | some x => x.msave.toNat
    | none => 0
  area + if isL c then 6 * s.nClusters * 0x280000 + c / 2 * 0x50000 else c / 2 * 0x280000
/-- Offsets of the planes, of the tiles and their extensions (R228). -/
def planeOff (c i : Nat) : Nat := if isL c then 0x1000 + i * 0x1000 else 0x1000 + i * 0x4000
def planeLen (c : Nat) : Nat := if isL c then 0x1000 else 0x4000
def tileOff (c t : Nat) : Nat := if isL c then 0x3000 + t * 0x1000 else 0x9000 + t * 0x4000
def extOff (c t : Nat) : Nat := if isL c then 0x7000 + t * 0x12000 else 0x29000 + t * 0x48000
def extLen (c : Nat) : Nat := if isL c then 0x12000 else 0x48000
/-- Columns of an engine's arrays, and its tiles (R210). -/
def engineWidth (c : Nat) : Nat := if isL c then 32 else 64
def engineTiles (c : Nat) : Nat := if isL c then 4 else 8

def tileUsed (e : Engine) (t : Nat) : Bool := (e.tiles.get t {}).used
def tileOpen (e : Engine) (t : Nat) : Bool := (e.tiles.get t {}).cpos != 0
/-- Bits 0 to 7 from a test of each tile. -/
def tileBits (f : Nat → Bool) : Nat := (List.range 8).foldl (fun a t => if f t then a + 2 ^ t else a) 0
def usedBits (e : Engine) : Nat := tileBits (tileUsed e) + 256 * tileBits (tileOpen e)
def validBits (e : Engine) : Nat := (if e.active.valid then 2 ^ 16 else 0) + (if e.shadow.valid then 2 ^ 17 else 0)
def stickyBits (e : Engine) : Nat := (if e.nan then 2 ^ 19 else 0) + (if e.ovf then 2 ^ 20 else 0) + (if e.merr then 2 ^ 21 else 0)

def spillKey (c ctx : Nat) : Nat := ctx * 1024 + c
/-- The first 16 bytes of the header of a slot; zero if the context was never spilled there (R223, R228). -/
def readHeader (s : State) (c ctx : Nat) : Except MemFault (List Byte) :=
  match s.spilled.find? (spillKey c ctx) with
  | none => .ok (List.replicate 16 0)
  | some _ => readHome s ctx (BitVec.ofNat 64 (saveSlot s c ctx)) 16
def writeHeader (s : State) (c ctx : Nat) (bs : List Byte) : Except MemFault State :=
  writeHome { s with spilled := s.spilled.set (spillKey c ctx) (s.spilled.get (spillKey c ctx) {}) } ctx (BitVec.ofNat 64 (saveSlot s c ctx)) bs

/-- Sticky bits set for a context: in the engine that holds its accumulators, else in its saved state (R223, R225). -/
def setSticky (s : State) (c ctx : Nat) (nan ovf merr : Bool) : State :=
  let e := s.engine c
  if !(nan || ovf || merr) then s
  else if e.actx = ctx then s.setEngine c { e with nan := e.nan || nan, ovf := e.ovf || ovf, merr := e.merr || merr }
  else match readHeader s c ctx with
    | .error _ => s
    | .ok bs =>
      let v := wordAt bs 12 ||| BitVec.ofNat 32 (stickyBits { nan := nan, ovf := ovf, merr := merr })
      match writeHeader s c ctx (bs.take 12 ++ bytesOf 4 (v.setWidth 64)) with
      | .ok s => s
      | .error _ => s

/-! ### Spill and restore (R227, R228) -/

/-- The bytes of an opaque record: free values, from number `draw` on (R228, log 12). -/
def opaqueBytes (draw len : Nat) : List Byte := (List.range (len / 8)).flatMap fun i => bytesOf 8 (Config.freeValue (draw + i))
/-- An opaque record written; what its bytes stand for is kept (R228). -/
def writeOpaque (s : State) (ctx va len : Nat) (o : Opaque) : Except MemFault State :=
  (writeHome { s with draw := s.draw + len / 8 } ctx (BitVec.ofNat 64 va) (opaqueBytes s.draw len)).map fun t =>
    { t with opaques := { o with draw := s.draw } :: t.opaques }
/-- The record that bytes are a copy of, first of all the last one written to the same part of the same slot (R228). -/
def opaqueOf (s : State) (key part : Nat) (bs : List Byte) : Option Opaque :=
  let copy (o : Opaque) : Bool := decide (o.part < 2) == decide (part < 2) && opaqueBytes o.draw bs.length == bs
  (s.opaques.find? fun o => o.key == key && o.part == part && copy o).or (s.opaques.find? copy)

/-- The elements of a tile as the save area holds them: an f32 at 4 (i · width + j) (R228). -/
def tileBytes (c : Nat) (t : Tile) : List Byte :=
  (List.range (engineWidth c)).flatMap fun i => (List.range (engineWidth c)).flatMap fun j => bytesOf 4 ((t.acc.get (64 * i + j) 0).setWidth 64)
def tileOfBytes (c : Nat) (bs : List Byte) : Tbl Word :=
  (List.range (engineWidth c)).flatMap fun i => (List.range (engineWidth c)).filterMap fun j =>
    let v := wordAt bs (4 * (i * engineWidth c + j))
    if v = 0 then none else some (64 * i + j, v)

/-- The used tiles of a context spilled, from tile `t` on (R227). -/
def spillTiles (s : State) (c ctx : Nat) (e : Engine) : List Nat → Except MemFault State
  | [] => .ok s
  | t :: ts =>
    let x := e.tiles.get t {}
    if !x.used then spillTiles s c ctx e ts else
    match writeHome s ctx (BitVec.ofNat 64 (saveSlot s c ctx + tileOff c t)) (tileBytes c x) with
    | .error e => .error e
    | .ok s =>
      match (if x.cpos = 0 then .ok s else writeOpaque s ctx (saveSlot s c ctx + extOff c t) (extLen c) { key := spillKey c ctx, part := 2 + t, ext := x.part }) with
      | .error e => .error e
      | .ok s => spillTiles s c ctx e ts

/-- A header written where it differs from what the slot holds: a context with nothing to save leaves a slot that was never written as it is (R227, R287). -/
def updateHeader (s : State) (c ctx : Nat) (old head : List Byte) : Except MemFault State :=
  if head = old then .ok s else writeHeader s c ctx head

/-- ACTX's accumulators spilled with the header (R227). -/
def spillAcc (s : State) (c : Nat) : Except MemFault State :=
  let e := s.engine c
  match spillTiles s c e.actx e (List.range (engineTiles c)) with
  | .error f => .error f
  | .ok s =>
    match readHeader s c e.actx with
    | .error f => .error f
    | .ok old =>
      let head := bytesOf 2 (BitVec.ofNat 64 (usedBits e)) ++ (old.drop 2).take 2
        ++ ((List.range 8).map fun t => BitVec.ofNat 8 (e.tiles.get t {}).cpos) ++ bytesOf 4 (BitVec.ofNat 64 (stickyBits e))
      updateHeader s c e.actx old head

/-- What the firmware keeps of the planes of a context beside their records: the table and a failed load of one that is not valid (R74, R218). -/
def keepPlanes (s : State) (c : Nat) (e : Engine) : State :=
  let k := spillKey c e.wctx
  if (s.spilled.find? k).isNone && e.active = {} && e.shadow = {} then s
  else { s with spilled := s.spilled.set k { s.spilled.get k {} with active := e.active, shadow := e.shadow } }

/-- WCTX's valid planes spilled (R227). -/
def spillPlanes (s : State) (c : Nat) : Except MemFault State :=
  let e := s.engine c
  let one (s : State) (p : Plane) (i : Nat) : Except MemFault State :=
    if p.valid then writeOpaque s e.wctx (saveSlot s c e.wctx + planeOff c i) (planeLen c) { key := spillKey c e.wctx, part := i, plane := p } else .ok s
  match one s e.active 0 with
  | .error f => .error f
  | .ok s =>
    match one s e.shadow 1 with
    | .error f => .error f
    | .ok s =>
      match readHeader s c e.wctx with
      | .error f => .error f
      | .ok old =>
        match updateHeader s c e.wctx old (old.take 2 ++ [BitVec.ofNat 8 (validBits e / 2 ^ 16), 0] ++ old.drop 4) with
        | .error f => .error f
        | .ok s => .ok (keepPlanes s c e)

/-- The tiles that the header of a slot marks used, read back; the open ones with their extension (R227, R228). -/
def restoreTiles (s : State) (c ctx : Nat) (head : List Byte) : List Nat → Except MemFault (Tbl Tile)
  | [] => .ok []
  | t :: ts =>
    if fieldAt head 0 1 / 2 ^ t % 2 = 0 then restoreTiles s c ctx head ts else
    match readHome s ctx (BitVec.ofNat 64 (saveSlot s c ctx + tileOff c t)) (4 * engineWidth c * engineWidth c) with
    | .error f => .error f
    | .ok bs =>
      let opened := fieldAt head 1 1 / 2 ^ t % 2 == 1
      match (if opened then (readHome s ctx (BitVec.ofNat 64 (saveSlot s c ctx + extOff c t)) (extLen c)).map (opaqueOf s (spillKey c ctx) (2 + t)) else .ok none) with
      | .error f => .error f
      | .ok ext =>
        match restoreTiles s c ctx head ts with
        | .error f => .error f
        | .ok xs => .ok ((t, { used := true, cpos := if opened then fieldAt head (4 + t) 1 % 128 else 0
                               acc := tileOfBytes c bs, part := (ext.map Opaque.ext).getD [] }) :: xs)

/-- The accumulators of a context restored: ACTX := ctx (R227). -/
def restoreAcc (s : State) (c ctx : Nat) : Except MemFault State :=
  match readHeader s c ctx with
  | .error f => .error f
  | .ok head =>
    match restoreTiles s c ctx head (List.range (engineTiles c)) with
    | .error f => .error f
    | .ok tiles =>
      let k := wordAt head 12
      .ok (s.setEngine c { s.engine c with actx := ctx, tiles := tiles, nan := k.getLsbD 19, ovf := k.getLsbD 20, merr := k.getLsbD 21 })

/-- The planes of a context restored, invalid if never saved: WCTX := ctx (R227). A plane that was not valid keeps its table and a failed load (R74, R218); a record
whose bytes are those of no record that was written gives a plane that is not valid (DESIGN CHOICE, log 12). -/
def restorePlanes (s : State) (c ctx : Nat) : Except MemFault State :=
  let old := s.spilled.get (spillKey c ctx) {}
  match readHeader s c ctx with
  | .error f => .error f
  | .ok head =>
    let one (i : Nat) (p : Plane) : Except MemFault Plane :=
      if fieldAt head 2 1 / 2 ^ i % 2 = 0 then .ok { p with valid := false }
      else (readHome s ctx (BitVec.ofNat 64 (saveSlot s c ctx + planeOff c i)) (planeLen c)).map fun bs =>
        ((opaqueOf s (spillKey c ctx) i bs).map Opaque.plane).getD {}
    match one 0 old.active, one 1 old.shadow with
    | .ok a, .ok b => .ok (s.setEngine c { s.engine c with wctx := ctx, active := a, shadow := b })
    | .error f, _ => .error f
    | _, .error f => .error f

/-- Every fault domain of a context that has a launch running ends (R227). -/
def endRunning (s : State) (ctx : Nat) (cause : BitVec 8) : State :=
  let ds := ((s.fe.launches.filter fun (p : Nat × Launch) => p.2.ctx == ctx && p.2.started).map fun p => p.2.fdom).eraseDups
  ds.foldl (fun s d => endDomain s ctx d cause 0) s

/-- The outgoing accumulators, and the outgoing planes, spilled; a spill that faults ends the domains of its context (R227). -/
def evictAcc (s : State) (c : Nat) : State :=
  let a := (s.engine c).actx
  if a = 0 then s else match spillAcc s c with
    | .ok s => s
    | .error f => endRunning s a f.cause
def evictPlanes (s : State) (c : Nat) : State :=
  let w := (s.engine c).wctx
  if w = 0 then s else match spillPlanes s c with
    | .ok s => s
    | .error f => endRunning s w f.cause

/-- The handler of ACCCLAIM for a word of a context: which state it exchanges, and whether the word can be performed (R227). -/
def claim (s : State) (c ctx : Nat) (acc planes : Bool) : State × Bool :=
  let r : State × Bool :=
    if acc && (s.engine c).actx != ctx then
      let s := evictAcc s c
      match restoreAcc s c ctx with
      | .ok s => (s, true)
      | .error f => (endRunning s ctx f.cause, false)
    else (s, true)
  if !r.2 then r else
  if planes && (r.1.engine c).wctx != ctx then
    let s := evictPlanes r.1 c
    match restorePlanes s c ctx with
    | .ok s => (s, true)
    | .error f => (endRunning s ctx f.cause, false)
  else r

/-! ### Performing a matrix word (R211 to R214) -/

/-- What a matrix word touches: accumulators and planes (R227). -/
def touches (w : Word) : Bool × Bool :=
  if w.extractLsb' 25 7 != 0x62 then (false, false) else
  let sub := (w.extractLsb' 21 4).toNat
  (sub == 4 || sub == 5 || sub == 6 || (sub == 3 && w.getLsbD 0), sub == 2 || sub == 3 || sub == 4)

/-- A uniform word: performed once, for every thread it needs, when all of them stand at it; its checks are then made (R211). -/
def matrixWord (s : State) (k : State → Cx → Out) : Out := withWord s fun x => uniformly s x fun y => k s y

/-- A word that needs ownership: ILL with detail 0x09 without it; then ACCCLAIM where the engine holds another context's state, for which the threads wait without a
switch point (R213, R227, R271). -/
def owned (s : State) (y : Cx) (acc planes : Bool) (k : Out) : Out :=
  let e := s.engine y.core
  let ctx := (y.party s).ctx
  if e.owner != some y.sg then .next (ill s y 9)
  else if (acc && e.actx != ctx) || (planes && e.wctx != ctx) then
    .next ((waitAt s y y.lanes .firmware).post [.accclaim y.core])
  else k

/-- A command that joins the current batch of every live thread of the subgroup, and counts as running until it completes (R214). -/
def runCommand (s : State) (y : Cx) : State :=
  let n := s.fresh
  let s := joinCmd { s with fresh := s.fresh + 1 } y.sg y.core (lanesOf (y.sub s).live) n
  let e := s.engine y.core
  (s.setEngine y.core { e with running := e.running ++ [n] }).post [.matrixCommandComplete y.core]

/-- `macq` (R212). -/
def execMacq (s : State) : Out :=
  matrixWord s fun s y =>
    let e := s.engine y.core
    if e.owner = some y.sg then .next (done s y)
    else if e.owner.isNone && e.queue.isEmpty && e.task.isNone then .next (done (s.setEngine y.core { e with owner := some y.sg }) y)
    else
      let q := if e.queue.contains y.sg then e.queue else e.queue ++ [y.sg]
      .next (blockAt (s.setEngine y.core { e with queue := q }) y y.lanes .owner)
/-- `mrel` (R212). -/
def execMrel (s : State) : Out :=
  matrixWord s fun s y =>
    .next (done (if (s.engine y.core).owner = some y.sg then passOwner s y.core (y.party s).ctx else s) y)

/-- The operand registers of `mldw`, `mstr` and `mrd` (R211). -/
def pairBad (a : BitVec 7) : Bool × Nat := (!(spairOk a.toNat), 7)
def scalarBad (a : BitVec 7) : Bool × Nat := (!(decide (a.toNat ≤ 111)), 7)

/-- A field of a control scalar. -/
def ctlField (v : Word) (lo n : Nat) : Nat := v.toNat / 2 ^ lo % 2 ^ n

/-- The physical rows, columns and sparsity of a weight load, whether its control is legal, and its sizes (R216, R217). -/
structure Load where
  fmt : Nat
  spar : Nat
  kr : Nat
  nc : Nat
  swz : Nat
  deriving DecidableEq, Repr
def loadOf (v : Word) : Load := ⟨ctlField v 0 4, ctlField v 5 2, ctlField v 8 6 + 1, ctlField v 16 6 + 1, ctlField v 22 2⟩
/-- Whether the control of a weight load is illegal on a core (R216). -/
def Load.bad (c : Nat) (v : Word) : Bool :=
  let l := loadOf v
  v &&& 0xff00c080#32 != 0 || decide (5 < l.fmt) || (isL c && (decide (32 < l.kr) || decide (32 < l.nc)))
  || (l.fmt == 4 && l.kr % 16 != 0) || (l.fmt == 5 && (l.kr % 32 != 0 || l.spar != 0))
/-- CS, MS and the span of a load (R217). -/
def Load.cs (l : Load) : Nat := round16 (packedBytes l.fmt l.kr)
def Load.ms (l : Load) : Nat := round16 l.kr
def Load.len (l : Load) : Nat := l.nc * l.cs + if l.spar = 0 then 0 else l.nc * l.ms
/-- The largest number of nonzero rows in each 128 logical rows (R216). -/
def sparN (spar : Nat) : Nat := 8 * 2 ^ spar
/-- The logical span of a plane (R217). -/
def Plane.kl (p : Plane) : Nat := if p.spar = 0 then p.kr else 128 * ((p.kr + sparN p.spar.toNat - 1) / sparN p.spar.toNat)
/-- The logical row of physical row `i` with metadata byte `m` (R217). -/
def logicalRow (spar i m : Nat) : Nat := if spar = 0 then i else i / sparN spar * 128 + m

/-- The plane that a weight load gives, with the shadow plane's table (R217). -/
def loadPlane (s : State) (o : Operand) (l : Load) (old : Plane) : Plane :=
  let failed := old.lc2Bad || o.bad s 0 o.len
  let meta_ (n i : Nat) : Nat := o.byte s (l.nc * l.cs + n * l.ms + i)
  { old with
    valid := !failed, failed := failed, bad := false, wfmt := BitVec.ofNat 4 l.fmt, kr := l.kr, nc := l.nc, spar := BitVec.ofNat 2 l.spar
    w := (List.range l.nc).flatMap fun n =>
      (elements l.fmt old.entry (fun i => o.byte s (n * l.cs + i)) l.kr).zipIdx.filterMap fun (x, i) =>
        if x = .fin 0 then none else some (n * 65536 + logicalRow l.spar i (meta_ n i), x)
    pos := if l.spar = 0 then [] else (List.range l.nc).flatMap fun n => (List.range l.kr).filterMap fun i =>
      if meta_ n i = 0 then none else some (n * 256 + i, BitVec.ofNat 8 (meta_ n i)) }

/-- A command's operand after its checks: one that faults, or that overlaps a stash range, stops the command; its pages are valid when the command uses them (R215, R279). -/
def withOperand (s : State) (y : Cx) (a : Dword) (len stride swz : Nat) (k : State → Operand → Out) : Out :=
  match operandAt s (y.party s) a len stride swz with
  | .error e => .next (raiseGroup s y e)
  | .ok o => if stashed s o then .next (ill s y 0x0a) else k (s.usePages o.wg o.off o.len) o

/-- `mldw` of weights (R216, R217). -/
def execMldw (a b : BitVec 7) (s : State) : Out :=
  matrixWord s fun s y => checked s y [pairBad a, scalarBad b] <| owned s y false true <|
    let v := (y.sub s).sreg b.toNat
    checked s y [(Load.bad y.core v, 8)] <|
      let l := loadOf v
      withOperand s y ((y.sub s).spair a.toNat) l.len 0 l.swz fun s o =>
        let e := s.engine y.core
        let p := loadPlane s o l e.shadow
        let s := s.setEngine y.core { e with shadow := p }
        .next (done (setSticky s y.core (y.party s).ctx false false p.failed) y)

/-- `mldw` of a magnitude table (R216, R217). -/
def execMldwTable (a b : BitVec 7) (s : State) : Out :=
  matrixWord s fun s y => checked s y [pairBad a, scalarBad b] <| owned s y false true <|
    checked s y [((y.sub s).sreg b.toNat != 0x10, 8)] <|
      withOperand s y ((y.sub s).spair a.toNat) 512 0 0 fun s o =>
        let e := s.engine y.core
        let bad := o.bad s 0 512
        let table := (List.range 256).map fun t => (t, BitVec.ofNat 16 (o.byte s (2 * t) + 256 * o.byte s (2 * t + 1)))
        let p : Plane := if bad then { e.shadow with valid := false, failed := true, lc2Bad := true }
          else { e.shadow with lc2 := table, lc2Bad := false }
        let s := s.setEngine y.core { e with shadow := p }
        .next (done (setSticky s y.core (y.party s).ctx false false bad) y)

/-! ### Closing a tile (R220) -/

/-- A table entry set, or removed where it is the value of an unlisted entry. -/
def putWord (t : Tbl Word) (i : Nat) (v : Word) : Tbl Word := if v = 0 then t.del i else t.set i v
def putExact (t : Tbl Exact) (i : Nat) (v : Exact) : Tbl Exact := if v = .fin 0 then t.del i else t.set i v

/-- close(T): the tile, and whether some element gave NaN or overflowed (R220). -/
def closeTile (t : Tile) : Tile × Bool × Bool :=
  let ks := t.acc.keys ++ (t.part.keys.filter fun k => (t.acc.find? k).isNone)
  let vs := ks.map fun k => (k, addPart (t.acc.get k 0) (t.part.get k (.fin 0)))
  ({ t with acc := vs.foldl (fun a p => putWord a p.1 p.2.val) t.acc, part := [], cpos := 0 }, vs.any fun p => p.2.nan, vs.any fun p => p.2.ovf)

/-- A tile of an engine changed by an operation that may close it, with the sticky bits it sets. -/
def putTile (e : Engine) (t : Nat) (r : Tile × Bool × Bool) : Engine :=
  { e with tiles := e.tiles.set t r.1, nan := e.nan || r.2.1, ovf := e.ovf || r.2.2 }
/-- Every open tile closed (R218). -/
def closeOpen (e : Engine) : Engine :=
  (List.range 8).foldl (fun e t => if tileOpen e t then putTile e t (closeTile (e.tiles.get t {})) else e) e

/-- Whether the metadata of a plane is good: within each group positions from 0 to 127, strictly ascending (R218). -/
def goodMeta (p : Plane) : Bool :=
  p.spar == 0 || (List.range p.nc).all fun n => (List.range p.kr).all fun i =>
    let m := (p.pos.get (n * 256 + i) 0).toNat
    decide (m < 128) && (i % sparN p.spar.toNat == 0 || decide ((p.pos.get (n * 256 + i - 1) 0).toNat < m))

/-- The exchange of the planes; the new shadow plane has the default table (R218). -/
def swapPlanes (e : Engine) : Engine := { e with active := e.shadow, shadow := { e.active with lc2 := [], lc2Bad := false } }

/-- `mswap` and `mswap.fl` (R218). The metadata of a shadow plane that is not valid is not looked at (DESIGN CHOICE, log 58). Once it has raised MEMERR for a failed load, nothing of that load is left: the table is the one before it (DESIGN CHOICE, log 56). -/
def mswapOp (s : State) (flush : Bool) : Out :=
  matrixWord s fun s y => owned s y flush true <|
    let e := s.engine y.core
    let spoil := s.setEngine y.core { e with shadow := { e.shadow with valid := false, failed := false, lc2Bad := false } }
    if e.shadow.failed then .next (raiseGroup spoil y { cause := 5, detail := 3, addr := 0 })
    else if e.shadow.valid && !(goodMeta e.shadow) then .next (ill spoil y 0x0a)
    else
      let e := swapPlanes e
      .next (done (s.setEngine y.core (if flush then closeOpen e else e)) y)
/-- `mswap` (R218). -/
def execMswap (s : State) : Out := mswapOp s false
/-- `mswap.fl` (R218). -/
def execMswapFl (s : State) : Out := mswapOp s true

/-! ### Streaming (R219) -/

/-- The exact sum of products of a row and a column over a span of k. -/
def dot : List Exact → List Exact → Exact
  | x :: xs, w :: ws => (x.mul w).add (dot xs ws)
  | _, _ => .fin 0

/-- The products of rows `xs` and columns `ws` over `n` values of k from `k` on, folded into the partial sums of a tile (R219). -/
def foldSpan (t : Tile) (xs ws : List (List Exact)) (k n : Nat) : Tile :=
  { t with
    cpos := t.cpos + n
    part := xs.zipIdx.foldl (fun p x => ws.zipIdx.foldl (fun p w =>
      putExact p (64 * x.2 + w.2) ((p.get (64 * x.2 + w.2) (.fin 0)).add (dot ((x.1.drop k).take n) ((w.1.drop k).take n)))) p) t.part }

/-- A stream of `left` values of k from `k` on: the chunk closes each time its position reaches 128 (R219). `fuel` bounds the chunks. -/
def stream (xs ws : List (List Exact)) : Nat → Tile × Bool × Bool → Nat → Nat → Tile × Bool × Bool
  | 0, t, _, _ => t
  | fuel + 1, t, k, left =>
    if left = 0 then t else
    let n := min left (128 - t.1.cpos)
    let u := foldSpan t.1 xs ws k n
    if u.cpos < 128 then (u, t.2) else
      let c := closeTile u
      stream xs ws fuel (c.1, t.2.1 || c.2.1, t.2.2 || c.2.2) (k + n) (left - n)

/-- Column `n` of a plane's weights along the logical rows. -/
def Plane.column (p : Plane) (n : Nat) : List Exact :=
  let w := p.w.filter fun q => q.1 / 65536 == n
  (List.range p.kl).map fun k => Tbl.get w (n * 65536 + k) (.fin 0)

/-- A tile whose elements are all the canonical NaN, its chunk closed (R225). -/
def nanTile (c : Nat) : Tile :=
  { used := true, acc := (List.range (engineWidth c)).flatMap fun i => (List.range (engineWidth c)).map fun j => (64 * i + j, BitVec.ofNat 32 f32.nanCode) }

/-- Whether the control of a stream is illegal on a core, but for its stride (R219). -/
def streamBad (c : Nat) (v : Word) : Bool :=
  v &&& 0xfcfc00f0#32 != 0 || decide (4 < ctlField v 8 4) || (isL c && (decide (31 < ctlField v 12 6) || decide (3 < ctlField v 0 3)))

/-- `mstr` (R219, R220). Of the checks made at performance, the control comes first, then the active plane, the formats and the stride, then the operand, and the stash range
last (DESIGN CHOICE, log 58). A tile that an uncorrectable error fills with NaN sets MERR and not the sticky NAN bit, since no close gave it (DESIGN CHOICE, log 58). -/
def execMstr (d a b : BitVec 7) (s : State) : Out :=
  matrixWord s fun s y => checked s y [scalarBad d, pairBad a, scalarBad b] <| owned s y true true <|
    let v := (y.sub s).sreg b.toNat
    let stride := ((y.sub s).sreg d.toNat).toNat
    let e := s.engine y.core
    let p := e.active
    let fmt := ctlField v 8 4
    let m := ctlField v 12 6 + 1
    let row := packedBytes fmt p.kl
    checked s y [(streamBad y.core v, 8), (!p.valid, 0x0a), (fmt == 4 && p.kl % 16 != 0, 8), (decide (stride < row), 8)] <|
      withOperand s y ((y.sub s).spair a.toNat) ((m - 1) * stride + row) stride (ctlField v 24 2) fun s o =>
        let t := ctlField v 0 3
        if p.bad || (List.range m).any (fun r => o.bad s (r * stride) row) then
          let s := s.setEngine y.core { e with tiles := e.tiles.set t (nanTile y.core) }
          .next (done (runCommand (setSticky s y.core (y.party s).ctx false false true) y) y)
        else
          let xs := (List.range m).map fun r => elements fmt p.entry (fun i => o.byte s (r * stride + i)) p.kl
          let ws := (List.range p.nc).map p.column
          let old : Tile := if v.getLsbD 3 then {} else e.tiles.get t {}
          let r := stream xs ws (p.kl + 1) (old, false, false) 0 p.kl
          .next (done (runCommand (s.setEngine y.core (putTile e t ({ r.1 with used := true }, r.2))) y) y)

/-! ### Read-out and clearing (R221, R222) -/

/-- OFMT: bytes of a value, and its conversion from f32 (R80, R221). -/
def outSize (ofmt : Nat) : Nat := if ofmt = 0 then 4 else if ofmt ≤ 2 then 2 else 1
def outRound (rnd : Nat) : RMode := if rnd = 0 then .rne else if rnd = 1 then .rtz else if rnd = 2 then .rup else if rnd = 3 then .rdn else .rna
def outValue (ofmt rnd : Nat) (x : Word) : Nat :=
  if ofmt = 0 then x.toNat else
  match cvtEntry (if ofmt = 1 then 1 else if ofmt = 2 then 0 else if ofmt = 3 then 12 else 14) with
  | none => 0
  | some e => (convert e (outRound rnd) false x.toNat).bits
/-- The canonical NaN of an output format (R69). -/
def outNan (ofmt : Nat) : Nat := outValue ofmt 0 (BitVec.ofNat 32 f32.nanCode)

/-- Whether the control of a read-out is illegal on a core, but for its stride (R221). -/
def readBad (c : Nat) (v : Word) : Bool :=
  v &&& 0xfc000800#32 != 0 || decide (4 < ctlField v 8 3) || decide (4 < ctlField v 4 4)
  || (isL c && (decide (31 < ctlField v 12 6) || decide (31 < ctlField v 18 6) || decide (3 < ctlField v 0 3)))

/-- The bytes of an operand stored; the 8-byte units that they rewrite in full are whole again (R8). -/
def storeOperand (s : State) (o : Operand) (bs : List (Nat × Byte)) : State :=
  let offs := bs.map fun p => (swizzle o.swz (o.off + p.1), p.2)
  let s := offs.foldl (fun s p => scrWrite s o.wg p.1 p.2) s
  if (s.wg o.wg).bad = [] then s else heal s (offs.map fun p => .scr o.wg p.1)

/-- Whether storing a value meets an uncorrectable error: a unit that the command does not rewrite in full (R225). -/
def partialBad (s : State) (o : Operand) (all : List Nat) (i n : Nat) : Bool :=
  (s.wg o.wg).bad != [] && (List.range n).any fun j =>
    let u := swizzle o.swz (o.off + i + j) / 8
    (s.wg o.wg).bad.contains u && !((List.range 8).all fun q => all.contains (u * 8 + q))

/-- `mrd` (R221). -/
def execMrd (d a b : BitVec 7) (s : State) : Out :=
  matrixWord s fun s y => checked s y [scalarBad d, pairBad a, scalarBad b] <| owned s y true false <|
    let v := (y.sub s).sreg b.toNat
    let stride := ((y.sub s).sreg d.toNat).toNat
    let m := ctlField v 12 6 + 1
    let nc := ctlField v 18 6 + 1
    let ofmt := ctlField v 4 4
    let size := outSize ofmt
    checked s y [(readBad y.core v, 8), (decide (stride < nc * size), 8)] <|
      withOperand s y ((y.sub s).spair a.toNat) ((m - 1) * stride + nc * size) stride (ctlField v 24 2) fun s o =>
        let e := s.engine y.core
        let t := ctlField v 0 3
        let tile := e.tiles.get t {}
        let e' := if v.getLsbD 3 && tile.used then putTile e t (closeTile tile) else e
        let cells := (List.range m).flatMap fun r => (List.range nc).map fun n => (r, n)
        let all := cells.flatMap fun p => (List.range size).map fun i => swizzle o.swz (o.off + p.1 * stride + p.2 * size + i)
        let bad (p : Nat × Nat) : Bool := partialBad s o all (p.1 * stride + p.2 * size) size
        let bytes := cells.flatMap fun p =>
          let k := 64 * p.1 + p.2
          let val := if bad p then outNan ofmt else outValue ofmt (ctlField v 8 3) (addPart (tile.acc.get k 0) (tile.part.get k (.fin 0))).val
          (List.range size).map fun i => (p.1 * stride + p.2 * size + i, BitVec.ofNat 8 (val / 256 ^ i))
        let s := storeOperand (s.setEngine y.core e') o bytes
        .next (done (runCommand (setSticky s y.core (y.party s).ctx false false (cells.any bad)) y) y)

/-- `mzero` (R222). -/
def execMzero (t : BitVec 3) (s : State) : Out :=
  matrixWord s fun s y => checked s y [(isL y.core && decide (3 < t.toNat), 8)] <| owned s y true false <|
    let e := s.engine y.core
    .next (done (s.setEngine y.core { e with tiles := e.tiles.del t.toNat }) y)

/-! ### Status (R223) -/

/-- The status word of a context on a core: from the engine where the engine holds its state, else from the saved header. -/
def statusWord (s : State) (c ctx sg : Nat) (head : List Byte) : Nat :=
  let e := s.engine c
  (if e.owner = some sg then 2 ^ 27 else 0) + min 15 e.queue.length * 2 ^ 22
  + (if e.actx = ctx then usedBits e + stickyBits e else fieldAt head 0 2 + fieldAt head 12 4 / 2 ^ 19 % 8 * 2 ^ 19)
  + (if e.wctx = ctx then validBits e else fieldAt head 2 1 % 4 * 2 ^ 16)

/-- `mstat` (R214, R223): it waits for the earlier commands of the engine. -/
def execMstat (d : BitVec 7) (s : State) : Out :=
  matrixWord s fun s y => checked s y [scalarBad d] <|
    let c := y.core
    let e := s.engine c
    let ctx := (y.party s).ctx
    if e.running != [] then .next (blockAt s y y.lanes .uniform) else
    match (if e.actx = ctx && e.wctx = ctx then .ok (List.replicate 16 0) else readHeader s c ctx) with
    | .error f => .next (raiseGroup s y f)
    | .ok head =>
      let v := statusWord s c ctx y.sg head
      let cleared : Except MemFault State :=
        if e.actx = ctx then .ok (s.setEngine c { e with nan := false, ovf := false, merr := false })
        else if fieldAt head 12 4 = 0 then .ok s
        else writeHeader s c ctx (head.take 12 ++ List.replicate 4 0)
      match cleared with
      | .error f => .next (raiseGroup s y f)
      | .ok s => .next (done (s.modSub y.sg fun u => u.setSreg d.toNat (BitVec.ofNat 32 v)) y)

/-! ### What engine commands read and write (R181) -/

/-- Bytes that a command reads through a core's view. -/
def commandRead (s : State) (P : Party) (a : Dword) (n : Nat) (natural : Bool) : State × Except MemFault (List Byte) :=
  match locate s P 0 a n natural .load with
  | (s, .error e) => (s, .error e)
  | (s, .ok spots) => match correctable s a spots [] with
    | some e => (s, .error e)
    | none => (s, .ok (spots.map (readSpot s P.core)))
/-- STATUS of a command stopped at a fault (R299, R311). -/
def stopStatus (e : MemFault) : Nat := if e.cause = 4 then 0x10 else if e.cause = 3 then 0x11 else if e.cause = 6 then 0x12 else if e.cause = 5 then 0x13 else 0x14

/-! ### Posting a command (R296, R310) -/

/-- The command that the lowest member has posted at the word in course and that waits for an entry of a full queue, if there is one. -/
def postOf (s : State) (x : Cx) : Option Nat := ((x.sub s).thread (lowest x.mask)).posts.find? (x.pc s).toNat
/-- The members that posted it together. -/
def postGroup (s : State) (x : Cx) : Cx :=
  { x with mask := maskOf (x.lanes.filter fun l => ((x.sub s).thread l).posts.find? (x.pc s).toNat == postOf s x) }
/-- STATUS := 1 stored by the issuing core, and the command joined to the current batches of the threads `ls`; a command that was posted before is not posted again. -/
def postOnce (s : State) (x : Cx) (status : Dword) (ls : List Nat) : State × Except MemFault Nat :=
  match postOf s x with
  | some n => (s, .ok n)
  | none => match storeAt s (x.party s) 0 status (bytesOf 4 1) true with
    | (s, .error e) => (s, .error e)
    | (s, .ok _) => (joinCmd { s with fresh := s.fresh + 1 } x.sg x.core ls s.fresh, .ok s.fresh)
/-- The threads wait at the word for an entry, with their command. -/
def waitPosted (s : State) (x : Cx) (n : Nat) (w : Wait) : State :=
  let pc := (x.pc s).toNat
  blockAt (s.modThreads x.sg x.lanes fun t => { t with posts := t.posts.set pc n }) x x.lanes w
/-- The command has an entry, and the threads go on. -/
def donePosted (s : State) (x : Cx) : State :=
  let pc := (x.pc s).toNat
  done (if (postOf s x).isSome then s.modThreads x.sg x.lanes fun t => { t with posts := t.posts.del pc } else s) x

/-! ### Events -/

/-- MATRIX_COMMAND_COMPLETE (R214): the oldest command of the engine is complete. -/
def execMatrixCommandComplete (core : Nat) (s : State) : Out :=
  match (s.engine core).running with
  | [] => .next s
  | n :: _ =>
    let s := finishCmd s n {}
    .next (s.modCore core fun k => { k with engine := { k.engine with running := k.engine.running.filter (· != n) } })

/-- The subgroup of a core whose word waits for the firmware, with its member and PC (R227). -/
def claimant (s : State) (core : Nat) : Option (Nat × Dword) :=
  s.subs.findSome? fun (p : Nat × Sub) =>
    if p.2.core != core || !(canRun s p.1) then none else
    p.2.threads.findSome? fun (q : Nat × Thread) => if q.2.wait = .firmware then some (p.1, q.2.pc) else none

/-- ACCCLAIM (R227): the firmware waits for the engine to be idle, exchanges the state, and the word is then performed. -/
def execAccclaim (core : Nat) (s : State) : Out :=
  match claimant s core with
  | none => .next s
  | some (g, pc) =>
    if (s.engine core).running != [] then .next (s.post [.accclaim core]) else
    let t := match buffered (s.core core) pc with
      | some w => touches w
      | none => (false, false)
    let s := (claim s core (s.wg (s.sub g).wg).ctx t.1 t.2).1
    if (s.subs.find? g).isNone then .next s else
    .next (s.modSub g fun u => { u with threads := u.threads.map fun (q : Nat × Thread) =>
      (q.1, if q.2.wait = .firmware then { q.2 with wait := .uniform } else q.2) })

end Sys2Proof.Machine
end

