-- ==== Sys2Proof/Machine/Needles.lean ====
section
/-!
DEFINITION. Needles: taking entries (R238), the needle words (R240 to R248), faults and their records (R251 to R253), and the words of threads that post to and
wait for them (R236, R246, R249, R254).
-/

namespace Sys2Proof.Machine

/-- A needle register; n0 reads as zero and discards writes (R231). -/
def Needle.reg (x : Needle) (i : Nat) : Dword := if i = 0 then 0 else x.n.get i 0
def Needle.setReg (x : Needle) (i : Nat) (v : Dword) : Needle := if i = 0 then x else { x with n := x.n.set i v }
def Needle.gen (x : Needle) (i : Nat) : Gen := x.gens.get i {}
def Needle.setGen (x : Needle) (i : Nat) (g : Gen) : Needle := { x with gens := x.gens.set i g }

/-- What stops a needle: code of R251, address, generator and detail (R252). -/
structure Stop where
  code : Nat
  addr : Dword := 0
  gen : Option Nat := none
  /-- The handle that the record names where the generator has none bound. -/
  handle : Nat := 0xffff
  detail : Nat := 0
  deriving DecidableEq, Repr

/-- The code of a memory fault (R251). -/
def stopOf (e : MemFault) (gen : Option Nat := none) : Stop :=
  { code := if e.cause = 4 then 1 else if e.cause = 3 then 2 else if e.cause = 6 then 3 else if e.cause = 5 then 4 else 5, addr := e.addr, gen := gen }

/-- The party of a needle that runs a command (R240). -/
def needleParty (s : State) (c w : Nat) : Party := ⟨c, (s.wg w).ctx, w⟩
/-- Bytes of the needle code that the command of a needle runs in (R232). -/
def codeSize (s : State) (w : Nat) : Nat := 4 * (s.launch (s.wg w).launch).image.needle.length

/-! ### Faults (R251 to R253) -/

/-- The offset of the fault record of a needle in its ring (R235). -/
def recordOff (n : Nat) : Nat := 0x40 + 0x40 * n
/-- The 64 bytes of a fault record (R252). -/
def recordBytes (x : Needle) (n slot : Nat) (p : Stop) : List Byte :=
  let g := match p.gen with
    | some i => x.gen i
    | none => {}
  let h := if g.bound && p.handle = 0xffff then g.handle.toNat else p.handle
  bytesOf 4 (BitVec.ofNat 64 (n * 2 ^ 22 + slot * 2 ^ 16 + 256 + p.code)) ++ bytesOf 2 (BitVec.ofNat 64 h)
  ++ [match p.gen with
      | some i => BitVec.ofNat 8 (0x80 + i)
      | none => 0, 0]
  ++ ((List.range 6).map fun i => bytesOf 4 (BitVec.ofNat 64 (g.c.getD i 0))).flatten
  ++ bytesOf 8 p.addr ++ bytesOf 4 (BitVec.ofNat 64 x.pc) ++ bytesOf 4 (BitVec.ofNat 64 p.detail) ++ List.replicate 16 0

/-- A needle stops: its record is written unless one is still VALID, and NFAULT goes to the poster (R251 to R253). -/
def stopNeedle (s : State) (c n : Nat) (p : Stop) : State :=
  let x := s.needle c n
  match x.cmd with
  | none => s
  | some (w, slot) =>
    let s := s.setNeedle c n { x with stopped := some (BitVec.ofNat 8 p.code), waiting := none }
    let s := match ringOf s w with
      | none => s
      | some r =>
        let o := r + recordOff n
        let s := s.usePages w o 64
        if scrRead s w (o + 1) 1 % 2 = 1 then s
        else (recordBytes x n slot p).zipIdx.foldl (fun s b => scrWrite s w (o + b.2) b.1) s
    let g := match (s.wg w).posted.find? slot with
      | some q => q.sg
      | none => 0
    deliver253 s w g slot { cause := 0x11, aux := BitVec.ofNat 32 (n * 64 + slot), kind := 2 }

/-- The needle goes on at `pc`; a PC that is not inside the needle code stops it with NPC (R248). -/
def needleGo (s : State) (c n : Nat) (pc : Nat) : State :=
  let x := s.needle c n
  let s := s.setNeedle c n { x with pc := pc % 2 ^ 32, waiting := none }
  match x.cmd with
  | none => s
  | some (w, _) => if pc % 4 = 0 && decide (pc < codeSize s w) then s else stopNeedle s c n { code := 0x0a }

/-- A meaning of a needle word: for the needle in turn that runs a command; a thread that issues it raises ILL with detail 0x03 (R55). -/
def withNeedle (s : State) (k : Nat → Nat → Nat → Out) : Out :=
  match s.turn with
  | .row _ _ => withGroup s fun x => .next (ill s x 3)
  | .needle c n => match (s.needle c n).cmd with
    | none => .fault .noIssuer
    | some (w, _) => k c n w

/-- A word that changes the needle alone and goes on. -/
def needleOp (s : State) (f : Needle → Needle) : Out :=
  withNeedle s fun c n _ => .next (needleGo (s.modNeedle c n f) c n ((s.needle c n).pc + 4))

/-- The target of a branch (R240). -/
def needleTarget (x : Needle) (o : Int) : Nat := ((x.pc + 4 * o) % 2 ^ 32).toNat
/-- A branch taken or not (R241). -/
def needleBranch (s : State) (o : Int) (f : Needle → Needle) (taken : Needle → Bool) : Out :=
  withNeedle s fun c n _ =>
    let x := s.needle c n
    .next (needleGo (s.setNeedle c n (f x)) c n (if taken (f x) then needleTarget x o else x.pc + 4))

/-! ### Arithmetic and branches (R241) -/

def needleAlu (s : State) (d a b : BitVec 4) (f : Dword → Dword → Dword) : Out :=
  needleOp s fun x => x.setReg d.toNat (f (x.reg a.toNat) (x.reg b.toNat))
/-- `n.add` (R241). -/
def execNAdd (d a b : BitVec 4) (s : State) : Out := needleAlu s d a b (· + ·)
/-- `n.sub` (R241). -/
def execNSub (d a b : BitVec 4) (s : State) : Out := needleAlu s d a b (· - ·)
/-- `n.mul` (R241). -/
def execNMul (d a b : BitVec 4) (s : State) : Out := needleAlu s d a b (· * ·)
/-- `n.and` (R241). -/
def execNAnd (d a b : BitVec 4) (s : State) : Out := needleAlu s d a b (· &&& ·)
/-- `n.or` (R241). -/
def execNOr (d a b : BitVec 4) (s : State) : Out := needleAlu s d a b (· ||| ·)
/-- `n.xor` (R241). -/
def execNXor (d a b : BitVec 4) (s : State) : Out := needleAlu s d a b (· ^^^ ·)
/-- `n.shl` (R241). -/
def execNShl (d a b : BitVec 4) (s : State) : Out := needleAlu s d a b fun x y => if 64 ≤ y.toNat then 0 else x <<< y.toNat
/-- `n.shr` (R241). -/
def execNShr (d a b : BitVec 4) (s : State) : Out := needleAlu s d a b fun x y => if 64 ≤ y.toNat then 0 else x >>> y.toNat
/-- `n.min` (R241). -/
def execNMin (d a b : BitVec 4) (s : State) : Out := needleAlu s d a b fun x y => if x.toInt ≤ y.toInt then x else y
/-- `n.max` (R241). -/
def execNMax (d a b : BitVec 4) (s : State) : Out := needleAlu s d a b fun x y => if x.toInt ≤ y.toInt then y else x
/-- `n.addi` (R241). -/
def execNAddi (d a : BitVec 4) (i : BitVec 8) (s : State) : Out := needleOp s fun x => x.setReg d.toNat (x.reg a.toNat + i.signExtend 64)
/-- `n.li` (R241). -/
def execNLi (d : BitVec 4) (i : BitVec 16) (s : State) : Out := needleOp s fun x => x.setReg d.toNat (i.signExtend 64)
/-- `n.lih` (R241). -/
def execNLih (d : BitVec 4) (i : BitVec 16) (s : State) : Out := needleOp s fun x => x.setReg d.toNat ((x.reg d.toNat <<< 16) + i.setWidth 64)
/-- `n.bz` (R241). -/
def execNBz (d : BitVec 4) (o : BitVec 16) (s : State) : Out := needleBranch s o.toInt id fun x => x.reg d.toNat == 0
/-- `n.bnz` (R241). -/
def execNBnz (d : BitVec 4) (o : BitVec 16) (s : State) : Out := needleBranch s o.toInt id fun x => x.reg d.toNat != 0
/-- `n.blt` (R241). -/
def execNBlt (a b : BitVec 4) (o : BitVec 8) (s : State) : Out :=
  needleBranch s o.toInt id fun x => decide ((x.reg a.toNat).toInt < (x.reg b.toNat).toInt)
/-- `n.loop` (R241): nD := nD − 1, and a branch if the new nD is not 0; for n0, which reads as zero and discards the write, the value is −1. -/
def execNLoop (d : BitVec 4) (o : BitVec 16) (s : State) : Out :=
  withNeedle s fun c n _ =>
    let x := s.needle c n
    let v := x.reg d.toNat - 1
    .next (needleGo (s.setNeedle c n (x.setReg d.toNat v)) c n (if v != 0 then needleTarget x o.toInt else x.pc + 4))

/-! ### Memory (R242) -/

/-- Places in global memory that a needle stored to, recorded with what it stored (R181). -/
def noteWrites (s : State) (c n : Nat) (spots : List Spot) : State :=
  s.modNeedle c n fun x => { x with writes := writesAt s c spots x.writes }

/-- A load into nD (R242). -/
def needleLoad (s : State) (d a : BitVec 4) (f : BitVec 8) (size : Nat) : Out :=
  withNeedle s fun c n w =>
    let x := s.needle c n
    match loadAt s (needleParty s c w) 0 (x.reg a.toNat + BitVec.ofInt 64 (f.toInt * size)) size true with
    | (s, .error e) => .next (stopNeedle s c n (stopOf e))
    | (s, .ok v) => .next (needleGo (s.modNeedle c n fun x => x.setReg d.toNat v) c n (x.pc + 4))
/-- `n.ld.b32` (R242). -/
def execNLdB32 (d a : BitVec 4) (f : BitVec 8) (s : State) : Out := needleLoad s d a f 4
/-- `n.ld.b64` (R242). -/
def execNLdB64 (d a : BitVec 4) (f : BitVec 8) (s : State) : Out := needleLoad s d a f 8
/-- `n.st.b64` (R242). -/
def execNStB64 (d a : BitVec 4) (f : BitVec 8) (s : State) : Out :=
  withNeedle s fun c n w =>
    let x := s.needle c n
    match storeAt s (needleParty s c w) 0 (x.reg a.toNat + BitVec.ofInt 64 (f.toInt * 8)) (bytesOf 8 (x.reg d.toNat)) true with
    | (s, .error e) => .next (stopNeedle s c n (stopOf e))
    | (s, .ok spots) => .next (needleGo (noteWrites s c n spots) c n (x.pc + 4))

/-! ### Tensor address generators (R233, R234, R243) -/

/-- A legal TLR as a generator with its coordinates all zero (R233, R243). -/
def genOf (h : Nat) (bs : List Byte) : Option Gen :=
  let ext := (List.range 6).map fun i => fieldAt bs (8 + 4 * i) 4
  if ext.contains 0 || decide (6 < fieldAt bs 0x38 1) || decide (4 ≤ fieldAt bs 0x39 1) || !(zeroSpan bs 0x3a 6) then none
  else some { bound := true, handle := BitVec.ofNat 16 h, base := dwordAt bs 0, ext := ext, str := (List.range 6).map fun i => (wordAt bs (0x20 + 4 * i)).toInt
              fmt := fieldAt bs 0x38 1, swz := fieldAt bs 0x39 1, c := List.replicate 6 0 }

/-- The TLR that a handle names, bound; or what stops the needle (R233, R243). -/
def bindGen (s : State) (c w d h : Nat) : State × Except Stop Gen :=
  let l := (s.launch (s.wg w).launch).lpb
  let bad : Stop := { code := 7, gen := some d, handle := h }
  let own := decide (2 ^ 15 ≤ h)
  if (if own then decide ((s.wg w).size < 64 * (h % 2 ^ 15) + 64) else decide (l.tlrcount ≤ h)) then (s, .error bad) else
  let a : Dword := if own then 0xff00000000000000 + BitVec.ofNat 64 (64 * (h % 2 ^ 15)) else l.tlrbase + BitVec.ofNat 64 (64 * h)
  match commandRead s (needleParty s c w) a 64 true with
  | (s, .error e) => (s, .error { stopOf e (some d) with handle := h })
  | (s, .ok bs) => match genOf h bs with
    | none => (s, .error bad)
    | some g => (s, .ok g)

/-- `n.tag` (R243). -/
def execNTag (g : BitVec 2) (a : BitVec 4) (s : State) : Out :=
  withNeedle s fun c n w =>
    let x := s.needle c n
    match bindGen s c w g.toNat ((x.reg a.toNat).toNat % 2 ^ 16) with
    | (s, .error p) => .next (stopNeedle s c n p)
    | (s, .ok t) => .next (needleGo (s.modNeedle c n fun x => x.setGen g.toNat t) c n (x.pc + 4))

/-- advance(g, d, k): a carry out of dimension 5 is dropped (R234). -/
def Gen.advance (g : Gen) (d k : Nat) : Nat → Gen
  | 0 => g
  | fuel + 1 =>
    if 5 < d || k = 0 then g else
    let t := g.c.getD d 0 + k
    let e := g.ext.getD d 1
    Gen.advance { g with c := g.c.set d (t % e) } (d + 1) (t / e) fuel

/-- `n.step` (R243); a dimension above 5 makes the word illegal (R54). -/
def execNStep (g : BitVec 2) (i : BitVec 8) (s : State) : Out :=
  withNeedle s fun c n _ =>
    let x := s.needle c n
    if 5 < i.toNat then .next (stopNeedle s c n { code := 9 })
    else if !(x.gen g.toNat).bound then .next (stopNeedle s c n { code := 7, gen := some g.toNat })
    else .next (needleGo (s.setNeedle c n (x.setGen g.toNat ((x.gen g.toNat).advance i.toNat 1 6))) c n (x.pc + 4))

/-- The address of the element at coordinates `k`, before the swizzle (R234). -/
def Gen.addr (g : Gen) (k : List Nat) : Dword := g.base + BitVec.ofInt 64 ((k.zip g.str).foldl (fun (t : Int) p => t + p.1 * p.2) 0)
/-- The swizzle of a logical byte: it acts on the offset of a scratchpad window (R215, R234). -/
def Gen.phys (g : Gen) (a : Dword) : Dword :=
  if a.toNat / 2 ^ 24 = 0xff00000000 || a.toNat / 2 ^ 32 = 0xfe000000 then
    BitVec.ofNat 64 (a.toNat / 2 ^ 24 * 2 ^ 24 + swizzle g.swz (a.toNat % 2 ^ 24))
  else a

/-- Element sizes by FMT (R233). -/
def elemSize (fmt : Nat) : Nat := if fmt ≤ 4 then 2 ^ fmt else if fmt = 5 then 10 else 9
/-- The accesses that move an element, swizzled: whole up to 8 bytes, halves of 16, and single bytes of a block; whether they must be aligned (R234, R244). None crosses
a 16-byte unit unless it is misaligned. -/
def Gen.parts (g : Gen) (k : List Nat) : List (Dword × Nat × Bool) :=
  let a := g.addr k
  let es := elemSize g.fmt
  if es ≤ 8 then [(g.phys a, es, true)] else if es = 16 then [(g.phys a, 8, true), (g.phys (a + 8), 8, true)]
  else (List.range es).map fun i => (g.phys (a + BitVec.ofNat 64 i), 1, false)

/-- Every access of one side located: what stops those that fail, and the places of the others (R154, R244). -/
def locateParts (s : State) (P : Party) (need : Need) (gen : Nat) : List (Dword × Nat × Bool) → State × List Stop × List (Dword × Spot)
  | [] => (s, [], [])
  | (a, n, al) :: ps =>
    let r := locate s P 0 a n al need
    let q := locateParts r.1 P need gen ps
    match r.2 with
    | .error e => (q.1, stopOf e (some gen) :: q.2.1, q.2.2)
    | .ok spots => (q.1, q.2.1, (addrs a n).zip spots ++ q.2.2)
/-- The stop with the lowest failing address, the first of them where two agree (R252). -/
def lowestStop : List Stop → Option Stop
  | [] => none
  | p :: ps => match lowestStop ps with
    | none => some p
    | some q => if q.addr < p.addr then some q else some p
/-- Uncorrectable data of one side, `covered` being what the word rewrites (R154, R251). -/
def badParts (s : State) (gen : Nat) (xs : List (Dword × Spot)) (covered : List Spot) : List Stop :=
  xs.filterMap fun p => (correctable s p.1 [p.2] covered).map fun e => stopOf e (some gen)

/-- Coordinates of the source and destination elements of a copy word, or the bounds that fail (R244). -/
def copyCoords (kind : Nat) (gd ga : Gen) (d a : Nat) (nb : Nat) : Except Stop (List (List Nat × List Nat)) :=
  let e (g : Gen) (i : Nat) : Nat := g.ext.getD i 1
  let c (g : Gen) (i : Nat) : Nat := g.c.getD i 0
  let bounds (i : Nat) : Stop := { code := 6, gen := some i }
  if kind = 0 then
    if e ga 0 < c ga 0 + nb then .error (bounds a) else if e gd 0 < c gd 0 + nb then .error (bounds d)
    else if 4096 < nb * elemSize ga.fmt then .error { code := 6 }
    else .ok ((List.range nb).map fun j => ((c ga 0 + j) :: ga.c.drop 1, (c gd 0 + j) :: gd.c.drop 1))
  else
    let l := e ga 0
    if e gd 0 < l then .error (bounds d)
    else if e (if kind = 1 then ga else gd) 1 ≤ nb then .error (bounds (if kind = 1 then a else d))
    else if 4096 < l * elemSize ga.fmt then .error { code := 6 }
    else .ok ((List.range l).map fun j =>
      if kind = 1 then (j :: nb :: ga.c.drop 2, j :: gd.c.drop 1) else (j :: ga.c.drop 1, j :: nb :: gd.c.drop 2))

/-- The generators of a copy word after the move (R244). -/
def afterCopy (kind : Nat) (x : Needle) (d a nb : Nat) : Needle :=
  let step (x : Needle) (i dim k : Nat) : Needle := if (x.gen i).bound then x.setGen i ((x.gen i).advance dim k 6) else x
  if kind = 0 then step (step x a 0 nb) d 0 nb else if kind = 1 then step x d 1 1 else step x a 1 1

/-- The copy words: every check, of both sides, then every source element, then every destination element; each part of an element that is moved whole is one store
(R142, R244). -/
def copyWord (s : State) (kind : Nat) (gd ga : BitVec 2) (b : BitVec 4) : Out :=
  withNeedle s fun c n w =>
    let x := s.needle c n
    let d := gd.toNat
    let a := ga.toNat
    let nb := (x.reg b.toNat).toNat
    let D := x.gen d
    let A := x.gen a
    let P := needleParty s c w
    let stop (s : State) (p : Stop) : Out := .next (stopNeedle s c n p)
    if !A.bound then stop s { code := 7, gen := some a } else if !D.bound then stop s { code := 7, gen := some d }
    else if elemSize A.fmt != elemSize D.fmt then stop s { code := 8 }
    else match copyCoords kind D A d a nb with
      | .error p => stop s p
      | .ok ks =>
        let r := locateParts s P .load a (ks.flatMap fun k => A.parts k.1)
        let q := locateParts r.1 P .store d (ks.flatMap fun k => D.parts k.2)
        let s := q.1
        let xs := r.2.2
        let ys := q.2.2.map Prod.snd
        match (lowestStop (r.2.1 ++ q.2.1)).or (lowestStop (badParts s a xs [] ++ badParts s d q.2.2 ys)) with
        | some p => stop s p
        | none =>
          let part := if elemSize D.fmt ≤ 8 then elemSize D.fmt else if elemSize D.fmt = 16 then 8 else 1
          let s := heal (writeParts s c part ys (xs.map fun p => readSpot s c p.2)) ys
          let s := noteWrites s c n ys
          .next (needleGo (s.modNeedle c n fun x => afterCopy kind x d a nb) c n (x.pc + 4))
/-- `n.copy` (R244). -/
def execNCopy (g h : BitVec 2) (b : BitVec 4) (s : State) : Out := copyWord s 0 g h b
/-- `n.gather` (R244). -/
def execNGather (g h : BitVec 2) (b : BitVec 4) (s : State) : Out := copyWord s 1 g h b
/-- `n.scat` (R244). -/
def execNScat (g h : BitVec 2) (b : BitVec 4) (s : State) : Out := copyWord s 2 g h b

/-! ### Chunks, barriers and the end of a command (R245, R247, R248) -/

/-- The command's writes so far stand in the views of the cores of a cluster (R245, R246). -/
def showWrites (s : State) (c n : Nat) : State :=
  let m := (s.needle c n).writes
  (s.cores.keys.filter fun k => clusterOf k == clusterOf c).foldl (fun s k => s.viewMerge k m) s

/-- `n.chunk` (R245). -/
def execNChunk (a b : BitVec 4) (s : State) : Out :=
  withNeedle s fun c n w =>
    let x := s.needle c n
    let i := (x.reg b.toNat).toNat
    match barrierAt s (needleParty s c w) (x.reg a.toNat + BitVec.ofNat 64 (8 * (i / 64))) with
    | (s, .error e) => .next (stopNeedle s c n (stopOf e))
    | (s, .ok (v, off)) =>
      let s := showWrites s c n
      .next (needleGo (setBarrier s v off (barrierWord s v off ||| (1#64 <<< (i % 64)))) c n (x.pc + 4))

/-- `n.arrive` (R247): a release of the command's writes, held while a relock holds it (R325), then one arrival. -/
def execNArrive (a : BitVec 4) (s : State) : Out :=
  withNeedle s fun c n w =>
    let x := s.needle c n
    let addr := x.reg a.toNat
    match barrierAt s (needleParty s c w) addr with
    | (s, .error e) => .next (stopNeedle s c n (stopOf e))
    | (s, .ok (v, off)) =>
      let S := barrierScope addr
      if relocked s c S then .next s else
      let s := if S ≥ 3 then s.modCluster (clusterOf c) fun k => { k with image := k.image.merge x.writes } else s
      .next (needleGo (arriveStep s v off 1) c n (x.pc + 4))

/-- `n.wait` (R247). -/
def execNWait (a : BitVec 4) (s : State) : Out :=
  withNeedle s fun c n w =>
    let x := s.needle c n
    let v := x.reg a.toNat
    let addr := v &&& ~~~7#64
    let odd := v &&& 6#64 != 0
    match barrierAt s (needleParty s c w) addr with
    | (s, .error e) => .next (stopNeedle s c n (stopOf (if odd && e.cause != 4 then alignFault 3 v else e)))
    | (s, .ok (u, off)) =>
      if odd then .next (stopNeedle s c n (stopOf (alignFault 3 v)))
      else if (barrierWord s u off).getLsbD 63 != v.getLsbD 0 then
        .next (s.modNeedle c n fun x => { x with waiting := some (addr, v.getLsbD 0) })
      else .next (needleGo (acquire s (needleParty s c w) (barrierScope addr)) c n (x.pc + 4))

/-- The promise of a command changed; a later one arms the watch again (R248, R250, R254). -/
def setPromise (s : State) (w slot : Nat) (v : Dword) : State :=
  let c := (s.wg w).home
  let s := s.modWg w fun g => { g with posted := g.posted.modify slot fun p => { p with promise := v, missed := false } }
  (List.range (needlesOf c)).foldl (fun s n => if (s.needle c n).cmd = some (w, slot) then s.modNeedle c n fun x => { x with promise := v } else s) s

/-- `n.promise` (R248). -/
def execNPromise (a : BitVec 4) (s : State) : Out :=
  withNeedle s fun c n w =>
    let x := s.needle c n
    let slot := match x.cmd with
      | some p => p.2
      | none => 0
    .next (needleGo (setPromise s w slot (x.reg a.toNat)) c n (x.pc + 4))

/-- `n.end` (R248). -/
def execNEnd (s : State) : Out :=
  withNeedle s fun c n w =>
    let slot := match (s.needle c n).cmd with
      | some p => p.2
      | none => 0
    .next (endEntry s w slot)

/-- `n.trap` (R248). -/
def execNTrap (i : BitVec 16) (s : State) : Out := withNeedle s fun c n _ => .next (stopNeedle s c n { code := 0x0c, detail := i.toNat })

/-! ### Taking an entry (R238) -/

/-- Whether an entry may be taken by needle `n` now: nothing of its ring before it is untaken, SER holds, and the ring's record for the needle is free (R238, R252). -/
def mayTake (s : State) (n w slot : Nat) (p : Posted) : Bool :=
  let ps := (s.wg w).posted
  !p.taken && (ps.all fun q => q.2.taken || decide (p.cmd ≤ q.2.cmd)) &&
  match ringOf s w with
  | none => false
  | some r => scrRead s w (r + recordOff n + 1) 1 % 2 == 0 &&
    (scrRead s w (r + entryOff slot + 4) 1 % 2 == 0 || ps.all fun q => decide (p.cmd ≤ q.2.cmd))

/-- The entry a needle takes: the oldest published one, across the rings of the core (R238). -/
def nextEntry (s : State) (c n : Nat) : Option (Nat × Nat × Posted) :=
  let ws := s.wgs.filter fun (p : Nat × Wg) => p.2.home == c && p.2.resident && some p.2.ctx == (s.core c).ctx
  let es := ws.flatMap fun p => (p.2.posted.filter fun q => mayTake s n p.1 q.1 q.2).map fun q => (p.1, q.1, q.2)
  es.foldl (fun b e => match b with
    | none => some e
    | some o => if e.2.2.cmd < o.2.2.cmd then some e else some o) none

/-- Whether the PC of a needle names no word of the needle code (R248, R251). -/
def badPc (s : State) (w pc : Nat) : Bool := pc % 4 != 0 || decide (codeSize s w ≤ pc)
/-- A needle reads the entry in a slot of a ring: its state is as R231 gives, unless the entry cannot be read or names no command (R231, R251). -/
def readEntry (s : State) (c n w slot : Nat) (p : Posted) (r : Nat) : State :=
  let o := r + entryOff slot
  let entry := scrRead s w o 4
  let arg (i : Nat) : Nat × Dword := (i, BitVec.ofNat 64 (scrRead s w (o + 8 * i) 8))
  let s := s.setNeedle c n { n := [arg 1, arg 2, arg 3, (4, BitVec.ofNat 64 (scrRead s w (o + 6) 2))], pc := entry, promise := p.promise, cmd := some (w, slot) }
  match (List.range 32).find? fun i => s.badScr w (o + i) with
  | some i => stopNeedle s c n { code := 4, addr := 0xff00000000000000 + BitVec.ofNat 64 (o + i) }
  | none =>
    if scrRead s w (o + 4) 1 / 4 != 0 then stopNeedle s c n { code := 0x0b }
    else if badPc s w entry then stopNeedle s c n { code := 0x0a }
    else s
/-- A command of a workgroup's ring starts on a needle: TAKEN grows, the needle acquires (R238), and sees what the issuing core's view held (R181). -/
def startCommand (s : State) (c n w slot : Nat) (p : Posted) (r : Nat) : State :=
  let s := (s.modWg w fun g => { g with posted := g.posted.modify slot fun q => { q with taken := true } }).usePages w r 2240
  let s := scrPut s w (r + 4) 4 ((scrRead s w (r + 4) 4 + 1) % 2 ^ 32)
  let s := (acquire s (needleParty s c w) 2).viewMerge c p.seen
  let s := traceUnit s 10 (BitVec.ofNat 64 (scrRead s w (r + entryOff slot) 4)) (BitVec.ofNat 64 slot)
  readEntry s c n w slot p r

/-- NEEDLE_TAKE_ENTRY (R238). -/
def execNeedleTakeEntry (core needle : Nat) (s : State) : Out :=
  if (s.needle core needle).cmd.isSome || !(decide (needle < needlesOf core)) then .next s else
  match nextEntry s core needle with
  | none => .next s
  | some (w, slot, p) => match ringOf s w with
    | none => .next s
    | some r => .next (startCommand s core needle w slot p r)

/-- PROMISE_EXPIRY (R250): ETIME has reached the promise of a command that is watched and has neither ended nor stopped. -/
def execPromiseExpiry (wg slot : Nat) (s : State) : Out :=
  match (s.wg wg).posted.find? slot with
  | none => .next s
  | some p =>
    let c := (s.wg wg).home
    let stopped := (List.range (needlesOf c)).any fun n => (s.needle c n).cmd == some (wg, slot) && (s.needle c n).stopped.isSome
    let stopped := stopped || (s.wg wg).stopped.any fun (q : Nat × Needle) => q.2.cmd == some (wg, slot) && q.2.stopped.isSome
    if !p.watch || p.missed || stopped || decide (s.etime < p.promise) then .next s else
    let s := s.modWg wg fun g => { g with posted := g.posted.modify slot fun q => { q with missed := true } }
    .next (deliver253 s wg p.sg slot { cause := 0x10, aux := BitVec.ofNat 32 slot, kind := 2 })

/-! ### The words of threads -/

/-- The scratchpad bytes of a ring, as they are named to check and rewrite them. -/
def ringSpots (w off n : Nat) : List Spot := (List.range n).map fun i => .scr w (off + i)

/-- `npost` (R236). NOTIFY and BUSY are read, and the 32 bytes of the slot are rewritten in full (R8). -/
def execNpost (d a : BitVec 7) (s : State) : Out :=
  withWord s fun x => checked s x [(!(spairOk d.toNat), 7), (decide (104 < a.toNat), 7), ((ringOf s (x.wg s)).isNone, 8)] <|
    match ringOf s (x.wg s) with
    | none => .next (ill s x 8)
    | some r =>
      let w := x.wg s
      match correctable s (0xff00000000000000 + BitVec.ofNat 64 r) (ringSpots w r 4 ++ ringSpots w (r + 4) 12) [] with
      | some e => .next (raise s x { trapOf s x x.mask e.cause e.detail with addr := e.addr })
      | none =>
      let s := s.usePages w r 2240
      let num := scrRead s w r 4
      if ((s.wg w).posted.find? (num % 64)).isSome then .next (blockAt s x x.lanes .ring) else
      .next (withRelease s x 2 fun s =>
        let u := x.sub s
        let o := r + entryOff (num % 64)
        let s := (List.range 8).foldl (fun s i => scrPut s w (o + 4 * i) 4 (u.sreg (a.toNat + i)).toNat) s
        let s := heal s (ringSpots w o 32)
        let p := promiseOf s w r (num % 64)
        let s := publishEntry s w r x.sg x.lanes num
        done (wakeNeedles (s.modSub x.sg fun u => u.setSpair d.toNat p) (s.wg w).home) x)

/-- What a needle does at a word that it skips: its generator advances, and 0 for a load (R254). -/
def skipWord (x : Needle) : Needle :=
  let w := x.word
  let f (lo : Nat) : Nat := (w.extractLsb' lo 4).toNat
  let op := (w.extractLsb' 20 5).toNat
  if w.extractLsb' 25 7 != 0x66 then x
  else if op = 0x11 || op = 0x12 then x.setReg (f 16) 0
  else if op = 0x15 && (x.gen (f 16)).bound && decide ((w.extractLsb' 0 8).toNat ≤ 5) then
    x.setGen (f 16) ((x.gen (f 16)).advance (w.extractLsb' 0 8).toNat 1 6)
  else if 0x16 ≤ op && op ≤ 0x18 && (x.gen (f 16)).bound && (x.gen (f 12)).bound then afterCopy (op - 0x16) x (f 16) (f 12) (x.reg (f 8)).toNat
  else x

/-- The stopped command that a control word names: the needle, where its record is VALID and matches NEEDLE and SLOT (R254). -/
def stoppedAt (s : State) (w n slot : Nat) : Bool :=
  let x := s.needle (s.wg w).home n
  x.cmd == some (w, slot) && x.stopped.isSome &&
  match ringOf s w with
  | none => false
  | some r =>
    let v := scrRead s w (r + recordOff n) 4
    v / 256 % 2 == 1 && v / 2 ^ 22 % 2 == n && v / 2 ^ 16 % 64 == slot

/-- RETRY: the failing word is performed again; with RETAG its generator first takes its TLR anew, keeping its coordinates (R254). A command that stopped before its first
word is checked again: its entry where that could not be read, its flags, and its PC. -/
def retryNeedle (s : State) (w n slot : Nat) (retag : Bool) : State :=
  let c := (s.wg w).home
  let r := (ringOf s w).getD 0
  let x := s.needle c n
  let code := x.stopped
  let g := scrRead s w (r + recordOff n + 6) 1
  let s := s.modNeedle c n fun x => { x with stopped := none }
  if code = some 4 && x.word = 0 then readEntry s c n w slot ((s.wg w).posted.get slot {}) r
  else if code = some 0x0b && scrRead s w (r + entryOff slot + 4) 1 / 4 != 0 then stopNeedle s c n { code := 0x0b }
  else if badPc s w x.pc then stopNeedle s c n { code := 0x0a }
  else if retag && decide (0x80 ≤ g) && ((s.needle c n).gen (g % 4)).bound then
    let old := (s.needle c n).gen (g % 4)
    match bindGen s c w (g % 4) old.handle.toNat with
    | (s, .error p) => stopNeedle s c n p
    | (s, .ok t) => s.modNeedle c n fun x => x.setGen (g % 4) { t with c := old.c }
  else s

/-- SKIP: the needle goes on at the next word (R254). -/
def skipNeedle (s : State) (w n : Nat) : State :=
  let c := (s.wg w).home
  let x := s.needle c n
  needleGo (s.setNeedle c n { skipWord x with stopped := none }) c n (x.pc + 4)

/-- `nctl`: the checks of its control word, and RETRY, SKIP and ABORT on a stopped command, whose record is VALID no more (R254, R256). -/
def nctlWord (s : State) (a b : BitVec 7) (act : State → Nat → Nat → Nat → Word → State) : Out :=
  withWord s fun x =>
    let v := (x.sub s).sreg a.toNat
    checked s x [scalarBad a, (!(spairOk b.toNat), 7), (decide (2 ^ 12 ≤ v.toNat) || decide (3 < v.toNat % 16), 8)] <|
      let w := x.wg s
      let n := v.toNat / 2 ^ 10 % 2
      let slot := v.toNat / 16 % 64
      if !(stoppedAt s w n slot) then .next (done s x) else
      let r := (ringOf s w).getD 0
      let s := s.usePages w (r + recordOff n) 64
      let s := scrPut s w (r + recordOff n + 1) 1 (scrRead s w (r + recordOff n + 1) 1 / 2 * 2)
      .next (done (wakeNeedles (act s w n slot v) (s.wg w).home) x)
/-- `nctl` with OP RETRY (R254). -/
def execNctlRetry (a b : BitVec 7) (s : State) : Out := nctlWord s a b fun s w n slot v => retryNeedle s w n slot (v.getLsbD 11)
/-- `nctl` with OP SKIP (R254). -/
def execNctlSkip (a b : BitVec 7) (s : State) : Out := nctlWord s a b fun s w n _ _ => skipNeedle s w n
/-- `nctl` with OP ABORT (R254). -/
def execNctlAbort (a b : BitVec 7) (s : State) : Out := nctlWord s a b fun s w _ slot _ => endEntry s w slot
/-- `nctl` with OP EXTEND (R254): on a slot that is not BUSY it has no effect. -/
def execNctlExtend (a b : BitVec 7) (s : State) : Out :=
  withWord s fun x =>
    let v := (x.sub s).sreg a.toNat
    checked s x [scalarBad a, (!(spairOk b.toNat), 7), (decide (2 ^ 12 ≤ v.toNat) || decide (3 < v.toNat % 16), 8)] <|
      .next (done (setPromise s (x.wg s) (v.toNat / 16 % 64) ((x.sub s).spair b.toNat)) x)

/-- `bseal` (R249). -/
def execBseal (d : BitVec 7) (s : State) : Out :=
  withWord s fun x => checked s x [scalarBad d] <|
    let n := ((x.sub s).thread (lowest x.mask)).batch
    let s := s.modThreads x.sg x.lanes fun t => { t with batch := t.batch + 1 }
    .next (done (s.modSub x.sg fun u => u.setSreg d.toNat (n.setWidth 32)) x)

/-- Members `go` of a blocking word go on and the others wait, each as `f` says. -/
def passOrWait (s : State) (x : Cx) (go : List Nat) (f : Nat → Wait) : State :=
  let n := (s.row x.core x.row).issued + 1
  let now := s.cycle x.core
  let s := (x.lanes.filter fun l => !(go.contains l)).foldl (fun s l => s.modThread x.sg l fun t => { t with wait := f l, lastIssue := n, readyAt := now, lastAt := now }) s
  let s := if go.isEmpty then s.modRow x.core x.row fun r => { r with issued := n } else advance s x go
  switchPoint s x

/-- `bwait` (R249). A thread that waits already keeps the number it came with. -/
def execBwait (a : BitVec 7) (s : State) : Out :=
  withWord s fun x => checked s x [scalarBad a] <|
    let num (l : Nat) : BitVec 16 := match ((x.sub s).thread l).wait with
      | .batch n => n
      | _ => ((x.sub s).sreg a.toNat).setWidth 16
    .next (passOrWait s x (x.lanes.filter fun l => batchDone s x.sg l (num l)) fun l => .batch (num l))

/-- `cwait` (R246). A thread that waits already keeps the word and the mask it came with. -/
def execCwait (a b : BitVec 7) (s : State) : Out :=
  withWord s fun x => checked s x [pairBad a, pairBad b] <|
    let u := x.sub s
    let want (l : Nat) : Dword × Dword := match (u.thread l).wait with
      | .chunks c m => (c, m)
      | _ => (u.spair a.toNat, u.spair b.toNat)
    let fault (l : Nat) : Option MemFault := match (barrierAt s (x.party s) (want l).1).2 with
      | .error e => some (if e.cause = 3 then alignFault 1 e.addr else e)
      | .ok _ => none
    let faults := x.lanes.filterMap fun l => (fault l).map fun e => (l, e)
    let ts := faultTraps s x 64 faults
    let y := { x with mask := x.mask &&& ~~~maskOf (faults.map Prod.fst) }
    let s := (barrierAt s (x.party s) (want (lowest x.mask)).1).1
    let s := if y.mask = 0 then s else
      passOrWait s y (y.lanes.filter fun l => chunksDone s (x.party s) (want l).1 (want l).2) fun l => .chunks (want l).1 (want l).2
    .next (switchPoint (raiseAll s x ts) x)

end Sys2Proof.Machine
end

