-- ==== Sys2Proof/Machine/Orrery.lean ====
section
/-!
DEFINITION. The Orrery: maps (R307, R308), its command words (R309, R310), their operations (R312 to R314), STATUS (R311) and `ostat` (R315).
-/

namespace Sys2Proof.Machine

/-! ### Maps (R307, R308) -/

/-- Bytes of a map of N states. -/
def mapSize (n : Nat) : Nat := if n ≤ 16 then 8 else if n ≤ 64 then 64 else 256
/-- A state number as the engine reads it: N or above is the dead state. -/
def clampState (n v : Nat) : Nat := if v < n then v else n - 1
/-- Entry `i` of a map in memory, as stored. -/
def rawEntry (n : Nat) (bs : List Byte) (i : Nat) : Nat := if n ≤ 16 then (bs.getD (i / 2) 0).toNat / 16 ^ (i % 2) % 16 else (bs.getD i 0).toNat
/-- A map read: its entries, and whether one was clamped. -/
def readMap (n : Nat) (bs : List Byte) : List Nat × Bool :=
  let es := (List.range n).map (rawEntry n bs)
  (es.map (clampState n), es.any fun v => decide (n ≤ v))
/-- A map as the engine writes it: positions from N on are zero. -/
def mapBytes (n : Nat) (m : List Nat) : List Byte :=
  (List.range (mapSize n)).map fun i => if n ≤ 16 then BitVec.ofNat 8 (m.getD (2 * i) 0 + 16 * m.getD (2 * i + 1) 0) else BitVec.ofNat 8 (m.getD i 0)
/-- compose(a, b): a is applied first (R308). -/
def composeMaps (a b : List Nat) : List Nat := a.map fun s => b.getD s 0
def deadMap (n : Nat) : List Nat := List.replicate n (n - 1)

/-! ### Descriptors (R309, R311) -/

/-- The fields of a descriptor. -/
structure Desc where
  src0 : Dword
  src1 : Dword
  dst : Dword
  pfx : Dword
  nst : Nat
  vocab : Nat
  stride : Nat
  start : Nat
  flags : Nat
  deriving DecidableEq, Repr
def descOf (bs : List Byte) : Desc :=
  ⟨dwordAt bs 0, dwordAt bs 8, dwordAt bs 16, dwordAt bs 24, fieldAt bs 0x20 4, fieldAt bs 0x24 4, fieldAt bs 0x28 4, fieldAt bs 0x2c 4, fieldAt bs 0x30 4⟩

/-- RB: bytes of an output row (R309). -/
def rowBytes (d : Desc) : Nat := (d.vocab + 63) / 64 * 8
/-- Whether a span of addresses lies in a scratchpad window (R16). -/
def inWindow (a : Dword) (n : Nat) : Bool :=
  let lo := a.toNat
  (lo / 2 ^ 24 == 0xff00000000 && (lo + n - 1) / 2 ^ 24 == 0xff00000000) || (lo / 2 ^ 32 == 0xfe000000 && (lo + n - 1) / 2 ^ 32 == 0xfe000000)

/-- STATUS 0x02 or 0x03 of a command that is refused (R311). -/
def refusal (op : Nat) (d : Desc) (n : Nat) : Option Nat :=
  let al (a : Dword) : Bool := a.toNat % 8 == 0
  if d.nst = 0 || 256 < d.nst then some 2 else
  let good :=
    if op = 0 then 1 ≤ n && n ≤ 4096 && al d.src0 && al d.dst && al d.pfx && 1 ≤ d.vocab && d.vocab ≤ 2 ^ 20 && d.stride == 0 && decide (d.start < d.nst)
      && d.flags == 0 && inWindow d.src1 (4 * n)
    else if op = 1 then 1 ≤ n && n ≤ 64 && al d.src0 && al d.src1 && al d.dst && d.pfx == 0 && d.vocab == 0 && d.stride == 0 && d.start == 0 && d.flags == 0
    else if op = 2 then 1 ≤ n && n ≤ 64 && al d.src1 && al d.dst && d.pfx == 0 && 1 ≤ d.vocab && d.vocab ≤ 2 ^ 20 && d.stride % 8 == 0
      && decide (rowBytes d ≤ d.stride) && d.start == 0 && d.flags ≤ 1
    else 1 ≤ n && n ≤ 4096 && al d.src0 && d.pfx == 0 && d.vocab == 0 && d.stride == 0 && d.start == 0 && d.flags == 0
  if good then none else some 3

/-! ### Performing a command (R310 to R314) -/

/-- A command in course: memory, the results it will store, the last first, its flags and RES0 and RES1. Every operand is read before the first result is stored. -/
structure Orr where
  s : State
  out : List (Dword × List Byte) := []
  clamp : Bool := false
  dead : Bool := false
  range : Bool := false
  res0 : Nat := 0
  res1 : Nat := 0xffffffff

/-- An operand read by the core that issued the command; a fault stops the command. -/
def Orr.load (o : Orr) (P : Party) (a : Dword) (n : Nat) : Except (Orr × MemFault) (Orr × List Byte) :=
  match commandRead o.s P a n false with
  | (s, .error e) => .error ({ o with s := s }, e)
  | (s, .ok bs) => .ok ({ o with s := s }, bs)
/-- A result to be stored. -/
def Orr.put (o : Orr) (a : Dword) (bs : List Byte) : Orr := { o with out := (a, bs) :: o.out }
/-- The results stored in order; a fault stops the command. What was written to global memory comes with the state. -/
def storeResults (s : State) (P : Party) (m : VMem) : List (Dword × List Byte) → State × VMem × Option MemFault
  | [] => (s, m, none)
  | (a, bs) :: rs =>
    match storeAt s P 0 a bs false with
    | (s, .error e) => (s, m, some e)
    | (s, .ok spots) => storeResults s P (writesAt s P.core spots m) rs
def Orr.map (o : Orr) (P : Party) (n : Nat) (a : Dword) : Except (Orr × MemFault) (Orr × List Nat) :=
  match o.load P a (mapSize n) with
  | .error e => .error e
  | .ok (o, bs) => let m := readMap n bs; .ok ({ o with clamp := o.clamp || m.2 }, m.1)

def atIndex (a : Dword) (i size : Nat) : Dword := a + BitVec.ofNat 64 (i * size)

/-- The map of token `i` (R312). -/
def tokenMap (o : Orr) (P : Party) (d : Desc) (i : Nat) : Except (Orr × MemFault) (Orr × List Nat) :=
  match o.load P (atIndex d.src1 i 4) 4 with
  | .error e => .error e
  | .ok (o, bs) =>
    let t := fieldAt bs 0 4
    if d.vocab ≤ t then .ok ({ o with range := true }, deadMap d.nst) else o.map P d.nst (atIndex d.src0 t (mapSize d.nst))

/-- The prefixes of `oscan` from token `i` on; `p` is the map so far, none before the first (R312). -/
def scanFrom (P : Party) (d : Desc) : Nat → Orr → Nat → Option (List Nat) → Except (Orr × MemFault) (Orr × List Nat)
  | 0, o, _, p => .ok (o, p.getD [])
  | k + 1, o, i, p =>
    match tokenMap o P d i with
    | .error e => .error e
    | .ok (o, m) =>
      let p := match p with
        | none => m
        | some q => composeMaps q m
      let o := if d.pfx = 0 then o else o.put (atIndex d.pfx i (mapSize d.nst)) (mapBytes d.nst p)
      if p = deadMap d.nst then .ok ({ o with dead := true, res1 := i }, p) else scanFrom P d k o (i + 1) (some p)

/-- `oscan` (R312). -/
def scanOp (o : Orr) (P : Party) (d : Desc) (n : Nat) : Except (Orr × MemFault) Orr :=
  match scanFrom P d n o 0 none with
  | .error e => .error e
  | .ok (o, p) => .ok { o.put d.dst (mapBytes d.nst p) with res0 := p.getD d.start 0 }

/-- `ocomp` from map `j` on (R313). -/
def compOp (P : Party) (d : Desc) : Nat → Orr → Nat → Except (Orr × MemFault) Orr
  | 0, o, _ => .ok o
  | k + 1, o, j =>
    let z := mapSize d.nst
    match o.map P d.nst (atIndex d.src0 j z) with
    | .error e => .error e
    | .ok (o, a) => match o.map P d.nst (atIndex d.src1 j z) with
      | .error e => .error e
      | .ok (o, b) => compOp P d k (o.put (atIndex d.dst j z) (mapBytes d.nst (composeMaps a b))) (j + 1)

/-- The state byte at an address, clamped (R307). -/
def Orr.state (o : Orr) (P : Party) (d : Desc) (a : Dword) : Except (Orr × MemFault) (Orr × Nat) :=
  match o.load P a 1 with
  | .error e => .error e
  | .ok (o, bs) => let v := (bs.getD 0 0).toNat; .ok ({ o with clamp := o.clamp || decide (d.nst ≤ v) }, clampState d.nst v)

/-- `oapply` from state `j` on, with its map (R313). -/
def applyOp (P : Party) (d : Desc) (m : List Nat) : Nat → Orr → Nat → Except (Orr × MemFault) Orr
  | 0, o, _ => .ok o
  | k + 1, o, j =>
    match o.state P d (atIndex d.src1 j 1) with
    | .error e => .error e
    | .ok (o, v) => applyOp P d m k (o.put (atIndex d.dst j 1) [BitVec.ofNat 8 (m.getD v 0)]) (j + 1)

/-- A row with the bits from VOCAB on cleared (R314). -/
def trimRow (d : Desc) (bs : List Byte) : List Byte :=
  bs.zipIdx.map fun p => if d.vocab ≤ 8 * p.2 then 0 else if 8 * p.2 + 8 ≤ d.vocab then p.1 else p.1 &&& BitVec.ofNat 8 (2 ^ (d.vocab % 8) - 1)
def orRows (a b : List Byte) : List Byte := (a.zip b).map fun p => p.1 ||| p.2

/-- `olegal` from state `j` on; `acc` is the OR of the rows so far (R314). -/
def legalOp (P : Party) (d : Desc) : Nat → Orr → Nat → List Byte → Except (Orr × MemFault) Orr
  | 0, o, _, acc => .ok (if d.flags = 1 then o.put d.dst acc else o)
  | k + 1, o, j, acc =>
    match o.state P d (atIndex d.src0 j 1) with
    | .error e => .error e
    | .ok (o, v) => match o.load P (atIndex d.src1 v d.stride) (rowBytes d) with
      | .error e => .error e
      | .ok (o, row) =>
        let row := trimRow d row
        if d.flags = 1 then legalOp P d k o (j + 1) (orRows acc row)
        else legalOp P d k (o.put (atIndex d.dst j (rowBytes d)) row) (j + 1) acc

/-- The operation of a command. -/
def orreryOp (o : Orr) (P : Party) (op : Nat) (d : Desc) (n : Nat) : Except (Orr × MemFault) Orr :=
  if op = 0 then scanOp o P d n
  else if op = 1 then compOp P d n o 0
  else if op = 2 then legalOp P d n o 0 (List.replicate (rowBytes d) 0)
  else match o.map P d.nst d.src0 with
    | .error e => .error e
    | .ok (o, m) => applyOp P d m n o 0

/-- Results of a command done: RES0, RES1 and STATUS, in that order (R309, R311). -/
def doneWords (o : Orr) : List (Nat × Nat) :=
  [(0x34, o.res0), (0x3c, o.res1), (0x38, (if o.clamp then 0x100 else 0) + (if o.dead then 0x200 else 0) + if o.range then 0x400 else 0)]

/-- Words of a descriptor stored as the issuing core stores, with what they wrote. -/
def writeDesc (s : State) (P : Party) (desc : Dword) (m : VMem) : List (Nat × Nat) → State × VMem
  | [] => (s, m)
  | (off, v) :: ws =>
    match storeAt s P 0 (desc + BitVec.ofNat 64 off) (bytesOf 4 (BitVec.ofNat 64 v)) true with
    | (s, .error _) => writeDesc s P desc m ws
    | (s, .ok spots) => writeDesc s P desc (writesAt s P.core spots m) ws

/-- A command performed: its results, its STATUS, and MERR where it stopped at uncorrectable data (R310, R311). -/
def performOrrery (s : State) (c : OCmd) : State :=
  let P : Party := ⟨c.core, (s.wg c.wg).ctx, c.wg⟩
  let d := descOf c.record
  let n := c.count.toNat
  let r : State × VMem :=
    match refusal c.op.toNat d n with
    | some v => writeDesc s P c.desc {} [(0x38, v)]
    | none =>
      let stop (s : State) (m : VMem) (e : MemFault) : State × VMem :=
        writeDesc (if e.cause = 5 && (s.subs.find? c.sg).isSome then s.modSub c.sg fun u => { u with merr := true } else s) P c.desc m [(0x38, stopStatus e)]
      match orreryOp { s := s } P c.op.toNat d n with
      | .error (o, e) => stop o.s {} e
      | .ok o => match storeResults o.s P {} o.out.reverse with
        | (s, m, some e) => stop s m e
        | (s, m, none) => writeDesc s P c.desc m (doneWords o)
  finishCmd r.1 c.cmd r.2

/-- ORRERY_COMMAND_PERFORM (R310, R316): the oldest command whose workgroup is resident. -/
def execOrreryCommandPerform (cluster : Nat) (s : State) : Out :=
  match (s.cluster cluster).orrery.find? fun c => (s.wg c.wg).resident with
  | none => .next s
  | some c =>
    let s := performOrrery s c
    let s := s.modCluster cluster fun k => { k with orrery := k.orrery.filter fun (o : OCmd) => o.cmd != c.cmd }
    .next (offerFree s c.wg)

/-! ### The words -/

/-- A command word (R310): at a retry after a wait for an entry the descriptor is read again, and nothing else of what went before is done again. -/
def orreryWord (s : State) (op : BitVec 2) (a b : BitVec 7) : Out :=
  withWord s fun x => checked s x [pairBad a, scalarBad b] <|
    let P := x.party s
    let addr := (x.sub s).spair a.toNat
    let y := postGroup s x
    match commandRead s P addr 64 true with
    | (s, .error e) => .next (raiseGroup s y e)
    | (s, .ok bs) => match postOnce s y (addr + 0x38) y.lanes with
      | (s, .error e) => .next (raiseGroup s y e)
      | (s, .ok n) =>
        let k := clusterOf x.core
        if 64 ≤ (s.cluster k).orrery.length then .next (waitPosted s y n .orrery) else
        let c : OCmd := { op := op, desc := addr, record := bs, count := (x.sub s).sreg b.toNat, sg := x.sg, wg := x.wg s, core := x.core, cmd := n }
        .next ((donePosted (s.modCluster k fun z => { z with orrery := z.orrery ++ [c] }) y).post [.orreryCommandPerform k])
/-- `oscan` (R310, R312). -/
def execOscan (a b : BitVec 7) (s : State) : Out := orreryWord s 0 a b
/-- `ocomp` (R310, R313). -/
def execOcomp (a b : BitVec 7) (s : State) : Out := orreryWord s 1 a b
/-- `olegal` (R310, R314). -/
def execOlegal (a b : BitVec 7) (s : State) : Out := orreryWord s 2 a b
/-- `oapply` (R310, R313). -/
def execOapply (a b : BitVec 7) (s : State) : Out := orreryWord s 3 a b

/-- `ostat` (R315). -/
def execOstat (d : BitVec 7) (s : State) : Out :=
  withWord s fun x => checked s x [scalarBad d] <|
    let q := (s.cluster (clusterOf x.core)).orrery
    let v := q.length * 2 ^ 16 + (q.filter fun (o : OCmd) => o.sg == x.sg).length * 4 + if (x.sub s).merr then 1 else 0
    .next (done (s.modSub x.sg fun u => { u.setSreg d.toNat (BitVec.ofNat 32 v) with merr := false }) x)

end Sys2Proof.Machine
end

