-- ==== Sys2Proof/Machine/Tiles.lean ====
section
/-!
DEFINITION. Tile tasks: `ttpost` (R295, R296), the scheduler (R297, R298) and their completion (R299).
-/

namespace Sys2Proof.Machine

/-- A tile-task record's fields that the task needs (R295). -/
structure TileRec where
  a : Dword
  b : Dword
  c : Dword
  astr : Nat
  bstr : Nat
  cstr : Nat
  m : Nat
  n : Nat
  k : Nat
  afmt : Nat
  wfmt : Nat
  ofmt : Nat
  rnd : Nat
  deriving DecidableEq, Repr

def tileRec (bs : List Byte) : TileRec :=
  let f := fieldAt bs 0x2e 2
  { a := dwordAt bs 0, b := dwordAt bs 8, c := dwordAt bs 0x10, astr := fieldAt bs 0x18 4, bstr := fieldAt bs 0x1c 4, cstr := fieldAt bs 0x20 4
    m := fieldAt bs 0x24 2 + 1, n := fieldAt bs 0x26 2 + 1, k := fieldAt bs 0x28 4
    afmt := f % 16, wfmt := f / 16 % 16, ofmt := f / 256 % 16, rnd := f / 4096 % 8 }

/-- Whether a field breaks R295 or a reserved bit is set (R296). -/
def tileBad (bs : List Byte) : Bool :=
  let r := tileRec bs
  r.astr % 16 != 0 || r.bstr % 16 != 0 || r.cstr % 16 != 0 || decide (512 < r.m) || decide (768 < r.n)
  || decide (r.k < 64) || decide (65536 < r.k) || r.k % 64 != 0 || fieldAt bs 0x2c 2 == 0
  || decide (4 < r.afmt) || decide (5 < r.wfmt) || decide (4 < r.ofmt) || decide (4 < r.rnd) || decide (2 ^ 15 ≤ fieldAt bs 0x2e 2)
  || fieldAt bs 0x3c 4 != 0

/-- A record's ALIGN names a matrix operand (R258, R296). -/
def asOperand (e : MemFault) : MemFault := if e.cause = 3 then alignFault 3 e.addr else e

/-- The ids that hold a new task, as the numbers of the pending tasks they name (R297). -/
def taskDeps (s : State) (cluster ctx : Nat) (bs : List Byte) : List Nat :=
  (List.range 4).filterMap fun i =>
    let id := fieldAt bs (0x30 + 2 * i) 2
    if id = 0 then none else
    ((s.cluster cluster).tasks.find? fun t => t.ctx == ctx && t.taskid == id).map fun t => t.num

/-- An accepted task takes an entry of the scheduler, or its threads wait for one (R296, R297). -/
def scheduleTask (s : State) (y : Cx) (addr : Dword) (bs : List Byte) (n : Nat) : State :=
  let P := y.party s
  let k := clusterOf y.core
  if 64 ≤ (s.cluster k).tasks.length then
    waitPosted { s with cmds := s.cmds.modify n fun (c : Cmd) => { c with record := bs, addr := addr } } y n .tiles
  else
    let t : TileTask := { num := n, ctx := P.ctx, wg := P.wg, sg := y.sg, core := y.core, cmd := n, addr := addr, taskid := fieldAt bs 0x2c 2,
                          deps := taskDeps s k P.ctx bs, record := bs }
    (donePosted (s.modCluster k fun x => { x with tasks := x.tasks ++ [t] }) y).post [.tileTaskStart k]

/-- `ttpost` (R296): a word that waited for an entry goes on from there. -/
def execTtpost (d a : BitVec 7) (s : State) : Out :=
  matrixWord s fun s y => checked s y [scalarBad d, pairBad a] <|
    let P := y.party s
    match postOf s y with
    | some n => .next (scheduleTask s y (s.cmds.get n {}).addr (s.cmds.get n {}).record n)
    | none =>
    let addr := (y.sub s).spair a.toNat
    let reply (s : State) (v : Word) : State := s.modSub y.sg fun u => u.setSreg d.toNat v
    match commandRead s P addr 64 true with
    | (s, .error e) => .next (raiseGroup s y (asOperand e))
    | (s, .ok bs) =>
      if tileBad bs then .next (done (reply s 1) y)
      else if (s.cluster (clusterOf y.core)).tasks.any fun t => t.ctx == P.ctx && t.taskid == fieldAt bs 0x2c 2 then .next (done (reply s 2) y)
      else match postOnce s y (addr + 0x38) (lanesOf (y.sub s).live) with
        | (s, .error e) => .next (raiseGroup s y e)
        | (s, .ok n) => .next (scheduleTask (reply s 0) y addr bs n)

/-! ### The task (R298) -/

/-- A row or column of a task: `k` elements at an address, or the fault of a source. -/
def taskVector (s : State) (P : Party) (a : Dword) (fmt k : Nat) : State × Except MemFault (List Exact) :=
  if a.toNat % 16 != 0 then (s, .error (alignFault 3 a)) else
  match commandRead s P a (packedBytes fmt k) false with
  | (s, .error e) => (s, .error e)
  | (s, .ok bs) => (s, .ok (elements fmt (fun t => defaultTable.getD t 0) (fun i => (bs.getD i 0).toNat) k))
/-- The rows or columns of a source, in order. -/
def taskVectors (s : State) (P : Party) (base : Dword) (stride fmt k : Nat) : List Nat → State × Except MemFault (List (List Exact))
  | [] => (s, .ok [])
  | i :: is =>
    match taskVector s P (base + BitVec.ofNat 64 (i * stride)) fmt k with
    | (s, .error e) => (s, .error e)
    | (s, .ok x) => match taskVectors s P base stride fmt k is with
      | (s, .error e) => (s, .error e)
      | (s, .ok xs) => (s, .ok (x :: xs))

/-- One element: chunks of 128 closed in ascending order, as one engine would give it (R219, R220, R298). -/
def taskElement : Nat → Closed → List Exact → List Exact → Closed
  | 0, c, _, _ => c
  | fuel + 1, c, xs, ws =>
    if xs.isEmpty then c else
    let r := addPart c.val (dot (xs.take 128) (ws.take 128))
    taskElement fuel { r with nan := c.nan || r.nan, ovf := c.ovf || r.ovf } (xs.drop 128) (ws.drop 128)

/-- The rows of C stored in order; a fault stops the task (R299). The places stored to come with the state. -/
def storeRows (s : State) (P : Party) (r : TileRec) : List (Nat × List Byte) → State × List Spot × Option MemFault
  | [] => (s, [], none)
  | (i, bs) :: rows =>
    let a := r.c + BitVec.ofNat 64 (i * r.cstr)
    if a.toNat % 16 != 0 then (s, [], some (alignFault 3 a)) else
    match storeAt s P 0 a bs false with
    | (s, .error e) => (s, [], some e)
    | (s, .ok spots) =>
      let q := storeRows s P r rows
      (q.1, spots ++ q.2.1, q.2.2)

/-- The task performed: its reads, C, the sticky bits of the posting core's engine, its STATUS, and the places it stored to (R225, R298, R299). -/
def performTask (s : State) (t : TileTask) : State × Nat × List Spot :=
  let P : Party := ⟨t.core, t.ctx, t.wg⟩
  let r := tileRec t.record
  let stopped (s : State) (e : MemFault) : State := setSticky s t.core t.ctx false false (e.cause == 5)
  match taskVectors s P r.a r.astr r.afmt r.k (List.range r.m) with
  | (s, .error e) => (stopped s e, stopStatus e, [])
  | (s, .ok xs) => match taskVectors s P r.b r.bstr r.wfmt r.k (List.range r.n) with
    | (s, .error e) => (stopped s e, stopStatus e, [])
    | (s, .ok ws) =>
      let c := xs.map fun x => ws.map fun w => taskElement 512 { val := 0 } x w
      let rows := c.zipIdx.map fun p => (p.2, p.1.flatMap fun v => bytesOf (outSize r.ofmt) (BitVec.ofNat 64 (outValue r.ofmt r.rnd v.val)))
      let s := setSticky s t.core t.ctx (c.any fun l => l.any Closed.nan) (c.any fun l => l.any Closed.ovf) false
      match storeRows s P r rows with
      | (s, spots, some e) => (stopped s e, stopStatus e, spots)
      | (s, spots, none) => (s, 0, spots)

/-! ### Events -/

/-- A task leaves the scheduler with its STATUS; its dependents are not run when it was not done (R297, R299). -/
def endTask (s : State) (cluster : Nat) (t : TileTask) (status : Nat) (writes : VMem) : State :=
  let s := endCmd s ⟨t.core, t.ctx, t.wg⟩ (t.addr + 0x38) status t.cmd writes
  let doom (o : TileTask) : TileTask := if status != 0 && o.deps.contains t.num then { o with doomed := true } else o
  let s := s.modCluster cluster fun k => { k with tasks := (k.tasks.filter fun (o : TileTask) => o.num != t.num).map doom }
  offerFree ((freeGang s t.num).post [.tileTaskStart cluster]) t.wg

/-- Engines that stand free while a queue waits for them pass to the head of the queue (R212). -/
def passFree (s : State) (cluster : Nat) : State :=
  ((List.range 6).map (dCore cluster)).foldl (fun s c => match (s.core c).ctx with
    | some ctx => if (s.ownership c ctx).1.isNone && (s.engine c).task.isNone && (s.ownership c ctx).2 != [] then passOwner s c ctx else s
    | none => s) s

/-- The engines of a gang taken: what they hold is spilled, and they come back empty (R298). A spill that ends the task's own fault domain takes the task with it, and
no engine more (R227, R299). -/
def takeGang (s : State) (cluster : Nat) (t : TileTask) (cs : List Nat) : State :=
  let stands (s : State) : Bool := (s.cluster cluster).tasks.any fun o => o.num == t.num
  cs.foldl (fun s c =>
    let s := if stands s then evictPlanes (evictAcc s c) c else s
    if !(stands s) then s else
    s.setEngine c { s.engine c with
      tiles := [], active := {}, shadow := {}, actx := 0, wctx := 0, nan := false, ovf := false, merr := false, task := some t.num }) s

/-- TILE_TASK_START (R297, R298): a task that depended on one that was not done is not run; the first task in posting order of the others whose dependences have
completed takes its engines, once all of them are free. -/
def execTileTaskStart (cluster : Nat) (s : State) : Out :=
  match (s.cluster cluster).tasks.find? fun t => taskReady s t && t.doomed with
  | some t => .next (endTask s cluster t 0x20 {})
  | none =>
  match (nextTask s cluster).filter fun t => taskFits s cluster t none with
  | none => .next (passFree (passFree s (cluster / 2 * 2)) (cluster / 2 * 2 + 1))
  | some t =>
    let s := takeGang s cluster t (t.gang cluster)
    .next ((s.modCluster cluster fun k => { k with tasks := k.tasks.map fun o => if o.num = t.num then { o with started := true } else o }).post
      [.tileTaskStart cluster, .tileTaskComplete cluster])

/-- A task that runs writes C and then STATUS; its writes stand in the views of its dependents' cores (R297 to R299). -/
def completeTask (s : State) (cluster : Nat) (t : TileTask) : State :=
  let r := performTask s t
  let m := writesAt r.1 t.core r.2.2 {}
  let s := ((s.cluster cluster).tasks.filter fun o => o.deps.contains t.num).foldl (fun (s : State) o => s.viewMerge o.core m) r.1
  endTask s cluster t r.2.1 m
/-- TILE_TASK_COMPLETE (R298, R299): the oldest task that runs completes. -/
def execTileTaskComplete (cluster : Nat) (s : State) : Out :=
  match (s.cluster cluster).tasks.find? fun t => t.started with
  | none => .next s
  | some t => .next (completeTask s cluster t)
/-- The tasks of a workgroup that run complete before its state leaves the cluster (R300). -/
def finishTasks (s : State) (w : Nat) : State :=
  ((s.cluster (s.wg w).cluster).tasks.filter fun t => t.started && t.wg == w).foldl (fun s t => completeTask s (s.wg w).cluster t) s

end Sys2Proof.Machine
end

