-- ==== Sys2Proof/Machine/Regions.lean ====
section
/-!
DEFINITION. REGION_UPDATE (R358): CREATE, the plain update, DESTROY and CHECKPOINT, with the revocation of the debug right (R381) and the SAVED images that a
CHECKPOINT writes (R207, R229, R354).
-/

namespace Sys2Proof.Machine

/-! ### RCBs and contexts -/

/-- The fields of a context root that the machine keeps (R356). -/
def contextOf (p : Loc) (bs : List Byte) : Context :=
  { root := p, ptroot := tierPlace (dwordAt bs 0x58), msave := dwordAt bs 0x50, fkey := BitVec.ofNat 16 (fieldAt bs 0x60 2) }
/-- The contexts' registers follow their root RCBs. -/
def setContext (s : State) (ctx : Nat) (p : Loc) (bs : List Byte) : State := { s with fe := { s.fe with contexts := s.fe.contexts.set ctx (contextOf p bs) } }
/-- The bytes of an RCB with CTX written by firmware (R356). -/
def withCtx (bs : List Byte) (ctx : Nat) : List Byte := bs.take 0x0c ++ bytesOf 2 (BitVec.ofNat 64 ctx) ++ bs.drop 0x0e

/-- The place of a new RCB: aligned, translated in the context, in device memory of the package (R356, R358). -/
def newRcbPlace (s : State) (ctx : Nat) (a : Dword) : Option Loc :=
  if a.toNat % 256 != 0 then none else
  match translateHome s ctx a.toNat .load with
  | .error _ => none
  | .ok x => if isRemote x.loc || decide (2 ≤ tierOf x.loc) then none else some x.loc

/-- The effective debug right and mailbox of the region at `rcb` of a context, if its RCB is legal (R356). -/
def debugOf (s : State) (ctx : Nat) (rcb : Dword) : Option (Bool × Dword) :=
  (ancestry s ctx 8 rcb).map fun rs => (effField rs 3 0x16 1 == 1, BitVec.ofNat 64 (effField rs 9 0x48 8))

/-- The RCBs of a context that firmware knows: of its regions and of its launches. -/
def knownRcbs (s : State) (ctx : Nat) : List Dword :=
  (((s.fe.regions.filter fun (p : Nat × Region) => p.2.ctx == ctx).map fun p => p.2.rcb)
    ++ ((s.fe.launches.filter fun (p : Nat × Launch) => p.2.ctx == ctx).map fun p => p.2.lpb.rcb)).eraseDups

/-- HSTATE of the mailbox of the region at `rcb` written with a release at sy (R379, R381); a fault of the write ends the region's fault domain (R364). -/
def writeHstate (s : State) (ctx : Nat) (rcb area : Dword) (revoked : Bool) : State :=
  match writeHome s ctx area (bytesOf 4 (if revoked then 1 else 0)) with
  | .ok s => s
  | .error f => match domainAt s ctx rcb with
    | none => s
    | some d => endDomain s ctx d f.cause 0

/-- The debug right that the region at `rcb` had before an update: the one its launches hold, else the effective one. -/
def heldRight (s : State) (ctx : Nat) (rcb : Dword) : Option Bool :=
  match List.find? (fun (p : Nat × Launch) => p.2.ctx == ctx && p.2.lpb.rcb == rcb) s.fe.launches with
  | some p => some p.2.dbg
  | none => (debugOf s ctx rcb).map Prod.fst
/-- After an update, REVOKED follows the effective DBG bit of each region whose bit the update changed, and launches hold the right that their region has now (R381). -/
def followDebug (old s : State) (ctx : Nat) : State :=
  let s := (knownRcbs s ctx).foldl (fun (s : State) r => match heldRight old ctx r, debugOf s ctx r with
    | some a, some (b, area) => if a = b || area = 0 then s else writeHstate s ctx r area (!b)
    | _, _ => s) s
  { s with fe := { s.fe with launches := s.fe.launches.map fun (p : Nat × Launch) => (p.1, if p.2.ctx = ctx then
      { p.2 with dbg := match debugOf s ctx p.2.lpb.rcb with
          | some (b, _) => b
          | none => p.2.dbg } else p.2) } }

/-- SRC of a REGION_UPDATE: an address of the queue's context, or host physical on a bootstrap queue (R358); none where it cannot be read or has a reserved bit. -/
def srcBytes (s : State) (e : Entry) : Option (List Byte) :=
  let a := dwordAt e.bytes 0x18
  let bs : Option (List Byte) :=
    if e.rcb = 0 then (if s.badAt (hostPlace a) 256 then none else some (s.homeBytes (hostPlace a) 256))
    else match readHome s e.ctx a 256 with
      | .ok bs => some bs
      | .error _ => none
  bs.filter rcbBitsOk

/-- What is wrong with the tree of a context after the RCB at `a` has taken a new PARENT: XCTX where that names no legal RCB of the context, or 0 on a child, and DEPTH
where the region or one below it would stand on a ninth level (R13). -/
def treeStatus (old s : State) (ctx : Nat) (a : Dword) (p : Loc) : Option Status :=
  let below (r : Dword) : Bool := match chainOf old ctx 8 r with
    | .ok rs => rs.any fun x => x.1 == p
    | .error _ => false
  (a :: (knownRcbs s ctx).filter below).findSome? fun r => match chainOf s ctx 8 r with
    | .ok _ => none
    | .error st => some st

/-- What the machine keeps of the RCB at `p` taken from its bytes, after an update made of `old` what `s` is (R356, R358, R381). -/
def takeRcb (old s : State) (ctx : Nat) (p : Loc) (bs : List Byte) : State :=
  followDebug old (if isRoot old ctx p then setContext s ctx p bs else s) ctx
/-- The plain update: the RCB takes SRC, keeping CTX, or with a SRC of 0 is taken as it stands in place; XCTX where the RCB or SRC is not legal (DEDUCED, log 50), and the
refusals of R13 for its PARENT (R356, R358). -/
def plainUpdate (s : State) (e : Entry) : Except Status State :=
  let a := dwordAt e.bytes 0x10
  match readRcb s e.ctx a with
  | none => .error 7
  | some (p, now) =>
    if dwordAt e.bytes 0x18 = 0 then .ok (takeRcb s s e.ctx p now) else
    match srcBytes s e with
    | none => .error 7
    | some bs =>
      let new := s.homeWrite p (withCtx bs e.ctx)
      match treeStatus s new e.ctx a p with
      | some st => .error st
      | none => .ok (takeRcb s new e.ctx p bs)

/-- REGION_UPDATE without CREATE, DESTROY or CHECKPOINT (R358). -/
def execRegionUpdate (seq : Nat) (s : State) : Out :=
  starting s seq 6 fun e => match plainUpdate s e with
    | .error st => .next (refuse s seq st)
    | .ok s' => .next (finishEntry (startEntry s' seq) seq 3 0 0 0)

/-! ### CREATE -/

/-- The lowest free context number (R358). -/
def freeContext (s : State) : Option Nat := firstFrom (fun n => (s.fe.contexts.find? n).isNone) 65535 1

/-- A region that begins to exist at a place: its bequest counter is 0 (R189). -/
def addRegion (s : State) (ctx : Nat) (p : Loc) (rcb : Dword) : State :=
  { s with fe := { s.fe with regions := s.fe.regions.set p { ctx := ctx, rcb := rcb } } }

/-- Whether the RCB of another context's region stands at a place (R13). -/
def foreignRcb (s : State) (ctx : Nat) (p : Loc) : Bool :=
  s.fe.regions.any (fun (q : Nat × Region) => q.1 == p && q.2.ctx != ctx && q.2.ctx != 0) || s.fe.contexts.any fun (c : Nat × Context) => c.1 != ctx && c.2.root == p

/-- CREATE of a context root: the RCB address is translated through the PTROOT of SRC; XCTX over the RCB of another context (R13, R358). -/
def createRoot (s : State) (a : Dword) (bs : List Byte) : Except Status State :=
  match freeContext s with
  | none => .error 7
  | some n =>
    let s := setContext s n 0 bs
    match newRcbPlace s n a with
    | none => .error 7
    | some p => if foreignRcb s n p then .error 7 else .ok (addRegion (setContext (s.homeWrite p (withCtx bs n)) n p bs) n p a)

/-- CREATE of a child: its parent is legal in the context, no RCB of another context stands there, and the tree stays within 8 levels, for the regions below the place too
(R13, R358). -/
def createChild (s : State) (ctx : Nat) (a : Dword) (bs : List Byte) : Except Status State :=
  match chainOf s ctx 8 (dwordAt bs 0) with
  | .error st => .error st
  | .ok rs =>
    if 8 ≤ rs.length then .error 6 else
    match newRcbPlace s ctx a with
    | none => .error 7
    | some p =>
      if foreignRcb s ctx p then .error 7 else
      let new := s.homeWrite p (withCtx bs ctx)
      match treeStatus s new ctx a p with
      | some st => .error st
      | none => .ok (addRegion new ctx p a)

/-- REGION_UPDATE with CREATE (R358). On a bootstrap queue only a root is made; another SRC is refused with ENTRY. -/
def execRegionCreate (seq : Nat) (s : State) : Out :=
  starting s seq 6 fun e =>
    let a := dwordAt e.bytes 0x10
    let r : Except Status State :=
      if dwordAt e.bytes 0x18 = 0 then .error 7 else
      match srcBytes s e with
      | none => .error 7
      | some bs =>
        if dwordAt bs 0 = 0 then createRoot s a bs
        else if e.rcb = 0 then .error 1 else createChild s e.ctx a bs
    match r with
    | .error st => .next (refuse s seq st)
    | .ok s' => .next (finishEntry (startEntry s' seq) seq 3 0 0 0)

/-! ### DESTROY -/

/-- What an engine holds of a context is dropped. -/
def dropEngine (s : State) (ctx c : Nat) : State :=
  let e := s.engine c
  let e := if e.actx = ctx then { e with actx := 0, tiles := [], nan := false, ovf := false, merr := false } else e
  let e := if e.wctx = ctx then { e with wctx := 0, active := {}, shadow := {} } else e
  s.setEngine c e

/-- Nothing of a context is left on a core. -/
def dropCoreContext (s : State) (ctx c : Nat) : State :=
  let s := if (s.core c).ctx = some ctx then leaveContext s c else s
  (dropEngine s ctx c).modCore c fun k => { k with
    tlb := k.tlb.filter fun (t : TlbEnt) => t.ctx != ctx
    saved := k.saved.del ctx
    shadow := if k.shadow = some ctx then none else k.shadow
    preempt := if k.shadow = some ctx then none else k.preempt }

/-- DESTROY of a context: every launch ends as at the end of its fault domain, those accepted and not yet admitted among them, its estates are released, and its number is
free (R275, R358). -/
def destroyContext (s : State) (ctx : Nat) : State :=
  let ds := ((s.fe.launches.filter fun (p : Nat × Launch) => p.2.ctx == ctx).map fun p => p.2.fdom).eraseDups
  let s := ds.foldl (fun s d => endDomain s ctx d 0 0) s
  let s := (s.fe.entries.filter fun (p : Nat × Entry) => p.2.op == 1 && p.2.ctx == ctx).foldl (fun s p => finishEntry s p.1 4 0 0 0) s
  let s := removeEstates s fun e => e.ctx == ctx
  let s := s.cores.keys.foldl (fun s c => dropCoreContext s ctx c) s
  { s with
    spilled := s.spilled.filter fun (p : Nat × Engine) => p.1 / 1024 != ctx
    fe := { s.fe with
      contexts := s.fe.contexts.del ctx
      images := s.fe.images.filter fun i => i.ctx != ctx
      regions := s.fe.regions.filter fun (p : Nat × Region) => p.2.ctx != ctx } }

/-- DESTROY on the region that an entry names: the context of a root goes; on another region spec/ gives it no effect (log 17). -/
def destroyRoot (s : State) (e : Entry) : State := match readRcb s e.ctx (dwordAt e.bytes 0x10) with
  | some r => if isRoot s e.ctx r.1 then destroyContext s e.ctx else s
  | none => s
/-- REGION_UPDATE with DESTROY (R358), after what its SRC says. -/
def execRegionDestroy (seq : Nat) (s : State) : Out :=
  starting s seq 6 fun e => match plainUpdate s e with
    | .error st => .next (refuse s seq st)
    | .ok s' => .next (finishEntry (destroyRoot (startEntry s' seq) e) seq 3 0 0 0)

/-! ### CHECKPOINT -/

/-- The engines that a subgroup owns, or waits for. -/
def ownedBy (s : State) (ctx g : Nat) : List (Nat × Nat) :=
  (s.cores.keys.filter fun c => (s.ownership c ctx).1 == some g).map fun c => (c, g)
def awaitedBy (s : State) (ctx g : Nat) : List (Nat × Nat) :=
  (s.cores.keys.filter fun c => (s.ownership c ctx).2.contains g).map fun c => (c, g)

/-- The needles that run commands of a workgroup, by their number on the home core (R255). -/
def needlesFor (s : State) (w : Nat) : List Nat :=
  let c := (s.wg w).home
  (List.range (needlesOf c)).filter fun n => match (s.needle c n).cmd with
    | some (v, _) => v == w
    | none => false

/-- A subgroup as a stop keeps it: the group whose latches its ring holds goes on, and first where it stands between two switch points (R27, R280). -/
def stoppedSub (s : State) (g : Nat) : Sub :=
  let u := s.sub g
  let mid := (midRun s u.core u.row || wordHolds s u.core u.row) && match (s.row u.core u.row).issuing with
    | some (h, _) => h == g
    | none => false
  { u with kept := keptGroup s g, first := u.first || mid }
/-- Ready time and ages of a thread turned into the time since then, against a cycle and a count of words of its row, or back (R161, R276). -/
def Thread.aged (now n : Nat) (t : Thread) : Thread := { t with readyAt := now - t.readyAt, lastAt := now - t.lastAt, lastIssue := n - t.lastIssue }
def Sub.aged (u : Sub) (now n : Nat) : Sub := { u with threads := u.threads.map fun (p : Nat × Thread) => (p.1, p.2.aged now n) }
/-- A workgroup stopped at instruction boundaries, with its subgroups and its commands (R19, R229, R255, R354). -/
def stoppedOf (s : State) (w : Nat) : Stopped :=
  let g := s.wg w
  let k := s.cluster g.cluster
  let gs := s.subsOf w
  let ns : Tbl Needle := if g.resident then (needlesFor s w).map fun n => (n, s.needle g.home n) else g.stopped
  let now := gs.flatMap (awaitedBy s g.ctx)
  let arrivals := s.prefetches.filterMap fun (p : Nat × Prefetch) => match p.2.barrier with
    | some (v, off) => if v = w then some off else none
    | none => none
  { id := g.id.toNat, num := w, wg := { g with stopped := ns }
    subs := (s.subs.filter fun (p : Nat × Sub) => p.2.wg == w).map fun p => (p.1, (stoppedSub s p.1).aged (s.cycle p.2.core) (s.row p.2.core p.2.row).issued)
    owners := gs.flatMap (ownedBy s g.ctx), waiters := now, turns := (now.map Prod.fst).eraseDups.map fun c => (c, (s.ownership c g.ctx).2), arrivals := arrivals
    cmds := s.cmds.filter fun (p : Nat × Cmd) => p.2.joins.any fun j => gs.contains j.1.1
    orrery := k.orrery.filter (·.wg == w)
    tasks := (k.tasks.filter (·.wg == w)).map fun (t : TileTask) => { t with started := false } }

/-- A stopped workgroup is taken off the machine, with its needles, its commands and the arrivals that wait for it; what ran in engines is complete (R182, R229). Its places
at engines stand until everything that a checkpoint stops has been stopped. -/
def unplace (s : State) (w : Nat) : State :=
  let g := s.wg w
  let gs := s.subsOf w
  let s := (needlesFor s w).foldl (fun s n => s.modNeedle g.home n freeNeedle) s
  let s := s.modCluster g.cluster fun k => { k with orrery := k.orrery.filter (·.wg != w), tasks := k.tasks.filter (·.wg != w) }
  let s := { s with
    cmds := s.cmds.filter fun (p : Nat × Cmd) => !(p.2.joins.any fun j => gs.contains j.1.1)
    prefetches := s.prefetches.filter fun (p : Nat × Prefetch) => (p.2.barrier.map Prod.fst) != some w }
  let s := writeSlotDir (gs.foldl discardSub s) w false
  { s with wgs := s.wgs.del w }
/-- Subgroups that are gone leave the engines that they owned or waited for, which pass to a subgroup that stays (R212, R229). -/
def settleEngines (s : State) (ctx : Nat) : State :=
  s.cores.keys.foldl (fun s c =>
    let o := s.ownership c ctx
    let here (g : Nat) : Bool := (s.subs.find? g).isSome
    if o.2.all here && o.1.all here then s else
    let s := s.setOwnership c ctx (o.1.filter here) (o.2.filter here)
    if (o.1.filter here).isNone then passOwner s c ctx else s) s

/-- The matrix commands that run on a core complete (R229). -/
def finishMatrix (s : State) (c : Nat) : State := (s.engine c).running.foldl (fun s n => finishCmd s n {}) s

/-- The firmware spills a context's engine state on every core (R229). -/
def spillContext (s : State) (ctx : Nat) : State :=
  s.cores.keys.foldl (fun s c =>
    let s := if (s.engine c).actx = ctx || (s.engine c).wctx = ctx then finishMatrix s c else s
    let s := if (s.engine c).actx = ctx then evictAcc s c else s
    let s := if (s.engine c).wctx = ctx then evictPlanes s c else s
    dropEngine s ctx c) s

/-- The bytes of a SAVED image (R354): header, LPB, two section descriptors, estate records, and the number and the free value that stand for the opaque sections
(log 13). -/
def savedImage (s : State) (l : Launch) (es : List Byte) (n : Nat) (tag : Dword) : List Byte :=
  let desc (t off size : Nat) : List Byte := bytesOf 4 (BitVec.ofNat 64 t) ++ [0, 0, 0, 0] ++ bytesOf 8 (BitVec.ofNat 64 off) ++ bytesOf 8 (BitVec.ofNat 64 size)
  let size := 0x180 + es.length + 16
  let pad := (64 - size % 64) % 64
  bytesOf 4 0x00504b43 ++ bytesOf 2 1 ++ bytesOf 2 0 ++ bytesOf 8 (BitVec.ofNat 64 (size + pad)) ++ bytesOf 4 (BitVec.ofNat 64 (idGrade s)) ++ bytesOf 4 2
  ++ bytesOf 8 0x140 ++ List.replicate 32 0 ++ l.raw.take 256 ++ List.replicate (256 - l.raw.length) 0
  ++ desc 1 0x180 es.length ++ desc 2 (0x180 + es.length) 16 ++ List.replicate 16 0 ++ es ++ bytesOf 8 (BitVec.ofNat 64 n) ++ bytesOf 8 tag ++ List.replicate pad 0

/-- The workgroups of a launch. -/
def wgsOf (s : State) (seq : Nat) : List Nat := (s.wgs.filter fun (p : Nat × Wg) => p.2.launch == seq).map Prod.fst
/-- The RCB address of a region, as a launch of it or its CREATE gave it. -/
def rcbOf (s : State) (r : Loc) : Dword := match List.find? (fun (p : Nat × Launch) => p.2.region == r) s.fe.launches with
  | some p => p.2.lpb.rcb
  | none => (s.fe.regions.get r {}).rcb
/-- The sequence counters of the regions of a context (R207). -/
def seqsOf (s : State) (ctx : Nat) : List (Dword × Dword) :=
  ((s.fe.regions.filter fun (p : Nat × Region) => p.2.ctx == ctx).map fun p => (rcbOf s p.1, p.2.seq)).filter fun q => q.1 != 0

/-- A launch stopped at instruction boundaries, with the estates its image carries: what the image holds, and its bytes. -/
def saving (s : State) (seq : Nat) (ests : List Estate) : Saved × List Byte :=
  let l := s.launch seq
  let ws := wgsOf s seq
  let unborn := (ws.filter fun w => !((s.wg w).born)).map fun w => (s.wg w).id.toNat
  let stops := (ws.filter fun w => (s.wg w).born).map (stoppedOf s)
  let l := { l with todo := unborn ++ l.todo, stopped := [] }
  let v : Saved := { was := seq, tag := Config.freeValue s.draw, launch := l, stopped := stops ++ (s.launch seq).stopped, seqs := seqsOf s l.ctx
                     estates := ests.map fun e => (rcbOf s e.region, e.eligible, e.seq, e.launch) }
  (v, savedImage s l (ests.flatMap estateBytes) s.fresh v.tag)

/-- The threads of a workgroup on a core release at pk; a stash writeback that faults ends the workgroup's fault domain. -/
def releaseOut (s : State) (c w : Nat) : State :=
  if (s.wgs.find? w).isNone then s else
  match release s ⟨c, (s.wg w).ctx, w⟩ 5 with
  | (s, none) => s
  | (s, some f) => let l := s.launch (s.wg w).launch; endDomain s l.ctx l.fdom f.cause 0

/-- A row does not stop between an `xsel` and its successor: the `xsel` is not performed yet (R127). -/
def rewindXsel (s : State) (g : Nat) : State :=
  let u := s.sub g
  match (s.row u.core u.row).xsel, (s.row u.core u.row).issuing with
  | some p, some (h, m) =>
    if h != g then s else
    (s.modThreads g (lanesOf m) fun t => { t with pc := p.pc }).modRow u.core u.row fun r => { r with xsel := none }
  | _, _ => s
/-- The prefetches of a workgroup that have a batch complete (R290). -/
def finishPrefetches (s : State) (w : Nat) : State :=
  (s.prefetches.filter fun (p : Nat × Prefetch) => p.2.wg == w && p.2.cmd.isSome).foldl (fun s p => finishCmd { s with prefetches := s.prefetches.del p.1 } p.1 {}) s
/-- A workgroup comes to rest: its matrix commands, tile tasks and prefetches complete, no `xsel` waits for its successor, and its threads release at pk (R127, R182, R229,
R300). Where its home core is switched out, what stood there has done so; the engines of other cores go on until now. -/
def quietWg (s : State) (w : Nat) : State :=
  let gs := s.subsOf w
  let here (c : Nat) : Bool := (s.wg w).resident || c != (s.wg w).home
  let s := ((gs.map fun g => (s.sub g).core).filter here).eraseDups.foldl finishMatrix s
  if !((s.wg w).resident) then s else
  let s := finishPrefetches (finishTasks s w) w
  let s := gs.foldl rewindXsel s
  ((s.wg w).home :: gs.map fun g => (s.sub g).core).eraseDups.foldl (fun s c => releaseOut s c w) s
def quietLaunch (s : State) (seq : Nat) : State := (wgsOf s seq).foldl quietWg s

/-- A launch whose image has been written leaves the machine, with the estates that the image carries: its journal entry moves to checkpointed (R207, R358). -/
def stopLaunch (s : State) (seq : Nat) (v : Saved) (ests : List Estate) : State :=
  let n := s.fresh
  let s := removeEstates ((wgsOf s seq).foldl unplace s) fun e => ests.any e.same
  let s := giveRoom { s with fresh := n + 1, draw := s.draw + 1 } v.launch.store v.launch.reserved
  let s := { s with fe := { s.fe with saved := s.fe.saved.set n v, launches := s.fe.launches.del seq } }
  finishEntry s seq 6 0 0 0

/-- One launch stopped and its image written at `area`; the address behind it. A stop or a write that faults ends the fault domain (R364). -/
def checkpointLaunch (s : State) (seq : Nat) (area : Dword) (ests : List Estate) : State × Dword :=
  let s := quietLaunch s seq
  if (s.fe.launches.find? seq).isNone then (s, area) else
  let l := s.launch seq
  let r := readEstates s ests
  if (r.1.fe.launches.find? seq).isNone then (r.1, area) else
  let x := saving r.1 seq r.2
  match writeHome r.1 l.ctx area x.2 with
  | .error f => (endDomain r.1 l.ctx l.fdom f.cause 0, area)
  | .ok s => (stopLaunch s seq x.1 r.2, area + BitVec.ofNat 64 x.2.length)

/-- The estates that the image of a launch carries: those that it has left and that are pending, and the eligible ones of its region and of the regions in `more`. They
leave with the image, so that no other carries them (R207). -/
def carried (s : State) (seq : Nat) (l : Launch) (more : List Loc) : List Estate :=
  bySeq (s.fe.estates.filter fun e => e.ctx == l.ctx && if e.eligible then e.region == l.region || more.contains e.region else e.launch == seq)

/-- The launches one after the other; the first image carries the estates of regions without a launch (`more`) too (R207). -/
def checkpointAll (s : State) (area : Dword) (more : List Loc) : List Nat → State
  | [] => s
  | q :: qs =>
    match s.fe.launches.find? q with
    | none => checkpointAll s area more qs
    | some l =>
      let r := checkpointLaunch s q area (carried s q l more)
      checkpointAll r.1 r.2 more qs

/-- The regions with estates below the region at `p` of which none of some launches is (R207). -/
def idleRegions (s : State) (ctx : Nat) (p : Loc) (qs : List Nat) : List Loc :=
  ((s.fe.estates.filter fun e => e.ctx == ctx).map (·.region)).eraseDups.filter fun r =>
    !(qs.any fun q => (s.launch q).region == r) && match ancestry s ctx 8 (rcbOf s r) with
      | some rs => rs.any fun x => x.1 == p
      | none => false

/-- REGION_UPDATE with CHECKPOINT (R358): every running launch of the subtree stops, and its journal entry moves to checkpointed; a DESTROY that comes with it follows. -/
def execRegionCheckpoint (seq : Nat) (s : State) : Out :=
  starting s seq 6 fun e => match plainUpdate s e with
    | .error st => .next (refuse s seq st)
    | .ok s' =>
      match readRcb s' e.ctx (dwordAt e.bytes 0x10) with
      | none => .next (refuse s seq 7)
      | some (p, _) =>
        let s' := spillContext (startEntry s' seq) e.ctx
        let qs := (s'.fe.launches.filter fun (q : Nat × Launch) => q.2.ctx == e.ctx && q.2.regions.contains p).map Prod.fst
        let s' := settleEngines (checkpointAll s' (dwordAt e.bytes 0x28) (idleRegions s' e.ctx p qs) qs) e.ctx
        .next (finishEntry (if (fieldAt e.bytes 0x20 1).testBit 1 then destroyRoot s' e else s') seq 3 0 0 0)

end Sys2Proof.Machine
end

