-- ==== Sys2Proof/Machine/Place.lean ====
section
/-!
DEFINITION. Placement of workgroups (R158, R169, R199, R200, R291, R293, R327, R328, R357), their birth (R37, R192 to R194, R199, R202), their freeing (R168), and the
completion of launches (R182, R204, R205, R360, R361).
-/

namespace Sys2Proof.Machine

/-! ### Workgroups and their claims -/

/-- Grid coordinates of a workgroup (R14). -/
def Lpb.groupAt (p : Lpb) (id : Nat) : Nat × Nat × Nat := (id % p.gx, id / p.gx % p.gy, id / (p.gx * p.gy))
/-- Work-item coordinates and linear id of a thread (R14, R23). -/
def Lpb.itemAt (p : Lpb) (id lid : Nat) : Nat × Nat × Nat :=
  let g := p.groupAt id
  (g.1 * p.wx + lid % p.wx, g.2.1 * p.wy + lid / p.wx % p.wy, g.2.2 * p.wz + lid / (p.wx * p.wy))
def Lpb.linearId (p : Lpb) (i : Nat × Nat × Nat) : Dword := BitVec.ofNat 64 ((i.2.2 * (p.gy * p.wy) + i.2.1) * (p.gx * p.wx) + i.1)

/-- The key that a thread claims under an inheritance entry (R191): exact, so that one past 64 bits is no estate's. -/
def Inherit.key (h : Inherit) (p : Lpb) (i : Nat × Nat × Nat) : Nat :=
  if !h.affine then (p.linearId i).toNat else
  let f (j v : Nat) : Nat := (max 0 (min (h.m.getD j 0 * (v : Int) + h.o.getD j 0) ((h.ext.getD j 1 : Int) - 1))).toNat
  (f 2 i.2.2 * h.ext.getD 1 1 + f 1 i.2.1) * h.ext.getD 0 1 + f 0 i.1

/-- Members of a subgroup's width (R36), and the local ids of subgroup `j` (R11). -/
def Launch.width (l : Launch) : Nat := if l.image.narrow then 32 else 64
def Launch.members (l : Launch) (j : Nat) : List (Nat × Nat) :=
  ((List.range l.width).map fun m => (m, j * l.width + m)).filter fun p => decide (p.2 < l.lpb.threads)

/-- The estates that the members of subgroup `j` of a workgroup claim, one for each claim that finds one (R192). -/
def claimsOf (s : State) (l : Launch) (id j : Nat) : List Estate :=
  (l.members j).flatMap fun m => l.lpb.inherit.filterMap fun h => findEstate s l (h.key l.lpb (l.lpb.itemAt id m.2)) h.tag
/-- The estates that the threads of a workgroup claim. -/
def claimsAll (s : State) (l : Launch) (id : Nat) : List Estate :=
  if l.lpb.inherit = [] then [] else ((List.range l.nsub).flatMap (claimsOf s l id)).eraseDups

def Estate.onCore (e : Estate) (c : Nat) : Bool := match e.place with
  | .inPlace k _ _ _ => k == c
  | _ => false
def Estate.onSlot (e : Estate) (c r k : Nat) : Bool := match e.place with
  | .inPlace a b d _ => a == c && b == r && d == k
  | _ => false

/-! ### Room on a core (R158, R291, R293, R356) -/

/-- The positions of a core, row by row. -/
def positions (c : Nat) : List (Nat × Nat) := (List.range (rowsOf c)).flatMap fun r => (List.range (slotsOf c)).map fun k => (r, k)

/-- The held position that a subgroup takes: the one whose estates its members claim most often, ties to the lowest slot (R199). -/
def heldFor (c : Nat) (claims : List Estate) (open_ : List (Nat × Nat)) : Option (Nat × Nat) :=
  (open_.foldl (fun (b : Option (Nat × (Nat × Nat))) p =>
    let n := (claims.filter fun e => e.onSlot c p.1 p.2).length
    if n = 0 then b else match b with
      | none => some (n, p)
      | some o => if o.1 < n || (o.1 == n && decide (p.2 < o.2.2)) then some (n, p) else b) none).map (·.2)

/-- The newest sequence number of a held position. -/
def newestAt (s : State) (c : Nat) (p : Nat × Nat) : Nat := (estatesAt s c p.1 p.2).foldl (fun m e => max m e.seq.toNat) 0
/-- The held position to free: the one whose newest estate is oldest (R200). -/
def oldestHeldPosition (s : State) (c : Nat) (open_ : List (Nat × Nat)) : Option (Nat × Nat) :=
  open_.foldl (fun (b : Option (Nat × Nat)) p => match b with
    | none => some p
    | some o => if newestAt s c p < newestAt s c o then some p else b) none

/-- The position of one subgroup among those not yet `used`: a held one it claims, a free one as R158 gives, else a held one to be freed (R169, R199, R200, R327). -/
def onePosition (s : State) (c ctx j : Nat) (claims : List Estate) (used : List (Nat × Nat)) : Option (Nat × Nat) :=
  let open_ := (positions c).filter fun p => !(slotTaken s c ctx p.1 p.2) && !(used.contains p)
  (heldFor c claims open_).or <|
    (positionFor c j fun r k => open_.contains (r, k) && slotFree s c ctx r k).or <|
      oldestHeldPosition s c (open_.filter fun p => heldPosition s c p.1 p.2)

/-- Positions for subgroups in index order; none where one finds no position. -/
def allPositions (s : State) (c ctx : Nat) : List (Nat × List Estate) → List (Nat × Nat) → Option (List (Nat × Nat))
  | [], used => some used.reverse
  | (j, claims) :: js, used => (onePosition s c ctx j claims used).bind fun p => allPositions s c ctx js (p :: used)

/-- The lowest base of a free scratchpad range of a size on a core: a workgroup holds its range until it is freed, whatever its context (R158, R168). -/
def scratchBase (s : State) (c size : Nat) : Option Nat :=
  let rs := (s.wgs.filter fun (p : Nat × Wg) => p.2.home == c && p.2.resident).map fun p => (p.2.base, p.2.size)
  let fits (b : Nat) : Bool := decide (b + size ≤ scratchOf c) && rs.all fun r => !(rangesMeet (b, size) r)
  ((0 :: rs.map fun r => r.1 + r.2).filter fits).foldl (fun b x => match b with
    | none => some x
    | some y => some (min x y)) none

/-- The lowest free slot handle of a cluster (R291). -/
def freeHandle (s : State) (cluster : Nat) : Option Nat :=
  firstFrom (fun h => !(s.wgs.any fun (p : Nat × Wg) => p.2.cluster == cluster && p.2.handle == h)) 255 0

/-- Whether no other launch placed in a cluster shares a cluster-barrier bit (R293). -/
def clbarApart (s : State) (seq : Nat) (p : Lpb) (cluster : Nat) : Bool :=
  s.wgs.all fun (q : Nat × Wg) => q.2.cluster != cluster || q.2.launch == seq || (s.launch q.2.launch).lpb.clbar &&& p.clbar == 0

/-- The workgroups of the subtree of a region. -/
def subtree (s : State) (r : Loc) : List Wg := (s.wgs.filter fun (p : Nat × Wg) => (s.launch p.2.launch).regions.contains r).map Prod.snd
/-- Whether every budget of a launch's ancestry, as its RCBs stand now, has room for one more workgroup on a core (R356, R357). -/
def budgetRoom (s : State) (l : Launch) (c size : Nat) : Bool :=
  let rs := (ancestry s l.ctx 8 l.lpb.rcb).getD []
  (coreBounds rs).all (fun b => decide ((c :: (subtree s b.1).map (·.home)).eraseDups.length ≤ b.2))
  && (regBounds rs).all (fun b => decide (((subtree s b.1).map fun w => (s.launch w.launch).lpb.regBytes).foldl (· + ·) l.lpb.regBytes ≤ b.2))
  && (spBounds rs).all (fun b => decide (((subtree s b.1).map (·.size)).foldl (· + ·) size ≤ b.2))

/-- Whether a core is closed to a launch by a cooperative launch that waits: one of equal or higher priority, the earlier one among cooperative launches (R357). -/
def closedBy (s : State) (seq : Nat) (l : Launch) (c : Nat) : Bool :=
  s.fe.launches.any fun (p : Nat × Launch) => p.1 != seq && p.2.lpb.coop && (p.2.todo != [] || p.2.stopped != []) && p.2.lpb.allows c
    && (decide (l.prio < p.2.prio) || (l.prio == p.2.prio && (!l.lpb.coop || decide (p.1 < seq))))

/-- Where a workgroup would stand. -/
structure Room where
  core : Nat
  base : Nat
  handle : Nat
  slots : List (Nat × Nat)
  deriving DecidableEq, Repr

/-- Whether a core is of a kind the launch allows and open to its context, relock apart; a core on which the context was switched out takes it up again by a
swap alone. -/
def openTo (s : State) (seq : Nat) (l : Launch) (c : Nat) : Bool :=
  l.lpb.allows c && coreOpen s c l.ctx && !(closedBy s seq l c)
  && !(s.wgs.any fun (p : Nat × Wg) => p.2.home == c && p.2.ctx == l.ctx && !p.2.resident)

/-- The room of a core for a workgroup of `size` bytes whose subgroups claim `claims`, relock apart (R158, R327). -/
def roomOn (s : State) (seq : Nat) (l : Launch) (size : Nat) (claims : List (Nat × List Estate)) (c : Nat) : Option Room :=
  if !(openTo s seq l c && clbarApart s seq l.lpb (clusterOf c) && budgetRoom s l c size) then none else
  match allPositions s c l.ctx claims [], scratchBase s c size, freeHandle s (clusterOf c) with
  | some ps, some b, some h => some ⟨c, b, h, ps⟩
  | _, _, _ => none

/-! ### The choice of a core (R327) -/

/-- Every core: D-cores, then L-cores, in the numbering of R228. -/
def allCores (s : State) : List Nat := (List.range (6 * s.nClusters)).map (2 * ·) ++ (List.range (2 * s.nClusters)).map (2 * · + 1)
/-- The first element with the highest count, if that is not 0. -/
def mostOf {α : Type} (n : α → Nat) : List α → Option α
  | [] => none
  | x :: xs => match mostOf n xs with
    | none => if n x = 0 then none else some x
    | some y => if n y ≤ n x then some x else some y
/-- Free positions of a core for a context; held ones do not count (R327). -/
def freeCount (s : State) (ctx c : Nat) : Nat := ((positions c).filter fun p => slotFree s c ctx p.1 p.2).length

/-- Rule 3 of R327 among some qualifying rooms, given in core order: die, then cluster, then the lowest core, D before L. -/
def ruleThree (s : State) (ctx : Nat) (rs : List Room) : Option Room :=
  let free (p : Room → Bool) : Nat := ((rs.filter p).map fun r => freeCount s ctx r.core).foldl (· + ·) 0
  let dies := (List.range 4).filter fun d => rs.any fun r => s.dieOfCore r.core == d
  let d := (mostOf (fun d => free (fun r => s.dieOfCore r.core == d) + 1) dies).getD 0
  let ks := (List.range s.nClusters).filter fun k => rs.any fun r => clusterOf r.core == k && s.dieOfCore r.core == d
  let k := (mostOf (fun k => free (fun r => clusterOf r.core == k) + 1) ks).getD 0
  rs.find? fun r => clusterOf r.core == k

/-- The room that R327 selects among the qualifying ones. -/
def selectRoom (s : State) (ctx : Nat) (claims : List Estate) (rs : List Room) : Option Room :=
  (mostOf (fun (r : Room) => (claims.filter fun e => e.onCore r.core).length) rs).or <|
    match mostOf (fun k => (claims.filter fun e => e.place == .holder k).length)
        ((List.range s.nClusters).filter fun k => rs.any fun r => clusterOf r.core == k) with
    | some k => ruleThree s ctx (rs.filter fun r => clusterOf r.core == k)
    | none => ruleThree s ctx rs

/-- Whether no relock keeps a workgroup from a core: of its rows, and of the slot table of its cluster, which the D clock drives (R318, R325). -/
def roomClocked (s : State) (c : Nat) : Bool := clocked s (.row c 0) && (s.die (s.dieOfCore c)).relockD.isNone

/-- Where a workgroup of a launch goes now: nowhere while a relock alone keeps it from a core that holds its estates in place (R327). -/
def chooseRoom (s : State) (seq : Nat) (l : Launch) (id : Nat) : Option Room :=
  let claims := if l.lpb.inherit = [] then [] else (List.range l.nsub).map fun j => (j, claimsOf s l id j)
  let claims := if claims = [] then (List.range l.nsub).map fun j => (j, []) else claims
  let rs := (allCores s).filterMap (roomOn s seq l l.lpb.alloc claims)
  let all := claimsAll s l id
  if rs.any fun r => !(roomClocked s r.core) && all.any fun e => e.onCore r.core then none
  else selectRoom s l.ctx all (rs.filter fun r => roomClocked s r.core)

/-! ### Placing -/

/-- The subgroups of a new workgroup hold their positions; no thread is in them before birth. -/
def holdPositions (s : State) (w c : Nat) (slots : List (Nat × Nat)) : State :=
  slots.zipIdx.foldl (fun (s : State) p =>
    { s with subs := s.subs.set s.fresh { wg := w, index := p.2, core := c, row := p.1.1, slot := p.1.2 }, fresh := s.fresh + 1 }) s

/-- A workgroup placed: the core takes up the context, positions that others hold are freed first, and its estates are sent for (R200, R327). -/
def placeNew (s : State) (seq id : Nat) (l : Launch) (r : Room) : State :=
  let s := startContext s r.core l.ctx
  let w := s.fresh
  let g := l.lpb.groupAt id
  let moved := r.slots.filter fun p => heldPosition s r.core p.1 p.2
  let x : Wg := { ctx := l.ctx, launch := seq, id := BitVec.ofNat 64 id, gx := g.1, gy := g.2.1, gz := g.2.2, cluster := clusterOf r.core, home := r.core
                  base := r.base, size := l.lpb.alloc, handle := r.handle, born := false, arrived := false }
  let s := holdPositions { (s.setWg w x) with fresh := w + 1 } w r.core r.slots
  let s := s.modLaunch seq fun (l : Launch) => { l with todo := l.todo.erase id, cores := r.core :: l.cores.filter (· != r.core) }
  let mine := claimsAll s l id
  let foreign := moved.filter fun p => !(mine.any fun e => e.onSlot r.core p.1 p.2)
  s.post ((foreign.map fun p => Event.estateMoveComplete r.core p.1 p.2) ++ [.estateArrival w])

/-- The cores of other kind on which subgroups of a stopped workgroup stood after a migration find positions in the cluster (R302): for each such subgroup its
number, core and position. One of those in `kept` goes back to its former core alone, since it owned or awaited the engine there (R229). -/
def migratedRooms (s : State) (ctx k : Nat) (kept : List Nat) (away : List (Nat × Sub)) : Option (List (Nat × Nat × Nat × Nat)) :=
  away.foldl (fun (b : Option (List (Nat × Nat × Nat × Nat))) p => b.bind fun got =>
    let cs := if isL p.2.core then (List.range 2).map (lCore k) else (List.range 6).map (dCore k)
    let cs := if kept.contains p.1 then cs.filter (· == p.2.core) else cs
    (cs.filter fun c => coreOpen s c ctx && clocked s (.row c 0)).findSome? fun c =>
      (positionFor c p.2.index fun r q => slotFree s c ctx r q && !(got.any fun o => o.2.1 == c && o.2.2.1 == r && o.2.2.2 == q)).map fun q =>
        (p.1, c, q.1, q.2) :: got) (some [])

/-- Whether a stopped workgroup may go to a core: of the kind of its home, or that core itself where it owned or awaited an engine, with the needles that it takes along
free (R229, R280). -/
def resumeOk (s : State) (x : Stopped) (c : Nat) : Bool :=
  isL c == isL x.wg.home && ((x.owners == [] && x.waiters == []) || c == x.wg.home)
  && (x.owners.all fun o => (s.ownership o.1 x.wg.ctx).1.isNone && (s.engine o.1).task.isNone)
  && x.wg.stopped.all fun (q : Nat × Needle) => (s.needle c q.1).cmd.isNone

/-- A subgroup back in an owner queue, in the order that the queue had when it was stopped (R229). -/
def requeue (s : State) (ctx : Nat) (turns : List (Nat × List Nat)) (o : Nat × Nat) : State :=
  let was := ((turns.find? fun t => t.1 == o.1).map Prod.snd).getD []
  let later (g : Nat) : Bool := was.contains g && decide (was.idxOf o.2 < was.idxOf g)
  let q := (s.ownership o.1 ctx).2
  s.setOwnership o.1 ctx (s.ownership o.1 ctx).1 (q.takeWhile (fun g => !(later g)) ++ o.2 :: q.dropWhile fun g => !(later g))
/-- Whether a workgroup of a context that is still stopped owned the engine of a core (R229). -/
def ownerStopped (s : State) (ctx c : Nat) : Bool :=
  s.fe.launches.any fun (p : Nat × Launch) => p.2.ctx == ctx && p.2.stopped.any fun y => y.owners.any fun o => o.1 == c
/-- A prefetch whose arrival on an object of a restored workgroup is still to come (R290). -/
def rearrive (s : State) (w off : Nat) : State :=
  ({ s with prefetches := s.prefetches.set s.fresh { barrier := some (w, off), wg := w }, fresh := s.fresh + 1 } : State).post [.pfrangeComplete s.fresh]
/-- A stopped workgroup placed again: every thread acquires at pk and goes on where it stopped (R182, R280). -/
def placeStopped (s : State) (seq : Nat) (x : Stopped) (r : Room) (away : List (Nat × Nat × Nat × Nat)) : State :=
  let ctx := x.wg.ctx
  let s := (r.core :: away.map fun a => a.2.1).eraseDups.foldl (fun s c => startContext s c ctx) s
  let here := x.subs.filter fun (p : Nat × Sub) => !(away.any fun a => a.1 == p.1)
  let spot (g : Nat) : Nat × Nat × Nat := match away.find? fun a => a.1 == g with
    | some a => a.2
    | none => (r.core, ((here.zipIdx.find? fun q => q.1.1 == g).bind fun q => r.slots[q.2]?).getD (0, 0))
  let subs := x.subs.map fun (p : Nat × Sub) => (p.1, { p.2.aged (s.cycle (spot p.1).1) (s.row (spot p.1).1 (spot p.1).2.1).issued with
    core := (spot p.1).1, row := (spot p.1).2.1, slot := (spot p.1).2.2, inflight := 0 })
  let issuer (g : Nat) : Nat := if (x.subs.find? g).isSome then (spot g).1 else r.core
  let g := { x.wg with launch := seq, cluster := clusterOf r.core, home := r.core, base := r.base, handle := r.handle, resident := true, stopped := [] }
  let s := subs.foldl (fun (s : State) p => s.setSub p.1 p.2) (s.setWg x.num g)
  let s := x.cmds.foldl (fun (s : State) p => { s with cmds := s.cmds.set p.1 { p.2 with core := r.core } }) s
  let s := x.wg.stopped.foldl (fun (s : State) q => s.setNeedle r.core q.1 { q.2 with spent := false }) s
  let s := x.owners.foldl (fun s o => s.setOwnership o.1 ctx (some o.2) (s.ownership o.1 ctx).2) s
  let s := x.waiters.foldl (fun s o => requeue s ctx x.turns o) s
  let s := s.modCluster (clusterOf r.core) fun k => { k with
    orrery := k.orrery ++ x.orrery.map fun (o : OCmd) => { o with core := issuer o.sg }
    tasks := k.tasks ++ x.tasks.map fun (t : TileTask) => { t with core := issuer t.sg, ctx := ctx } }
  let s := x.arrivals.foldl (fun s off => rearrive s x.num off) s
  let s := (subs.map fun p => p.2.core).eraseDups.foldl (fun s c => acquire s ⟨c, ctx, x.num⟩ 5) s
  let s := s.modLaunch seq fun (l : Launch) => { l with
    stopped := l.stopped.erase x, cores := (r.core :: away.map fun a => a.2.1) ++ l.cores.filter fun c => !(c == r.core || away.any fun a => a.2.1 == c) }
  let s := (x.waiters.map Prod.fst).eraseDups.foldl (fun s c => if (s.ownership c ctx).1.isNone && !(ownerStopped s ctx c) then passOwner s c ctx else s) s
  let s := startEntry (writeSlotDir s x.num true) seq
  wakeNeedles (s.post (.tileTaskStart (clusterOf r.core) :: .accclaim r.core :: x.orrery.map fun _ => .orreryCommandPerform (clusterOf r.core))) r.core

/-- A stopped workgroup finds its room as a new one without claims does; the estates of held positions that it takes go to the stitch holder first (R200, R280, R327). -/
def tryStopped (s : State) (seq : Nat) (l : Launch) (x : Stopped) : Option State :=
  let home (p : Nat × Sub) : Bool := isL p.2.core == isL x.wg.home
  let n := (x.subs.filter home).length
  let rs := ((allCores s).filter fun c => resumeOk s x c && roomClocked s c).filterMap fun c =>
    (roomOn s seq l x.wg.size ((List.range n).map fun j => (j, [])) c).bind fun r =>
      (migratedRooms s l.ctx (clusterOf c) ((x.owners ++ x.waiters).map Prod.snd) (x.subs.filter fun p => !(home p))).map fun a => (r, a)
  (ruleThree s l.ctx (rs.map Prod.fst)).bind fun r => (rs.find? fun p => p.1 == r).map fun p =>
    let t := (r.slots.filter fun q => heldPosition s r.core q.1 q.2).foldl (fun s q => freePosition s r.core q.1 q.2) s
    if (t.fe.launches.find? seq).isNone then t else placeStopped t seq x r p.2

/-- The next workgroup of a launch placed, where it finds room now. -/
def placeNext (s : State) (seq : Nat) : Option State :=
  (s.fe.launches.find? seq).bind fun l => match l.stopped, l.todo with
    | x :: _, _ => tryStopped s seq l x
    | [], id :: _ => (chooseRoom s seq l id).map fun r => placeNew s seq id l r
    | [], [] => none

/-- Several workgroups placed one after the other, if all find room. -/
def placeAll (s : State) (seq : Nat) : Nat → Option State
  | 0 => some s
  | n + 1 => (placeNext s seq).bind fun s => placeAll s seq n

/-- What a placement makes of the machine now: one workgroup, or every one of a cooperative launch (R327, R357). -/
def placement (s : State) (seq : Nat) : Option State :=
  let l := s.launch seq
  if l.lpb.coop then (if l.todo = [] && l.stopped = [] then none else placeAll s seq (l.stopped.length + l.todo.length)) else placeNext s seq

/-- WORKGROUP_PLACEMENT (R158, R327, R357): without room the workgroup waits. -/
def execWorkgroupPlacement (launch : Nat) (s : State) : Out := match placement s launch with
  | none => .next s
  | some s' => .next s'

/-! ### Birth -/

/-- The estates that a new subgroup leaves in place in its position: those that a member claims under MOVE, and those that one claims under COPY on their own lane, which
stay until that claim (R199). -/
def keptHere (s : State) (l : Launch) (id : Nat) (u : Sub) : List Estate :=
  (l.members u.index).flatMap fun m => l.lpb.inherit.filterMap fun h =>
    (findEstate s l (h.key l.lpb (l.lpb.itemAt id m.2)) h.tag).filter fun e => !h.copy || e.place == .inPlace u.core u.row u.slot m.1

/-- ESTATE_ARRIVAL (R199, R202): held positions of the workgroup's own keep only the estates that a member takes there; the others move to the stitch holder. -/
def execEstateArrival (wg : Nat) (s : State) : Out :=
  let g := s.wg wg
  if (s.wgs.find? wg).isNone || g.born || g.arrived then .next s else
  let l := s.launch g.launch
  let s := (s.subsOf wg).foldl (fun (s : State) q =>
    let u := s.sub q
    let mine := keptHere s l g.id.toNat u
    toHolder s g.cluster ((estatesAt s u.core u.row u.slot).filter fun e => !(mine.any e.same))) s
  .next (if (s.wgs.find? wg).isNone then s else (s.modWg wg fun x => { x with arrived := true }).post [.workgroupBirth wg])

/-- What a claim at birth gives: the registers, and whether the estate was missing or failed (R192, R202). -/
inductive Claimed where
  | found | missing | failed
  deriving DecidableEq, Repr

/-- An estate brought to the heir that claims it, and whether it met an uncorrectable error: in place on its own lane of its own position, where COPY first leaves the
record in the stitch holder (R198, R199, R202, R209). -/
def bringClaim (s : State) (u : Sub) (l : Nat) (h : Inherit) (e : Estate) : State × Bool :=
  if e.place == .inPlace u.core u.row u.slot l then
    (countInPlace (if h.copy then holdEstate s (clusterOf u.core) e else s) (min h.count e.regs.length), e.bad)
  else bringEstate s u.core e

/-- Entry `i` of the inheritance specification claimed by one thread (R192). -/
def claimOne (s : State) (la : Launch) (g l i : Nat) (h : Inherit) (key : Nat) : State × Claimed :=
  match findEstate s la key h.tag with
  | none => (s.modThread g l fun t => { deliver t h.dst h.count [] with est := setBit t.est i true }, .missing)
  | some e =>
    let b := bringClaim s (s.sub g) l h e
    if (b.1.subs.find? g).isNone then (b.1, .missing) else
    if b.2 then ((takeEstate b.1 e).modThread g l fun t => { deliver t h.dst h.count [] with est := setBit t.est i true }, .failed)
    else
      let s := if h.copy then b.1 else takeEstate b.1 e
      (s.modThread g l fun t => { deliver t h.dst h.count e.regs with est := if e.regs.length < h.count then setBit t.est (4 + i) true else t.est }, .found)

/-- The claims of a thread in entry order: whether a FAULT entry found nothing, and whether an estate failed (R192 to R194, R202). -/
def claimThread (s : State) (la : Launch) (g l : Nat) (item : Nat × Nat × Nat) : List (Inherit × Nat) → State × Bool × Bool
  | [] => (s, false, false)
  | (h, i) :: hs =>
    if (s.subs.find? g).isNone then (s, false, false) else
    let r := claimOne s la g l i h (h.key la.lpb item)
    let q := claimThread r.1 la g l item hs
    (q.1, (r.2 == .missing && h.fault) || q.2.1, r.2 == .failed || q.2.2)

/-- The entry point of a form, and of the other (R37, R263). -/
def Image.entry (i : Image) : Form → Dword
  | .d => i.entryD
  | .l => i.entryL

/-- The state at birth of a subgroup and its threads, before claims (R37). -/
def bornSub (s : State) (l : Launch) (w : Wg) (u : Sub) : Sub :=
  let f := formOf u.core
  let now := s.cycle u.core
  let ms := l.members u.index
  let id := w.id.toNat
  let thread (p : Nat × Nat) : Nat × Thread :=
    let i := l.lpb.itemAt id p.2
    (p.1, { pc := l.image.entry f, lid := BitVec.ofNat 32 p.2, x := i.1, y := i.2.1, z := i.2.2, wid := l.lpb.linearId i, images := [l.lpb.code], twin := l.image.entry (otherForm f), readyAt := now })
  let u := { u with
    threads := ms.map thread
    k := [(0, maskOf (ms.map Prod.fst))]
    sstat := setBit (setBit 0 4 (isL u.core)) 3 l.image.narrow
    rngKey := l.lpb.rngkey
    rngStream := l.lpb.linearId (l.lpb.itemAt id (u.index * l.width)) }
  ((u.setSpair 0 l.lpb.args).setSreg 2 (loOf w.id)).setSreg 3 (BitVec.ofNat 32 u.index)

/-- A pending precise fault at the entry point, where no word was trapped (R194, R202). -/
def bornTrap (s : State) (g : Nat) (cause detail : BitVec 8) (pc : Dword) (ls : List Nat) : State :=
  if ls = [] then s else
  (s.modThreads g ls fun t => { t with wait := .trapped }).modSub g fun u =>
    { u with traps := u.traps ++ [{ cause := cause, detail := detail, pc := pc, mask := maskOf ls, order := u.raised }], raised := u.raised + 1 }

/-- One subgroup is born: its threads claim in ascending local id (R192 to R194, R202). -/
def bearSub (s : State) (l : Launch) (w : Nat) (g : Nat) : State :=
  let u := bornSub s l (s.wg w) (s.sub g)
  let s := s.setSub g u
  let r := (l.members u.index).foldl (fun (r : State × List Nat × List Nat) m =>
    let q := claimThread r.1 l g m.1 (l.lpb.itemAt (s.wg w).id.toNat m.2) l.lpb.inherit.zipIdx
    (q.1, if q.2.1 then r.2.1 ++ [m.1] else r.2.1, if q.2.2 then r.2.2 ++ [m.1] else r.2.2)) (s, [], [])
  if (r.1.subs.find? g).isNone then r.1 else
  let pc := l.image.entry (formOf u.core)
  let s := bornTrap r.1 g 0x0b 0 pc r.2.1
  let s := bornTrap s g 5 2 pc (r.2.2.filter fun m => !(r.2.1.contains m))
  traceLanes s g 7 ((l.members u.index).map Prod.fst) (fun _ => pc) fun _ => 0

/-- Whether a workgroup can be born now: its estates have arrived, its core runs its context, and no relock holds it or a request for an estate (R202, R276, R325, R327). -/
def birthMay (s : State) (w : Nat) : Bool :=
  let g := s.wg w
  (s.wgs.find? w).isSome && !g.born && g.arrived && g.resident && (s.core g.home).ctx == some g.ctx && clocked s (.row g.home 0)
  && (claimsAll s (s.launch g.launch) g.id.toNat).all fun e => (estateHeld s g.home e).isNone

/-- WORKGROUP_BIRTH (R37, R182, R192, R292): every thread acquires at sy and takes its inheritance; the first birth starts the launch. -/
def execWorkgroupBirth (wg : Nat) (s : State) : Out :=
  if !(birthMay s wg) then .next s else
  let g := s.wg wg
  let l := s.launch g.launch
  let s := acquire s ⟨g.home, g.ctx, wg⟩ 6
  let gs := (List.range l.nsub).filterMap fun j => (s.subsOf wg).find? fun q => (s.sub q).index == j
  let s := gs.foldl (fun s q => if (s.wgs.find? wg).isNone then s else bearSub s l wg q) s
  if (s.wgs.find? wg).isNone then .next s else
  let s := s.modWg wg fun x => { x with born := true }
  let s := startEntry (writeSlotDir s wg true) g.launch
  .next (s.modLaunch g.launch fun (l : Launch) => { l with started := true })

/-! ### Freeing and completion -/

/-- Whether an heir launch's completion sweeps an estate (R204). -/
def sweeps (l : Launch) (e : Estate) : Bool := eligibleFor l e && l.lpb.inherit.any fun h => h.tag == e.tag

/-- The records that fit a residue buffer, in ascending SEQ, and how many did not (R205). -/
def fitRecords : Nat → List Estate → List Estate × Nat
  | _, [] => ([], 0)
  | room, e :: es =>
    let n := recordSize e.regs.length
    if n ≤ room then let r := fitRecords (room - n) es; (e :: r.1, r.2) else let r := fitRecords room es; (r.1, r.2 + 1)

/-- The sweep of a completed launch: its residue buffer, then the estates are gone (R204, R205). The estates that go into the buffer are read first, those that do not fit
too (DESIGN CHOICE, log 57). A fault on a residue write is the launch's failure (R361). -/
def sweep (s : State) (seq : Nat) (l : Launch) : State :=
  let s := if l.lpb.residue = 0 then s else
    let q := readEstates s (bySeq (s.fe.estates.filter (sweeps l)))
    let s := q.1
    if (s.fe.launches.find? seq).isNone then s else
    let r := fitRecords (l.lpb.ressize - 16) q.2
    let bs := bytesOf 4 (BitVec.ofNat 64 r.1.length) ++ bytesOf 4 (BitVec.ofNat 64 r.2) ++ List.replicate 8 0 ++ r.1.flatMap estateBytes
    match writeHome s l.ctx l.lpb.residue bs with
    | .ok s => countStore s (bs.length - 16)
    | .error f => failLaunch s seq f.cause 0
  removeEstates s (sweeps l)

/-- The estates of a completed launch replace eligible ones under their key and tag, and become eligible (R192, R204). -/
def becomeEligible (s : State) (seq : Nat) (l : Launch) : State :=
  let new := s.fe.estates.filter fun e => e.launch == seq && !e.eligible && e.ctx == l.ctx
  let s := removeEstates s fun e => e.eligible && new.any fun n => n.region == e.region && n.ctx == e.ctx && n.key == e.key && n.tag == e.tag
  { s with fe := { s.fe with
      order := s.fe.order + 1
      estates := s.fe.estates.map fun (e : Estate) => if e.launch = seq && !e.eligible && e.ctx == l.ctx then { e with eligible := true, since := s.fe.order } else e } }

/-- A launch completes: sweep, replacement and eligibility, the completion release at sy of every core it ran on, then its journal entry (R204, R360, R361). A store that
cannot be carried to another package ends its fault domain (R393). -/
def completeLaunch (s : State) (seq : Nat) : State :=
  let s := sweep s seq (s.launch seq)
  if (s.fe.launches.find? seq).isNone then s else
  let l := s.launch seq
  let s := giveRoom (becomeEligible s seq l) l.store l.reserved
  if l.cores.any fun c => (stranded s c 6).isSome then endDomain s l.ctx l.fdom 0x0c 0 else
  let s := l.cores.foldl (fun s c => s.publish c 0 6) s
  let s := match l.failure with
    | none => finishEntry s seq 3 0 0 0
    | some f => finishEntry s seq 4 0 f.1 f.2
  { s with fe := { s.fe with launches := s.fe.launches.del seq } }

/-- Whether a workgroup can be freed: no subgroup is left and no command of its threads runs (R168). -/
def freeMay (s : State) (w : Nat) : Bool :=
  let g := s.wg w
  let k := s.cluster g.cluster
  (s.wgs.find? w).isSome && g.born && s.subsOf w == [] && g.posted == [] && !(k.orrery.any (·.wg == w)) && !(k.tasks.any (·.wg == w))

/-- Whether a launch has nothing left to run. -/
def launchDone (s : State) (seq : Nat) : Bool := match s.fe.launches.find? seq with
  | none => false
  | some l => l.todo == [] && l.stopped == [] && !(s.wgs.any fun (p : Nat × Wg) => p.2.launch == seq)

/-- WORKGROUP_FREE (R168, R360): dirty stash lines are written back first; the last workgroup's freeing completes the launch. A relock holds the completion release. -/
def execWorkgroupFree (wg : Nat) (s : State) : Out :=
  if !(freeMay s wg) || relocked s (s.wg wg).home 6 then .next s else
  let g := s.wg wg
  match writeBackAll s ⟨g.home, g.ctx, wg⟩ wg g.stash with
  | (s, some f) => let l := s.launch g.launch; .next (endDomain s l.ctx l.fdom f.cause 0)
  | (s, none) =>
    let s := dropWg s wg
    let s := (List.range 32).foldl (fun s i => settleBarCl s g.launch g.cluster (BitVec.ofNat 5 i)) s
    .next (if launchDone s g.launch then completeLaunch s g.launch else s)

/-- What placement, birth and freeing can do next. -/
def placeDue (s : State) : List Event :=
  ((s.fe.launches.filter fun (p : Nat × Launch) => (placement s p.1).isSome).map fun p => .workgroupPlacement p.1)
  ++ ((s.wgs.filter fun (p : Nat × Wg) => birthMay s p.1).map fun p => .workgroupBirth p.1)
  ++ ((s.wgs.filter fun (p : Nat × Wg) => freeMay s p.1).map fun p => .workgroupFree p.1)

end Sys2Proof.Machine
end

