-- ==== Sys2Proof/Machine/Preempt.lean ====
section
/-!
DEFINITION. Pre-emption (R273, R276 to R280), and the debug, counter and sample events (R378, R380, R383, R384).
-/

namespace Sys2Proof.Machine

/-! ### Notice (R273) -/

/-- The subgroups of a context that stand on a core, and the workgroups whose home it is, while they are resident. -/
def subsOn (s : State) (c ctx : Nat) : List Nat :=
  (s.subs.filter fun (p : Nat × Sub) => p.2.core == c && (s.wg p.2.wg).ctx == ctx && (s.wg p.2.wg).resident).map Prod.fst
def wgsOn (s : State) (c ctx : Nat) (resident : Bool) : List Nat :=
  (s.wgs.filter fun (p : Nat × Wg) => p.2.home == c && p.2.ctx == ctx && p.2.resident == resident).map Prod.fst

/-- The grace in µs that the vector record of a subgroup's region gives, where the notice is enabled (R262). -/
def graceOf (s : State) (g : Nat) : Option Nat :=
  match (vectorRecord s g).2 with
  | .error _ => none
  | .ok bs => if 128 ≤ fieldAt bs 0x24 1 then some (fieldAt bs 0x24 1 - 128) else none

/-- A subgroup whose region has the notice enabled takes PREEMPT, with its deadline; the latest deadline so far (R273). -/
def noticeOne (r : State × Dword) (g : Nat) : State × Dword :=
  match graceOf r.1 g with
  | none => r
  | some us =>
    let d := r.1.etime + BitVec.ofNat 64 (1000 * us)
    let s := postAsync r.1 g { cause := 0x13, addr := d, kind := 2 }
    (s.modSub g fun u => { u with noticed := true }, if r.2 < d then d else r.2)

/-- PREEMPT_DECISION (R273): firmware chooses to give a core to the context whose state its shadow bank holds; where the core runs none, there is no one to notify. -/
def execPreemptDecision (core : Nat) (s : State) : Out :=
  let k := s.core core
  match k.ctx, k.shadow with
  | some o, some i =>
    if o = i || k.preempt.isSome then .next s else
    let r := if holdsState s core o then (subsOn s core o).foldl noticeOne (s, s.etime) else (s, s.etime)
    .next (r.1.modCore core fun k => { k with preempt := some r.2 })
  | none, some _ => .next (if k.preempt.isSome then s else s.modCore core fun k => { k with preempt := some s.etime })
  | _, none => .next s

/-- Whether the swap of a core may happen: its notices are answered, or the deadline has come (R273). -/
def swapDue (s : State) (c : Nat) : Bool :=
  match (s.core c).preempt, (s.core c).ctx with
  | some d, some o => decide (d ≤ s.etime) || !((subsOn s c o).any fun g => (s.sub g).noticed)
  | some _, none => true
  | none, _ => false

/-! ### The swap (R276, R277) -/

/-- A workgroup leaves residency: its needles stop at a word boundary and travel with it (R255). -/
def switchOut (s : State) (c w : Nat) : State :=
  if (s.wgs.find? w).isNone then s else
  let ns := needlesFor s w
  let held : Tbl Needle := ns.map fun n => (n, s.needle c n)
  let s := ns.foldl (fun s n => s.modNeedle c n freeNeedle) s
  s.modWg w fun g => { g with resident := false, stopped := held }

/-- The pages of a core's scratchpad that an allocation lies in (R279). -/
def pagesOf (g : Wg) : List Nat := (List.range (scratchOf g.home / 4096)).filter fun p => decide (g.base < 4096 * (p + 1)) && decide (4096 * p < g.base + g.size)
/-- A workgroup is resident again: its needles go on, its pages are exchanged later, what has waited for it happens, and its threads acquire at pk, those on other cores
too (R182, R255, R277, R279, R290, R316). -/
def switchIn (s : State) (c w : Nat) : State :=
  let g := s.wg w
  let s := g.stopped.foldl (fun (s : State) p => s.setNeedle c p.1 { p.2 with spent := false }) s
  let s := s.modWg w fun g => { g with resident := true, stopped := [] }
  let s := s.modCore c fun k => { k with stale := (k.stale ++ pagesOf g).eraseDups }
  let s := s.post (heldArrivals s w ++ ((s.cluster g.cluster).orrery.filter (·.wg == w)).map fun _ => .orreryCommandPerform g.cluster)
  (c :: (s.subsOf w).map fun q => (s.sub q).core).eraseDups.foldl (fun s k => acquire s ⟨k, g.ctx, w⟩ 5) s

/-- Slots of a row during the 96 D-clock cycles of the exchange (R276, R382). -/
def swapSlots (s : State) (c : Nat) : Nat :=
  let d := s.die (s.dieOfCore c)
  if isL c then (96 * freqOf true d.lcode + freqOf false d.dcode - 1) / freqOf false d.dcode else 96

/-- A subgroup as the shadow bank keeps it: the group whose latches its ring holds goes on when it is back, and first where it stands between two switch points (R276,
R280). -/
def benchSub (s : State) (g : Nat) : State := let u := stoppedSub s g; s.setSub g { u with noticed := false }
/-- A subgroup that migrated stands still on its core while its workgroup's home core is switched out: it releases at pk, no `xsel` waits for its successor, and the group in
course goes on later (R127, R182, R276; log 24). -/
def standStill (w : Nat) (s : State) (g : Nat) : State :=
  let s := releaseOut (rewindXsel s g) (s.sub g).core w
  if (s.subs.find? g).isNone then s else
  let u := s.sub g
  (s.setSub g (stoppedSub s g)).modRow u.core u.row fun r => if (r.issuing.map Prod.fst) == some g then { r with issuing := none, atSwitch := true, xsel := none } else r
/-- The outgoing context's work settled and its state moved out: matrix commands and tile tasks complete, threads release at pk, held positions go to the stitch holder
(R207, R277, R300). -/
def swapOut (s : State) (c o : Nat) : State :=
  let s := finishMatrix s c
  let ws := (((subsOn s c o).map fun g => (s.sub g).wg) ++ wgsOn s c o true).eraseDups
  let s := (wgsOn s c o true).foldl finishTasks s
  let s := ws.foldl (fun s w => releaseOut s c w) s
  let s := ((positions c).filter fun p => heldPosition s c p.1 p.2).foldl (fun s p => freePosition s c p.1 p.2) s
  let s := (subsOn s c o).foldl benchSub s
  let s := (wgsOn s c o true).foldl (fun s w => ((s.subsOf w).filter fun g => (s.sub g).core != c).foldl (standStill w) s) s
  ((wgsOn s c o true).foldl (fun s w => switchOut s c w) s).modCore c fun k => { k with stale := [] }

/-- The incoming context's state moved in: the workgroups whose home the core is, and subgroups that came to it by a migration, which acquire at pk (R277, R302). -/
def swapIn (s : State) (c i : Nat) : State :=
  let s := (wgsOn s c i false).foldl (fun s w => switchIn s c w) (startContext s c i)
  let away := (((subsOn s c i).map fun g => (s.sub g).wg).filter fun w => (s.wg w).home != c).eraseDups
  away.foldl (fun s w => acquire s ⟨c, i, w⟩ 5) s

/-- Whether no row of a core stands between an `xsel` and its successor (R127, R276). -/
def rowsApart (s : State) (c : Nat) : Bool := (List.range (rowsOf c)).all fun r => (s.row c r).xsel.isNone

/-- The rows of a core after a swap: none has an issuing group, and the slots of the exchange count as NOSG (R276, R382). -/
def swapRows (s : State) (c n : Nat) : State := (List.range (rowsOf c)).foldl (fun s r => s.modRow c r fun w =>
  { w with issuing := none, atSwitch := true, xsel := none, fairOut := false
           spent := if w.spent.isNone && n != 0 then some 0 else w.spent
           held := w.held ++ List.replicate (if w.spent.isNone then n - 1 else n) 0 }) s
/-- Whether a core can change its context now: no relock holds it or its releases, and no row stands inside an `xsel` pair (R127, R325). -/
def swapFree (s : State) (c : Nat) : Bool := rowsApart s c && clocked s (.row c 0) && clocked s (.needle c 0) && !(relocked s c 5)

/-- The context of a core leaves it: with an exchange where it holds state there, whose slots are answered (R276). -/
def giveUp (s : State) (c : Nat) : State × Nat := match (s.core c).ctx with
  | none => (s, 0)
  | some o => if holdsState s c o then (swapOut s c o, swapSlots s c) else (s, 0)

/-- PREEMPTION_SWAP (R276, R277): the context in the shadow bank takes the core. Where the core runs no context, or the outgoing one holds nothing there, it takes it up
without an exchange. -/
def execPreemptionSwap (core ctx : Nat) (s : State) : Out :=
  if (s.core core).shadow != some ctx || !(swapDue s core) || !(swapFree s core) then .next s else
  let r := giveUp s core
  let s := swapRows (swapIn r.1 core ctx) core r.2
  let s := s.modCore core fun k => { k with shadow := none, preempt := none }
  .next (wakeNeedles (s.post [.accclaim core, .tileTaskStart (clusterOf core)]) core)

/-- A core swaps to no context, as after a fill that faulted: as soon as it can (R278). -/
def swapToNone (s : State) (core : Nat) : State :=
  if !(swapFree s core) then s.modCore core fun k => { k with preempt := some s.etime } else
  let r := giveUp s core
  (swapRows (leaveContext r.1 core) core r.2).modCore core fun k => { k with preempt := none }
/-- PREEMPT_DEADLINE (R273): at the deadline the core swaps, whatever its handlers do; to no context where a fill has faulted (R278). -/
def execPreemptDeadline (core : Nat) (s : State) : Out :=
  match (s.core core).preempt, (s.core core).shadow with
  | some d, some i => if d ≤ s.etime then .next (s.post [.preemptionSwap core i]) else .next s
  | some d, none => if d ≤ s.etime then .next (swapToNone s core) else .next s
  | none, _ => .next s

/-- SHADOW_SPILL_FILL (R278): the outgoing state is written out, and the shadow bank holds the next incoming context's; not before a swap to no context that is due. -/
def execShadowSpillFill (core ctx : Nat) (s : State) : Out :=
  if (s.core core).shadow.isSome || (s.core core).preempt.isSome || (s.core core).ctx == some ctx || (s.fe.contexts.find? ctx).isNone || !(s.hasCore core) then .next s
  else .next (s.modCore core fun k => { k with shadow := some ctx })

/-- The workgroups of a context with state on a core that it does not run: those switched out there, and those of subgroups that came there by a migration. -/
def outOn (s : State) (c ctx : Nat) : List Nat :=
  (wgsOn s c ctx false ++ (s.subs.filter fun (p : Nat × Sub) => p.2.core == c && (s.wg p.2.wg).ctx == ctx).map fun p => p.2.wg).eraseDups
/-- A spill write that faults: every fault domain of the outgoing context with state on the core ends, with cause XLAT (R278; log 24). -/
def spillFault (s : State) (core ctx : Nat) : State :=
  if (s.core core).shadow.isSome || (s.core core).ctx = some ctx then s
  else endDomains s ctx (fun w => (outOn s core ctx).any fun v => s.wg v == w) 4
/-- A fill read that faults: every fault domain of the incoming context ends, and the core swaps to no context (R278). -/
def fillFault (s : State) (core ctx : Nat) : State :=
  if (s.core core).shadow.isSome || (s.core core).ctx = some ctx then s else swapToNone (endDomains s ctx (fun _ => true) 4) core

/-- Whether a subgroup of a workgroup owns an engine or waits for one (R229). -/
def heldToCore (s : State) (w : Nat) (g : Wg) : Bool := (s.subsOf w).any fun q => ownedBy s g.ctx q != [] || awaitedBy s g.ctx q != []
/-- The room that another core of the kind in its cluster has for a pre-empted workgroup, which keeps its handle (R158, R280, R291). -/
def otherRoom (s : State) (w : Nat) (g : Wg) : Option Room :=
  let l := s.launch g.launch
  let js := ((s.subsOf w).filter fun q => (s.sub q).core == g.home).map fun q => ((s.sub q).index, ([] : List Estate))
  let cs := (if isL g.home then (List.range 2).map (lCore g.cluster) else (List.range 6).map (dCore g.cluster)).filter (· != g.home)
  cs.findSome? fun c =>
    if !(openTo s g.launch l c && roomClocked s c && budgetRoom { s with wgs := s.wgs.del w } l c g.size)
        || g.stopped.any (fun (q : Nat × Needle) => (s.needle c q.1).cmd.isSome) then none else
    match allPositions s c g.ctx js [], scratchBase s c g.size with
    | some ps, some b => some ⟨c, b, g.handle, ps⟩
    | _, _ => none
/-- A pre-empted workgroup on another core: its subgroups of the old core take the room's positions, and its commands go with it (R280, R291, R316). -/
def moveHome (s : State) (w : Nat) (r : Room) : State :=
  let g := s.wg w
  let s := startContext s r.core g.ctx
  let mine := (s.subsOf w).filter fun q => (s.sub q).core == g.home
  let s := mine.zipIdx.foldl (fun (s : State) q =>
    let u := s.sub q.1
    let p := r.slots.getD q.2 (0, 0)
    let now := s.cycle r.core
    s.setSub q.1 { (u.aged now (s.row u.core u.row).issued).aged now (s.row r.core p.1).issued with core := r.core, row := p.1, slot := p.2 }) s
  let at_ (c : Nat) : Nat := if c = g.home then r.core else c
  let s := { s with cmds := s.cmds.map fun (p : Nat × Cmd) => (p.1, if p.2.joins.any fun j => (s.sub j.1.1).wg == w then { p.2 with core := at_ p.2.core } else p.2) }
  let s := s.modCluster g.cluster fun k => { k with
    orrery := k.orrery.map fun (o : OCmd) => if o.wg = w then { o with core := at_ o.core } else o
    tasks := k.tasks.map fun (t : TileTask) => if t.wg = w then { t with core := at_ t.core } else t }
  let s := s.modLaunch g.launch fun (l : Launch) => { l with cores := r.core :: l.cores.filter (· != r.core) }
  let s := switchIn (s.modWg w fun x => { x with home := r.core, base := r.base }) r.core w
  wakeNeedles (s.post [.accclaim r.core, .tileTaskStart g.cluster]) r.core
/-- A pre-empted workgroup is restored on another core of the kind, in its cluster and with its handle, unless an engine holds it to its core (R229, R280, R291). -/
def restoreElsewhere (s : State) (w : Nat) : State :=
  match s.wgs.find? w with
  | none => s
  | some g =>
    if g.resident || !g.born || heldToCore s w g then s else
    match otherRoom s w g with
    | none => s
    | some r =>
      let t := (r.slots.filter fun q => heldPosition s r.core q.1 q.2).foldl (fun s q => freePosition s r.core q.1 q.2) s
      if (t.wgs.find? w).isNone then t else moveHome t w r

/-- SCRATCHPAD_PAGE_EXCHANGE (R279): a page of the scratchpad of a workgroup's core is valid. -/
def execScratchpadPageExchange (wg page : Nat) (s : State) : Out :=
  .next (s.modCore (s.wg wg).home fun k => { k with stale := k.stale.filter (· != page) })

/-! ### Debug (R378, R380) -/

/-- The workgroup that a debug request names, if it is resident or pre-empted and its region holds the debug right (R378). -/
def debugTarget (s : State) : Option Nat :=
  let d := s.dbgr
  match s.fe.launches.find? d.seq.toNat with
  | none => none
  | some l =>
    if l.ctx != d.ctx.toNat || !l.dbg then none else
    (List.find? (fun (p : Nat × Wg) => p.2.launch == d.seq.toNat && p.2.id == d.wg.setWidth 64 && p.2.born) s.wgs).map Prod.fst

/-- DBG_CTL_GO (R378): DBG is delivered to every subgroup of the workgroup, or ERR is set. ERR and DONE are those of the last request (log 19). -/
def execDbgCtlGo (s : State) : Out :=
  if !(hostUp s) || s.dbgr.busy then .next s else
  match debugTarget s with
  | none => .next { s with dbgr := { s.dbgr with err := true, done := false } }
  | some w =>
    let s := (s.subsOf w).foldl (fun s g => postAsync s g { cause := 0x0e, kind := 2 }) s
    .next (settleDebug { s with dbgr := { s.dbgr with busy := true, err := false, done := false, target := some w } })

/-- A fault of firmware's access to a mailbox ends the fault domains of the regions that have it in effect (R364). -/
def endMailbox (s : State) (ctx : Nat) (area : Dword) (f : MemFault) : State :=
  (knownRcbs s ctx).foldl (fun s r => match debugOf s ctx r, domainAt s ctx r with
    | some (_, a), some d => if a = area then endDomain s ctx d f.cause 0 else s
    | _, _ => s) s
/-- DEBUG_RESUME (R364, R380): the halted subgroups that RUN of a mailbox names go on. -/
def execDebugResume (ctx : Nat) (area : BitVec 64) (s : State) : Out :=
  match readHome s ctx (area + 8) 8 with
  | .error f => .next (endMailbox s ctx area f)
  | .ok bs =>
    let run := ofBytes bs
    let mine (w : Nat) : Bool :=
      let g := s.wg w
      g.ctx == ctx && g.id == (run.setWidth 32).setWidth 64 && match debugOf s ctx (s.launch g.launch).lpb.rcb with
        | some (_, a) => a == area
        | none => false
    .next { s with subs := s.subs.map fun (p : Nat × Sub) => (p.1, if p.2.halted && mine p.2.wg && run.getLsbD (32 + p.2.index) then
      { p.2 with halted := false } else p.2) }

/-! ### Counters and samples (R383, R384) -/

/-- CNT_CTL_FREEZE (R383). -/
def execCntCtlFreeze (on : Bool) (s : State) : Out :=
  if !(hostUp s) then .next s else .next { s with dbgr := { s.dbgr with freeze := on } }

/-- Every slot counter zero. -/
def clearCounts (s : State) : State :=
  { s with dies := s.dies.map fun (p : Nat × Die) => (p.1, { p.2 with slotsD := 0, slotsL := 0 }), cores := s.cores.map fun (p : Nat × Core) => (p.1, { p.2 with rows := p.2.rows.map fun (q : Nat × Row) => (q.1, { q.2 with counts := [] }) }) }
/-- CNT_CTL_CLEAR (R383). -/
def execCntCtlClear (s : State) : Out := if !(hostUp s) then .next s else .next (clearCounts s)

/-- The live threads on a core, with their lane ids. -/
def liveOn (s : State) (c : Nat) : List (Nat × Nat × Nat) :=
  (s.subs.filter fun (p : Nat × Sub) => p.2.core == c && canRun s p.1).flatMap fun p => (lanesOf p.2.live).map fun l => (laneId s p.2 l, p.1, l)
/-- The thread with the lowest lane id above `last`, else with the lowest. -/
def nextSample (last : Nat) (ts : List (Nat × Nat × Nat)) : Option (Nat × Nat × Nat) :=
  let low (xs : List (Nat × Nat × Nat)) : Option (Nat × Nat × Nat) := xs.foldl (fun b x => match b with
    | none => some x
    | some y => if x.1 < y.1 then some x else some y) none
  (low (ts.filter fun t => decide (last < t.1))).or (low ts)
/-- PC_SAMPLE (R384): the PC of the core's next live thread, in turn by lane id. -/
def execPcSample (core : Nat) (s : State) : Out :=
  match nextSample (s.core core).sampled (liveOn s core) with
  | none => .next s
  | some (id, g, l) =>
    let s := s.modCore core fun k => { k with sampled := id }
    .next (traceLanes s g 9 [l] (fun _ => ((s.sub g).thread l).pc) fun _ => 0)

/-- JRIDX_WRITE (R362). -/
def execJridxWrite (n : BitVec 64) (s : State) : Out := if !(hostUp s) then .next s else .next { s with fe := { s.fe with jridx := n } }

end Sys2Proof.Machine
end

