-- ==== Sys2Proof/Machine/Package.lean ====
section
/-!
DEFINITION. The package's memory side: soft errors and the patrol scrubber (R202, R225, R305, R343 to R345), and the invalidation of translations (R341, R342).

The number of a soft error's unit is the model's (log 18): see `errorPlace`.
-/

namespace Sys2Proof.Machine

/-- UNIT of an error-log record (R345). -/
def unitWord (die kind low : Nat) : Nat := die * 2 ^ 12 + kind * 2 ^ 8 + low % 256

/-- Every fault domain of a context that has a launch ends (R343, R344). -/
def endContext (s : State) (ctx : Nat) (cause : BitVec 8) : State :=
  let ds := ((s.fe.launches.filter fun (p : Nat × Launch) => p.2.ctx == ctx).map fun p => p.2.fdom).eraseDups
  ds.foldl (fun s d => endDomain s ctx d cause 0) s

/-- A 32-byte ECC unit of memory marked as faulting (R8, R343). One of the device's granules that no store has reached reads as zero whatever its unit holds, and its first
store fills it (R372). -/
def markBad (s : State) (u : Nat) : State :=
  if s.bad.contains u || (decide (tierOf (32 * u) ≤ 1) && !(s.written.contains (32 * u / 4096))) then s else { s with bad := u :: s.bad }

/-- A unit whose data is lost where it is written to memory as faulting: it keeps faulting, and its granule counts as reached (R305, R334, R343). -/
def markWritten (s : State) (u : Nat) : State := markBad (s.touch [32 * u]) u

/-- The base die whose LLC slice is the home of a line (R333). -/
def homeDie (s : State) (p : Loc) : Nat := if tierOf p = 0 then tierAddr p / s.region else tierAddr p / 4096 % 4

/-- ADDR and UNIT of an error-log record (R345) for unit `u` of a structure. What `u` counts is the model's (log 18): 32-byte units of HBM4E (kind 0) and of the LPDDR 6
tier (1); 8-byte units of global memory, from bit 60 up the context that made the line dirty, 0 for a clean one, and for an L2 from bit 76 up its cluster (2 and 3); the
8-byte unit `u mod 2^16` of workgroup `u / 2^16` (4); core `u mod 2^16` (5); the entry `u mod 256` of the TLB of core `u / 256`, and from 2^20 on
the entry `u mod 4096` of that of cluster `u / 4096 - 256` (6); the 128-byte line of an atomic unit
(7); the record `u mod 2^20` of the stitch holder of cluster `u / 2^20` (8); the tile `u mod 16`, the shadow (8) or the active plane (9) of core `u / 16` (9); the cluster
(11, logged as 3, since R345 has no kind for its slot table, scheduler and barriers). -/
def errorPlace (s : State) (kind u : Nat) : Dword × Nat :=
  let line := 8 * (u % 2 ^ 60)
  let coreUnit (c : Nat) : Dword × Nat := (BitVec.ofNat 64 u, unitWord (s.dieOfCore c) kind (clusterOf c))
  let clusterUnit (kind k : Nat) : Dword × Nat := (BitVec.ofNat 64 u, unitWord (s.dieOf k) kind k)
  if kind ≤ 1 then (tierWord (locOf kind (32 * u)), memUnit s (locOf kind (32 * u)))
  else if kind = 2 then (tierWord line, unitWord (homeDie s line) 2 0)
  else if kind = 3 then (tierWord line, unitWord (s.dieOf (u / 2 ^ 76)) 3 (u / 2 ^ 76))
  else if kind = 4 then (BitVec.ofNat 64 (u % 2 ^ 16), unitWord (s.dieOf (s.wg (u / 2 ^ 16)).cluster) 4 (s.wg (u / 2 ^ 16)).cluster)
  else if kind = 5 then coreUnit (u % 2 ^ 16)
  else if kind = 6 then (if 2 ^ 20 ≤ u then clusterUnit 6 (u / 4096 - 256) else coreUnit (u / 256))
  else if kind = 7 then (tierWord (128 * u), unitWord (memUnit s (128 * u) / 2 ^ 12) 7 (memUnit s (128 * u)))
  else if kind = 8 then clusterUnit 8 (u / 2 ^ 20)
  else if kind = 9 then coreUnit (u / 16)
  else if kind = 11 then clusterUnit 3 u
  else (BitVec.ofNat 64 u, unitWord 0 kind 0)

/-- An error of unit `u` of a structure written to the error log (R345). -/
def logUnit (s : State) (kind u : Nat) (sev ctx : Nat) : State := logError s (errorPlace s kind u).1 (errorPlace s kind u).2 sev ctx

/-- HBM4E (kind 0) and the LPDDR 6 tier (kind 1). -/
def memoryError (s : State) (tier u : Nat) : State := markBad (logUnit s tier u 1 0) (locOf tier (32 * u) / 32)

/-- A line of the LLC (kind 2) or of an L2 (kind 3). A clean one is fetched again; a dirty line's bytes fault from now on, and its owners end (R305, R343, R344). -/
def lineError (s : State) (kind u : Nat) : State :=
  let ctx := u / 2 ^ 60 % 2 ^ 16
  if ctx = 0 then logUnit s kind u 0 0
  else endContext (markWritten (logUnit s kind u 2 ctx) (8 * (u % 2 ^ 60) / 32)) ctx 5

/-- Scratchpad (kind 4). -/
def scratchError (s : State) (u : Nat) : State :=
  let w := u / 2 ^ 16
  if (s.wgs.find? w).isNone then s else
  (logUnit s 4 u 1 (s.wg w).ctx).modWg w fun g => { g with bad := u % 2 ^ 16 :: g.bad }

/-- A register file, or with bit 16 set the shadow bank, of a core (kind 5): every fault domain of the context on the core ends (R343). -/
def registerError (s : State) (u : Nat) : State :=
  let c := u % 2 ^ 16
  let shadow := u.testBit 16
  match (if shadow then (s.core c).shadow else (s.core c).ctx) with
  | none => logUnit s 5 u 1 0
  | some ctx =>
    let s := logUnit s 5 u 2 ctx
    let ws := ((s.wgs.filter fun (p : Nat × Wg) => p.2.home == c && p.2.ctx == ctx && p.2.resident != shadow).map Prod.fst)
      ++ (if shadow then [] else (subsOn s c ctx).map fun g => (s.sub g).wg)
    endDomains s ctx (fun w => ws.any fun v => s.wg v == w) 5

/-- An entry of a core's TLB (kind 6), which is dropped in the cluster's TLB too, or of a cluster's alone; a walk repeats it (R343). -/
def tlbError (s : State) (u : Nat) : State :=
  if 2 ^ 20 ≤ u then (logUnit s 6 u 0 0).modCluster (u / 4096 - 256) fun k => { k with tlb := k.tlb.eraseIdx (u % 4096) } else
  let c := u / 256
  let t := (s.core c).tlb
  let s := (logUnit s 6 u 0 0).modCore c fun k => { k with tlb := t.eraseIdx (u % 256) }
  match t[u % 256]? with
  | some e => s.modCluster (clusterOf c) fun k => { k with tlb := k.tlb.filter fun x => x != e }
  | none => s

/-- The state of an atomic unit (kind 7): the atomic to the line raises MEMERR, and the line's bytes keep faulting (R334). -/
def unitError (s : State) (u : Nat) : State :=
  (List.range 4).foldl (fun s i => markWritten s (4 * u + i)) (logUnit s 7 u 1 0)

/-- The stitch holder (kind 8); a record number past the last is an error that cannot be confined, which ends the fault domain of every region with a record there
(R202, R305). -/
def holderError (s : State) (u : Nat) : State :=
  let es := s.fe.estates.filter fun e => e.place == .holder (u / 2 ^ 20)
  match es[u % 2 ^ 20]? with
  | some e =>
    let s := logUnit s 8 u 1 e.ctx
    { s with fe := { s.fe with estates := s.fe.estates.map fun (o : Estate) => if e.same o then { o with bad := true } else o } }
  | none =>
    (es.map fun e => (e.ctx, e.fdom)).eraseDups.foldl (fun s d => endDomain s d.1 d.2 5 0) (logUnit s 8 u 2 0)

/-- The storage of a matrix engine (kind 9). A tile becomes NaN with its chunk closed; the load of the shadow plane has failed; what an `mstr` computes with the active
plane is NaN. MERR is set for the context whose state it is (R218, R225). -/
def engineError (s : State) (u : Nat) : State :=
  let c := u / 16
  let e := s.engine c
  let t := u % 16
  let s := logUnit s 9 u 1 (if t < 8 then e.actx else e.wctx)
  if t < 8 then
    if (e.tiles.get t {}).used then setSticky (s.setEngine c { e with tiles := e.tiles.set t (nanTile c) }) c e.actx false false true else s
  else if t = 8 then setSticky (s.setEngine c { e with shadow := { e.shadow with valid := false, failed := true } }) c e.wctx false false true
  else setSticky (s.setEngine c { e with active := { e.active with bad := true } }) c e.wctx false false true

/-- The slot table, the scheduler or the barrier state of a cluster (kind 11): every fault domain with a workgroup or a task there ends (R305). -/
def clusterError (s : State) (u : Nat) : State :=
  let s := logUnit s 11 u 2 0
  let ctxs := ((s.wgs.filter fun (p : Nat × Wg) => p.2.cluster == u).map fun p => p.2.ctx).eraseDups
  ctxs.foldl (fun s c => endDomains s c (fun w => w.cluster == u) 5) s

/-- SOFT_ERROR (R343 to R345): one that is corrected is logged and changes nothing. -/
def execSoftError (kind : BitVec 4) (unit : Nat) (correctable : Bool) (s : State) : Out :=
  .next <|
  if correctable then logUnit s kind.toNat unit 0 0
  else if kind.toNat ≤ 1 then memoryError s kind.toNat unit
  else if kind = 2 || kind = 3 then lineError s kind.toNat unit
  else if kind = 4 then scratchError s unit
  else if kind = 5 then registerError s unit
  else if kind = 6 then tlbError s unit
  else if kind = 7 then unitError s unit
  else if kind = 8 then holderError s unit
  else if kind = 9 then engineError s unit
  else if kind = 11 then clusterError s unit
  else logUnit s kind.toNat unit 1 0

/-- PATROL_SCRUB (R344): 32-byte unit `unit` of HBM4E or the LPDDR 6 tier is read: 1, it was corrected; 2, it cannot be and faults from now on; else it is good. -/
def execPatrolScrub (unit : Nat) (state : BitVec 2) (s : State) : Out :=
  let p := 32 * unit
  if isRemote p || decide (2 ≤ tierOf p) then .next s
  else if state = 1 then .next (logError s (tierWord p) (memUnit s p) 0 0)
  else if state = 2 && !(s.bad.contains unit) then .next (markBad (logError s (tierWord p) (memUnit s p) 1 0) unit)
  else .next s

/-! ### Invalidation (R341, R342) -/

/-- A set of invalidation registers with GO written: a request with a reserved bit set does nothing but set ERR, which a later legal one clears (log 19). -/
def Xinv.go (x : Xinv) : Xinv :=
  if x.ctx.toNat / 2 ^ 16 != 0 || x.va.toNat / 2 ^ 56 != 0 || x.va.toNat % 4096 != 0 then { x with err := true } else { x with busy := true, err := false }

/-- XINV_CTL_GO (R341). -/
def execXinvCtlGo (s : State) : Out :=
  if !(hostUp s) || s.xinv.busy then .next s
  else .next ({ s with xinv := s.xinv.go }.post (if s.xinv.go.busy then [.invalidationComplete] else []))

/-- A request in the register set of the firmware policy core (R341): ignored while one runs there. -/
def firmwareInvalidate (s : State) (ctx : Word) (va : Dword) (pages : Word) : State :=
  if s.fwXinv.busy || s.link.bringUp != .ready then s else
  let x : Xinv := Xinv.go { s.fwXinv with ctx := ctx, va := va, pages := pages }
  { s with fwXinv := x }.post (if x.busy then [.invalidationComplete] else [])

/-- Whether a TLB entry lies in the range of an invalidation (R342). -/
def invalidates (x : Xinv) (t : TlbEnt) : Bool :=
  t.ctx == x.ctx.toNat && (x.pages == 0 || (decide (x.va.toNat < t.va + 2 ^ t.log) && decide (t.va < x.va.toNat + 4096 * x.pages.toNat)))

/-- The translations in the range of an invalidation dropped from every TLB of the package (R342). -/
def dropTranslations (s : State) (x : Xinv) : State :=
  { s with
    cores := s.cores.map fun (p : Nat × Core) => (p.1, { p.2 with tlb := p.2.tlb.filter fun t => !(invalidates x t) })
    clusters := s.clusters.map fun (p : Nat × Cluster) => (p.1, { p.2 with tlb := p.2.tlb.filter fun t => !(invalidates x t) }) }

/-- INVALIDATION_COMPLETE (R342): every access is performed in the step that translates it, so none is left; with requests in both sets, that of the control window
completes first. -/
def execInvalidationComplete (s : State) : Out :=
  if s.xinv.busy then .next { dropTranslations s s.xinv with xinv := { s.xinv with busy := false } }
  else if s.fwXinv.busy then .next { dropTranslations s s.fwXinv with fwXinv := { s.fwXinv with busy := false } }
  else .next s

end Sys2Proof.Machine
end

