-- ==== Sys2Proof/Machine/Fabric.lean ====
section
/-!
DEFINITION. The Fjare fabric as this package sees it: ports (R387 to R389), export windows and the requests of other packages (R391, R393), timeouts (R393) and time (R394).
-/

namespace Sys2Proof.Machine

/-- Whether a port of that number is used: a package has none to itself (R386). -/
def portUsed (s : State) (p : Nat) : Bool := decide (p < 128) && p != s.fabric.id % 64

/-- A request that has left the package and is not acknowledged is sent again by another path, under its own id; while there is none, it waits at the port by which it
went (R393). -/
def resend (p : Nat) (s : State) (f : Flit) : State :=
  match f.to_ with
  | none => s
  | some (pkg, line) => match s.route pkg line with
    | some q => s.sendFlit q f
    | none => s.setPort p { s.port p with queue := (s.port p).queue ++ [f] }

/-- A port declared down, with its error-log record (R388); the requests among its flits go by another path (R393). -/
def portDown (s : State) (p : Nat) : State :=
  let x := s.port p
  let t := logError (s.setPort p { x with state := 0, replays := 0, asks := 0, sent := [], queue := [] }) (BitVec.ofNat 64 p) (unitWord 0 10 p) 1 0
  (x.sent ++ x.queue).foldl (resend p) t

/-! A flit (R387): 4 bytes of header, 56 of payload and the CRC-32. The places of the channel (byte 0), the type (byte 1) and the sequence number (bytes 2 and 3) in the
header are the model's, and so are the types of VC2 and their payloads: 0 acknowledges flits (bytes 0 and 1 their count) and returns credits (two bytes for each channel
from byte 2 on), 1 asks for replay from a sequence number (bytes 0 and 1), 2 is a time message (DESIGN CHOICE, log 39). -/

def flitChannel (head : Word) : Nat := (head.setWidth 8).toNat
def flitType (head : Word) : BitVec 8 := (head >>> 8).setWidth 8
def flitSeq (head : Word) : BitVec 16 := (head >>> 16).setWidth 16
/-- A 16-bit field of a payload. -/
def flitField (payload : BitVec 448) (i : Nat) : BitVec 16 := (payload >>> (16 * i)).setWidth 16
/-- The bytes under the CRC. -/
def flitBytes (head : Word) (payload : BitVec 448) : List Byte :=
  (List.range 60).map fun i => if i < 4 then (head >>> (8 * i)).setWidth 8 else (payload >>> (8 * (i - 4))).setWidth 8
/-- Whether the CRC of a flit is right: the polynomial is a free value (log 39). -/
def flitGood (head : Word) (payload : BitVec 448) (check : Word) : Bool := Config.flitCrc (flitBytes head payload) == check

/-- A flit taken in order, against a credit of its channel: a request waits until the home drains it, and what answers or manages is drained at once (R387). -/
def takeFlit (x : Port) (vc : Nat) : Port :=
  let x := { x with rxSeq := x.rxSeq + 1, replays := 0, state := 2 }
  if vc = 0 then { x with credits := x.credits.set 0 (x.credits.get 0 0 - 1), waiting := x.waiting.set 0 (x.waiting.get 0 0 + 1) } else x

/-- Flits of this side acknowledged, and credits returned to it, with which flits that wait are sent (R387, R388). -/
def takeAcks (x : Port) (now : Dword) (payload : BitVec 448) : Port :=
  let n := (flitField payload 0).toNat
  ({ x with
    sent := x.sent.drop n
    ackAt := if n = 0 then x.ackAt else now
    asks := if n = 0 then x.asks else 0
    txCredits := (List.range 3).map fun vc => (vc, x.txCredits.get vc 0 + (flitField payload (vc + 1)).toNat) } : Port).drain now

/-- What a flit of VC2 does at the port: an acknowledgement, or a request for replay, which the sender meets from the flits it keeps (R387, R388). -/
def managePort (x : Port) (now : Dword) (vc : Nat) (kind : BitVec 8) (payload : BitVec 448) : Port :=
  if vc != 2 then x else if kind = 0 then takeAcks x now payload
  else if kind = 1 then { x with asked := flitField payload 0, asks := if x.asked = flitField payload 0 then x.asks + 1 else 1 }
  else x

/-- FLIT_RECEIVE (R387, R388): a flit of the link partner. One whose CRC fails is discarded and its replay asked for, and 16 failed replays of one flit in a row, on either
side, take the port down; one out of order, or without a credit, is discarded. -/
def execFlitReceive (port : Nat) (head : BitVec 32) (payload : BitVec 448) (check : BitVec 32) (s : State) : Out :=
  let x := s.port port
  let vc := flitChannel head
  if !(portUsed s port && s.portUp port) then .next s
  else if !(flitGood head payload check) then
    let x := { x with crc := x.crc + 1, replays := x.replays + 1, state := 3 }
    .next (if 17 ≤ x.replays then portDown (s.setPort port x) port
      else s.setPort port (x.send s.etime { vc := 2, kind := 1, payload := x.rxSeq.setWidth 448 }))
  else if flitSeq head != x.rxSeq || !(decide (vc < 3)) || x.credits.get vc 0 == 0 then .next s
  else
    let y := managePort (takeFlit x vc) s.etime vc (flitType head) payload
    .next (if 17 ≤ y.asks then portDown (s.setPort port y) port else s.setPort port y)

/-- A request drained from a port, which returns its credit, and its response sent on VC1 (R387). -/
def drainRequest (s : State) (port id : Nat) : State :=
  let x := s.port port
  (s.setPort port { x with waiting := x.waiting.set 0 (x.waiting.get 0 0 - 1), credits := x.credits.set 0 (x.credits.get 0 0 + 1) }).sendFlit port
    { vc := 1, payload := Config.flitPayload id s.ticks }

/-- Whether no flit of a port was acknowledged for 10 µs while flits are outstanding (R388). -/
def ackDue (s : State) (port : Nat) : Bool :=
  portUsed s port && s.portUp port && (s.port port).sent != [] && decide ((s.port port).ackAt.toNat + 10000 ≤ s.etime.toNat)

/-- ACK_TIMEOUT (R388). -/
def execAckTimeout (port : Nat) (s : State) : Out := if ackDue s port then .next (portDown s port) else .next s

/-- A port that is down begins its training (R388, R389). -/
def trainPort (s : State) (port : Nat) : State :=
  if portUsed s port && (s.port port).state == 0 then s.setPort port { s.port port with state := 1 } else s

/-- The link partner of a port: the pod member whose index is its number, or the switch plane (R386, R389). -/
def partner (s : State) (port : Nat) : Nat := if port < 64 then s.fabric.id / 64 * 64 + port else port - 64
/-- Whether the partner's port may have a number: that of a pod member is the one that joins it to this package (R386, R389). -/
def partnerPort (s : State) (port pport : Nat) : Bool := if port < 64 then pport == s.fabric.id % 64 else decide (pport < 128)

/-- The port after its training: both sides begin anew, the link partner with the credits that no flit still waiting holds, this side with all of its own (R387, R388). -/
def trained (x : Port) (peer pport : Nat) : Port :=
  { x with
    state := 2, peer := peer, pport := pport, rxSeq := 0, txSeq := 0, replays := 0, asks := 0, sent := [], queue := []
    credits := (List.range 3).map fun vc => (vc, Config.portCredits vc - x.waiting.get vc 0)
    txCredits := (List.range 3).map fun vc => (vc, Config.portCredits vc) }

/-- The requests that wait at ports that are down for a path, with those ports (R393). -/
def heldFlits (s : State) : List (Nat × Flit) := s.fabric.ports.flatMap fun (q : Nat × Port) => if s.portUp q.1 then [] else q.2.queue.map (q.1, ·)

/-- PORT_RETRAIN_COMPLETE (R388, R389): a port that trains is up; requests that have waited for a path are sent (R393). -/
def execPortRetrainComplete (port peer pport : Nat) (s : State) : Out :=
  if portUsed s port && (s.port port).state == 1 && peer == partner s port && partnerPort s port pport then
    let free := { s with fabric := { s.fabric with ports := s.fabric.ports.map fun (q : Nat × Port) => (q.1, if s.portUp q.1 then q.2 else { q.2 with queue := [] }) } }
    .next ((heldFlits s).foldl (fun s q => resend q.1 s q.2) (free.setPort port (trained (s.port port) peer pport)))
  else .next s

/-! ### Export windows (R391) -/

def State.window (s : State) (w : Nat) : Export := s.fabric.exports.get w {}
def State.setWindow (s : State) (w : Nat) (x : Export) : State := { s with fabric := { s.fabric with exports := s.fabric.exports.set w x } }
def Export.tier (x : Export) : Nat := (x.base >>> 62).toNat
def Export.first (x : Export) : Nat := (x.base.setWidth 52).toNat

/-- Whether a window may open (R391). -/
def exportOk (s : State) (x : Export) : Bool :=
  decide (x.tier ≤ 1) && x.base.toNat % 4096 == 0 && x.base.toNat / 2 ^ 52 % 2 ^ 10 == 0 && x.size != 0 && x.size.toNat % 4096 == 0
  && decide (x.first + x.size.toNat ≤ s.tierSize x.tier) && x.key != 0 && decide (x.key.toNat < 2 ^ 16)

/-- EXP_CTL_OPEN (R391): ERR is that of the last open (log 19). -/
def execExpCtlOpen (win : Nat) (wprot : Bool) (s : State) : Out :=
  if !(hostUp s) || decide (16 ≤ win) then .next s else
  let x := s.window win
  if exportOk s x then .next (s.setWindow win { x with opened := true, wprot := wprot, err := false }) else .next (s.setWindow win { x with err := true })

/-- EXP_CTL_CLOSE (R391). -/
def execExpCtlClose (win : Nat) (s : State) : Out :=
  if !(hostUp s) || decide (16 ≤ win) then .next s else
  let x := s.window win
  if x.opened then .next ((s.setWindow win { x with opened := false, busy := true }).post [.exportCloseComplete win]) else .next s

/-- EXPORT_CLOSE_COMPLETE (R391). -/
def execExportCloseComplete (win : Nat) (s : State) : Out :=
  if (s.window win).busy then .next (s.setWindow win { s.window win with busy := false }) else .next s

/-- Whether some open window admits a request of another package (R391). -/
def admits (s : State) (key : BitVec 16) (write : Bool) (p n : Nat) : Bool :=
  s.fabric.exports.any fun (q : Nat × Export) =>
    let x := q.2
    x.opened && x.key == key.setWidth 32 && tierOf p == x.tier && decide (x.first ≤ tierAddr p) && decide (tierAddr p + n ≤ x.first + x.size.toNat) && !(write && x.wprot)

/-- The party that a request comes from, a core of another package, which the upper part of its id names (DESIGN CHOICE, log 39). -/
def originOf (id : Nat) : Nat := id / 2 ^ 32
/-- The bytes of a store of another package, of one line or less. -/
def storedBytes (n : Nat) (v : BitVec 1024) : List Byte := (List.range n).map fun i => (v >>> (8 * i)).setWidth 8

/-- A store that a release narrower than sy has carried here: no party here sees it (R392). -/
def carryStore (s : State) (from_ p : Nat) (bs : List Byte) : State :=
  let old := s.fabric.carried.filter fun x => !(x.1 == from_ && decide (p ≤ x.2.1) && decide (x.2.1 < p + bs.length))
  { s with fabric := { s.fabric with carried := old ++ bs.zipIdx.map fun b => (from_, p + b.2, b.1) } }
/-- The stores that a party has carried to some places are published at sy (R392). -/
def publishCarried (s : State) (from_ p n : Nat) : State :=
  let mine (x : Nat × Loc × Byte) : Bool := x.1 == from_ && decide (p ≤ x.2.1) && decide (x.2.1 < p + n)
  let xs := s.fabric.carried.filter mine
  let rest : State := { s with fabric := { s.fabric with carried := s.fabric.carried.filter fun x => !(mine x) } }
  (xs.foldl (fun (s : State) x => s.homeWrite x.2.1 [x.2.2]) rest).healUnits (xs.map fun x => x.2.1)

/-- What a request of another package performs at its home: 0 a read, of what releases at sy have published; 1 a store that a release at sy publishes; 2 + i the atomic of
R147 whose OP is 0x20 + i, with the low eight bytes of `val` and the next eight what its D operand names; 17 a store that a narrower release carries; 18 the publication at
sy of what was carried (R334, R390, R392; log 39). The state and the bytes that answer. -/
def performRemote (s : State) (from_ : Nat) (op : BitVec 5) (p n : Nat) (val : BitVec 1024) : State × List Byte :=
  if op = 0 then (s, (List.range n).map fun i => s.sy.read (p + i))
  else if op = 1 then (s.homeWrite p (storedBytes n val), [])
  else if op = 17 then (carryStore s from_ p (storedBytes n val), [])
  else if op = 18 then (publishCarried s from_ p n, [])
  else match atomics[op.toNat - 2]? with
    | none => (s, [])
    | some A => (homeAtomic s p (bytesOf A.size (A.f (s.homeRead p A.size) (val.setWidth 64) ((val >>> 64).setWidth 64))), s.homeBytes p A.size)

/-- The bytes that a request of another package reads or stores, and whether one that it depends on has an uncorrectable error: for an atomic at a memory-side atomic unit,
which is where one in HBM4E executes, one of its line; for a store, one of a unit that it does not rewrite in full (R334, R343, R390). -/
def remoteSize (op : BitVec 5) (size : Nat) : Nat := ((atomics[op.toNat - 2]?).filter fun _ => decide (2 ≤ op.toNat)).elim size Atomic.size
def remoteBad (s : State) (op : BitVec 5) (loc n : Nat) : Bool :=
  if op = 1 || op = 17 || op = 18 then s.bad.any fun u => decide (u * 32 < loc + n) && decide (loc < (u + 1) * 32) && !(decide (loc ≤ u * 32) && decide ((u + 1) * 32 ≤ loc + n))
  else if 2 ≤ op.toNat && tierOf loc == 0 then s.badAt (loc / 128 * 128) 128 else s.badAt loc n

/-- REMOTE_REQUEST (R387, R391, R393): a request flit that waits at a port is drained and answered. One whose answer is kept is not performed twice; one that no window
admits, or that meets an uncorrectable error, is answered with a fault and performs nothing; and either answer is kept. -/
def execRemoteRequest (id : Nat × Nat) (key : BitVec 16) (op : BitVec 5) (loc size : Nat) (val : BitVec 1024) (s : State) : Out :=
  let n := remoteSize op size
  if (s.port id.1).waiting.get 0 0 = 0 then .next s else
  let s := drainRequest s id.1 id.2
  if (s.fabric.kept.find? id.2).isSome || isRemote loc || decide (128 < n) || decide (18 < op.toNat) then .next s
  else
    let r := if !(admits s key (op != 0) loc n) || remoteBad s op loc n then (s, none)
      else let q := performRemote s (originOf id.2) op loc n val; (q.1, some q.2)
    .next { r.1 with fabric := { r.1.fabric with kept := r.1.fabric.kept.set id.2 (r.2, s.etime) } }

/-- Whether a response was kept for 1 ms (R393). -/
def keptLong (s : State) (r : Option (List Byte) × Dword) : Bool := decide (r.2.toNat + 1000000 ≤ s.etime.toNat)

/-- RESPONSE_RETENTION_EXPIRY (R393). -/
def execResponseRetentionExpiry (id : Nat) (s : State) : Out :=
  if (s.fabric.kept.find? id).any (keptLong s) then .next { s with fabric := { s.fabric with kept := s.fabric.kept.del id } } else .next s

/-- Whether 10 ms have passed since a time (R393). -/
def overdue (s : State) (since : Dword) : Bool := decide (since.toNat + 10000000 ≤ s.etime.toNat)
/-- The threads of a subgroup whose load or `poll` read a package has not answered within 10 ms, with that package (R393). -/
def lateReads (s : State) (g : Nat) : List (Nat × Nat) :=
  (s.sub g).threads.filterMap fun (p : Nat × Thread) => match p.2.wait with
    | .answer false pkg _ since => if overdue s since then some (p.1, pkg) else none
    | _ => none
/-- The thread of a subgroup whose atomic or release a package has not acknowledged within 10 ms (R393). -/
def lateStore (s : State) (g : Nat) : Option Nat :=
  (List.find? (fun (p : Nat × Thread) => match p.2.wait with
    | .answer true _ _ since => overdue s since
    | .release S => unacknowledged s (s.sub g).core S && (s.fabric.owed.find? g).any (overdue s)
    | _ => false) (s.sub g).threads).map Prod.fst

/-- REMOTE_TIMEOUT (R393): a load or a `poll` read without an answer raises LINKDOWN at its word; for a store, an atomic or a release the fault domain ends. -/
def execRemoteTimeout (sg : Nat) (store : Bool) (s : State) : Out :=
  if store then match lateStore s sg with
    | none => .next s
    | some l => .next (endDomainOf s sg 0x0c ((s.sub sg).thread l).pc)
  else if lateReads s sg = [] then .next s
  else .next (s.modSub sg fun u => (lateReads s sg).foldl (fun u p => u.modThread p.1 fun t => { t with wait := .late p.2 }) u)

/-- The releases that wait for another package, each with the time since which it has (R393). -/
def settleOwed (s : State) : State :=
  let waits (u : Sub) : Bool := u.threads.any fun (p : Nat × Thread) => match p.2.wait with
    | .release S => u.live.getLsbD p.1 && unacknowledged s u.core S
    | _ => false
  let owed := s.subs.filterMap fun (p : Nat × Sub) => if waits p.2 then some (p.1, s.fabric.owed.get p.1 s.etime) else none
  if owed = [] && s.fabric.owed = [] then s else { s with fabric := { s.fabric with owed := owed } }
/-- The accesses that no package has answered within 10 ms, by subgroup (R393). -/
def remoteDue (s : State) : List Event :=
  s.subs.keys.flatMap fun g => (if lateReads s g = [] then [] else [.remoteTimeout g false]) ++ (if (lateStore s g).isNone then [] else [.remoteTimeout g true])

/-- ETIME set back by `offset` ns, with the clock edges to come (R319) and the times from which a port and a kept response count (R388, R393). -/
def setTime (s : State) (offset : Int) : State :=
  let d := BitVec.ofInt 64 offset
  let ticks := (s.etime - d).toNat * tickNs + s.ticks % tickNs
  let move (t : Nat) : Nat := t + ticks - s.ticks
  { s with
    ticks := ticks
    fabric := { s.fabric with
      skew := 0
      slew := 0
      ports := s.fabric.ports.map fun (p : Nat × Port) => (p.1, { p.2 with ackAt := p.2.ackAt - d })
      kept := s.fabric.kept.map fun (p : Nat × (Option (List Byte) × Dword)) => (p.1, (p.2.1, p.2.2 - d)) }
    dies := s.dies.map fun (p : Nat × Die) => (p.1, { p.2 with
      edgeD := move p.2.edgeD, edgeL := move p.2.edgeL, freeD := p.2.freeD.map (· - d), freeL := p.2.freeL.map (· - d)
      relockD := p.2.relockD.map fun (r : Relock) => { r with until_ := r.until_ - d }
      relockL := p.2.relockL.map fun (r : Relock) => { r with until_ := r.until_ - d } }) }

/-- The time messages of a boundary clock, one by each port that is up (R387, R394). -/
def sendTime (s : State) : State := (s.fabric.ports.keys.filter s.portUp).foldl (fun s p => s.sendFlit p { vc := 2, kind := 2, payload := Config.flitPayload p s.ticks }) s

/-- PTP_MESSAGE (R319, R376, R394): the measured offset, and whether the grandmaster is reached. Bring-up sets ETIME once, to a grandmaster's time that is reached before
READY; from then on ETIME is corrected by its rate alone, which makes up for the offset measured last, and no more once there is no path to the grandmaster. -/
def execPtpMessage (offset : Int) (gmReached : Bool) (s : State) : Out :=
  let first := gmReached && !s.fabric.timed && s.link.bringUp != .ready && s.link.bringUp != .off
  let s := sendTime (if first then setTime s offset else s)
  .next { s with fabric := { s.fabric with
    timed := s.fabric.timed || first, toff := BitVec.ofInt 64 offset, free := !gmReached
    slew := if gmReached && !first then -(offset * tickNs) else 0
    lock := gmReached && (first || decide (offset.natAbs ≤ 100)) } }

/-- Firmware configures the grandmaster, or the protocol chooses another package when it fails (R389, R394). -/
def setGrandmaster (s : State) (pkg : Nat) : State := if pkg < 4096 then { s with fabric := { s.fabric with gm := some pkg } } else s

end Sys2Proof.Machine
end

