-- ==== Sys2Proof/Machine/Link.lean ====
section
/-!
DEFINITION. The host link and management: the control window (R5, R368, R369), BAR 2 and CXL.mem (R186, R334, R343, R367, R368), the sideband (R374), power, cooling and
bring-up (R375, R376), function-level reset (R371, R372) and surprise link loss (R373).
-/

namespace Sys2Proof.Machine

/-! ### Registers (R369) -/

/-- DEV_STAT (R370). -/
def devStat (s : State) : Word :=
  BitVec.ofNat 32 ((if s.link.bringUp = .ready then 1 else 0) + (if s.link.qfail then 2 ^ 4 else 0) + (if s.link.flr then 2 ^ 5 else 0)
    + s.link.linkState.toNat * 2 ^ 6 + s.link.therm.toNat * 2 ^ 8)
/-- XINV_CTL, DBG_CTL, QCTL, FAB_TIME, PSTAT and EXP_CTL as they read (R341, R348, R378, R389, R391). -/
def xinvCtl (s : State) : Word := setBit (setBit 0 2 s.xinv.err) 1 s.xinv.busy
def dbgCtl (s : State) : Word := setBit (setBit (setBit 0 3 s.dbgr.done) 2 s.dbgr.err) 1 s.dbgr.busy
def qctl (s : State) (x : Queue) : Word := setBit (setBit (setBit 0 2 (stalled s x)) 1 x.drain) 0 x.enable
def fabTime (s : State) : Word := setBit (setBit (setBit 0 2 (s.fabric.gm == some s.fabric.id)) 1 s.fabric.free) 0 s.fabric.lock
def pstat (x : Port) : Word := BitVec.ofNat 32 (x.peer * 2 ^ 20 + x.pport * 2 ^ 13 + x.state.toNat)
def expCtl (x : Export) : Word := setBit (setBit (setBit (setBit 0 3 x.err) 2 x.busy) 1 x.wprot) 0 x.opened

/-- The core and lane row of counter block `x` (R383). -/
def counterRow (s : State) (x : Nat) : Nat × Nat :=
  let n := 12 * s.nClusters
  if x < n then (2 * (x / 2), x % 2) else (2 * (x - n) + 1, 0)
def counterBlocks (s : State) : Nat := 14 * s.nClusters

/-- The half of an 8-byte register at offset `o` in it. -/
def half32 (x : Dword) (o : Nat) : Word := if o % 8 = 0 then loOf x else hiOf x

/-- Counter `i` of a lane row: SLOTS at 10, the same for every row of a domain; the ten leaves add up to it, so NOSG is what the other nine leave (R382, R383). -/
def slotCounter (s : State) (c r i : Nat) : Dword :=
  let x := s.row c r
  let slots := if isL c then (s.die (s.dieOfCore c)).slotsL else (s.die (s.dieOfCore c)).slotsD
  if i = 10 then slots else if i = 0 then slots - ((List.range 9).map fun k => x.counts.get (k + 1) 0).foldl (· + ·) 0 else x.counts.get i 0

/-- A queue block's word at offset `o` in it (R348); QRSV has a row of its own. -/
def queueWord (s : State) (x : Queue) (o : Nat) : Word :=
  if o < 8 then half32 x.base o else if o = 0x08 then x.log else if o = 0x0c then qctl s x else if o < 0x18 then half32 x.rcb o
  else if o < 0x20 then half32 x.map o else if o < 0x28 then half32 x.widx o else if o = 0x2c then x.cons else if o = 0x30 then x.stat else 0

/-- The debug, counter and trace words (R378, R383, R384). -/
def debugWord (s : State) (off : Nat) : Word :=
  let d := s.dbgr
  if off = 0x6000 then d.ctx else if off = 0x6004 then d.wg else if off < 0x6010 then half32 d.seq off else if off = 0x6010 then dbgCtl s
  else if off < 0x6100 then 0
  else if off < 0x6108 then half32 d.estInPlace off else if off < 0x6110 then half32 d.estCore off else if off < 0x6118 then half32 d.estHolder off
  else if off < 0x6120 then half32 d.estStore off
  else if off = 0x6200 then setBit 0 0 d.freeze
  else if off < 0x6300 then 0
  else if off < 0x6308 then half32 d.trcBase off else if off = 0x6308 then d.trcLog else if off = 0x630c then d.trcCtl
  else if off < 0x6318 then half32 d.trcWr off else if off < 0x6320 then half32 d.trcRd off else if off = 0x6320 then d.trcLost else 0

/-- The words of the fabric registers (R389, R391). -/
def fabricWord (s : State) (o : Nat) : Word :=
  let f := s.fabric
  if o = 0 then BitVec.ofNat 32 f.id else if o = 0x10 then fabTime s else if o = 0x18 || o = 0x1c then half32 f.toff o
  else if 0x100 ≤ o && o < 0x900 then
    let p := s.port ((o - 0x100) / 16)
    if o % 16 = 0 then pstat p else if o % 16 = 8 || o % 16 = 12 then half32 p.crc o else 0
  else if 0x1000 ≤ o && o < 0x1200 then
    let x := s.window ((o - 0x1000) / 32)
    if o % 32 < 8 then half32 x.base o else if o % 32 < 16 then half32 x.size o else if o % 32 = 16 then x.key else if o % 32 = 20 then expCtl x else 0
  else 0

/-- The journal's bytes through a read port (R362). -/
def journalRead (s : State) (seq o : Nat) : Word := if s.fe.jset then loOf (s.homeRead (journalLoc s seq + o) 4) else 0

/-- The control-window word at an offset that is a multiple of 4; offsets not listed read as zero (R369). -/
def windowWord (s : State) (off : Nat) : Word :=
  let l := s.link
  if off = 0x10 then BitVec.ofNat 32 (idGrade s) else if off = 0x100 then devStat s
  else if off = 0x108 || off = 0x10c then half32 l.llArea off else if off = 0x110 || off = 0x114 then half32 l.llSize off
  else if off = 0x200 || off = 0x204 then half32 l.bar2Base off
  else if off = 0x2000 then s.xinv.ctx else if off = 0x2008 || off = 0x200c then half32 s.xinv.va off else if off = 0x2010 then s.xinv.pages
  else if off = 0x2018 then xinvCtl s
  else if off = 0x3000 || off = 0x3004 then half32 s.fe.jbase off else if off = 0x3008 then s.fe.jlog
  else if off = 0x3010 || off = 0x3014 then half32 s.fe.jseq off else if off = 0x3020 || off = 0x3024 then half32 s.fe.jridx off
  else if 0x3040 ≤ off && off < 0x3080 then journalRead s s.fe.jridx.toNat (off - 0x3040)
  else if 0x4000 ≤ off && off < 0x4400 then
    stepWord ((s.die ((off - 0x4000) / 256)).log.get (off / 32 % 8) {}) (off / 4 % 8)
  else if 0x6000 ≤ off && off < 0x6324 then debugWord s off
  else if 0x8000 ≤ off && off < 0xa000 then wordAt (s.errLog.get ((off - 0x8000) / 32) (List.replicate 32 0)) (off % 32)
  else if off = 0xa000 || off = 0xa004 then half32 s.errSeq off else if off = 0xa008 then s.errLost
  else if 0x10000 ≤ off && off < 0x14000 then queueWord s (s.queue ((off - 0x10000) / 64)) (off % 64)
  else if 0x800000 ≤ off && off < 0x800000 + 128 * counterBlocks s then
    let q := counterRow s ((off - 0x800000) / 128)
    if off % 128 < 88 then half32 (slotCounter s q.1 q.2 (off % 128 / 8)) off else 0
  else if 0x900000 ≤ off && off < 0x901200 then fabricWord s (off - 0x900000)
  else 0

/-- A register replaced by a host write, under its access code (R5): the whole register is written at once (log 19). -/
def setLink (s : State) (f : Link → Link) : State := { s with link := f s.link }
def setDebug (s : State) (f : Debug → Debug) : State := { s with dbgr := f s.dbgr }
def setFe (s : State) (f : FrontEnd → FrontEnd) : State := { s with fe := f s.fe }

/-- A write of a queue register; ignored while the queue is enabled (R348). -/
def writeQueue (s : State) (q o size : Nat) (val : Dword) : State :=
  if (s.queue q).enable then s
  else if o = 0 && size = 8 then s.modQueue q fun x => { x with base := val }
  else if o = 8 && size = 4 then s.modQueue q fun x => { x with log := loOf val }
  else if o = 0x10 && size = 8 then s.modQueue q fun x => { x with rcb := val }
  else if o = 0x18 && size = 8 then s.modQueue q fun x => { x with map := val }
  else if o = 0x20 && size = 8 then s.modQueue q fun x => { x with widx := val }
  else s

/-- JBASE and JLOG take writes only while every queue is disabled, and only legal values (R362). -/
def writeJournalReg (s : State) (off : Nat) (val : Dword) : State :=
  if s.fe.queues.any fun (p : Nat × Queue) => p.2.enable then s
  else if off = 0x3000 then
    if (val >>> 62).toNat ≤ 1 && (val.setWidth 52).toNat % (64 * 2 ^ s.fe.jlog.toNat) = 0 then setFe s fun f => { f with jbase := val, jset := true } else s
  else if 8 ≤ val.toNat && val.toNat ≤ 20 then setFe s fun f => { f with jlog := loOf val } else s

/-- A write to an export window's registers but EXP_CTL (R391). -/
def writeExport (s : State) (w o size : Nat) (val : Dword) : State :=
  let x := s.window w
  if x.opened || x.busy then s
  else if o = 0 && size = 8 then s.setWindow w { x with base := val }
  else if o = 8 && size = 8 then s.setWindow w { x with size := val }
  else if o = 16 && size = 4 then s.setWindow w { x with key := loOf val }
  else s

/-- A write to a debug, trace or counter register (R378, R384). -/
def writeDebug (s : State) (off size : Nat) (val : Dword) : State :=
  let d := s.dbgr
  if off = 0x6010 && size = 4 then setDebug s fun d => { d with done := d.done && !(val.getLsbD 3), err := d.err && !(val.getLsbD 2) }
  else if off < 0x6010 then
    if d.busy then s
    else if off = 0x6000 && size = 4 then setDebug s fun d => { d with ctx := (loOf val) &&& 0xffff }
    else if off = 0x6004 && size = 4 then setDebug s fun d => { d with wg := loOf val }
    else if off = 0x6008 && size = 8 then setDebug s fun d => { d with seq := val } else s
  else if off = 0x6300 && size = 8 then setDebug s fun d => { d with trcBase := val }
  else if off = 0x6308 && size = 4 then (if 8 ≤ val.toNat && val.toNat ≤ 24 then setDebug s fun d => { d with trcLog := loOf val } else s)
  else if off = 0x630c && size = 4 then setDebug s fun d => { d with trcCtl := (loOf val) &&& 0xffff }
  else if off = 0x6318 && size = 8 then setDebug s fun d => { d with trcRd := val }
  else s

/-- A write to an invalidation register: ignored while a request runs; ERR is cleared by a 1 (R341). -/
def writeXinv (s : State) (off size : Nat) (val : Dword) : State :=
  let x := s.xinv
  if x.busy then s
  else if off = 0x2000 && size = 4 then { s with xinv := { x with ctx := loOf val } }
  else if off = 0x2008 && size = 8 then { s with xinv := { x with va := val } }
  else if off = 0x2010 && size = 4 then { s with xinv := { x with pages := loOf val } }
  else if off = 0x2018 && size = 4 then { s with xinv := { x with err := x.err && !(val.getLsbD 2) } }
  else s

/-- A write to EXP_CTL (R391): a 1 clears ERR, WPROT is written, and OPEN as the rows EXP_CTL_OPEN, which checks the window before it writes either, and EXP_CTL_CLOSE
say. -/
def writeExpCtl (s : State) (w : Nat) (val : Dword) : Out :=
  let x := s.window w
  let s := s.setWindow w { x with err := x.err && !(val.getLsbD 3), wprot := if val.getLsbD 0 then x.wprot else val.getLsbD 1 }
  if val.getLsbD 0 then execExpCtlOpen w (val.getLsbD 1) s else execExpCtlClose w s

/-- REGISTER_WRITE (R5, R369): a host write to a register of the control window that has no row of its own; read-only registers and offsets not listed ignore it. -/
def execRegisterWrite (off size : Nat) (val : BitVec 64) (s : State) : Out :=
  if !(hostUp s) then .next s
  else if off = 0x108 && size = 8 then .next (setLink s fun l => { l with llArea := val })
  else if off = 0x110 && size = 8 then .next (setLink s fun l => { l with llSize := val })
  else if off = 0x200 && size = 8 then .next (setLink s fun l => { l with bar2Base := (val.setWidth 52).setWidth 64 })
  else if 0x2000 ≤ off && off < 0x201c then .next (writeXinv s off size val)
  else if (off = 0x3000 && size = 8) || (off = 0x3008 && size = 4) then .next (writeJournalReg s off val)
  else if 0x6000 ≤ off && off < 0x6324 then .next (writeDebug s off size val)
  else if 0x10000 ≤ off && off < 0x14000 then .next (writeQueue s ((off - 0x10000) / 64) (off % 64) size val)
  else if 0x901000 ≤ off && off < 0x901200 && off % 32 = 20 && size = 4 then writeExpCtl s ((off - 0x901000) / 32) val
  else if 0x901000 ≤ off && off < 0x901200 then .next (writeExport s ((off - 0x901000) / 32) (off % 32) size val)
  else .next s

/-- DEV_CTL_RESUME (R370, R373). -/
def execDevCtlResume (s : State) : Out :=
  if hostUp s && s.link.linkState == 3 then .next (setLink s fun l => { l with linkState := 0 }) else .next s

/-! ### Host accesses to memory -/

/-- Bytes that answer a read, eight to an entry, the lowest first (R186, R374). -/
def answerBytes (s : State) (bs : List Byte) : State :=
  (List.range ((bs.length + 7) / 8)).foldl (fun s i => answer s (.data (ofBytes ((bs.drop (8 * i)).take 8)))) s

/-- The enabled queues whose write-index line holds a place (R351): their wake cores are told. -/
def wokenBy (s : State) (p : Loc) : List Nat :=
  (s.fe.queues.filter fun (q : Nat × Queue) => q.2.enable &&
    if q.2.host then hostPlace q.2.widx / 64 == p / 64
    else match queueCtx s q.2 with
      | none => false
      | some c => match translateHome s c q.2.widx.toNat .load with
        | .error _ => false
        | .ok x => x.loc / 64 == p / 64).map Prod.fst

/-- A host store: it stands at the home of its line, published at sy, when its transaction completes; units it rewrites in full stop faulting (R186, R343, R368). -/
def hostStore (s : State) (p : Loc) (bs : List Byte) : State :=
  let s := s.homeWrite p bs
  s.post ((wokenBy s p).map .queueWake)

/-- Bytes as the host reads them: at the home of the line, and in its own memory what releases at sy have published (R186, R346). -/
def hostBytes (s : State) (p : Loc) (n : Nat) : List Byte :=
  if tierOf p = 2 then (List.range n).map fun i => s.imageByte s.sy (p + i) else s.homeBytes p n

/-- A host read: data with an uncorrectable error is not delivered but answered with Completer Abort, and the error is logged (R186, R368). A line of host memory is no
longer held modified once the host has read it (R367). -/
def hostLoad (s : State) (p : Loc) (n : Nat) : State :=
  if s.badAt p n then answer (logError s (tierWord p) (memUnit s p) 1 0) .abort
  else answerBytes (if tierOf p = 2 then s.cleanLines ((List.range n).map fun i => p + i) else s) (hostBytes s p n)

/-- The place of a BAR 2 access, if it lies in the BAR and in the tier (R368). -/
def bar2Place (s : State) (off n : Nat) : Option Loc :=
  let a := s.link.bar2Base.toNat + off
  if decide (off + n ≤ 2 ^ s.link.bar2Log) && decide (a + n ≤ s.tierSize 0) then some (locOf 0 a) else none

/-- BAR2_READ (R186, R368): at or beyond the tier's size it completes with Unsupported Request, which carries no data. -/
def execBar2Read (off size : Nat) (s : State) : Out :=
  if !(hostUp s) then .next s else match bar2Place s off size with
  | none => .next (answer s .unsupported)
  | some p => .next (hostLoad s p size)

/-- The bytes of a host write, of one line or less. -/
def lineBytes (n : Nat) (v : BitVec 512) : List Byte := (List.range n).map fun i => (v >>> (8 * i)).setWidth 8

/-- BAR2_WRITE (R368). -/
def execBar2Write (off size : Nat) (val : BitVec 512) (s : State) : Out :=
  if !(hostUp s) then .next s else match bar2Place s off size with
  | none => .next s
  | some p => .next (hostStore s p (lineBytes size val))

/-- What an AtomicOp of the host stores: FetchAdd, Swap, or CAS of `x` for `y` (R334). -/
def atomicValue (op : BitVec 2) (old x y : Dword) : Dword := if op = 0 then old + x else if op = 1 then x else if old = x then y else old

/-- HOST_ATOMICOP (R149, R334, R368): the old value answers it. At or beyond the tier's size it completes with Unsupported Request; on a
line with an uncorrectable error it completes with Completer Abort and performs nothing. -/
def execHostAtomicop (off : Nat) (wide : Bool) (op : BitVec 2) (x y : BitVec 64) (s : State) : Out :=
  let n := if wide then 8 else 4
  if !(hostUp s) || op == 3 || off % n != 0 then .next s else match bar2Place s off n with
  | none => .next (answer s .unsupported)
  | some p =>
    if s.badAt (p / 128 * 128) 128 then .next (answer (logError s (tierWord p) (memUnit s p) 1 0) .abort) else
    let cut (v : Dword) : Dword := if wide then v else (loOf v).setWidth 64
    let old := s.homeRead p n
    let s := homeAtomic s p (bytesOf n (atomicValue op old (cut x) (cut y)))
    .next ((answer s (.data old)).post ((wokenBy s p).map .queueWake))

/-- CXL_MEM_REQUEST (R351, R367): the host reads or writes HBM4E, where a read beyond the tier is answered as on BAR 2; a place of tier 2 is the host's own memory, which
it shares with the device through CXL.cache. -/
def execCxlMemRequest (write : Bool) (loc size : Nat) (val : BitVec 512) (s : State) : Out :=
  let p := loc
  if !(hostUp s) || isRemote p || (tierOf p != 0 && tierOf p != 2) then .next s
  else if s.tierSize (tierOf p) < tierAddr p + size then .next (if write then s else answer s .unsupported)
  else if write then .next (hostStore s p (lineBytes size val)) else .next (hostLoad s p size)

/-- RESIZABLE_BAR_RESIZE (R368): from 1 GiB to 1 TiB. -/
def execResizableBarResize (log2 : Nat) (s : State) : Out :=
  if hostUp s && decide (30 ≤ log2) && decide (log2 ≤ 40) then .next (setLink s fun l => { l with bar2Log := log2 }) else .next s

/-! ### The sideband (R374) -/

/-- Whether an offset lies in a range marked "read" in R369. -/
def sideReadable (s : State) (off : Nat) : Bool :=
  let within (a n : Nat) : Bool := decide (a ≤ off) && decide (off < a + n)
  within 0x10 4 || within 0x100 4 || within 0x108 16 || within 0x3000 24 || within 0x4000 1024 || within 0x6100 32 || within 0x8000 0x2000 || within 0xa000 12
  || (within 0x800000 (128 * counterBlocks s) && decide (off % 128 < 88)) || within 0x900000 32 || within 0x900100 2048 || within 0x901000 512

/-- A byte of the control window; from 2^24 on, of the journal ring, which the sideband reads through a port of its own (R362). -/
def sideByte (s : State) (off : Nat) : Byte :=
  if off < 2 ^ 24 then (windowWord s (off / 4 * 4) >>> (8 * (off % 4))).setWidth 8
  else if s.fe.jset then s.homeByte (journalLoc s ((off - 2 ^ 24) / 64) + (off - 2 ^ 24) % 64) else 0

/-- The place of the journal's memory that a byte of the window shows, if it shows one (R362). -/
def journalPlace (s : State) (off : Nat) : Option Loc :=
  if !s.fe.jset then none
  else if 2 ^ 24 ≤ off then some (journalLoc s ((off - 2 ^ 24) / 64) + (off - 2 ^ 24) % 64)
  else if 0x3040 ≤ off && off < 0x3080 then some (journalLoc s s.fe.jridx.toNat + (off - 0x3040)) else none
/-- The first place of the journal among some bytes of the window that has an uncorrectable error: such data is not delivered (R8, R186). -/
def journalBad (s : State) (offs : List Nat) : Option Loc := if s.bad = [] then none else (offs.filterMap (journalPlace s)).find? fun p => s.badAt p 1

/-- Records of the error log that a read of the control window touches count as read (R345, R369). -/
def markSeen (s : State) (offs : List Nat) : State :=
  let seen := (offs.filter fun o => decide (0x8000 ≤ o) && decide (o < 0xa000)).map fun o => (o - 0x8000) / 32
  { s with errSeen := s.errSeen ++ seen.eraseDups.filter fun i => !(s.errSeen.contains i) }

/-- SIDEBAND_READ (R374): a message that names a byte outside the readable ranges is answered with an error completion and no data. -/
def execSidebandRead (off size : Nat) (s : State) : Out :=
  let offs := (List.range size).map fun i => off + i
  if !(offs.all fun o => sideReadable s o || decide (2 ^ 24 ≤ o)) then .next (answer s .error)
  else match journalBad s offs with
  | some p => .next (answer (logError s (tierWord p) (memUnit s p) 1 0) .error)
  | none => .next (markSeen (answerBytes s (offs.map (sideByte s))) offs)

/-- A host read of the control window through BAR 0 (R369). QRSV has a row of its own. -/
def windowRead (s : State) (off size : Nat) : State :=
  let offs := (List.range size).map fun i => off + i
  if !(hostUp s && decide (off + size ≤ 2 ^ 24)) then s else match journalBad s offs with
  | some p => answer (logError s (tierWord p) (memUnit s p) 1 0) .abort
  | none => markSeen (answerBytes s (offs.map (sideByte s))) offs

/-- PLDM_SENSOR_READ (R374): 0 module power, 1 coolant inlet, 2 hottest die, 3 hottest stack, whose readings spec/ gives no value; 4 THERM, 5 LINK. -/
def execPldmSensorRead (sensor : BitVec 3) (s : State) : Out :=
  if sensor = 4 then .next (answer s (.data (s.link.therm.setWidth 64)))
  else if sensor = 5 then .next (answer s (.data (s.link.linkState.setWidth 64)))
  else if 6 ≤ sensor.toNat then .next s
  else let r := s.takeFree; .next (answer r.1 (.data r.2))

/-- The greatest power of a module, in watts (R375). -/
def powerLimit (s : State) : Nat := if s.g9140 then 3200 else 3600
/-- POWER_CAP_EFFECTER (R374, R375): THERM shows power-capped below the module's limit. -/
def execPowerCapEffecter (watts : Nat) (s : State) : Out :=
  if decide (1200 ≤ watts) && decide (watts ≤ powerLimit s) then
    .next (setLink s fun l => { l with cap := watts, therm := if 2 ≤ l.therm.toNat then l.therm else if watts < powerLimit s then 1 else 0 })
  else .next s

/-- A die whose reset has begun: a relock in course is abandoned, and one of the reset's own brings both domains to their reset points (R325, R371). It is no step of
R322 and enters no step log (DEDUCED, log 35). -/
def resetDie (s : State) (d : Die) : Die :=
  let t := s.ticks + 2000 * tickNs
  { d with relockD := some { until_ := s.etime + 2000, code := 6 }, relockL := some { until_ := s.etime + 2000, code := 9 }, edgeD := t, edgeL := t, wantD := none, wantL := none }

/-- A request for a function-level reset is taken: FLR reads 1 until the reset completes, which it does when the relocks end (R325, R371). -/
def takeReset (s : State) : State :=
  if s.link.bringUp == .off || s.link.flr then s
  else { setLink s fun l => { l with flr := true } with dies := (List.range 4).map fun d => (d, resetDie s (s.die d)) }

/-- FUNCTION_LEVEL_RESET (R371). -/
def execFunctionLevelReset (s : State) : Out := .next (takeReset s)
/-- RESET_EFFECTER (R374). -/
def execResetEffecter (s : State) : Out := .next (takeReset s)

/-- FIRMWARE_UPDATE (R374): the bytes of a PLDM type 5 message are taken; what runs changes at no moment that spec/ names. -/
def execFirmwareUpdate (len : Nat) (s : State) : Out := .next (setLink s fun l => { l with firmware := l.firmware + len })

/-! ### Reset, power and bring-up (R371, R372, R375, R376) -/

/-- A die after a reset of its clocks: CYC and SCYC are zero, and the domains run at codes 6 and 9 (R319, R371). -/
def freshDie (now : Nat) : Die := { edgeD := now + period false 6, edgeL := now + period true 9 }
def freshDies (now : Nat) (old : State) (keep : Bool) : Tbl Die :=
  (List.range 4).map fun d =>
    let x := old.die d
    (d, if keep then { freshDie now with log := x.log, dsteps := x.dsteps, freeD := x.freeD, freeL := x.freeL } else freshDie now)

/-- Lines of host memory that were held modified are lost: host memory has what it had (R371, R373). -/
def revertLines (s : State) : State := s.link.lines.foldl (fun s q => s.homeWrite (64 * q.1) q.2.was) s

/-- The registers of the host link after a reset of the main domains (R368, R371). -/
def freshLink (l : Link) (state : BitVec 2) : Link :=
  { l with bar2Base := 0, bar2Log := 30, llArea := 0, llSize := 0, flr := false, qfail := false, lines := [], linkState := state }

/-- The fabric registers after a reset of the main domains: no window, no request that waits or was answered. -/
def freshFabric (f : Fabric) (ports : Tbl Port) : Fabric := { f with exports := [], kept := [], carried := [], names := [], owed := [], ports := ports }

/-- The main domains after power returns or a reset: nothing runs and HBM4E and the LPDDR 6 tier hold nothing; the AON domain keeps ETIME and the error log, and the
host's memory is the host's, SAVED images in it among the rest: what their numbers stand for is kept (log 13). LINK stays as it is while the link is down (R373). -/
def mainReset (s : State) (steps : Bool) : State :=
  let s := revertLines s
  let host (m : VMem) : VMem :=
    { bytes := m.bytes.filter fun (p : Nat × Byte) => !(isRemote p.1) && tierOf p.1 == 2
      stamps := m.stamps.filter fun (p : Nat × Nat) => !(isRemote p.1) && tierOf p.1 == 2 }
  { g9140 := s.g9140, stepping := s.stepping, ticks := s.ticks, dies := freshDies s.ticks s steps
    pk := host s.sy, sy := host s.sy, bad := s.bad.filter fun u => tierOf (32 * u) == 2, errLog := s.errLog, errSeq := s.errSeq, errLost := s.errLost, errSeen := s.errSeen
    link := freshLink s.link (if s.link.linkState = 3 then 0 else s.link.linkState)
    fabric := freshFabric s.fabric (s.fabric.ports.map fun (p : Nat × Port) => (p.1, { p.2 with crc := 0 }))
    fe := { saved := s.fe.saved.map fun (p : Nat × Saved) => (p.1, { p.2 with
      was := p.2.was + 2 ^ 64, estates := p.2.estates.map fun (e : Dword × Bool × Dword × Nat) => (e.1, e.2.1, e.2.2.1, e.2.2.2 + 2 ^ 64) }) }
    fresh := s.fresh, stamp := s.stamp, draw := s.draw, agenda := s.agenda }

/-- FLR_COMPLETE (R371, R372). -/
def execFlrComplete (s : State) : Out := if s.link.flr then .next (mainReset s true) else .next s

/-- POWER_ON (R319, R376): the AON domain starts with ETIME 0, set once more to a grandmaster's time that is reached before READY; rails come up and memory is trained. -/
def execPowerOn (gmTime : Option (BitVec 64)) (s : State) : Out :=
  if s.link.bringUp != .off then .next s else
  let now := (gmTime.getD 0).toNat * tickNs
  .next { mainReset { s with ticks := now } false with
    errLog := [], errSeq := 0, errLost := 0, errSeen := []
    link := { bringUp := .training, cap := powerLimit s, reads := s.link.reads }
    fabric := { id := s.fabric.id, timed := gmTime.isSome, free := gmTime.isNone, lock := gmTime.isSome } }

/-- PERST_DEASSERT (R376): configuration space answers. -/
def execPerstDeassert (s : State) : Out :=
  if s.link.bringUp == .off then .next s else .next ((setLink s fun l => { l with config := true }).post [.bringupReady])

/-- BRINGUP_READY (R376): READY is set once memory is trained and configuration space answers. The grandmaster is package 0 unless firmware has configured another, and
ETIME is set no more (R319, R394). -/
def execBringupReady (s : State) : Out :=
  if s.link.bringUp == .training && s.link.config then
    .next { setLink s fun l => { l with bringUp := .ready } with fabric := { s.fabric with gm := some (s.fabric.gm.getD 0), timed := true } }
  else .next s

/-- COLD_RESET_EFFECTER (R374): main power is removed and restored, and bring-up runs again; the AON domain goes on. -/
def execColdResetEffecter (s : State) : Out :=
  .next { mainReset s false with
    link := { freshLink s.link 0 with bringUp := .training, config := false, therm := if s.link.cap < powerLimit s then 1 else 0 }
    fabric := { id := s.fabric.id, timed := s.fabric.timed, skew := s.fabric.skew } }

/-- One code lower, in either domain. -/
def lower (c : BitVec 4) : BitVec 4 := if c = 0 then 0 else c - 1
/-- THERMAL_THROTTLE (R375): firmware steps the D and L domains of the die down. -/
def execThermalThrottle (die : Nat) (s : State) : Out :=
  if !(decide (die < 4)) || s.link.bringUp == .off then .next s else
  let d := s.die die
  let s := setLink s fun l => { l with therm := 2 }
  .next (s.post ((if d.dcode = 0 then [] else [.dvfsStep die false (lower d.dcode)]) ++ (if d.lcode = 0 then [] else [.dvfsStep die true (lower d.lcode)])))

/-- THERMAL_TRIP (R375): main power is removed, THERM is 3, and an error-log record is written. -/
def execThermalTrip (s : State) : Out :=
  let s := logError s 0 0 2 0
  .next { mainReset s false with
    link := { freshLink s.link 0 with bringUp := .off, config := false, therm := 3 }
    fabric := { id := s.fabric.id, timed := s.fabric.timed, skew := s.fabric.skew } }

/-! ### Link loss (R373) -/

/-- SURPRISE_LINK_LOSS (R344, R373): LINK is 1, host memory cannot be reached, and the queues take no entries. Lines of host memory that were held modified are lost, and
their owners end, with the cause of a lost dirty line (log 34). -/
def execSurpriseLinkLoss (s : State) : Out :=
  if s.link.bringUp == .off || s.link.linkState == 1 || s.link.linkState == 2 then .next s else
  let owners := (s.link.lines.flatMap fun q => q.2.owners).eraseDups
  let s := setLink (revertLines s) fun l => { l with linkState := 1, lines := [] }
  .next ((owners.foldl (fun s c => endContext s c 5) s).post [.quiesceComplete])

/-- A launch that the link-loss area has no room for ends as faulted with LINKDOWN (R373). -/
def endLaunch (s : State) (seq : Nat) : State :=
  let l := s.launch seq
  let ws := wgsOf s seq
  let s := ws.foldl abortCommands s
  let s := ws.foldl dropWg s
  let s := removeEstates s fun e => e.launch == seq && !e.eligible && e.ctx == l.ctx
  let s := giveRoom s l.store l.reserved
  finishEntry { s with fe := { s.fe with launches := s.fe.launches.del seq } } seq 4 0 0x0c 0

/-- The regions of a context that have estates and no launch: the first image of the context carries these (R207). -/
def spareRegions (s : State) (ctx : Nat) : List Loc :=
  ((s.fe.estates.filter fun e => e.ctx == ctx).map (·.region)).eraseDups.filter fun r => !(s.fe.launches.any fun (p : Nat × Launch) => p.2.region == r)
/-- The launches saved back to back in the link-loss area, from byte `used` of it on; a stop or a write that faults ends the fault domain (R364). -/
def saveAll (s : State) (used : Nat) : List Nat → State
  | [] => s
  | q :: qs =>
    match s.fe.launches.find? q with
    | none => saveAll s used qs
    | some l =>
      let s := quietLaunch s q
      let r := readEstates s (carried s q l (spareRegions s l.ctx))
      if (s.fe.launches.find? q).isNone || (r.1.fe.launches.find? q).isNone then saveAll r.1 used qs else
      let x := saving r.1 q r.2
      if r.1.link.llSize.toNat < used + x.2.length then saveAll (setLink (endLaunch r.1 q) fun l => { l with qfail := true }) used qs
      else match writePlace r.1 (tierPlace r.1.link.llArea + used) x.2 with
        | .error f => saveAll (endDomain r.1 (r.1.launch q).ctx (r.1.launch q).fdom f.cause 0) used qs
        | .ok s => saveAll (stopLaunch s q x.1 r.2) (used + x.2.length) qs

/-- QUIESCE_COMPLETE (R373): every running launch is saved or faulted, and LINK is 2. QFAIL tells of this quiesce alone. -/
def execQuiesceComplete (s : State) : Out :=
  if s.link.linkState != 1 then .next s else
  let cs := (s.fe.launches.map fun (p : Nat × Launch) => p.2.ctx).eraseDups
  let s := cs.foldl spillContext s
  let s := cs.foldl settleEngines (saveAll (setLink s fun l => { l with qfail := false }) 0 s.fe.launches.keys)
  .next (setLink s fun l => { l with linkState := 2 })

/-- LINK_RETRAIN (R373). -/
def execLinkRetrain (s : State) : Out := if s.link.linkState == 2 then .next (setLink s fun l => { l with linkState := 3 }) else .next s

end Sys2Proof.Machine
end

