-- ==== Sys2Proof/Machine/Cycle.lean ====
section
/-!
DEFINITION. CLOCK_CYCLE (R319): one edge of a clock domain, and the events that have come due when it falls.
-/

namespace Sys2Proof.Machine

/-- Sleepers whose time has come, by subgroup (R274). -/
def sleepDue (s : State) : List Event :=
  (s.subs.filter fun (p : Nat × Sub) => canRun s p.1).flatMap fun p =>
    (if p.2.threads.any fun (q : Nat × Thread) => match q.2.wait with
        | .sleep t => decide (t ≤ s.etime)
        | _ => false then [Event.sleepExpiry p.1] else [])
    ++ (if p.2.threads.any fun (q : Nat × Thread) => q.2.wait == .sleepc && match q.2.slept with
        | some (_, n) => n == 0
        | none => true then [Event.sleepcExpiry p.1] else [])

/-- Promises that have passed (R250). -/
def promiseDue (s : State) : List Event :=
  s.wgs.flatMap fun (p : Nat × Wg) => (p.2.posted.filter fun (q : Nat × Posted) => q.2.watch && !q.2.missed && decide (q.2.promise ≤ s.etime)).map fun q => .promiseExpiry p.1 q.1

/-- Rows whose path has issued for the fairness interval (R161). -/
def fairDue (s : State) (die : Nat) (domL : Bool) : List Event :=
  (domainCores s die domL).flatMap fun c => ((List.range (rowsOf c)).filter fun r =>
    let w := s.row c r
    w.issuing.isSome && !w.fairOut && decide (fairness (s.core c) ≤ s.cycle c - w.runAt)).map fun r => .fairTExpiry c r

/-- Pre-emptions whose deadline has come, or whose notices are answered (R273). -/
def preemptDue (s : State) : List Event :=
  s.cores.flatMap fun (p : Nat × Core) => match p.2.preempt, p.2.shadow with
    | some d, some i => if d ≤ s.etime then [Event.preemptDeadline p.1] else if swapDue s p.1 then [.preemptionSwap p.1 i] else []
    | some d, none => if d ≤ s.etime && swapFree s p.1 then [.preemptDeadline p.1] else []
    | none, _ => []

/-- PC samples, once in 2^16 cycles of a core (R384). -/
def sampleDue (s : State) (die : Nat) (domL : Bool) : List Event :=
  (domainCores s die domL).filterMap fun c => if s.cycle c % 2 ^ 16 = 0 then some (.pcSample c) else none

/-- The front end takes up entries while no quiesce holds it, and rescans the queues once in 50 µs (R351, R373). -/
def queuesDue (old s : State) : List Event :=
  (if s.etime.toNat / 50000 = old.etime.toNat / 50000 then [] else [Event.queueRescan])
  ++ (if s.link.linkState == 0 && !s.link.flr then frontEndDue s ++ placeDue s else [])

/-- A step that waits for the end of the domain's cycle (R322). -/
def stepDue (s : State) (die : Nat) (domL : Bool) : List Event :=
  match (if domL then (s.die die).wantL else (s.die die).wantD) with
  | some code => [.dvfsStep die domL code]
  | none => []

/-- Ports whose flits were not acknowledged in time, and responses kept long enough (R388, R393). -/
def fabricDue (s : State) : List Event :=
  ((s.fabric.ports.keys.filter (ackDue s)).map .ackTimeout) ++ ((s.fabric.kept.filter fun (p : Nat × (Option (List Byte) × Dword)) => keptLong s p.2).map fun p => .responseRetentionExpiry p.1)
  ++ remoteDue s

/-- What has come due at an edge. -/
def dueAt (old s : State) (die : Nat) (domL : Bool) : List Event :=
  stepDue s die domL ++ sleepDue s ++ promiseDue s ++ fairDue s die domL ++ preemptDue s ++ sampleDue s die domL ++ fabricDue s ++ queuesDue old s

/-- The end of a relock comes: 2000 ns of ETIME have passed (R322). -/
def toRelockEnd (s : State) (d : Die) (domL : Bool) : State :=
  let r := passTime s (max s.ticks (if domL then d.edgeL else d.edgeD))
  match d.relock domL with
  | some x => if r.etime < x.until_ then { r with ticks := (x.until_.toNat * tickNs - r.fabric.skew).toNat } else r
  | none => r

/-- Superseded images are unmapped once no live thread holds them (R304). -/
def settleImages (s : State) : State := ((s.fe.images.map (·.ctx)).eraseDups).foldl dropImages s

/-- CLOCK_CYCLE (R319, R322, R382): the next edge of a domain of a die. An edge at which a relock ends is that relock's end. -/
def execClockCycle (die : Nat) (domL : Bool) (s : State) : Out :=
  if !(decide (die < 4)) || s.link.bringUp == .off then .next s else
  if ((s.die die).relock domL).isSome then
    .next ((toRelockEnd s (s.die die) domL).post [.relockEnd die domL])
  else
    let r := settleOwed (settleDebug (settleImages (clockEdge s die domL)))
    .next (r.post (dueAt s r die domL))

end Sys2Proof.Machine
end

