-- ==== Sys2Proof/Machine/IntAlu.lean ====
section
/-!
DEFINITION. The integer, logic, shift, bit-field, compare, select, dot-product, move and address words of the V class (R83 to R91), and the scalar ALU and
constant words of the S class (R92, R93, R97).
-/

namespace Sys2Proof.Machine

/-- A truth value as a compare writes it (R86). -/
def ofBool (b : Bool) : Word := if b then 1 else 0
/-- Shifts by the whole count (R86). -/
def shl (a b : Word) : Word := if 32 ≤ b.toNat then 0 else a <<< b.toNat
def shrN (a b : Word) : Word := if 32 ≤ b.toNat then 0 else a >>> b.toNat
def shrI (a b : Word) : Word := if 32 ≤ b.toNat then (if a.msb then 0xffffffff else 0) else a.sshiftRight b.toNat
def rot (a b : Word) : Word := a.rotateLeft (b.toNat % 32)
/-- The high halves of the exact products (R86). -/
def mulhiI (a b : Word) : Word := BitVec.ofInt 32 (a.toInt * b.toInt / 2 ^ 32)
def mulhiN (a b : Word) : Word := BitVec.ofNat 32 (a.toNat * b.toNat / 2 ^ 32)
def minI (a b : Word) : Word := if a.toInt ≤ b.toInt then a else b
def maxI (a b : Word) : Word := if a.toInt ≤ b.toInt then b else a
def minN (a b : Word) : Word := if a.toNat ≤ b.toNat then a else b
def maxN (a b : Word) : Word := if a.toNat ≤ b.toNat then b else a
/-- The position, the width and the mask of a bit field that B selects (R88). -/
def fieldPos (b : Word) : Nat := b.toNat % 32
def fieldWidth (b : Word) : Nat := min 32 (b.toNat / 256 % 64)
def fieldMask (b : Word) : Word := BitVec.ofNat 32 ((2 ^ fieldWidth b - 1) * 2 ^ fieldPos b)
def bfe (a b : Word) : Word := (a &&& fieldMask b) >>> fieldPos b
def bfi (a b d : Word) : Word := (d &&& ~~~(fieldMask b)) ||| ((a <<< fieldPos b) &&& fieldMask b)
/-- The number of 1 bits, of leading 0 bits, and the bits in reverse order (R89). -/
def popc (a : Word) : Word := BitVec.ofNat 32 ((List.range 32).countP fun i => a.getLsbD i)
def clz (a : Word) : Word := BitVec.ofNat 32 ((List.range 32).takeWhile fun i => !(a.getLsbD (31 - i))).length
def brev (a : Word) : Word := (List.range 32).foldl (fun r i => if a.getLsbD i then r ||| (1#32 <<< (31 - i)) else r) 0
/-- Byte dot products (R87). -/
def byteI (a : Word) (i : Nat) : Int := (a.extractLsb' (8 * i) 8).toInt
def byteN (a : Word) (i : Nat) : Nat := (a.extractLsb' (8 * i) 8).toNat
def dp4I (a b d : Word) : Word := d + BitVec.ofInt 32 (byteI a 0 * byteI b 0 + byteI a 1 * byteI b 1 + byteI a 2 * byteI b 2 + byteI a 3 * byteI b 3)
def dp4N (a b d : Word) : Word := d + BitVec.ofNat 32 (byteN a 0 * byteN b 0 + byteN a 1 * byteN b 1 + byteN a 2 * byteN b 2 + byteN a 3 * byteN b 3)
/-- Address steps (R91). -/
def lea (k : Int) (a : Dword) (b : Word) : Dword := a + BitVec.ofInt 64 (b.toInt * k)
def sel (a b d : Word) : Word := if d ≠ 0 then a else b

/-- A 32-bit result of one member, without flags (R85). -/
def res (v : Word) : LaneRes := { val := v.setWidth 64 }
/-- A two-operand 32-bit word of the integer group. -/
def int2 (s : State) (w sb : Bool) (d a b : BitVec 7) (f : Word → Word → Word) : Out :=
  vOp s {} w sb d a b fun _ x y _ => res (f (loOf x) (loOf y))
/-- A word that also reads D (R87). -/
def int3 (s : State) (w sb : Bool) (d a b : BitVec 7) (f : Word → Word → Word → Word) : Out :=
  vOp s { readsD := true } w sb d a b fun _ x y z => res (f (loOf x) (loOf y) (loOf z))
/-- A one-operand word (R89). -/
def int1 (s : State) (w : Bool) (d a : BitVec 7) (f : Word → Word) : Out :=
  vOp s { useB := false } w false d a 0 fun _ x _ _ => res (f (loOf x))
/-- A 64-bit word on pairs (R91). -/
def int64 (s : State) (w sb : Bool) (d a b : BitVec 7) (f : Dword → Dword → Dword) : Out :=
  vOp s { wideD := true, wideA := true, wideB := true } w sb d a b fun _ x y _ => { val := f x y }
/-- An address step: pair A, 32-bit B (R91). -/
def intLea (s : State) (w sb : Bool) (d a b : BitVec 7) (k : Int) : Out :=
  vOp s { wideD := true, wideA := true } w sb d a b fun _ x y _ => { val := lea k x (loOf y) }
/-- A scalar ALU word of two operands (R92). -/
def scalar2 (s : State) (w : Bool) (d a b : BitVec 7) (f : Word → Word → Word) : Out := sOp s w true false d a b fun x y _ => f x y

/-- `add.i32` (R86). -/
def execAddI32 (w sb : Bool) (d a b : BitVec 7) (s : State) : Out := int2 s w sb d a b fun a b => a + b
/-- `sub.i32` (R86). -/
def execSubI32 (w sb : Bool) (d a b : BitVec 7) (s : State) : Out := int2 s w sb d a b fun a b => a - b
/-- `mul.i32` (R86). -/
def execMulI32 (w sb : Bool) (d a b : BitVec 7) (s : State) : Out := int2 s w sb d a b fun a b => a * b
/-- `mulhi.i32` (R86). -/
def execMulhiI32 (w sb : Bool) (d a b : BitVec 7) (s : State) : Out := int2 s w sb d a b fun a b => mulhiI a b
/-- `mulhi.n32` (R86). -/
def execMulhiN32 (w sb : Bool) (d a b : BitVec 7) (s : State) : Out := int2 s w sb d a b fun a b => mulhiN a b
/-- `and.b32` (R86). -/
def execAndB32 (w sb : Bool) (d a b : BitVec 7) (s : State) : Out := int2 s w sb d a b fun a b => a &&& b
/-- `or.b32` (R86). -/
def execOrB32 (w sb : Bool) (d a b : BitVec 7) (s : State) : Out := int2 s w sb d a b fun a b => a ||| b
/-- `xor.b32` (R86). -/
def execXorB32 (w sb : Bool) (d a b : BitVec 7) (s : State) : Out := int2 s w sb d a b fun a b => a ^^^ b
/-- `andn.b32` (R86). -/
def execAndnB32 (w sb : Bool) (d a b : BitVec 7) (s : State) : Out := int2 s w sb d a b fun a b => a &&& ~~~b
/-- `shl.b32` (R86). -/
def execShlB32 (w sb : Bool) (d a b : BitVec 7) (s : State) : Out := int2 s w sb d a b fun a b => shl a b
/-- `shr.n32` (R86). -/
def execShrN32 (w sb : Bool) (d a b : BitVec 7) (s : State) : Out := int2 s w sb d a b fun a b => shrN a b
/-- `shr.i32` (R86). -/
def execShrI32 (w sb : Bool) (d a b : BitVec 7) (s : State) : Out := int2 s w sb d a b fun a b => shrI a b
/-- `rot.b32` (R86). -/
def execRotB32 (w sb : Bool) (d a b : BitVec 7) (s : State) : Out := int2 s w sb d a b fun a b => rot a b
/-- `min.i32` (R86). -/
def execMinI32 (w sb : Bool) (d a b : BitVec 7) (s : State) : Out := int2 s w sb d a b fun a b => minI a b
/-- `max.i32` (R86). -/
def execMaxI32 (w sb : Bool) (d a b : BitVec 7) (s : State) : Out := int2 s w sb d a b fun a b => maxI a b
/-- `min.n32` (R86). -/
def execMinN32 (w sb : Bool) (d a b : BitVec 7) (s : State) : Out := int2 s w sb d a b fun a b => minN a b
/-- `max.n32` (R86). -/
def execMaxN32 (w sb : Bool) (d a b : BitVec 7) (s : State) : Out := int2 s w sb d a b fun a b => maxN a b
/-- `seq.b32` (R86). -/
def execSeqB32 (w sb : Bool) (d a b : BitVec 7) (s : State) : Out := int2 s w sb d a b fun a b => ofBool (a == b)
/-- `sne.b32` (R86). -/
def execSneB32 (w sb : Bool) (d a b : BitVec 7) (s : State) : Out := int2 s w sb d a b fun a b => ofBool (a != b)
/-- `slt.i32` (R86). -/
def execSltI32 (w sb : Bool) (d a b : BitVec 7) (s : State) : Out := int2 s w sb d a b fun a b => ofBool (decide (a.toInt < b.toInt))
/-- `sle.i32` (R86). -/
def execSleI32 (w sb : Bool) (d a b : BitVec 7) (s : State) : Out := int2 s w sb d a b fun a b => ofBool (decide (a.toInt ≤ b.toInt))
/-- `slt.n32` (R86). -/
def execSltN32 (w sb : Bool) (d a b : BitVec 7) (s : State) : Out := int2 s w sb d a b fun a b => ofBool (decide (a.toNat < b.toNat))
/-- `sle.n32` (R86). -/
def execSleN32 (w sb : Bool) (d a b : BitVec 7) (s : State) : Out := int2 s w sb d a b fun a b => ofBool (decide (a.toNat ≤ b.toNat))
/-- `bfe.n32` (R86). -/
def execBfeN32 (w sb : Bool) (d a b : BitVec 7) (s : State) : Out := int2 s w sb d a b fun a b => bfe a b
/-- `mad.i32` (R87). -/
def execMadI32 (w sb : Bool) (d a b : BitVec 7) (s : State) : Out := int3 s w sb d a b fun a b d => a * b + d
/-- `sel` (R87). -/
def execSel (w sb : Bool) (d a b : BitVec 7) (s : State) : Out := int3 s w sb d a b fun a b d => sel a b d
/-- `bfi.b32` (R87). -/
def execBfiB32 (w sb : Bool) (d a b : BitVec 7) (s : State) : Out := int3 s w sb d a b fun a b d => bfi a b d
/-- `dp4.i8` (R87). -/
def execDp4I8 (w sb : Bool) (d a b : BitVec 7) (s : State) : Out := int3 s w sb d a b fun a b d => dp4I a b d
/-- `dp4.n8` (R87). -/
def execDp4N8 (w sb : Bool) (d a b : BitVec 7) (s : State) : Out := int3 s w sb d a b fun a b d => dp4N a b d
/-- `popc.b32` (R89). -/
def execPopcB32 (w : Bool) (d a : BitVec 7) (s : State) : Out := int1 s w d a fun a => popc a
/-- `clz.b32` (R89). -/
def execClzB32 (w : Bool) (d a : BitVec 7) (s : State) : Out := int1 s w d a fun a => clz a
/-- `brev.b32` (R89). -/
def execBrevB32 (w : Bool) (d a : BitVec 7) (s : State) : Out := int1 s w d a fun a => brev a
/-- `mov` (R89). -/
def execMov (w : Bool) (d a : BitVec 7) (s : State) : Out := int1 s w d a fun a => a
/-- `addi.i32` (R90). -/
def execAddiI32 (w : Bool) (d a : BitVec 7) (i : BitVec 8) (s : State) : Out :=
  let k : Word := i.signExtend 32
  int1 s w d a fun a => a + k
/-- `andi` (R90). -/
def execAndi (w : Bool) (d a : BitVec 7) (i : BitVec 8) (s : State) : Out :=
  let k : Word := i.setWidth 32
  int1 s w d a fun a => a &&& k
/-- `ori` (R90). -/
def execOri (w : Bool) (d a : BitVec 7) (i : BitVec 8) (s : State) : Out :=
  let k : Word := i.setWidth 32
  int1 s w d a fun a => a ||| k
/-- `xori` (R90). -/
def execXori (w : Bool) (d a : BitVec 7) (i : BitVec 8) (s : State) : Out :=
  let k : Word := i.setWidth 32
  int1 s w d a fun a => a ^^^ k
/-- `shli` (R90). -/
def execShli (w : Bool) (d a : BitVec 7) (i : BitVec 5) (s : State) : Out :=
  let k : Word := i.setWidth 32
  int1 s w d a fun a => shl a k
/-- `shri.n32` (R90). -/
def execShriN32 (w : Bool) (d a : BitVec 7) (i : BitVec 5) (s : State) : Out :=
  let k : Word := i.setWidth 32
  int1 s w d a fun a => shrN a k
/-- `shri.i32` (R90). -/
def execShriI32 (w : Bool) (d a : BitVec 7) (i : BitVec 5) (s : State) : Out :=
  let k : Word := i.setWidth 32
  int1 s w d a fun a => shrI a k
/-- `muli.i32` (R90). -/
def execMuliI32 (w : Bool) (d a : BitVec 7) (i : BitVec 8) (s : State) : Out :=
  let k : Word := i.signExtend 32
  int1 s w d a fun a => a * k
/-- `add.i64` (R91). -/
def execAddI64 (w sb : Bool) (d a b : BitVec 7) (s : State) : Out := int64 s w sb d a b fun a b => a + b
/-- `sub.i64` (R91). -/
def execSubI64 (w sb : Bool) (d a b : BitVec 7) (s : State) : Out := int64 s w sb d a b fun a b => a - b
/-- `lea.x4` (R91). -/
def execLeaX4 (w sb : Bool) (d a b : BitVec 7) (s : State) : Out := intLea s w sb d a b 4
/-- `lea.x8` (R91). -/
def execLeaX8 (w sb : Bool) (d a b : BitVec 7) (s : State) : Out := intLea s w sb d a b 8
/-- `sadd.i32` (R92). -/
def execSaddI32 (w : Bool) (d a b : BitVec 7) (s : State) : Out := scalar2 s w d a b fun a b => a + b
/-- `ssub.i32` (R92). -/
def execSsubI32 (w : Bool) (d a b : BitVec 7) (s : State) : Out := scalar2 s w d a b fun a b => a - b
/-- `smul.i32` (R92). -/
def execSmulI32 (w : Bool) (d a b : BitVec 7) (s : State) : Out := scalar2 s w d a b fun a b => a * b
/-- `sand.b32` (R92). -/
def execSandB32 (w : Bool) (d a b : BitVec 7) (s : State) : Out := scalar2 s w d a b fun a b => a &&& b
/-- `sor.b32` (R92). -/
def execSorB32 (w : Bool) (d a b : BitVec 7) (s : State) : Out := scalar2 s w d a b fun a b => a ||| b
/-- `sxor.b32` (R92). -/
def execSxorB32 (w : Bool) (d a b : BitVec 7) (s : State) : Out := scalar2 s w d a b fun a b => a ^^^ b
/-- `sshl.b32` (R92). -/
def execSshlB32 (w : Bool) (d a b : BitVec 7) (s : State) : Out := scalar2 s w d a b fun a b => shl a b
/-- `sshr.n32` (R92). -/
def execSshrN32 (w : Bool) (d a b : BitVec 7) (s : State) : Out := scalar2 s w d a b fun a b => shrN a b
/-- `sshr.i32` (R92). -/
def execSshrI32 (w : Bool) (d a b : BitVec 7) (s : State) : Out := scalar2 s w d a b fun a b => shrI a b
/-- `smin.i32` (R92). -/
def execSminI32 (w : Bool) (d a b : BitVec 7) (s : State) : Out := scalar2 s w d a b fun a b => minI a b
/-- `smax.i32` (R92). -/
def execSmaxI32 (w : Bool) (d a b : BitVec 7) (s : State) : Out := scalar2 s w d a b fun a b => maxI a b
/-- `smin.n32` (R92). -/
def execSminN32 (w : Bool) (d a b : BitVec 7) (s : State) : Out := scalar2 s w d a b fun a b => minN a b
/-- `smax.n32` (R92). -/
def execSmaxN32 (w : Bool) (d a b : BitVec 7) (s : State) : Out := scalar2 s w d a b fun a b => maxN a b
/-- `sseq.b32` (R92). -/
def execSseqB32 (w : Bool) (d a b : BitVec 7) (s : State) : Out := scalar2 s w d a b fun a b => ofBool (a == b)
/-- `sslt.i32` (R92). -/
def execSsltI32 (w : Bool) (d a b : BitVec 7) (s : State) : Out := scalar2 s w d a b fun a b => ofBool (decide (a.toInt < b.toInt))
/-- `sslt.n32` (R92). -/
def execSsltN32 (w : Bool) (d a b : BitVec 7) (s : State) : Out := scalar2 s w d a b fun a b => ofBool (decide (a.toNat < b.toNat))
/-- `ssel` (R92). -/
def execSsel (w : Bool) (d a b : BitVec 7) (s : State) : Out := sOp s w true true d a b fun a b d => sel a b d
/-- `smov` (R92). -/
def execSmov (w : Bool) (d a : BitVec 7) (s : State) : Out := sOp s w false false d a 0 fun a _ _ => a

/-- A constant word that writes a scalar (R93). -/
def scalarConst (s : State) (d : BitVec 7) (f : Word → Word) : Out :=
  withWord s fun x => checked s x [(!(sDstOk d.toNat), 7)]
    (.next (advance (s.modSub x.sg fun u => u.setSreg d.toNat (f (u.sreg d.toNat))) x x.lanes))
/-- A constant word that writes a window register in each member (R93). -/
def laneConst (s : State) (d : BitVec 7) (f : Word → Word) : Out :=
  withWord s fun x => checked s x [(!(dstOk s x d.toNat 1), 7)]
    (let r := (x.sub s).wbase.toNat + d.toNat
     .next (advance (s.modThreads x.sg x.lanes fun t => t.setReg r (f (t.reg r))) x x.lanes))
/-- The upper half replaced (R93). -/
def setHigh (i : BitVec 16) (v : Word) : Word := (i.setWidth 32 <<< 16) ||| (v &&& 0xffff#32)

/-- `sli` (R93). -/
def execSli (d : BitVec 7) (i : BitVec 16) (s : State) : Out := scalarConst s d fun _ => i.signExtend 32
/-- `slih` (R93). -/
def execSlih (d : BitVec 7) (i : BitVec 16) (s : State) : Out := scalarConst s d (setHigh i)
/-- `saddi` (R93). -/
def execSaddi (d : BitVec 7) (i : BitVec 16) (s : State) : Out := scalarConst s d fun v => v + i.signExtend 32
/-- `vli` (R93). -/
def execVli (d : BitVec 7) (i : BitVec 16) (s : State) : Out := laneConst s d fun _ => i.signExtend 32
/-- `vlih` (R93). -/
def execVlih (d : BitVec 7) (i : BitVec 16) (s : State) : Out := laneConst s d (setHigh i)
/-- `wbase` (R97). -/
def execWbase (i : BitVec 16) (s : State) : Out :=
  withWord s fun x => checked s x [(!(wbaseOk x.form i.toNat), 8)]
    (.next (advance (s.modSub x.sg fun u => { u with wbase := i.setWidth 8 }) x x.lanes))

end Sys2Proof.Machine
end

