-- ==== Sys2Proof/Machine/Lanes.lean ====
section
/-!
DEFINITION. Reading other lanes: `xsel`, shuffles, votes, reductions and the scan, `sample` and the random numbers (R126 to R134).
-/

namespace Sys2Proof.Machine

/-- vD of each listed member written, without a push (R126). -/
def writeV (s : State) (x : Cx) (d : Nat) (vs : List (Nat × Word)) : State :=
  let r := (x.sub s).wbase.toNat + d
  s.modSub x.sg fun u => vs.foldl (fun u p => u.modThread p.1 fun t => t.setReg r p.2) u

/-- An M-class word that writes a 32-bit vD of each thread from A operands that `f` gives, with their staleness (R126). -/
def laneWord (s : State) (d a : BitVec 7) (extra : Cx → List (Bool × Nat)) (f : Cx → List (Nat × (Dword × Bool))) : Out :=
  withWord s fun x => checked s x ([(!(dstOk s x d.toNat 1), 7), (!(srcOk s x a.toNat false), 7)] ++ extra x) <|
    let vs := f x
    withStale s x (maskOf ((vs.filter fun p => p.2.2).map Prod.fst)) fun s' =>
      .next (done (writeV s' x d.toNat (vs.map fun p => (p.1, loOf p.2.1))) x)

/-- A shuffle: each thread reads A of the member that `m` gives; an index below 0, or that no member has, delivers zero (R128). -/
def shuffle (s : State) (d a : BitVec 7) (m : Nat → Int) : Out :=
  laneWord s d a (fun _ => []) fun x => x.lanes.map fun l => (l, if m l < 0 then (0, false) else readSrc s x (m l).toNat a.toNat false)

/-- `shfl` (R128). -/
def execShfl (sb : Bool) (d a b : BitVec 7) (s : State) : Out :=
  withWordAfter s (fun _ => [(sbBad sb b.toNat, 5)]) fun x =>
    checked s x [(!(dstOk s x d.toNat 1), 7), (!(srcOk s x a.toNat false), 7), (!(bOk s x sb b.toNat false), 7)] <|
    let vs := x.lanes.map fun l =>
      let i := readB s x sb l b.toNat false
      let v := readSrc s x i.1.toNat a.toNat false
      (l, v.1, v.2 || i.2)
    withStale s x (maskOf ((vs.filter fun p => p.2.2).map Prod.fst)) fun s' =>
      .next (done (writeV s' x d.toNat (vs.map fun p => (p.1, loOf p.2.1))) x)
/-- `shfl.up` (R128). -/
def execShflUp (d a : BitVec 7) (i : BitVec 8) (s : State) : Out := shuffle s d a fun l => (l : Int) - i.toNat
/-- `shfl.dn` (R128). -/
def execShflDn (d a : BitVec 7) (i : BitVec 8) (s : State) : Out := shuffle s d a fun l => (l : Int) + i.toNat
/-- `shfl.x` (R128). -/
def execShflX (d a : BitVec 7) (i : BitVec 8) (s : State) : Out := shuffle s d a fun l => ((l ^^^ i.toNat : Nat) : Int)

/-- `xsel` (R127): the next word reads its A from the members that A names. -/
def execXsel (a : BitVec 7) (s : State) : Out :=
  withWord s fun x => checked s x [(!(srcOk s x a.toNat false), 7)] <|
    let vs := readAll s x a.toNat false
    if staleTraps s x vs.2 then .next (raise s x (trapOf s x x.mask 7 0)) else
    let pc := x.pc s
    let p : Xsel := { word := (s.row x.core x.row).word, pc := pc, sel := vs.1.map fun q => (q.1, loOf q.2), stale := vs.2 }
    .next ((goTo s x x.lanes fun _ => pc + 4).modRow x.core x.row fun r => { r with xsel := some p, atSwitch := false })

/-! ### Votes and reductions -/

/-- A vote: one scalar result of the A operands of the issuing group (R129). -/
def vote (s : State) (d a : BitVec 7) (pair : Bool) (f : List (Nat × Dword) → Dword) : Out :=
  withWord s fun x => checked s x [(!(if pair then spairOk d.toNat else sDstOk d.toNat), 7), (!(srcOk s x a.toNat false), 7)] <|
    let vs := readAll s x a.toNat false
    withStale s x vs.2 fun s' =>
      .next (done (s'.modSub x.sg fun u => if pair then u.setSpair d.toNat (f vs.1) else u.setSreg d.toNat (loOf (f vs.1))) x)
/-- `vote.any` (R129). -/
def execVoteAny (d a : BitVec 7) (s : State) : Out := vote s d a false fun vs => if vs.any (fun p => p.2 != 0) then 1 else 0
/-- `vote.all` (R129). -/
def execVoteAll (d a : BitVec 7) (s : State) : Out := vote s d a false fun vs => if vs.all (fun p => p.2 != 0) then 1 else 0
/-- `vote.ballot` (R129). -/
def execVoteBallot (d a : BitVec 7) (s : State) : Out := vote s d a true fun vs => maskOf ((vs.filter fun p => p.2 != 0).map Prod.fst)
/-- `vote.eq` (R129). -/
def execVoteEq (d a : BitVec 7) (s : State) : Out :=
  vote s d a false fun vs => match vs with
    | [] => 1
    | p :: ps => if ps.all (fun q => q.2 == p.2) then 1 else 0

/-- A reduction: each thread of the group receives what `f` gives of the operands (R130). -/
def reduce (s : State) (d a : BitVec 7) (f : List (Nat × Word) → Nat → Word) : Out :=
  withWord s fun x => checked s x [(!(dstOk s x d.toNat 1), 7), (!(srcOk s x a.toNat false), 7)] <|
    let vs := readAll s x a.toNat false
    let ws := vs.1.map fun p => (p.1, loOf p.2)
    withStale s x vs.2 fun s' => .next (done (writeV s' x d.toNat (x.lanes.map fun l => (l, f ws l))) x)
/-- Sum modulo 2^32 (R130). -/
def sumWords (ws : List (Nat × Word)) : Word := ws.foldl (fun a p => a + p.2) 0
/-- `redux.add.i32` (R130). -/
def execReduxAddI32 (d a : BitVec 7) (s : State) : Out := reduce s d a fun ws _ => sumWords ws
/-- `redux.max.i32` (R130). -/
def execReduxMaxI32 (d a : BitVec 7) (s : State) : Out :=
  reduce s d a fun ws _ => match ws with
    | [] => 0
    | p :: ps => ps.foldl (fun m q => if m.toInt < q.2.toInt then q.2 else m) p.2
/-- `scan.add.i32` (R130). -/
def execScanAddI32 (d a : BitVec 7) (s : State) : Out := reduce s d a fun ws l => sumWords (ws.filter fun p => decide (p.1 ≤ l))

/-- A sum and a product of f32 codes in rne, without FTZ and without flags (R130, R131). -/
def addF (a b : Word) : Word := BitVec.ofNat 32 (finish f32 .rne false (addRes .rne (unpack f32 false a.toNat) (unpack f32 false b.toNat))).bits
def mulF (a b : Word) : Word := BitVec.ofNat 32 (finish f32 .rne false (mulRes (unpack f32 false a.toNat) (unpack f32 false b.toNat))).bits
/-- a − b in rne. -/
def subF (a b : Word) : Word := addF a (b ^^^ 0x80000000#32)
/-- Whether a > b, for two numbers. -/
def gtF (a b : Word) : Bool := decide (0 < cmpFp (unpack f32 false a.toNat) (unpack f32 false b.toNat))

/-- One level of the pairwise tree: neighbours joined, an absent one passing the other up (R130). -/
def treeLevel : List (Option Word) → List (Option Word)
  | a :: b :: r => (match a, b with
    | none, v => v
    | v, none => v
    | some u, some v => some (addF u v)) :: treeLevel r
  | l => l
/-- `n` levels. -/
def treeLevels : Nat → List (Option Word) → List (Option Word)
  | 0, l => l
  | n + 1, l => treeLevels n (treeLevel l)
/-- The tree sum (R130): a NaN is delivered as the canonical one. -/
def treeSum (ws : List (Nat × Word)) : Word :=
  let v := ((treeLevels 6 ((List.range 64).map fun l => (ws.find? fun p => p.1 == l).map Prod.snd)).headD none).getD 0
  if (unpack f32 false v.toNat).isNan then 0x7fc00000 else v
/-- `redux.add.f32` (R130). -/
def execReduxAddF32 (d a : BitVec 7) (s : State) : Out := reduce s d a fun ws _ => treeSum ws

/-! ### Sampling -/

/-- A weight: NaN and negative values count as +0 (R131). -/
def weight (w : Word) : Word :=
  match unpack f32 false w.toNat with
  | .nan _ => 0
  | .inf n => if n then 0 else w
  | .fin n m _ => if n || m == 0 then 0 else w
/-- The block sums of the next size. -/
def blockSums : List Word → List Word
  | a :: b :: r => addF a b :: blockSums r
  | _ => []
/-- The block sums of every size, the smallest first (R131). -/
def blockLevels : Nat → List Word → List (List Word)
  | 0, l => [l]
  | n + 1, l => l :: blockLevels n (blockSums l)
/-- The sum of the first `n` weights, over blocks of 2^i for i below `k`, the largest first (R131). -/
def prefixSum (levels : List (List Word)) : Nat → Nat → Nat → Word → Word
  | 0, _, _, p => p
  | k + 1, n, base, p =>
    if 2 ^ k ≤ n - base then prefixSum levels k n (base + 2 ^ k) (addF p ((levels.getD k []).getD (base / 2 ^ k) 0))
    else prefixSum levels k n base p
/-- The scalar u as `sample` reads it (R131). -/
def sampleU (u : Word) : Word :=
  match unpack f32 false u.toNat with
  | .nan _ => 0
  | .inf n => if n then 0 else 0x3f7fffff
  | .fin n m _ => if n && m != 0 then 0 else if gtF 0x3f800000 u then u else 0x3f7fffff
/-- Index, residual and SZERO of `sample` over `width` = 2^k members (R131). -/
def sampleOf (k : Nat) (ws : List Word) (u : Word) : Word × Word × Bool :=
  let width := 2 ^ k
  let w := ws.map weight
  let levels := blockLevels k w
  let pre (n : Nat) : Word := prefixSum levels (k + 1) n 0 0
  let total := (levels.getD k []).getD 0 0
  if total = 0 then (BitVec.ofNat 32 width, 0, true)
  else if total = 0x7f800000 then
    (BitVec.ofNat 32 (((List.range width).find? fun l => pre (l + 1) == 0x7f800000#32).getD 0), 0, false)
  else
    let t := mulF (sampleU u) total
    let i := match (List.range width).find? fun l => gtF (pre (l + 1)) t with
      | some l => l
      | none => ((List.range width).filter fun l => w.getD l 0 != 0).foldl max 0
    (BitVec.ofNat 32 i, subF t (pre i), false)
/-- `sample` (R131). -/
def execSample (d a b : BitVec 7) (s : State) : Out :=
  withWordAfter s (fun _ => [(sbBad true b.toNat, 5)]) fun x => checked s x [(!(decide (d.toNat ≤ 110)), 7), (!(srcOk s x a.toNat false), 7)] <|
    let vs := readAll s x a.toNat false
    withStale s x vs.2 fun s' =>
      let u := x.sub s
      let ws := (List.range u.width).map fun l => match vs.1.find? fun p => p.1 == l with
        | some p => loOf p.2
        | none => 0
      let r := sampleOf (if u.narrow then 5 else 6) ws (loOf (readSb u b.toNat false))
      .next (done (s'.modSub x.sg fun u =>
        { (u.setSreg d.toNat r.1).setSreg (d.toNat + 1) r.2.1 with sstat := setBit u.sstat 0 r.2.2 }) x)

/-! ### Random numbers -/

/-- `rng.b32` (R133). -/
def execRngB32 (d : BitVec 7) (s : State) : Out :=
  withWord s fun x => checked s x [(!(dstOk s x d.toNat 1), 7)] <|
    let u := x.sub s
    .next (drawing s x (done ((writeV s x d.toNat (x.lanes.map fun l => (l, rngWord u l))).modSub x.sg drawDone) x))
/-- `rngctl` #0, next position (R134). -/
def execRngctlNext (s : State) : Out :=
  withWord s fun x =>
    if (x.sub s).rngPos = 0xffffffffff then .next (raise s x (trapOf s x x.mask 0x0a 0))
    else .next (done (s.modSub x.sg fun u => { u with rngPos := u.rngPos + 1, rngDraw := 0 }) x)
/-- `rngctl` #1, set stream (R134). -/
def execRngctlSetStream (a : BitVec 7) (s : State) : Out :=
  withWord s fun x => checked s x [(!(spairOk a.toNat), 7)]
    (.next (done (s.modSub x.sg fun u => { u with rngStream := u.spair a.toNat, rngPos := 0, rngDraw := 0 }) x))
/-- `rngctl` #2, set key (R134). -/
def execRngctlSetKey (a : BitVec 7) (s : State) : Out :=
  withWord s fun x => checked s x [(!(spairOk a.toNat), 7)] (.next (done (s.modSub x.sg fun u => { u with rngKey := u.spair a.toNat }) x))
/-- `rngctl` #3, read counter (R134). -/
def execRngctlReadCounter (d : BitVec 7) (s : State) : Out :=
  withWord s fun x => checked s x [(!(spairOk d.toNat), 7)]
    (.next (done (s.modSub x.sg fun u => u.setSpair d.toNat ((u.rngPos.setWidth 64 <<< 24) ||| u.rngDraw.setWidth 64)) x))

end Sys2Proof.Machine
end

