-- ==== Sys2Proof/Syntax.lean ====
section
/-!
DEFINITION. The syntax: one constructor per row of spec/opcode_table.json, in the table's order.

The first part holds the 271 words of 32 bits. A field of a word keeps the letter the table gives it: `w` bit 22 of a word that has
WS or CP there (R44), `s` the SB bit (R45), `y` the yield hint (R44), `d`, `a`, `b` the register codes (R41, R42), `i` an immediate, `o` a
branch offset, `p` the space SP (R47), `f` OFF6 (R40) or the function of `kop`, `c` SCOPE (R46) or a count, `o` of an atomic ORD (R47),
`t` a tag or tile, `r` a rounding code (R50), `x` a conversion index (R80), `g` and `h` tensor generators (R54), `n` a register number of `srd`
and `swr`, `z` the bits of a retired word. The second part holds the 100 events, which have no encoding: what an agent other than a lane row
or a needle does in one indivisible step. An event names the unit it happens to.
-/

namespace Sys2Proof

/-- The instructions and events of the Mudal 9200 (R49 to R54, and the rows without an encoding). -/
inductive Instr where
  /-- ADD_I32 (R86). -/
  | addI32 (w : Bool) (s : Bool) (d : BitVec 7) (a : BitVec 7) (b : BitVec 7)
  /-- SUB_I32 (R86). -/
  | subI32 (w : Bool) (s : Bool) (d : BitVec 7) (a : BitVec 7) (b : BitVec 7)
  /-- MUL_I32 (R86). -/
  | mulI32 (w : Bool) (s : Bool) (d : BitVec 7) (a : BitVec 7) (b : BitVec 7)
  /-- MULHI_I32 (R86). -/
  | mulhiI32 (w : Bool) (s : Bool) (d : BitVec 7) (a : BitVec 7) (b : BitVec 7)
  /-- MULHI_N32 (R86). -/
  | mulhiN32 (w : Bool) (s : Bool) (d : BitVec 7) (a : BitVec 7) (b : BitVec 7)
  /-- MAD_I32 (R87). -/
  | madI32 (w : Bool) (s : Bool) (d : BitVec 7) (a : BitVec 7) (b : BitVec 7)
  /-- ADD_I64 (R91). -/
  | addI64 (w : Bool) (s : Bool) (d : BitVec 7) (a : BitVec 7) (b : BitVec 7)
  /-- SUB_I64 (R91). -/
  | subI64 (w : Bool) (s : Bool) (d : BitVec 7) (a : BitVec 7) (b : BitVec 7)
  /-- AND_B32 (R86). -/
  | andB32 (w : Bool) (s : Bool) (d : BitVec 7) (a : BitVec 7) (b : BitVec 7)
  /-- OR_B32 (R86). -/
  | orB32 (w : Bool) (s : Bool) (d : BitVec 7) (a : BitVec 7) (b : BitVec 7)
  /-- XOR_B32 (R86). -/
  | xorB32 (w : Bool) (s : Bool) (d : BitVec 7) (a : BitVec 7) (b : BitVec 7)
  /-- ANDN_B32 (R86). -/
  | andnB32 (w : Bool) (s : Bool) (d : BitVec 7) (a : BitVec 7) (b : BitVec 7)
  /-- SHL_B32 (R86). -/
  | shlB32 (w : Bool) (s : Bool) (d : BitVec 7) (a : BitVec 7) (b : BitVec 7)
  /-- SHR_N32 (R86). -/
  | shrN32 (w : Bool) (s : Bool) (d : BitVec 7) (a : BitVec 7) (b : BitVec 7)
  /-- SHR_I32 (R86). -/
  | shrI32 (w : Bool) (s : Bool) (d : BitVec 7) (a : BitVec 7) (b : BitVec 7)
  /-- ROT_B32 (R86). -/
  | rotB32 (w : Bool) (s : Bool) (d : BitVec 7) (a : BitVec 7) (b : BitVec 7)
  /-- MIN_I32 (R86). -/
  | minI32 (w : Bool) (s : Bool) (d : BitVec 7) (a : BitVec 7) (b : BitVec 7)
  /-- MAX_I32 (R86). -/
  | maxI32 (w : Bool) (s : Bool) (d : BitVec 7) (a : BitVec 7) (b : BitVec 7)
  /-- MIN_N32 (R86). -/
  | minN32 (w : Bool) (s : Bool) (d : BitVec 7) (a : BitVec 7) (b : BitVec 7)
  /-- MAX_N32 (R86). -/
  | maxN32 (w : Bool) (s : Bool) (d : BitVec 7) (a : BitVec 7) (b : BitVec 7)
  /-- SEQ_B32 (R86). -/
  | seqB32 (w : Bool) (s : Bool) (d : BitVec 7) (a : BitVec 7) (b : BitVec 7)
  /-- SNE_B32 (R86). -/
  | sneB32 (w : Bool) (s : Bool) (d : BitVec 7) (a : BitVec 7) (b : BitVec 7)
  /-- SLT_I32 (R86). -/
  | sltI32 (w : Bool) (s : Bool) (d : BitVec 7) (a : BitVec 7) (b : BitVec 7)
  /-- SLE_I32 (R86). -/
  | sleI32 (w : Bool) (s : Bool) (d : BitVec 7) (a : BitVec 7) (b : BitVec 7)
  /-- SLT_N32 (R86). -/
  | sltN32 (w : Bool) (s : Bool) (d : BitVec 7) (a : BitVec 7) (b : BitVec 7)
  /-- SLE_N32 (R86). -/
  | sleN32 (w : Bool) (s : Bool) (d : BitVec 7) (a : BitVec 7) (b : BitVec 7)
  /-- SEL (R87). -/
  | sel (w : Bool) (s : Bool) (d : BitVec 7) (a : BitVec 7) (b : BitVec 7)
  /-- POPC_B32 (R89). -/
  | popcB32 (w : Bool) (d : BitVec 7) (a : BitVec 7)
  /-- CLZ_B32 (R89). -/
  | clzB32 (w : Bool) (d : BitVec 7) (a : BitVec 7)
  /-- BFE_N32 (R88). -/
  | bfeN32 (w : Bool) (s : Bool) (d : BitVec 7) (a : BitVec 7) (b : BitVec 7)
  /-- BFI_B32 (R88). -/
  | bfiB32 (w : Bool) (s : Bool) (d : BitVec 7) (a : BitVec 7) (b : BitVec 7)
  /-- BREV_B32 (R89). -/
  | brevB32 (w : Bool) (d : BitVec 7) (a : BitVec 7)
  /-- ADDI_I32 (R90). -/
  | addiI32 (w : Bool) (d : BitVec 7) (a : BitVec 7) (i : BitVec 8)
  /-- ANDI (R90). -/
  | andi (w : Bool) (d : BitVec 7) (a : BitVec 7) (i : BitVec 8)
  /-- ORI (R90). -/
  | ori (w : Bool) (d : BitVec 7) (a : BitVec 7) (i : BitVec 8)
  /-- XORI (R90). -/
  | xori (w : Bool) (d : BitVec 7) (a : BitVec 7) (i : BitVec 8)
  /-- SHLI (R90). -/
  | shli (w : Bool) (d : BitVec 7) (a : BitVec 7) (i : BitVec 5)
  /-- SHRI_N32 (R90). -/
  | shriN32 (w : Bool) (d : BitVec 7) (a : BitVec 7) (i : BitVec 5)
  /-- SHRI_I32 (R90). -/
  | shriI32 (w : Bool) (d : BitVec 7) (a : BitVec 7) (i : BitVec 5)
  /-- MULI_I32 (R90). -/
  | muliI32 (w : Bool) (d : BitVec 7) (a : BitVec 7) (i : BitVec 8)
  /-- DP4_I8 (R87). -/
  | dp4I8 (w : Bool) (s : Bool) (d : BitVec 7) (a : BitVec 7) (b : BitVec 7)
  /-- DP4_N8 (R87). -/
  | dp4N8 (w : Bool) (s : Bool) (d : BitVec 7) (a : BitVec 7) (b : BitVec 7)
  /-- MOV (R89). -/
  | mov (w : Bool) (d : BitVec 7) (a : BitVec 7)
  /-- LEA_X4 (R91). -/
  | leaX4 (w : Bool) (s : Bool) (d : BitVec 7) (a : BitVec 7) (b : BitVec 7)
  /-- LEA_X8 (R91). -/
  | leaX8 (w : Bool) (s : Bool) (d : BitVec 7) (a : BitVec 7) (b : BitVec 7)
  /-- FADD_F32 (R100). -/
  | faddF32 (w : Bool) (s : Bool) (d : BitVec 7) (a : BitVec 7) (b : BitVec 7)
  /-- FSUB_F32 (R100). -/
  | fsubF32 (w : Bool) (s : Bool) (d : BitVec 7) (a : BitVec 7) (b : BitVec 7)
  /-- FMUL_F32 (R100). -/
  | fmulF32 (w : Bool) (s : Bool) (d : BitVec 7) (a : BitVec 7) (b : BitVec 7)
  /-- FFMA_F32 (R100). -/
  | ffmaF32 (w : Bool) (s : Bool) (d : BitVec 7) (a : BitVec 7) (b : BitVec 7)
  /-- FMIN_F32 (R102). -/
  | fminF32 (w : Bool) (s : Bool) (d : BitVec 7) (a : BitVec 7) (b : BitVec 7)
  /-- FMAX_F32 (R102). -/
  | fmaxF32 (w : Bool) (s : Bool) (d : BitVec 7) (a : BitVec 7) (b : BitVec 7)
  /-- FMINNM_F32 (R102). -/
  | fminnmF32 (w : Bool) (s : Bool) (d : BitVec 7) (a : BitVec 7) (b : BitVec 7)
  /-- FMAXNM_F32 (R102). -/
  | fmaxnmF32 (w : Bool) (s : Bool) (d : BitVec 7) (a : BitVec 7) (b : BitVec 7)
  /-- FSEQ_F32 (R103). -/
  | fseqF32 (w : Bool) (s : Bool) (d : BitVec 7) (a : BitVec 7) (b : BitVec 7)
  /-- FSLT_F32 (R103). -/
  | fsltF32 (w : Bool) (s : Bool) (d : BitVec 7) (a : BitVec 7) (b : BitVec 7)
  /-- FSLE_F32 (R103). -/
  | fsleF32 (w : Bool) (s : Bool) (d : BitVec 7) (a : BitVec 7) (b : BitVec 7)
  /-- FSUN_F32 (R103). -/
  | fsunF32 (w : Bool) (s : Bool) (d : BitVec 7) (a : BitVec 7) (b : BitVec 7)
  /-- FNEG_F32 (R104). -/
  | fnegF32 (w : Bool) (d : BitVec 7) (a : BitVec 7)
  /-- FABS_F32 (R104). -/
  | fabsF32 (w : Bool) (d : BitVec 7) (a : BitVec 7)
  /-- FRCP_F32 (R105). -/
  | frcpF32 (w : Bool) (d : BitVec 7) (a : BitVec 7)
  /-- FRSQ_F32 (R105). -/
  | frsqF32 (w : Bool) (d : BitVec 7) (a : BitVec 7)
  /-- FSQRT_F32 (R100). -/
  | fsqrtF32 (w : Bool) (d : BitVec 7) (a : BitVec 7)
  /-- FDIV_F32 (R100). -/
  | fdivF32 (w : Bool) (s : Bool) (d : BitVec 7) (a : BitVec 7) (b : BitVec 7)
  /-- FEX2_F32 (R106). -/
  | fex2F32 (w : Bool) (d : BitVec 7) (a : BitVec 7)
  /-- FLG2_F32 (R106). -/
  | flg2F32 (w : Bool) (d : BitVec 7) (a : BitVec 7)
  /-- FSIN_F32 (R106). -/
  | fsinF32 (w : Bool) (d : BitVec 7) (a : BitVec 7)
  /-- FCOS_F32 (R106). -/
  | fcosF32 (w : Bool) (d : BitVec 7) (a : BitVec 7)
  /-- HADD2_F16 (R108). -/
  | hadd2F16 (w : Bool) (s : Bool) (d : BitVec 7) (a : BitVec 7) (b : BitVec 7)
  /-- HMUL2_F16 (R108). -/
  | hmul2F16 (w : Bool) (s : Bool) (d : BitVec 7) (a : BitVec 7) (b : BitVec 7)
  /-- HFMA2_F16 (R108). -/
  | hfma2F16 (w : Bool) (s : Bool) (d : BitVec 7) (a : BitVec 7) (b : BitVec 7)
  /-- BADD2_BF16 (R108). -/
  | badd2Bf16 (w : Bool) (s : Bool) (d : BitVec 7) (a : BitVec 7) (b : BitVec 7)
  /-- BMUL2_BF16 (R108). -/
  | bmul2Bf16 (w : Bool) (s : Bool) (d : BitVec 7) (a : BitVec 7) (b : BitVec 7)
  /-- BFMA2_BF16 (R108). -/
  | bfma2Bf16 (w : Bool) (s : Bool) (d : BitVec 7) (a : BitVec 7) (b : BitVec 7)
  /-- DADD_F64 (R110). -/
  | daddF64 (w : Bool) (s : Bool) (d : BitVec 7) (a : BitVec 7) (b : BitVec 7)
  /-- DMUL_F64 (R110). -/
  | dmulF64 (w : Bool) (s : Bool) (d : BitVec 7) (a : BitVec 7) (b : BitVec 7)
  /-- DFMA_F64 (R110). -/
  | dfmaF64 (w : Bool) (s : Bool) (d : BitVec 7) (a : BitVec 7) (b : BitVec 7)
  /-- DSLT_F64 (R103). -/
  | dsltF64 (w : Bool) (s : Bool) (d : BitVec 7) (a : BitVec 7) (b : BitVec 7)
  /-- CVT (R114). -/
  | cvt (w : Bool) (d : BitVec 7) (a : BitVec 7) (r : BitVec 3) (x : BitVec 5)
  /-- FSCALE_F32 (R111). -/
  | fscaleF32 (w : Bool) (s : Bool) (d : BitVec 7) (a : BitVec 7) (b : BitVec 7)
  /-- FRND_F32 (R112). -/
  | frndF32 (w : Bool) (d : BitVec 7) (a : BitVec 7) (r : BitVec 3)
  /-- FCLASS_F32 (R113). -/
  | fclassF32 (w : Bool) (d : BitVec 7) (a : BitVec 7)
  /-- FDOT2_BF16 (R109). -/
  | fdot2Bf16 (w : Bool) (s : Bool) (d : BitVec 7) (a : BitVec 7) (b : BitVec 7)
  /-- DSEQ_F64 (R103). -/
  | dseqF64 (w : Bool) (s : Bool) (d : BitVec 7) (a : BitVec 7) (b : BitVec 7)
  /-- MAD24_I32 (R117). -/
  | mad24I32 (s : Bool) (d : BitVec 7) (a : BitVec 7) (b : BitVec 7)
  /-- FMUL_LG (R117). -/
  | fmulLg (s : Bool) (d : BitVec 7) (a : BitVec 7) (b : BitVec 7)
  /-- VOTE32_BALLOT (R117). -/
  | vote32Ballot (s : Bool) (d : BitVec 7) (a : BitVec 7)
  /-- SHFL32 (R117). -/
  | shfl32 (s : Bool) (d : BitVec 7) (a : BitVec 7) (b : BitVec 7)
  /-- LD_I8 (R140). -/
  | ldI8 (d : BitVec 7) (a : BitVec 7) (p : BitVec 2) (f : BitVec 6)
  /-- LD_N8 (R140). -/
  | ldN8 (d : BitVec 7) (a : BitVec 7) (p : BitVec 2) (f : BitVec 6)
  /-- LD_I16 (R140). -/
  | ldI16 (d : BitVec 7) (a : BitVec 7) (p : BitVec 2) (f : BitVec 6)
  /-- LD_N16 (R140). -/
  | ldN16 (d : BitVec 7) (a : BitVec 7) (p : BitVec 2) (f : BitVec 6)
  /-- LD_B32 (R140). -/
  | ldB32 (d : BitVec 7) (a : BitVec 7) (p : BitVec 2) (f : BitVec 6)
  /-- LD_B64 (R140). -/
  | ldB64 (d : BitVec 7) (a : BitVec 7) (p : BitVec 2) (f : BitVec 6)
  /-- LD_B128 (R140). -/
  | ldB128 (d : BitVec 7) (a : BitVec 7) (p : BitVec 2) (f : BitVec 6)
  /-- ST_B8 (R140). -/
  | stB8 (d : BitVec 7) (a : BitVec 7) (p : BitVec 2) (f : BitVec 6)
  /-- ST_B16 (R140). -/
  | stB16 (d : BitVec 7) (a : BitVec 7) (p : BitVec 2) (f : BitVec 6)
  /-- ST_B32 (R140). -/
  | stB32 (d : BitVec 7) (a : BitVec 7) (p : BitVec 2) (f : BitVec 6)
  /-- ST_B64 (R140). -/
  | stB64 (d : BitVec 7) (a : BitVec 7) (p : BitVec 2) (f : BitVec 6)
  /-- ST_B128 (R140). -/
  | stB128 (d : BitVec 7) (a : BitVec 7) (p : BitVec 2) (f : BitVec 6)
  /-- LD_ACQ_B32 (R144). -/
  | ldAcqB32 (d : BitVec 7) (a : BitVec 7) (c : BitVec 3) (p : BitVec 2)
  /-- LD_ACQ_B64 (R144). -/
  | ldAcqB64 (d : BitVec 7) (a : BitVec 7) (c : BitVec 3) (p : BitVec 2)
  /-- ST_REL_B32 (R144). -/
  | stRelB32 (d : BitVec 7) (a : BitVec 7) (c : BitVec 3) (p : BitVec 2)
  /-- ST_REL_B64 (R144). -/
  | stRelB64 (d : BitVec 7) (a : BitVec 7) (c : BitVec 3) (p : BitVec 2)
  /-- ST_MC_B64 (R145). -/
  | stMcB64 (d : BitVec 7) (a : BitVec 7) (p : BitVec 2) (f : BitVec 6)
  /-- ATOM_ADD_I32 (R147). -/
  | atomAddI32 (w : Bool) (c : BitVec 3) (o : BitVec 2) (d : BitVec 7) (a : BitVec 7)
  /-- ATOM_ADD_F32 (R147). -/
  | atomAddF32 (w : Bool) (c : BitVec 3) (o : BitVec 2) (d : BitVec 7) (a : BitVec 7)
  /-- ATOM_MIN_I32 (R147). -/
  | atomMinI32 (w : Bool) (c : BitVec 3) (o : BitVec 2) (d : BitVec 7) (a : BitVec 7)
  /-- ATOM_MAX_I32 (R147). -/
  | atomMaxI32 (w : Bool) (c : BitVec 3) (o : BitVec 2) (d : BitVec 7) (a : BitVec 7)
  /-- ATOM_MIN_N32 (R147). -/
  | atomMinN32 (w : Bool) (c : BitVec 3) (o : BitVec 2) (d : BitVec 7) (a : BitVec 7)
  /-- ATOM_MAX_N32 (R147). -/
  | atomMaxN32 (w : Bool) (c : BitVec 3) (o : BitVec 2) (d : BitVec 7) (a : BitVec 7)
  /-- ATOM_AND_B32 (R147). -/
  | atomAndB32 (w : Bool) (c : BitVec 3) (o : BitVec 2) (d : BitVec 7) (a : BitVec 7)
  /-- ATOM_OR_B32 (R147). -/
  | atomOrB32 (w : Bool) (c : BitVec 3) (o : BitVec 2) (d : BitVec 7) (a : BitVec 7)
  /-- ATOM_XOR_B32 (R147). -/
  | atomXorB32 (w : Bool) (c : BitVec 3) (o : BitVec 2) (d : BitVec 7) (a : BitVec 7)
  /-- ATOM_EXCH_B32 (R147). -/
  | atomExchB32 (w : Bool) (c : BitVec 3) (o : BitVec 2) (d : BitVec 7) (a : BitVec 7)
  /-- ATOM_CAS_B32 (R147). -/
  | atomCasB32 (w : Bool) (c : BitVec 3) (o : BitVec 2) (d : BitVec 7) (a : BitVec 7)
  /-- ATOM_ADD_I64 (R147). -/
  | atomAddI64 (w : Bool) (c : BitVec 3) (o : BitVec 2) (d : BitVec 7) (a : BitVec 7)
  /-- ATOM_EXCH_B64 (R147). -/
  | atomExchB64 (w : Bool) (c : BitVec 3) (o : BitVec 2) (d : BitVec 7) (a : BitVec 7)
  /-- ATOM_CAS_B64 (R147). -/
  | atomCasB64 (w : Bool) (c : BitVec 3) (o : BitVec 2) (d : BitVec 7) (a : BitVec 7)
  /-- ATOM_ADD2_BF16 (R147). -/
  | atomAdd2Bf16 (w : Bool) (c : BitVec 3) (o : BitVec 2) (d : BitVec 7) (a : BitVec 7)
  /-- POLL_B32 (R150). -/
  | pollB32 (y : Bool) (d : BitVec 7) (a : BitVec 7) (c : BitVec 3) (p : BitVec 2)
  /-- POLL_B64 (R150). -/
  | pollB64 (y : Bool) (d : BitVec 7) (a : BitVec 7) (c : BitVec 3) (p : BitVec 2)
  /-- PHASE_ACQ (R179). -/
  | phaseAcq (c : BitVec 3)
  /-- PHASE_REL (R179). -/
  | phaseRel (c : BitVec 3)
  /-- PHASE_AR (R179). -/
  | phaseAr (c : BitVec 3)
  /-- FENCE_SG (R180). -/
  | fenceSg
  /-- ICINV (R185). -/
  | icinv (s : Bool) (a : BitVec 7) (b : BitVec 7)
  /-- PFRANGE (R290). -/
  | pfrange (s : Bool) (d : BitVec 7) (a : BitVec 7) (b : BitVec 7)
  /-- STMAP (R151). -/
  | stmap (s : Bool) (d : BitVec 7) (a : BitVec 7) (b : BitVec 7)
  /-- STUNMAP (R153). -/
  | stunmap (a : BitVec 7)
  /-- SHFL (R128). -/
  | shfl (s : Bool) (d : BitVec 7) (a : BitVec 7) (b : BitVec 7)
  /-- SHFL_UP (R128). -/
  | shflUp (d : BitVec 7) (a : BitVec 7) (i : BitVec 8)
  /-- SHFL_DN (R128). -/
  | shflDn (d : BitVec 7) (a : BitVec 7) (i : BitVec 8)
  /-- SHFL_X (R128). -/
  | shflX (d : BitVec 7) (a : BitVec 7) (i : BitVec 8)
  /-- VOTE_ANY (R129). -/
  | voteAny (d : BitVec 7) (a : BitVec 7)
  /-- VOTE_ALL (R129). -/
  | voteAll (d : BitVec 7) (a : BitVec 7)
  /-- VOTE_BALLOT (R129). -/
  | voteBallot (d : BitVec 7) (a : BitVec 7)
  /-- VOTE_EQ (R129). -/
  | voteEq (d : BitVec 7) (a : BitVec 7)
  /-- REDUX_ADD_I32 (R130). -/
  | reduxAddI32 (d : BitVec 7) (a : BitVec 7)
  /-- REDUX_MAX_I32 (R130). -/
  | reduxMaxI32 (d : BitVec 7) (a : BitVec 7)
  /-- REDUX_ADD_F32 (R130). -/
  | reduxAddF32 (d : BitVec 7) (a : BitVec 7)
  /-- SCAN_ADD_I32 (R130). -/
  | scanAddI32 (d : BitVec 7) (a : BitVec 7)
  /-- XSEL (R127). -/
  | xsel (a : BitVec 7)
  /-- SAMPLE (R131). -/
  | sample (d : BitVec 7) (a : BitVec 7) (b : BitVec 7)
  /-- RNG_B32 (R133). -/
  | rngB32 (d : BitVec 7)
  /-- RNGCTL_NEXT (R134). -/
  | rngctlNext
  /-- RNGCTL_SET_STREAM (R134). -/
  | rngctlSetStream (a : BitVec 7)
  /-- RNGCTL_SET_KEY (R134). -/
  | rngctlSetKey (a : BitVec 7)
  /-- RNGCTL_READ_COUNTER (R134). -/
  | rngctlReadCounter (d : BitVec 7)
  /-- JOIN (R123). -/
  | join (d : BitVec 7)
  /-- LEAVE (R123). -/
  | leave (a : BitVec 7)
  /-- WAITK (R124). -/
  | waitk (a : BitVec 7)
  /-- KMOV (R125). -/
  | kmov (d : BitVec 7) (a : BitVec 7)
  /-- KMOV_FROM_SCALAR (R125). -/
  | kmovFromScalar (d : BitVec 7) (a : BitVec 7)
  /-- KMOV_TO_SCALAR (R125). -/
  | kmovToScalar (d : BitVec 7) (a : BitVec 7)
  /-- KOP (R125). -/
  | kop (d : BitVec 7) (a : BitVec 7) (f : BitVec 4)
  /-- BOFF (R188). -/
  | boff (d : BitVec 7) (t : BitVec 3) (c : BitVec 5)
  /-- PICKUP (R195). -/
  | pickup (d : BitVec 7) (a : BitVec 7) (t : BitVec 3) (c : BitVec 5)
  /-- ESTAT (R196). -/
  | estat (d : BitVec 7)
  /-- EXIT (R135). -/
  | exit
  /-- LD_TEX2 (R55). -/
  | ldTex2 (z : BitVec 23)
  /-- ST_SHARED32 (R55). -/
  | stShared32 (z : BitVec 23)
  /-- SADD_I32 (R92). -/
  | saddI32 (w : Bool) (d : BitVec 7) (a : BitVec 7) (b : BitVec 7)
  /-- SSUB_I32 (R92). -/
  | ssubI32 (w : Bool) (d : BitVec 7) (a : BitVec 7) (b : BitVec 7)
  /-- SMUL_I32 (R92). -/
  | smulI32 (w : Bool) (d : BitVec 7) (a : BitVec 7) (b : BitVec 7)
  /-- SAND_B32 (R92). -/
  | sandB32 (w : Bool) (d : BitVec 7) (a : BitVec 7) (b : BitVec 7)
  /-- SOR_B32 (R92). -/
  | sorB32 (w : Bool) (d : BitVec 7) (a : BitVec 7) (b : BitVec 7)
  /-- SXOR_B32 (R92). -/
  | sxorB32 (w : Bool) (d : BitVec 7) (a : BitVec 7) (b : BitVec 7)
  /-- SSHL_B32 (R92). -/
  | sshlB32 (w : Bool) (d : BitVec 7) (a : BitVec 7) (b : BitVec 7)
  /-- SSHR_N32 (R92). -/
  | sshrN32 (w : Bool) (d : BitVec 7) (a : BitVec 7) (b : BitVec 7)
  /-- SSHR_I32 (R92). -/
  | sshrI32 (w : Bool) (d : BitVec 7) (a : BitVec 7) (b : BitVec 7)
  /-- SMIN_I32 (R92). -/
  | sminI32 (w : Bool) (d : BitVec 7) (a : BitVec 7) (b : BitVec 7)
  /-- SMAX_I32 (R92). -/
  | smaxI32 (w : Bool) (d : BitVec 7) (a : BitVec 7) (b : BitVec 7)
  /-- SMIN_N32 (R92). -/
  | sminN32 (w : Bool) (d : BitVec 7) (a : BitVec 7) (b : BitVec 7)
  /-- SMAX_N32 (R92). -/
  | smaxN32 (w : Bool) (d : BitVec 7) (a : BitVec 7) (b : BitVec 7)
  /-- SSEQ_B32 (R92). -/
  | sseqB32 (w : Bool) (d : BitVec 7) (a : BitVec 7) (b : BitVec 7)
  /-- SSLT_I32 (R92). -/
  | ssltI32 (w : Bool) (d : BitVec 7) (a : BitVec 7) (b : BitVec 7)
  /-- SSLT_N32 (R92). -/
  | ssltN32 (w : Bool) (d : BitVec 7) (a : BitVec 7) (b : BitVec 7)
  /-- SSEL (R92). -/
  | ssel (w : Bool) (d : BitVec 7) (a : BitVec 7) (b : BitVec 7)
  /-- SMOV (R92). -/
  | smov (w : Bool) (d : BitVec 7) (a : BitVec 7)
  /-- SLI (R93). -/
  | sli (d : BitVec 7) (i : BitVec 16)
  /-- SLIH (R93). -/
  | slih (d : BitVec 7) (i : BitVec 16)
  /-- SADDI (R93). -/
  | saddi (d : BitVec 7) (i : BitVec 16)
  /-- VLI (R93). -/
  | vli (d : BitVec 7) (i : BitVec 16)
  /-- VLIH (R93). -/
  | vlih (d : BitVec 7) (i : BitVec 16)
  /-- SLD_B32 (R94). -/
  | sldB32 (d : BitVec 7) (a : BitVec 7) (p : BitVec 2) (f : BitVec 6)
  /-- SLD_B64 (R94). -/
  | sldB64 (d : BitVec 7) (a : BitVec 7) (p : BitVec 2) (f : BitVec 6)
  /-- SST_B32 (R94). -/
  | sstB32 (d : BitVec 7) (a : BitVec 7) (p : BitVec 2) (f : BitVec 6)
  /-- SST_B64 (R94). -/
  | sstB64 (d : BitVec 7) (a : BitVec 7) (p : BitVec 2) (f : BitVec 6)
  /-- SRD (R96). -/
  | srd (d : BitVec 7) (n : BitVec 16)
  /-- SWR (R96). -/
  | swr (d : BitVec 7) (n : BitVec 16)
  /-- WBASE (R97). -/
  | wbase (i : BitVec 16)
  /-- BNZ (R120). -/
  | bnz (a : BitVec 7) (o : BitVec 16)
  /-- BZ (R120). -/
  | bz (a : BitVec 7) (o : BitVec 16)
  /-- BRA (R120). -/
  | bra (o : BitVec 16)
  /-- BNZS (R120). -/
  | bnzs (a : BitVec 7) (o : BitVec 16)
  /-- CALL (R120). -/
  | call (a : BitVec 7) (o : BitVec 16)
  /-- RET (R120). -/
  | ret (a : BitVec 7)
  /-- JMP (R120). -/
  | jmp (a : BitVec 7)
  /-- YIELD (R120). -/
  | yield
  /-- MIGR (R302). -/
  | migr (i : BitVec 16)
  /-- SBAR32 (R55). -/
  | sbar32 (z : BitVec 23)
  /-- SJOIN32 (R55). -/
  | sjoin32 (z : BitVec 23)
  /-- TRAP (R266). -/
  | trap (i : BitVec 21)
  /-- RFT (R265). -/
  | rft
  /-- TFENCE (R82). -/
  | tfence
  /-- HALT (R267). -/
  | halt
  /-- SLEEP (R274). -/
  | sleep (a : BitVec 7)
  /-- SLEEPC (R274). -/
  | sleepc (i : BitVec 21)
  /-- BAR_WG (R170). -/
  | barWg
  /-- BAR_CL (R294). -/
  | barCl (i : BitVec 21)
  /-- BARC_INIT (R172). -/
  | barcInit (a : BitVec 7) (b : BitVec 7)
  /-- BARC_ARRIVE (R172). -/
  | barcArrive (a : BitVec 7)
  /-- BARC_WAIT (R172). -/
  | barcWait (a : BitVec 7)
  /-- MACQ (R212). -/
  | macq
  /-- MREL (R212). -/
  | mrel
  /-- MLDW (R217). -/
  | mldw (a : BitVec 7) (b : BitVec 7)
  /-- MLDW_TABLE (R217). -/
  | mldwTable (a : BitVec 7) (b : BitVec 7)
  /-- MSWAP (R218). -/
  | mswap
  /-- MSWAP_FL (R218). -/
  | mswapFl
  /-- MSTR (R219). -/
  | mstr (d : BitVec 7) (a : BitVec 7) (b : BitVec 7)
  /-- MRD (R221). -/
  | mrd (d : BitVec 7) (a : BitVec 7) (b : BitVec 7)
  /-- MZERO (R222). -/
  | mzero (t : BitVec 3)
  /-- MSTAT (R223). -/
  | mstat (d : BitVec 7)
  /-- TTPOST (R296). -/
  | ttpost (d : BitVec 7) (a : BitVec 7)
  /-- NPOST (R236). -/
  | npost (d : BitVec 7) (a : BitVec 7)
  /-- NCTL_RETRY (R254). -/
  | nctlRetry (a : BitVec 7) (b : BitVec 7)
  /-- NCTL_SKIP (R254). -/
  | nctlSkip (a : BitVec 7) (b : BitVec 7)
  /-- NCTL_ABORT (R254). -/
  | nctlAbort (a : BitVec 7) (b : BitVec 7)
  /-- NCTL_EXTEND (R254). -/
  | nctlExtend (a : BitVec 7) (b : BitVec 7)
  /-- BSEAL (R249). -/
  | bseal (d : BitVec 7)
  /-- BWAIT (R249). -/
  | bwait (a : BitVec 7)
  /-- CWAIT (R246). -/
  | cwait (a : BitVec 7) (b : BitVec 7)
  /-- OSCAN (R312). -/
  | oscan (a : BitVec 7) (b : BitVec 7)
  /-- OCOMP (R313). -/
  | ocomp (a : BitVec 7) (b : BitVec 7)
  /-- OLEGAL (R314). -/
  | olegal (a : BitVec 7) (b : BitVec 7)
  /-- OAPPLY (R313). -/
  | oapply (a : BitVec 7) (b : BitVec 7)
  /-- OSTAT (R315). -/
  | ostat (d : BitVec 7)
  /-- J (R120). -/
  | j (o : BitVec 24)
  /-- JL (R120). -/
  | jl (o : BitVec 24)
  /-- RETIRED_X_GROUP (R53). -/
  | retiredXGroup (g : BitVec 1) (z : BitVec 25)
  /-- N_ADD (R241). -/
  | nAdd (d : BitVec 4) (a : BitVec 4) (b : BitVec 4)
  /-- N_SUB (R241). -/
  | nSub (d : BitVec 4) (a : BitVec 4) (b : BitVec 4)
  /-- N_MUL (R241). -/
  | nMul (d : BitVec 4) (a : BitVec 4) (b : BitVec 4)
  /-- N_AND (R241). -/
  | nAnd (d : BitVec 4) (a : BitVec 4) (b : BitVec 4)
  /-- N_OR (R241). -/
  | nOr (d : BitVec 4) (a : BitVec 4) (b : BitVec 4)
  /-- N_XOR (R241). -/
  | nXor (d : BitVec 4) (a : BitVec 4) (b : BitVec 4)
  /-- N_SHL (R241). -/
  | nShl (d : BitVec 4) (a : BitVec 4) (b : BitVec 4)
  /-- N_SHR (R241). -/
  | nShr (d : BitVec 4) (a : BitVec 4) (b : BitVec 4)
  /-- N_MIN (R241). -/
  | nMin (d : BitVec 4) (a : BitVec 4) (b : BitVec 4)
  /-- N_MAX (R241). -/
  | nMax (d : BitVec 4) (a : BitVec 4) (b : BitVec 4)
  /-- N_ADDI (R241). -/
  | nAddi (d : BitVec 4) (a : BitVec 4) (i : BitVec 8)
  /-- N_LI (R241). -/
  | nLi (d : BitVec 4) (i : BitVec 16)
  /-- N_LIH (R241). -/
  | nLih (d : BitVec 4) (i : BitVec 16)
  /-- N_BZ (R241). -/
  | nBz (d : BitVec 4) (o : BitVec 16)
  /-- N_BNZ (R241). -/
  | nBnz (d : BitVec 4) (o : BitVec 16)
  /-- N_BLT (R241). -/
  | nBlt (a : BitVec 4) (b : BitVec 4) (o : BitVec 8)
  /-- N_LOOP (R241). -/
  | nLoop (d : BitVec 4) (o : BitVec 16)
  /-- N_LD_B32 (R242). -/
  | nLdB32 (d : BitVec 4) (a : BitVec 4) (f : BitVec 8)
  /-- N_LD_B64 (R242). -/
  | nLdB64 (d : BitVec 4) (a : BitVec 4) (f : BitVec 8)
  /-- N_ST_B64 (R242). -/
  | nStB64 (d : BitVec 4) (a : BitVec 4) (f : BitVec 8)
  /-- N_TAG (R243). -/
  | nTag (g : BitVec 2) (a : BitVec 4)
  /-- N_STEP (R243). -/
  | nStep (g : BitVec 2) (i : BitVec 8)
  /-- N_COPY (R244). -/
  | nCopy (g : BitVec 2) (h : BitVec 2) (b : BitVec 4)
  /-- N_GATHER (R244). -/
  | nGather (g : BitVec 2) (h : BitVec 2) (b : BitVec 4)
  /-- N_SCAT (R244). -/
  | nScat (g : BitVec 2) (h : BitVec 2) (b : BitVec 4)
  /-- N_CHUNK (R245). -/
  | nChunk (a : BitVec 4) (b : BitVec 4)
  /-- N_ARRIVE (R247). -/
  | nArrive (a : BitVec 4)
  /-- N_WAIT (R247). -/
  | nWait (a : BitVec 4)
  /-- N_PROMISE (R248). -/
  | nPromise (a : BitVec 4)
  /-- N_END (R248). -/
  | nEnd
  /-- N_TRAP (R248). -/
  | nTrap (i : BitVec 16)
  /-- LOAD_DATA_ARRIVAL (R141). -/
  | loadDataArrival (sg : Nat)
  /-- RELEASE_COMPLETE (R178). -/
  | releaseComplete (sg : Nat)
  /-- PAGE_WALK_COMPLETE (R340). -/
  | pageWalkComplete (core : Nat)
  /-- POLL_REREAD (R162). -/
  | pollReread (core row : Nat)
  /-- FAIR_T_EXPIRY (R161). -/
  | fairTExpiry (core row : Nat)
  /-- SLEEP_EXPIRY (R274). -/
  | sleepExpiry (sg : Nat)
  /-- SLEEPC_EXPIRY (R274). -/
  | sleepcExpiry (sg : Nat)
  /-- TRAP_ENTRY (R260). -/
  | trapEntry (sg : Nat)
  /-- ASYNC_TRAP_ENTRY (R272). -/
  | asyncTrapEntry (sg : Nat)
  /-- FAULT_SERVICE_RESOLVED (R268). -/
  | faultServiceResolved (sg : Nat)
  /-- FAULT_SERVICE_UNRESOLVABLE (R269). -/
  | faultServiceUnresolvable (sg : Nat)
  /-- CONTINUATION_ENTRY (R269). -/
  | continuationEntry (sg : Nat)
  /-- ACCCLAIM (R227). -/
  | accclaim (core : Nat)
  /-- PROMISE_EXPIRY (R250). -/
  | promiseExpiry (wg slot : Nat)
  /-- NEEDLE_TAKE_ENTRY (R238). -/
  | needleTakeEntry (core needle : Nat)
  /-- MATRIX_COMMAND_COMPLETE (R214). -/
  | matrixCommandComplete (core : Nat)
  /-- TILE_TASK_START (R297). -/
  | tileTaskStart (cluster : Nat)
  /-- TILE_TASK_COMPLETE (R299). -/
  | tileTaskComplete (cluster : Nat)
  /-- ORRERY_COMMAND_PERFORM (R310). -/
  | orreryCommandPerform (cluster : Nat)
  /-- PFRANGE_COMPLETE (R290). -/
  | pfrangeComplete (cmd : Nat)
  /-- QRSV_READ (R349). -/
  | qrsvRead (q : Nat)
  /-- QCTL_ENABLE (R348). -/
  | qctlEnable (q : Nat) (on : Bool)
  /-- QCTL_DRAIN (R348). -/
  | qctlDrain (q : Nat)
  /-- QUEUE_DRAIN_END (R348). -/
  | queueDrainEnd (q : Nat)
  /-- QUEUE_WAKE (R351). -/
  | queueWake (q : Nat)
  /-- QUEUE_RESCAN (R351). -/
  | queueRescan
  /-- ENTRY_CONSUME (R350). -/
  | entryConsume (q : Nat)
  /-- NOP (R350). -/
  | nop (seq : Nat)
  /-- LAUNCH (R354). -/
  | launch (seq : Nat)
  /-- LAUNCH_ADMISSION (R357). -/
  | launchAdmission (seq : Nat)
  /-- GRAPH (R359). -/
  | graph (seq : Nat)
  /-- GRAPH_NODE_START (R359). -/
  | graphNodeStart (seq node : Nat)
  /-- LOOP_ITERATION (R359). -/
  | loopIteration (seq node : Nat)
  /-- SIGNAL (R353). -/
  | signal (seq : Nat)
  /-- WAIT (R353). -/
  | wait (seq : Nat)
  /-- WAIT_SATISFIED (R353). -/
  | waitSatisfied (seq : Nat)
  /-- RELEASE_ESTATES (R206). -/
  | releaseEstates (seq : Nat)
  /-- REGION_UPDATE (R358). -/
  | regionUpdate (seq : Nat)
  /-- REGION_CREATE (R358). -/
  | regionCreate (seq : Nat)
  /-- REGION_DESTROY (R358). -/
  | regionDestroy (seq : Nat)
  /-- REGION_CHECKPOINT (R358). -/
  | regionCheckpoint (seq : Nat)
  /-- WORKGROUP_PLACEMENT (R327). -/
  | workgroupPlacement (launch : Nat)
  /-- ESTATE_MOVE_COMPLETE (R200). -/
  | estateMoveComplete (core row slot : Nat)
  /-- ESTATE_ARRIVAL (R202). -/
  | estateArrival (wg : Nat)
  /-- WORKGROUP_BIRTH (R192). -/
  | workgroupBirth (wg : Nat)
  /-- WORKGROUP_FREE (R168). -/
  | workgroupFree (wg : Nat)
  /-- PREEMPT_DECISION (R273). -/
  | preemptDecision (core : Nat)
  /-- PREEMPT_DEADLINE (R273). -/
  | preemptDeadline (core : Nat)
  /-- PREEMPTION_SWAP (R276). -/
  | preemptionSwap (core ctx : Nat)
  /-- SHADOW_SPILL_FILL (R278). -/
  | shadowSpillFill (core ctx : Nat)
  /-- SCRATCHPAD_PAGE_EXCHANGE (R279). -/
  | scratchpadPageExchange (wg page : Nat)
  /-- DVFS_STEP (R322). -/
  | dvfsStep (die : Nat) (domL : Bool) (code : BitVec 4)
  /-- RELOCK_END (R322). -/
  | relockEnd (die : Nat) (domL : Bool)
  /-- DEBUG_RESUME (R380). -/
  | debugResume (ctx : Nat) (area : BitVec 64)
  /-- PC_SAMPLE (R384). -/
  | pcSample (core : Nat)
  /-- PATROL_SCRUB (R344). -/
  | patrolScrub (unit : Nat) (state : BitVec 2)
  /-- XINV_CTL_GO (R341). -/
  | xinvCtlGo
  /-- INVALIDATION_COMPLETE (R342). -/
  | invalidationComplete
  /-- DEV_CTL_RESUME (R370). -/
  | devCtlResume
  /-- DBG_CTL_GO (R378). -/
  | dbgCtlGo
  /-- JRIDX_WRITE (R362). -/
  | jridxWrite (n : BitVec 64)
  /-- CNT_CTL_FREEZE (R383). -/
  | cntCtlFreeze (on : Bool)
  /-- CNT_CTL_CLEAR (R383). -/
  | cntCtlClear
  /-- EXP_CTL_OPEN (R391). -/
  | expCtlOpen (win : Nat) (wprot : Bool)
  /-- EXP_CTL_CLOSE (R391). -/
  | expCtlClose (win : Nat)
  /-- EXPORT_CLOSE_COMPLETE (R391). -/
  | exportCloseComplete (win : Nat)
  /-- REGISTER_WRITE (R5). -/
  | registerWrite (off size : Nat) (val : BitVec 64)
  /-- BAR2_READ (R186). -/
  | bar2Read (off size : Nat)
  /-- BAR2_WRITE (R368), of one line or less. -/
  | bar2Write (off size : Nat) (val : BitVec 512)
  /-- HOST_ATOMICOP (R334). -/
  | hostAtomicop (off : Nat) (wide : Bool) (op : BitVec 2) (x y : BitVec 64)
  /-- SIDEBAND_READ (R374). -/
  | sidebandRead (off size : Nat)
  /-- PLDM_SENSOR_READ (R374). -/
  | pldmSensorRead (sensor : BitVec 3)
  /-- POWER_CAP_EFFECTER (R374). -/
  | powerCapEffecter (watts : Nat)
  /-- RESET_EFFECTER (R374). -/
  | resetEffecter
  /-- COLD_RESET_EFFECTER (R374). -/
  | coldResetEffecter
  /-- FIRMWARE_UPDATE (R374). -/
  | firmwareUpdate (len : Nat)
  /-- FUNCTION_LEVEL_RESET (R371). -/
  | functionLevelReset
  /-- FLR_COMPLETE (R371). -/
  | flrComplete
  /-- SURPRISE_LINK_LOSS (R373). -/
  | surpriseLinkLoss
  /-- QUIESCE_COMPLETE (R373). -/
  | quiesceComplete
  /-- LINK_RETRAIN (R373). -/
  | linkRetrain
  /-- POWER_ON (R376). -/
  | powerOn (gmTime : Option (BitVec 64))
  /-- PERST_DEASSERT (R376). -/
  | perstDeassert
  /-- BRINGUP_READY (R376). -/
  | bringupReady
  /-- THERMAL_THROTTLE (R375). -/
  | thermalThrottle (die : Nat)
  /-- THERMAL_TRIP (R375). -/
  | thermalTrip
  /-- FLIT_RECEIVE (R387): the header, the payload and the CRC-32 of a flit. -/
  | flitReceive (port : Nat) (head : BitVec 32) (payload : BitVec 448) (check : BitVec 32)
  /-- ACK_TIMEOUT (R388). -/
  | ackTimeout (port : Nat)
  /-- PORT_RETRAIN_COMPLETE (R388). -/
  | portRetrainComplete (port peer pport : Nat)
  /-- REMOTE_REQUEST (R391, R393): the port that the request came over and its request id; its operand, for a compare-and-swap with the new value in the upper half. -/
  | remoteRequest (id : Nat × Nat) (key : BitVec 16) (op : BitVec 5) (loc size : Nat) (val : BitVec 1024)
  /-- REMOTE_TIMEOUT (R393). -/
  | remoteTimeout (sg : Nat) (store : Bool)
  /-- RESPONSE_RETENTION_EXPIRY (R393). -/
  | responseRetentionExpiry (id : Nat)
  /-- PTP_MESSAGE (R394). -/
  | ptpMessage (offset : Int) (gmReached : Bool)
  /-- RESERVED_OPCODE (R55). -/
  | reservedOpcode (word : BitVec 32)
  /-- FETCH_BUFFER_FILL (R184). -/
  | fetchBufferFill (core : Nat) (line : BitVec 64)
  /-- PICKUP_COMPLETE (R195). -/
  | pickupComplete (sg : Nat)
  /-- CLOCK_CYCLE (R319). -/
  | clockCycle (die : Nat) (domL : Bool)
  /-- SOFT_ERROR (R343). -/
  | softError (kind : BitVec 4) (unit : Nat) (correctable : Bool)
  /-- CXL_MEM_REQUEST (R367): a read, or a write of one line or less. -/
  | cxlMemRequest (write : Bool) (loc size : Nat) (val : BitVec 512)
  /-- RESIZABLE_BAR_RESIZE (R368). -/
  | resizableBarResize (log2 : Nat)
  deriving DecidableEq, Repr

end Sys2Proof
end

