-- ==== Sys2Proof/Decode.lean ====
section
/-!
DEFINITION. The decoder, total on any bytes, and after it the encoder, both from the encoding tables of R39, R40 and R49 to R54.

The decoder refuses a word by the check of R55 that it breaks: a reserved opcode, group or NOP (order 1), bit 22 where the format fixes it
(order 5), SB where the format fixes it (order 6), a reserved or unused field (order 7), a value outside a fixed list (order 9). What depends on the
form, on the level or on a register's number is checked by the meaning of the instruction.
-/

namespace Sys2Proof

/-- Why a word, or a string of bytes, is no instruction (R55). -/
inductive DecodeError where
  /-- A reserved class value, opcode, GRP, SUB or NOP: detail 0x01. -/
  | reserved
  /-- Bit 22 set where R44 wants 0: detail 0x04. -/
  | bit22
  /-- SB against R45: detail 0x05. -/
  | sb
  /-- A nonzero reserved or unused field: detail 0x06. -/
  | field
  /-- KIND 0 of a PH word, or B of `kmov` above 2: detail 0x08. -/
  | limit
  /-- Fewer than the four bytes of a word: no word was fetched. -/
  | short
  deriving DecidableEq, Repr

/-- The detail code of R55 for a refused word. -/
def DecodeError.detail : DecodeError → Nat
  | .reserved => 1
  | .bit22 => 4
  | .sb => 5
  | .field => 6
  | .limit => 8
  | .short => 1

/-- Bit `n` of a word. -/
def bit (w : Word) (n : Nat) : Bool := w.getLsbD n
/-- Bits [lo + n - 1 : lo] of a word. -/
def field (w : Word) (lo n : Nat) : BitVec n := w.extractLsb' lo n

/-- The V class: the opcode field, bits [29:23], selects the row (R49). -/
def decodeV (w : Word) : Except DecodeError Instr :=
  match (field w 23 7).toNat with
  | 0 => .ok (.addI32 (bit w 22) (bit w 21) (field w 14 7) (field w 7 7) (field w 0 7))
  | 1 => .ok (.subI32 (bit w 22) (bit w 21) (field w 14 7) (field w 7 7) (field w 0 7))
  | 2 => .ok (.mulI32 (bit w 22) (bit w 21) (field w 14 7) (field w 7 7) (field w 0 7))
  | 3 => .ok (.mulhiI32 (bit w 22) (bit w 21) (field w 14 7) (field w 7 7) (field w 0 7))
  | 4 => .ok (.mulhiN32 (bit w 22) (bit w 21) (field w 14 7) (field w 7 7) (field w 0 7))
  | 5 => .ok (.madI32 (bit w 22) (bit w 21) (field w 14 7) (field w 7 7) (field w 0 7))
  | 6 => .ok (.addI64 (bit w 22) (bit w 21) (field w 14 7) (field w 7 7) (field w 0 7))
  | 7 => .ok (.subI64 (bit w 22) (bit w 21) (field w 14 7) (field w 7 7) (field w 0 7))
  | 8 => .ok (.andB32 (bit w 22) (bit w 21) (field w 14 7) (field w 7 7) (field w 0 7))
  | 9 => .ok (.orB32 (bit w 22) (bit w 21) (field w 14 7) (field w 7 7) (field w 0 7))
  | 10 => .ok (.xorB32 (bit w 22) (bit w 21) (field w 14 7) (field w 7 7) (field w 0 7))
  | 11 => .ok (.andnB32 (bit w 22) (bit w 21) (field w 14 7) (field w 7 7) (field w 0 7))
  | 12 => .ok (.shlB32 (bit w 22) (bit w 21) (field w 14 7) (field w 7 7) (field w 0 7))
  | 13 => .ok (.shrN32 (bit w 22) (bit w 21) (field w 14 7) (field w 7 7) (field w 0 7))
  | 14 => .ok (.shrI32 (bit w 22) (bit w 21) (field w 14 7) (field w 7 7) (field w 0 7))
  | 15 => .ok (.rotB32 (bit w 22) (bit w 21) (field w 14 7) (field w 7 7) (field w 0 7))
  | 16 => .ok (.minI32 (bit w 22) (bit w 21) (field w 14 7) (field w 7 7) (field w 0 7))
  | 17 => .ok (.maxI32 (bit w 22) (bit w 21) (field w 14 7) (field w 7 7) (field w 0 7))
  | 18 => .ok (.minN32 (bit w 22) (bit w 21) (field w 14 7) (field w 7 7) (field w 0 7))
  | 19 => .ok (.maxN32 (bit w 22) (bit w 21) (field w 14 7) (field w 7 7) (field w 0 7))
  | 20 => .ok (.seqB32 (bit w 22) (bit w 21) (field w 14 7) (field w 7 7) (field w 0 7))
  | 21 => .ok (.sneB32 (bit w 22) (bit w 21) (field w 14 7) (field w 7 7) (field w 0 7))
  | 22 => .ok (.sltI32 (bit w 22) (bit w 21) (field w 14 7) (field w 7 7) (field w 0 7))
  | 23 => .ok (.sleI32 (bit w 22) (bit w 21) (field w 14 7) (field w 7 7) (field w 0 7))
  | 24 => .ok (.sltN32 (bit w 22) (bit w 21) (field w 14 7) (field w 7 7) (field w 0 7))
  | 25 => .ok (.sleN32 (bit w 22) (bit w 21) (field w 14 7) (field w 7 7) (field w 0 7))
  | 26 => .ok (.sel (bit w 22) (bit w 21) (field w 14 7) (field w 7 7) (field w 0 7))
  | 27 => if bit w 21 then .error .sb else if field w 0 7 != 0 then .error .field else .ok (.popcB32 (bit w 22) (field w 14 7) (field w 7 7))
  | 28 => if bit w 21 then .error .sb else if field w 0 7 != 0 then .error .field else .ok (.clzB32 (bit w 22) (field w 14 7) (field w 7 7))
  | 29 => .ok (.bfeN32 (bit w 22) (bit w 21) (field w 14 7) (field w 7 7) (field w 0 7))
  | 30 => .ok (.bfiB32 (bit w 22) (bit w 21) (field w 14 7) (field w 7 7) (field w 0 7))
  | 31 => if bit w 21 then .error .sb else if field w 0 7 != 0 then .error .field else .ok (.brevB32 (bit w 22) (field w 14 7) (field w 7 7))
  | 32 => .ok (.addiI32 (bit w 22) (field w 15 7) (field w 8 7) (field w 0 8))
  | 33 => .ok (.andi (bit w 22) (field w 15 7) (field w 8 7) (field w 0 8))
  | 34 => .ok (.ori (bit w 22) (field w 15 7) (field w 8 7) (field w 0 8))
  | 35 => .ok (.xori (bit w 22) (field w 15 7) (field w 8 7) (field w 0 8))
  | 36 => if field w 5 3 != 0 then .error .field else .ok (.shli (bit w 22) (field w 15 7) (field w 8 7) (field w 0 5))
  | 37 => if field w 5 3 != 0 then .error .field else .ok (.shriN32 (bit w 22) (field w 15 7) (field w 8 7) (field w 0 5))
  | 38 => if field w 5 3 != 0 then .error .field else .ok (.shriI32 (bit w 22) (field w 15 7) (field w 8 7) (field w 0 5))
  | 39 => .ok (.muliI32 (bit w 22) (field w 15 7) (field w 8 7) (field w 0 8))
  | 40 => .ok (.dp4I8 (bit w 22) (bit w 21) (field w 14 7) (field w 7 7) (field w 0 7))
  | 41 => .ok (.dp4N8 (bit w 22) (bit w 21) (field w 14 7) (field w 7 7) (field w 0 7))
  | 42 => if bit w 21 then .error .sb else if field w 0 7 != 0 then .error .field else .ok (.mov (bit w 22) (field w 14 7) (field w 7 7))
  | 44 => .ok (.leaX4 (bit w 22) (bit w 21) (field w 14 7) (field w 7 7) (field w 0 7))
  | 45 => .ok (.leaX8 (bit w 22) (bit w 21) (field w 14 7) (field w 7 7) (field w 0 7))
  | 48 => .ok (.faddF32 (bit w 22) (bit w 21) (field w 14 7) (field w 7 7) (field w 0 7))
  | 49 => .ok (.fsubF32 (bit w 22) (bit w 21) (field w 14 7) (field w 7 7) (field w 0 7))
  | 50 => .ok (.fmulF32 (bit w 22) (bit w 21) (field w 14 7) (field w 7 7) (field w 0 7))
  | 51 => .ok (.ffmaF32 (bit w 22) (bit w 21) (field w 14 7) (field w 7 7) (field w 0 7))
  | 52 => .ok (.fminF32 (bit w 22) (bit w 21) (field w 14 7) (field w 7 7) (field w 0 7))
  | 53 => .ok (.fmaxF32 (bit w 22) (bit w 21) (field w 14 7) (field w 7 7) (field w 0 7))
  | 54 => .ok (.fminnmF32 (bit w 22) (bit w 21) (field w 14 7) (field w 7 7) (field w 0 7))
  | 55 => .ok (.fmaxnmF32 (bit w 22) (bit w 21) (field w 14 7) (field w 7 7) (field w 0 7))
  | 56 => .ok (.fseqF32 (bit w 22) (bit w 21) (field w 14 7) (field w 7 7) (field w 0 7))
  | 57 => .ok (.fsltF32 (bit w 22) (bit w 21) (field w 14 7) (field w 7 7) (field w 0 7))
  | 58 => .ok (.fsleF32 (bit w 22) (bit w 21) (field w 14 7) (field w 7 7) (field w 0 7))
  | 59 => .ok (.fsunF32 (bit w 22) (bit w 21) (field w 14 7) (field w 7 7) (field w 0 7))
  | 60 => if bit w 21 then .error .sb else if field w 0 7 != 0 then .error .field else .ok (.fnegF32 (bit w 22) (field w 14 7) (field w 7 7))
  | 61 => if bit w 21 then .error .sb else if field w 0 7 != 0 then .error .field else .ok (.fabsF32 (bit w 22) (field w 14 7) (field w 7 7))
  | 62 => if bit w 21 then .error .sb else if field w 0 7 != 0 then .error .field else .ok (.frcpF32 (bit w 22) (field w 14 7) (field w 7 7))
  | 63 => if bit w 21 then .error .sb else if field w 0 7 != 0 then .error .field else .ok (.frsqF32 (bit w 22) (field w 14 7) (field w 7 7))
  | 64 => if bit w 21 then .error .sb else if field w 0 7 != 0 then .error .field else .ok (.fsqrtF32 (bit w 22) (field w 14 7) (field w 7 7))
  | 65 => .ok (.fdivF32 (bit w 22) (bit w 21) (field w 14 7) (field w 7 7) (field w 0 7))
  | 66 => if bit w 21 then .error .sb else if field w 0 7 != 0 then .error .field else .ok (.fex2F32 (bit w 22) (field w 14 7) (field w 7 7))
  | 67 => if bit w 21 then .error .sb else if field w 0 7 != 0 then .error .field else .ok (.flg2F32 (bit w 22) (field w 14 7) (field w 7 7))
  | 68 => if bit w 21 then .error .sb else if field w 0 7 != 0 then .error .field else .ok (.fsinF32 (bit w 22) (field w 14 7) (field w 7 7))
  | 69 => if bit w 21 then .error .sb else if field w 0 7 != 0 then .error .field else .ok (.fcosF32 (bit w 22) (field w 14 7) (field w 7 7))
  | 70 => .ok (.hadd2F16 (bit w 22) (bit w 21) (field w 14 7) (field w 7 7) (field w 0 7))
  | 71 => .ok (.hmul2F16 (bit w 22) (bit w 21) (field w 14 7) (field w 7 7) (field w 0 7))
  | 72 => .ok (.hfma2F16 (bit w 22) (bit w 21) (field w 14 7) (field w 7 7) (field w 0 7))
  | 73 => .ok (.badd2Bf16 (bit w 22) (bit w 21) (field w 14 7) (field w 7 7) (field w 0 7))
  | 74 => .ok (.bmul2Bf16 (bit w 22) (bit w 21) (field w 14 7) (field w 7 7) (field w 0 7))
  | 75 => .ok (.bfma2Bf16 (bit w 22) (bit w 21) (field w 14 7) (field w 7 7) (field w 0 7))
  | 76 => .ok (.daddF64 (bit w 22) (bit w 21) (field w 14 7) (field w 7 7) (field w 0 7))
  | 77 => .ok (.dmulF64 (bit w 22) (bit w 21) (field w 14 7) (field w 7 7) (field w 0 7))
  | 78 => .ok (.dfmaF64 (bit w 22) (bit w 21) (field w 14 7) (field w 7 7) (field w 0 7))
  | 79 => .ok (.dsltF64 (bit w 22) (bit w 21) (field w 14 7) (field w 7 7) (field w 0 7))
  | 80 => .ok (.cvt (bit w 22) (field w 15 7) (field w 8 7) (field w 5 3) (field w 0 5))
  | 81 => .ok (.fscaleF32 (bit w 22) (bit w 21) (field w 14 7) (field w 7 7) (field w 0 7))
  | 82 => if field w 0 5 != 0 then .error .field else .ok (.frndF32 (bit w 22) (field w 15 7) (field w 8 7) (field w 5 3))
  | 83 => if bit w 21 then .error .sb else if field w 0 7 != 0 then .error .field else .ok (.fclassF32 (bit w 22) (field w 14 7) (field w 7 7))
  | 84 => .ok (.fdot2Bf16 (bit w 22) (bit w 21) (field w 14 7) (field w 7 7) (field w 0 7))
  | 85 => .ok (.dseqF64 (bit w 22) (bit w 21) (field w 14 7) (field w 7 7) (field w 0 7))
  | 96 => if bit w 22 then .error .bit22 else .ok (.mad24I32 (bit w 21) (field w 14 7) (field w 7 7) (field w 0 7))
  | 97 => if bit w 22 then .error .bit22 else .ok (.fmulLg (bit w 21) (field w 14 7) (field w 7 7) (field w 0 7))
  | 98 => if bit w 22 then .error .bit22 else if field w 0 7 != 0 then .error .field else .ok (.vote32Ballot (bit w 21) (field w 14 7) (field w 7 7))
  | 99 => if bit w 22 then .error .bit22 else .ok (.shfl32 (bit w 21) (field w 14 7) (field w 7 7) (field w 0 7))
  | _ => .error .reserved

/-- The M class: the opcode field, bits [29:23], selects the row (R51). A `kmov` whose B is 3 or more is refused for its field before its registers are looked at, and bit 21
of `exit` is one of the bits of its Z word that must be 0 (DESIGN CHOICE, log 58). -/
def decodeM (w : Word) : Except DecodeError Instr :=
  match (field w 23 7).toNat with
  | 0 => if bit w 22 then .error .bit22 else .ok (.ldI8 (field w 15 7) (field w 8 7) (field w 6 2) (field w 0 6))
  | 1 => if bit w 22 then .error .bit22 else .ok (.ldN8 (field w 15 7) (field w 8 7) (field w 6 2) (field w 0 6))
  | 2 => if bit w 22 then .error .bit22 else .ok (.ldI16 (field w 15 7) (field w 8 7) (field w 6 2) (field w 0 6))
  | 3 => if bit w 22 then .error .bit22 else .ok (.ldN16 (field w 15 7) (field w 8 7) (field w 6 2) (field w 0 6))
  | 4 => if bit w 22 then .error .bit22 else .ok (.ldB32 (field w 15 7) (field w 8 7) (field w 6 2) (field w 0 6))
  | 5 => if bit w 22 then .error .bit22 else .ok (.ldB64 (field w 15 7) (field w 8 7) (field w 6 2) (field w 0 6))
  | 6 => if bit w 22 then .error .bit22 else .ok (.ldB128 (field w 15 7) (field w 8 7) (field w 6 2) (field w 0 6))
  | 8 => if bit w 22 then .error .bit22 else .ok (.stB8 (field w 15 7) (field w 8 7) (field w 6 2) (field w 0 6))
  | 9 => if bit w 22 then .error .bit22 else .ok (.stB16 (field w 15 7) (field w 8 7) (field w 6 2) (field w 0 6))
  | 10 => if bit w 22 then .error .bit22 else .ok (.stB32 (field w 15 7) (field w 8 7) (field w 6 2) (field w 0 6))
  | 11 => if bit w 22 then .error .bit22 else .ok (.stB64 (field w 15 7) (field w 8 7) (field w 6 2) (field w 0 6))
  | 12 => if bit w 22 then .error .bit22 else .ok (.stB128 (field w 15 7) (field w 8 7) (field w 6 2) (field w 0 6))
  | 14 => if bit w 22 then .error .bit22 else if field w 0 3 != 0 then .error .field else .ok (.ldAcqB32 (field w 15 7) (field w 8 7) (field w 5 3) (field w 3 2))
  | 15 => if bit w 22 then .error .bit22 else if field w 0 3 != 0 then .error .field else .ok (.ldAcqB64 (field w 15 7) (field w 8 7) (field w 5 3) (field w 3 2))
  | 16 => if bit w 22 then .error .bit22 else if field w 0 3 != 0 then .error .field else .ok (.stRelB32 (field w 15 7) (field w 8 7) (field w 5 3) (field w 3 2))
  | 17 => if bit w 22 then .error .bit22 else if field w 0 3 != 0 then .error .field else .ok (.stRelB64 (field w 15 7) (field w 8 7) (field w 5 3) (field w 3 2))
  | 18 => if bit w 22 then .error .bit22 else .ok (.stMcB64 (field w 15 7) (field w 8 7) (field w 6 2) (field w 0 6))
  | 32 => if field w 14 3 != 0 then .error .field else .ok (.atomAddI32 (bit w 22) (field w 19 3) (field w 17 2) (field w 7 7) (field w 0 7))
  | 33 => if field w 14 3 != 0 then .error .field else .ok (.atomAddF32 (bit w 22) (field w 19 3) (field w 17 2) (field w 7 7) (field w 0 7))
  | 34 => if field w 14 3 != 0 then .error .field else .ok (.atomMinI32 (bit w 22) (field w 19 3) (field w 17 2) (field w 7 7) (field w 0 7))
  | 35 => if field w 14 3 != 0 then .error .field else .ok (.atomMaxI32 (bit w 22) (field w 19 3) (field w 17 2) (field w 7 7) (field w 0 7))
  | 36 => if field w 14 3 != 0 then .error .field else .ok (.atomMinN32 (bit w 22) (field w 19 3) (field w 17 2) (field w 7 7) (field w 0 7))
  | 37 => if field w 14 3 != 0 then .error .field else .ok (.atomMaxN32 (bit w 22) (field w 19 3) (field w 17 2) (field w 7 7) (field w 0 7))
  | 38 => if field w 14 3 != 0 then .error .field else .ok (.atomAndB32 (bit w 22) (field w 19 3) (field w 17 2) (field w 7 7) (field w 0 7))
  | 39 => if field w 14 3 != 0 then .error .field else .ok (.atomOrB32 (bit w 22) (field w 19 3) (field w 17 2) (field w 7 7) (field w 0 7))
  | 40 => if field w 14 3 != 0 then .error .field else .ok (.atomXorB32 (bit w 22) (field w 19 3) (field w 17 2) (field w 7 7) (field w 0 7))
  | 41 => if field w 14 3 != 0 then .error .field else .ok (.atomExchB32 (bit w 22) (field w 19 3) (field w 17 2) (field w 7 7) (field w 0 7))
  | 42 => if field w 14 3 != 0 then .error .field else .ok (.atomCasB32 (bit w 22) (field w 19 3) (field w 17 2) (field w 7 7) (field w 0 7))
  | 43 => if field w 14 3 != 0 then .error .field else .ok (.atomAddI64 (bit w 22) (field w 19 3) (field w 17 2) (field w 7 7) (field w 0 7))
  | 44 => if field w 14 3 != 0 then .error .field else .ok (.atomExchB64 (bit w 22) (field w 19 3) (field w 17 2) (field w 7 7) (field w 0 7))
  | 45 => if field w 14 3 != 0 then .error .field else .ok (.atomCasB64 (bit w 22) (field w 19 3) (field w 17 2) (field w 7 7) (field w 0 7))
  | 46 => if field w 14 3 != 0 then .error .field else .ok (.atomAdd2Bf16 (bit w 22) (field w 19 3) (field w 17 2) (field w 7 7) (field w 0 7))
  | 48 => if field w 0 3 != 0 then .error .field else .ok (.pollB32 (bit w 22) (field w 15 7) (field w 8 7) (field w 5 3) (field w 3 2))
  | 49 => if field w 0 3 != 0 then .error .field else .ok (.pollB64 (bit w 22) (field w 15 7) (field w 8 7) (field w 5 3) (field w 3 2))
  | 56 => if bit w 22 then .error .bit22 else if field w 0 17 != 0 then .error .field else match (field w 17 2).toNat with
    | 1 => .ok (.phaseAcq (field w 19 3))
    | 2 => .ok (.phaseRel (field w 19 3))
    | 3 => .ok (.phaseAr (field w 19 3))
    | _ => .error .limit
  | 57 => if bit w 22 then .error .bit22 else if field w 0 22 != 0 then .error .field else .ok .fenceSg
  | 58 => if bit w 22 then .error .bit22 else if field w 14 7 != 0 then .error .field else .ok (.icinv (bit w 21) (field w 7 7) (field w 0 7))
  | 59 => if bit w 22 then .error .bit22 else .ok (.pfrange (bit w 21) (field w 14 7) (field w 7 7) (field w 0 7))
  | 60 => if bit w 22 then .error .bit22 else .ok (.stmap (bit w 21) (field w 14 7) (field w 7 7) (field w 0 7))
  | 61 => if bit w 22 then .error .bit22 else if bit w 21 then .error .sb else if field w 14 7 != 0 || field w 0 7 != 0 then .error .field else .ok (.stunmap (field w 7 7))
  | 64 => if bit w 22 then .error .bit22 else .ok (.shfl (bit w 21) (field w 14 7) (field w 7 7) (field w 0 7))
  | 65 => if bit w 22 then .error .bit22 else .ok (.shflUp (field w 15 7) (field w 8 7) (field w 0 8))
  | 66 => if bit w 22 then .error .bit22 else .ok (.shflDn (field w 15 7) (field w 8 7) (field w 0 8))
  | 67 => if bit w 22 then .error .bit22 else .ok (.shflX (field w 15 7) (field w 8 7) (field w 0 8))
  | 68 => if bit w 22 then .error .bit22 else if bit w 21 then .error .sb else if field w 0 7 != 0 then .error .field else .ok (.voteAny (field w 14 7) (field w 7 7))
  | 69 => if bit w 22 then .error .bit22 else if bit w 21 then .error .sb else if field w 0 7 != 0 then .error .field else .ok (.voteAll (field w 14 7) (field w 7 7))
  | 70 => if bit w 22 then .error .bit22 else if bit w 21 then .error .sb else if field w 0 7 != 0 then .error .field else .ok (.voteBallot (field w 14 7) (field w 7 7))
  | 71 => if bit w 22 then .error .bit22 else if bit w 21 then .error .sb else if field w 0 7 != 0 then .error .field else .ok (.voteEq (field w 14 7) (field w 7 7))
  | 72 => if bit w 22 then .error .bit22 else if bit w 21 then .error .sb else if field w 0 7 != 0 then .error .field else .ok (.reduxAddI32 (field w 14 7) (field w 7 7))
  | 73 => if bit w 22 then .error .bit22 else if bit w 21 then .error .sb else if field w 0 7 != 0 then .error .field else .ok (.reduxMaxI32 (field w 14 7) (field w 7 7))
  | 74 => if bit w 22 then .error .bit22 else if bit w 21 then .error .sb else if field w 0 7 != 0 then .error .field else .ok (.reduxAddF32 (field w 14 7) (field w 7 7))
  | 75 => if bit w 22 then .error .bit22 else if bit w 21 then .error .sb else if field w 0 7 != 0 then .error .field else .ok (.scanAddI32 (field w 14 7) (field w 7 7))
  | 76 => if bit w 22 then .error .bit22 else if bit w 21 then .error .sb else if field w 14 7 != 0 || field w 0 7 != 0 then .error .field else .ok (.xsel (field w 7 7))
  | 77 => if bit w 22 then .error .bit22 else if !bit w 21 then .error .sb else .ok (.sample (field w 14 7) (field w 7 7) (field w 0 7))
  | 78 => if bit w 22 then .error .bit22 else if bit w 21 then .error .sb else if field w 0 14 != 0 then .error .field else .ok (.rngB32 (field w 14 7))
  | 79 => if bit w 22 then .error .bit22 else if field w 2 6 != 0 then .error .field else match (field w 0 2).toNat with
    | 0 => if field w 8 14 != 0 then .error .field else .ok .rngctlNext
    | 1 => if field w 15 7 != 0 then .error .field else .ok (.rngctlSetStream (field w 8 7))
    | 2 => if field w 15 7 != 0 then .error .field else .ok (.rngctlSetKey (field w 8 7))
    | _ => if field w 8 7 != 0 then .error .field else .ok (.rngctlReadCounter (field w 15 7))
  | 88 => if bit w 22 then .error .bit22 else if bit w 21 then .error .sb else if field w 0 14 != 0 then .error .field else .ok (.join (field w 14 7))
  | 89 => if bit w 22 then .error .bit22 else if bit w 21 then .error .sb else if field w 14 7 != 0 || field w 0 7 != 0 then .error .field else .ok (.leave (field w 7 7))
  | 90 => if bit w 22 then .error .bit22 else if bit w 21 then .error .sb else if field w 14 7 != 0 || field w 0 7 != 0 then .error .field else .ok (.waitk (field w 7 7))
  | 91 => if bit w 22 then .error .bit22 else if bit w 21 then .error .sb else match (field w 0 7).toNat with
    | 0 => .ok (.kmov (field w 14 7) (field w 7 7))
    | 1 => .ok (.kmovFromScalar (field w 14 7) (field w 7 7))
    | 2 => .ok (.kmovToScalar (field w 14 7) (field w 7 7))
    | _ => .error .limit
  | 92 => if bit w 22 then .error .bit22 else if field w 4 4 != 0 then .error .field else .ok (.kop (field w 15 7) (field w 8 7) (field w 0 4))
  | 96 => if bit w 22 then .error .bit22 else if field w 8 7 != 0 then .error .field else .ok (.boff (field w 15 7) (field w 5 3) (field w 0 5))
  | 97 => if bit w 22 then .error .bit22 else .ok (.pickup (field w 15 7) (field w 8 7) (field w 5 3) (field w 0 5))
  | 98 => if bit w 22 then .error .bit22 else if bit w 21 then .error .sb else if field w 0 14 != 0 then .error .field else .ok (.estat (field w 14 7))
  | 99 => if bit w 22 then .error .bit22 else if field w 0 22 != 0 then .error .field else .ok .exit
  | 112 => .ok (.ldTex2 (field w 0 23))
  | 113 => .ok (.stShared32 (field w 0 23))
  | _ => .error .reserved

/-- The S class: the opcode field, bits [29:23], selects the row (R52). -/
def decodeS (w : Word) : Except DecodeError Instr :=
  match (field w 23 7).toNat with
  | 0 => if bit w 21 then .error .sb else .ok (.saddI32 (bit w 22) (field w 14 7) (field w 7 7) (field w 0 7))
  | 1 => if bit w 21 then .error .sb else .ok (.ssubI32 (bit w 22) (field w 14 7) (field w 7 7) (field w 0 7))
  | 2 => if bit w 21 then .error .sb else .ok (.smulI32 (bit w 22) (field w 14 7) (field w 7 7) (field w 0 7))
  | 3 => if bit w 21 then .error .sb else .ok (.sandB32 (bit w 22) (field w 14 7) (field w 7 7) (field w 0 7))
  | 4 => if bit w 21 then .error .sb else .ok (.sorB32 (bit w 22) (field w 14 7) (field w 7 7) (field w 0 7))
  | 5 => if bit w 21 then .error .sb else .ok (.sxorB32 (bit w 22) (field w 14 7) (field w 7 7) (field w 0 7))
  | 6 => if bit w 21 then .error .sb else .ok (.sshlB32 (bit w 22) (field w 14 7) (field w 7 7) (field w 0 7))
  | 7 => if bit w 21 then .error .sb else .ok (.sshrN32 (bit w 22) (field w 14 7) (field w 7 7) (field w 0 7))
  | 8 => if bit w 21 then .error .sb else .ok (.sshrI32 (bit w 22) (field w 14 7) (field w 7 7) (field w 0 7))
  | 9 => if bit w 21 then .error .sb else .ok (.sminI32 (bit w 22) (field w 14 7) (field w 7 7) (field w 0 7))
  | 10 => if bit w 21 then .error .sb else .ok (.smaxI32 (bit w 22) (field w 14 7) (field w 7 7) (field w 0 7))
  | 11 => if bit w 21 then .error .sb else .ok (.sminN32 (bit w 22) (field w 14 7) (field w 7 7) (field w 0 7))
  | 12 => if bit w 21 then .error .sb else .ok (.smaxN32 (bit w 22) (field w 14 7) (field w 7 7) (field w 0 7))
  | 13 => if bit w 21 then .error .sb else .ok (.sseqB32 (bit w 22) (field w 14 7) (field w 7 7) (field w 0 7))
  | 14 => if bit w 21 then .error .sb else .ok (.ssltI32 (bit w 22) (field w 14 7) (field w 7 7) (field w 0 7))
  | 15 => if bit w 21 then .error .sb else .ok (.ssltN32 (bit w 22) (field w 14 7) (field w 7 7) (field w 0 7))
  | 16 => if bit w 21 then .error .sb else .ok (.ssel (bit w 22) (field w 14 7) (field w 7 7) (field w 0 7))
  | 17 => if bit w 21 then .error .sb else if field w 0 7 != 0 then .error .field else .ok (.smov (bit w 22) (field w 14 7) (field w 7 7))
  | 32 => .ok (.sli (field w 16 7) (field w 0 16))
  | 33 => .ok (.slih (field w 16 7) (field w 0 16))
  | 34 => .ok (.saddi (field w 16 7) (field w 0 16))
  | 35 => .ok (.vli (field w 16 7) (field w 0 16))
  | 36 => .ok (.vlih (field w 16 7) (field w 0 16))
  | 40 => if bit w 22 then .error .bit22 else .ok (.sldB32 (field w 15 7) (field w 8 7) (field w 6 2) (field w 0 6))
  | 41 => if bit w 22 then .error .bit22 else .ok (.sldB64 (field w 15 7) (field w 8 7) (field w 6 2) (field w 0 6))
  | 42 => if bit w 22 then .error .bit22 else .ok (.sstB32 (field w 15 7) (field w 8 7) (field w 6 2) (field w 0 6))
  | 43 => if bit w 22 then .error .bit22 else .ok (.sstB64 (field w 15 7) (field w 8 7) (field w 6 2) (field w 0 6))
  | 48 => .ok (.srd (field w 16 7) (field w 0 16))
  | 49 => .ok (.swr (field w 16 7) (field w 0 16))
  | 50 => if field w 16 7 != 0 then .error .field else .ok (.wbase (field w 0 16))
  | 64 => .ok (.bnz (field w 16 7) (field w 0 16))
  | 65 => .ok (.bz (field w 16 7) (field w 0 16))
  | 66 => if field w 16 7 != 0 then .error .field else .ok (.bra (field w 0 16))
  | 67 => .ok (.bnzs (field w 16 7) (field w 0 16))
  | 68 => .ok (.call (field w 16 7) (field w 0 16))
  | 69 => if field w 0 16 != 0 then .error .field else .ok (.ret (field w 16 7))
  | 70 => if field w 0 16 != 0 then .error .field else .ok (.jmp (field w 16 7))
  | 71 => if field w 0 23 != 0 then .error .field else .ok .yield
  | 73 => if field w 16 7 != 0 then .error .field else .ok (.migr (field w 0 16))
  | 96 => .ok (.sbar32 (field w 0 23))
  | 97 => .ok (.sjoin32 (field w 0 23))
  | _ => .error .reserved

/-- The needle words, group 0x06: NOP, bits [24:20], selects the row (R54). -/
noncomputable def decodeN (w : Word) : Except DecodeError Instr :=
  match (field w 20 5).toNat with
  | 0 => if field w 0 8 != 0 then .error .field else .ok (.nAdd (field w 16 4) (field w 12 4) (field w 8 4))
  | 1 => if field w 0 8 != 0 then .error .field else .ok (.nSub (field w 16 4) (field w 12 4) (field w 8 4))
  | 2 => if field w 0 8 != 0 then .error .field else .ok (.nMul (field w 16 4) (field w 12 4) (field w 8 4))
  | 3 => if field w 0 8 != 0 then .error .field else .ok (.nAnd (field w 16 4) (field w 12 4) (field w 8 4))
  | 4 => if field w 0 8 != 0 then .error .field else .ok (.nOr (field w 16 4) (field w 12 4) (field w 8 4))
  | 5 => if field w 0 8 != 0 then .error .field else .ok (.nXor (field w 16 4) (field w 12 4) (field w 8 4))
  | 6 => if field w 0 8 != 0 then .error .field else .ok (.nShl (field w 16 4) (field w 12 4) (field w 8 4))
  | 7 => if field w 0 8 != 0 then .error .field else .ok (.nShr (field w 16 4) (field w 12 4) (field w 8 4))
  | 8 => if field w 0 8 != 0 then .error .field else .ok (.nMin (field w 16 4) (field w 12 4) (field w 8 4))
  | 9 => if field w 0 8 != 0 then .error .field else .ok (.nMax (field w 16 4) (field w 12 4) (field w 8 4))
  | 10 => if field w 8 4 != 0 then .error .field else .ok (.nAddi (field w 16 4) (field w 12 4) (field w 0 8))
  | 11 => .ok (.nLi (field w 16 4) (field w 0 16))
  | 12 => .ok (.nLih (field w 16 4) (field w 0 16))
  | 13 => .ok (.nBz (field w 16 4) (field w 0 16))
  | 14 => .ok (.nBnz (field w 16 4) (field w 0 16))
  | 15 => if field w 16 4 != 0 then .error .field else .ok (.nBlt (field w 12 4) (field w 8 4) (field w 0 8))
  | 16 => .ok (.nLoop (field w 16 4) (field w 0 16))
  | 17 => if field w 8 4 != 0 then .error .field else .ok (.nLdB32 (field w 16 4) (field w 12 4) (field w 0 8))
  | 18 => if field w 8 4 != 0 then .error .field else .ok (.nLdB64 (field w 16 4) (field w 12 4) (field w 0 8))
  | 19 => if field w 8 4 != 0 then .error .field else .ok (.nStB64 (field w 16 4) (field w 12 4) (field w 0 8))
  | 20 => if field w 18 2 != 0 || field w 0 12 != 0 then .error .field else .ok (.nTag (field w 16 2) (field w 12 4))
  | 21 => if field w 18 2 != 0 || field w 8 8 != 0 then .error .field else .ok (.nStep (field w 16 2) (field w 0 8))
  | 22 => if field w 18 2 != 0 || field w 14 2 != 0 || field w 0 8 != 0 then .error .field else .ok (.nCopy (field w 16 2) (field w 12 2) (field w 8 4))
  | 23 => if field w 18 2 != 0 || field w 14 2 != 0 || field w 0 8 != 0 then .error .field else .ok (.nGather (field w 16 2) (field w 12 2) (field w 8 4))
  | 24 => if field w 18 2 != 0 || field w 14 2 != 0 || field w 0 8 != 0 then .error .field else .ok (.nScat (field w 16 2) (field w 12 2) (field w 8 4))
  | 25 => if field w 16 4 != 0 || field w 0 8 != 0 then .error .field else .ok (.nChunk (field w 12 4) (field w 8 4))
  | 26 => if field w 16 4 != 0 || field w 0 12 != 0 then .error .field else .ok (.nArrive (field w 12 4))
  | 27 => if field w 16 4 != 0 || field w 0 12 != 0 then .error .field else .ok (.nWait (field w 12 4))
  | 28 => if field w 16 4 != 0 || field w 0 12 != 0 then .error .field else .ok (.nPromise (field w 12 4))
  | 29 => if field w 0 20 != 0 then .error .field else .ok .nEnd
  | 30 => if field w 16 4 != 0 then .error .field else .ok (.nTrap (field w 0 16))
  | _ => .error .reserved

/-- Group 0x00 of the X class: SUB, bits [24:21], selects the row (R53). -/
def decodeX0 (w : Word) : Except DecodeError Instr :=
  match (field w 21 4).toNat with
  | 0 => .ok (.trap (field w 0 21))
  | 1 => if field w 0 21 != 0 then .error .field else .ok .rft
  | 2 => if field w 0 21 != 0 then .error .field else .ok .tfence
  | 3 => if field w 0 21 != 0 then .error .field else .ok .halt
  | 4 => if field w 14 7 != 0 || field w 0 7 != 0 then .error .field else .ok (.sleep (field w 7 7))
  | 5 => .ok (.sleepc (field w 0 21))
  | _ => .error .reserved

/-- Group 0x01 of the X class: SUB, bits [24:21], selects the row (R53). -/
def decodeX1 (w : Word) : Except DecodeError Instr :=
  match (field w 21 4).toNat with
  | 0 => if field w 0 21 != 0 then .error .field else .ok .barWg
  | 1 => .ok (.barCl (field w 0 21))
  | 2 => if field w 14 7 != 0 then .error .field else .ok (.barcInit (field w 7 7) (field w 0 7))
  | 3 => if field w 14 7 != 0 || field w 0 7 != 0 then .error .field else .ok (.barcArrive (field w 7 7))
  | 4 => if field w 14 7 != 0 || field w 0 7 != 0 then .error .field else .ok (.barcWait (field w 7 7))
  | _ => .error .reserved

/-- Group 0x02 of the X class: SUB, bits [24:21], selects the row (R53). -/
def decodeX2 (w : Word) : Except DecodeError Instr :=
  match (field w 21 4).toNat with
  | 0 => if field w 0 21 != 0 then .error .field else .ok .macq
  | 1 => if field w 0 21 != 0 then .error .field else .ok .mrel
  | 2 => if field w 14 7 != 0 then .error .field else .ok (.mldw (field w 7 7) (field w 0 7))
  | 3 => if field w 1 20 != 0 then .error .field else if bit w 0 then .ok .mswapFl else .ok .mswap
  | 4 => .ok (.mstr (field w 14 7) (field w 7 7) (field w 0 7))
  | 5 => .ok (.mrd (field w 14 7) (field w 7 7) (field w 0 7))
  | 6 => if field w 3 18 != 0 then .error .field else .ok (.mzero (field w 0 3))
  | 7 => if field w 0 14 != 0 then .error .field else .ok (.mstat (field w 14 7))
  | 8 => if field w 0 7 != 0 then .error .field else .ok (.ttpost (field w 14 7) (field w 7 7))
  | _ => .error .reserved

/-- Group 0x03 of the X class: SUB, bits [24:21], selects the row (R53). -/
def decodeX3 (w : Word) : Except DecodeError Instr :=
  match (field w 21 4).toNat with
  | 0 => if field w 0 7 != 0 then .error .field else .ok (.npost (field w 14 7) (field w 7 7))
  | 1 => if field w 14 7 != 0 then .error .field else .ok (.nctlRetry (field w 7 7) (field w 0 7))
  | 2 => if field w 0 14 != 0 then .error .field else .ok (.bseal (field w 14 7))
  | 3 => if field w 14 7 != 0 || field w 0 7 != 0 then .error .field else .ok (.bwait (field w 7 7))
  | 4 => if field w 14 7 != 0 then .error .field else .ok (.cwait (field w 7 7) (field w 0 7))
  | _ => .error .reserved

/-- Group 0x04 of the X class: SUB, bits [24:21], selects the row (R53). -/
def decodeX4 (w : Word) : Except DecodeError Instr :=
  match (field w 21 4).toNat with
  | 0 => if field w 14 7 != 0 then .error .field else .ok (.oscan (field w 7 7) (field w 0 7))
  | 1 => if field w 14 7 != 0 then .error .field else .ok (.ocomp (field w 7 7) (field w 0 7))
  | 2 => if field w 14 7 != 0 then .error .field else .ok (.olegal (field w 7 7) (field w 0 7))
  | 3 => if field w 14 7 != 0 then .error .field else .ok (.oapply (field w 7 7) (field w 0 7))
  | 4 => if field w 0 14 != 0 then .error .field else .ok (.ostat (field w 14 7))
  | _ => .error .reserved

/-- The X class: GRP, bits [29:25], selects the group (R53). Groups 0x1C and 0x1D are retired whatever their other bits. -/
noncomputable def decodeX (w : Word) : Except DecodeError Instr :=
  match (field w 25 5).toNat with
  | 0 => decodeX0 w
  | 1 => decodeX1 w
  | 2 => decodeX2 w
  | 3 => decodeX3 w
  | 4 => decodeX4 w
  | 5 => if bit w 24 then .ok (.jl (field w 0 24)) else .ok (.j (field w 0 24))
  | 6 => decodeN w
  | 28 => .ok (.retiredXGroup (field w 25 1) (field w 0 25))
  | 29 => .ok (.retiredXGroup (field w 25 1) (field w 0 25))
  | _ => .error .reserved

/-- Decode one word: total, with every rejection under its own name (R38, R55). -/
noncomputable def decode (w : Word) : Except DecodeError Instr :=
  match (field w 30 2).toNat with
  | 0 => decodeV w
  | 1 => decodeM w
  | 2 => decodeS w
  | _ => decodeX w

/-- A word from its four bytes, the lowest address first (R4, R38). -/
def wordOfBytes (b0 b1 b2 b3 : Byte) : Word := b3 ++ b2 ++ b1 ++ b0

/-- Decode the instruction at the head of a string of bytes. -/
noncomputable def decodeBytes : List Byte → Except DecodeError Instr
  | b0 :: b1 :: b2 :: b3 :: _ => decode (wordOfBytes b0 b1 b2 b3)
  | _ => .error .short

/-- The instruction the decoder reads from a word whose bits are `w`, numbered as spec/opcode_table.json numbers them: every instruction is one
32-bit word (R38), laid out little-endian; none where the decoder refuses. -/
noncomputable def decodeTableWord (_nbits w : Nat) : Option Instr :=
  let x : Word := BitVec.ofNat 32 w
  match decodeBytes [x.extractLsb' 0 8, x.extractLsb' 8 8, x.extractLsb' 16 8, x.extractLsb' 24 8] with
  | .ok i => some i
  | .error _ => none

/-- The word of an instruction, from the same encoding tables; an event has none. The table load of `mldw` and the four operations of `nctl` share
one word each: a value in a scalar tells them apart when the word is performed (R216, R254). -/
def encode : Instr → Option Word
  | .addI32 w s d a b => some (0x0#9 ++ BitVec.ofBool w ++ BitVec.ofBool s ++ d ++ a ++ b)
  | .subI32 w s d a b => some (0x1#9 ++ BitVec.ofBool w ++ BitVec.ofBool s ++ d ++ a ++ b)
  | .mulI32 w s d a b => some (0x2#9 ++ BitVec.ofBool w ++ BitVec.ofBool s ++ d ++ a ++ b)
  | .mulhiI32 w s d a b => some (0x3#9 ++ BitVec.ofBool w ++ BitVec.ofBool s ++ d ++ a ++ b)
  | .mulhiN32 w s d a b => some (0x4#9 ++ BitVec.ofBool w ++ BitVec.ofBool s ++ d ++ a ++ b)
  | .madI32 w s d a b => some (0x5#9 ++ BitVec.ofBool w ++ BitVec.ofBool s ++ d ++ a ++ b)
  | .addI64 w s d a b => some (0x6#9 ++ BitVec.ofBool w ++ BitVec.ofBool s ++ d ++ a ++ b)
  | .subI64 w s d a b => some (0x7#9 ++ BitVec.ofBool w ++ BitVec.ofBool s ++ d ++ a ++ b)
  | .andB32 w s d a b => some (0x8#9 ++ BitVec.ofBool w ++ BitVec.ofBool s ++ d ++ a ++ b)
  | .orB32 w s d a b => some (0x9#9 ++ BitVec.ofBool w ++ BitVec.ofBool s ++ d ++ a ++ b)
  | .xorB32 w s d a b => some (0xA#9 ++ BitVec.ofBool w ++ BitVec.ofBool s ++ d ++ a ++ b)
  | .andnB32 w s d a b => some (0xB#9 ++ BitVec.ofBool w ++ BitVec.ofBool s ++ d ++ a ++ b)
  | .shlB32 w s d a b => some (0xC#9 ++ BitVec.ofBool w ++ BitVec.ofBool s ++ d ++ a ++ b)
  | .shrN32 w s d a b => some (0xD#9 ++ BitVec.ofBool w ++ BitVec.ofBool s ++ d ++ a ++ b)
  | .shrI32 w s d a b => some (0xE#9 ++ BitVec.ofBool w ++ BitVec.ofBool s ++ d ++ a ++ b)
  | .rotB32 w s d a b => some (0xF#9 ++ BitVec.ofBool w ++ BitVec.ofBool s ++ d ++ a ++ b)
  | .minI32 w s d a b => some (0x10#9 ++ BitVec.ofBool w ++ BitVec.ofBool s ++ d ++ a ++ b)
  | .maxI32 w s d a b => some (0x11#9 ++ BitVec.ofBool w ++ BitVec.ofBool s ++ d ++ a ++ b)
  | .minN32 w s d a b => some (0x12#9 ++ BitVec.ofBool w ++ BitVec.ofBool s ++ d ++ a ++ b)
  | .maxN32 w s d a b => some (0x13#9 ++ BitVec.ofBool w ++ BitVec.ofBool s ++ d ++ a ++ b)
  | .seqB32 w s d a b => some (0x14#9 ++ BitVec.ofBool w ++ BitVec.ofBool s ++ d ++ a ++ b)
  | .sneB32 w s d a b => some (0x15#9 ++ BitVec.ofBool w ++ BitVec.ofBool s ++ d ++ a ++ b)
  | .sltI32 w s d a b => some (0x16#9 ++ BitVec.ofBool w ++ BitVec.ofBool s ++ d ++ a ++ b)
  | .sleI32 w s d a b => some (0x17#9 ++ BitVec.ofBool w ++ BitVec.ofBool s ++ d ++ a ++ b)
  | .sltN32 w s d a b => some (0x18#9 ++ BitVec.ofBool w ++ BitVec.ofBool s ++ d ++ a ++ b)
  | .sleN32 w s d a b => some (0x19#9 ++ BitVec.ofBool w ++ BitVec.ofBool s ++ d ++ a ++ b)
  | .sel w s d a b => some (0x1A#9 ++ BitVec.ofBool w ++ BitVec.ofBool s ++ d ++ a ++ b)
  | .popcB32 w d a => some (0x1B#9 ++ BitVec.ofBool w ++ 0x0#1 ++ d ++ a ++ 0x0#7)
  | .clzB32 w d a => some (0x1C#9 ++ BitVec.ofBool w ++ 0x0#1 ++ d ++ a ++ 0x0#7)
  | .bfeN32 w s d a b => some (0x1D#9 ++ BitVec.ofBool w ++ BitVec.ofBool s ++ d ++ a ++ b)
  | .bfiB32 w s d a b => some (0x1E#9 ++ BitVec.ofBool w ++ BitVec.ofBool s ++ d ++ a ++ b)
  | .brevB32 w d a => some (0x1F#9 ++ BitVec.ofBool w ++ 0x0#1 ++ d ++ a ++ 0x0#7)
  | .addiI32 w d a i => some (0x20#9 ++ BitVec.ofBool w ++ d ++ a ++ i)
  | .andi w d a i => some (0x21#9 ++ BitVec.ofBool w ++ d ++ a ++ i)
  | .ori w d a i => some (0x22#9 ++ BitVec.ofBool w ++ d ++ a ++ i)
  | .xori w d a i => some (0x23#9 ++ BitVec.ofBool w ++ d ++ a ++ i)
  | .shli w d a i => some (0x24#9 ++ BitVec.ofBool w ++ d ++ a ++ 0x0#3 ++ i)
  | .shriN32 w d a i => some (0x25#9 ++ BitVec.ofBool w ++ d ++ a ++ 0x0#3 ++ i)
  | .shriI32 w d a i => some (0x26#9 ++ BitVec.ofBool w ++ d ++ a ++ 0x0#3 ++ i)
  | .muliI32 w d a i => some (0x27#9 ++ BitVec.ofBool w ++ d ++ a ++ i)
  | .dp4I8 w s d a b => some (0x28#9 ++ BitVec.ofBool w ++ BitVec.ofBool s ++ d ++ a ++ b)
  | .dp4N8 w s d a b => some (0x29#9 ++ BitVec.ofBool w ++ BitVec.ofBool s ++ d ++ a ++ b)
  | .mov w d a => some (0x2A#9 ++ BitVec.ofBool w ++ 0x0#1 ++ d ++ a ++ 0x0#7)
  | .leaX4 w s d a b => some (0x2C#9 ++ BitVec.ofBool w ++ BitVec.ofBool s ++ d ++ a ++ b)
  | .leaX8 w s d a b => some (0x2D#9 ++ BitVec.ofBool w ++ BitVec.ofBool s ++ d ++ a ++ b)
  | .faddF32 w s d a b => some (0x30#9 ++ BitVec.ofBool w ++ BitVec.ofBool s ++ d ++ a ++ b)
  | .fsubF32 w s d a b => some (0x31#9 ++ BitVec.ofBool w ++ BitVec.ofBool s ++ d ++ a ++ b)
  | .fmulF32 w s d a b => some (0x32#9 ++ BitVec.ofBool w ++ BitVec.ofBool s ++ d ++ a ++ b)
  | .ffmaF32 w s d a b => some (0x33#9 ++ BitVec.ofBool w ++ BitVec.ofBool s ++ d ++ a ++ b)
  | .fminF32 w s d a b => some (0x34#9 ++ BitVec.ofBool w ++ BitVec.ofBool s ++ d ++ a ++ b)
  | .fmaxF32 w s d a b => some (0x35#9 ++ BitVec.ofBool w ++ BitVec.ofBool s ++ d ++ a ++ b)
  | .fminnmF32 w s d a b => some (0x36#9 ++ BitVec.ofBool w ++ BitVec.ofBool s ++ d ++ a ++ b)
  | .fmaxnmF32 w s d a b => some (0x37#9 ++ BitVec.ofBool w ++ BitVec.ofBool s ++ d ++ a ++ b)
  | .fseqF32 w s d a b => some (0x38#9 ++ BitVec.ofBool w ++ BitVec.ofBool s ++ d ++ a ++ b)
  | .fsltF32 w s d a b => some (0x39#9 ++ BitVec.ofBool w ++ BitVec.ofBool s ++ d ++ a ++ b)
  | .fsleF32 w s d a b => some (0x3A#9 ++ BitVec.ofBool w ++ BitVec.ofBool s ++ d ++ a ++ b)
  | .fsunF32 w s d a b => some (0x3B#9 ++ BitVec.ofBool w ++ BitVec.ofBool s ++ d ++ a ++ b)
  | .fnegF32 w d a => some (0x3C#9 ++ BitVec.ofBool w ++ 0x0#1 ++ d ++ a ++ 0x0#7)
  | .fabsF32 w d a => some (0x3D#9 ++ BitVec.ofBool w ++ 0x0#1 ++ d ++ a ++ 0x0#7)
  | .frcpF32 w d a => some (0x3E#9 ++ BitVec.ofBool w ++ 0x0#1 ++ d ++ a ++ 0x0#7)
  | .frsqF32 w d a => some (0x3F#9 ++ BitVec.ofBool w ++ 0x0#1 ++ d ++ a ++ 0x0#7)
  | .fsqrtF32 w d a => some (0x40#9 ++ BitVec.ofBool w ++ 0x0#1 ++ d ++ a ++ 0x0#7)
  | .fdivF32 w s d a b => some (0x41#9 ++ BitVec.ofBool w ++ BitVec.ofBool s ++ d ++ a ++ b)
  | .fex2F32 w d a => some (0x42#9 ++ BitVec.ofBool w ++ 0x0#1 ++ d ++ a ++ 0x0#7)
  | .flg2F32 w d a => some (0x43#9 ++ BitVec.ofBool w ++ 0x0#1 ++ d ++ a ++ 0x0#7)
  | .fsinF32 w d a => some (0x44#9 ++ BitVec.ofBool w ++ 0x0#1 ++ d ++ a ++ 0x0#7)
  | .fcosF32 w d a => some (0x45#9 ++ BitVec.ofBool w ++ 0x0#1 ++ d ++ a ++ 0x0#7)
  | .hadd2F16 w s d a b => some (0x46#9 ++ BitVec.ofBool w ++ BitVec.ofBool s ++ d ++ a ++ b)
  | .hmul2F16 w s d a b => some (0x47#9 ++ BitVec.ofBool w ++ BitVec.ofBool s ++ d ++ a ++ b)
  | .hfma2F16 w s d a b => some (0x48#9 ++ BitVec.ofBool w ++ BitVec.ofBool s ++ d ++ a ++ b)
  | .badd2Bf16 w s d a b => some (0x49#9 ++ BitVec.ofBool w ++ BitVec.ofBool s ++ d ++ a ++ b)
  | .bmul2Bf16 w s d a b => some (0x4A#9 ++ BitVec.ofBool w ++ BitVec.ofBool s ++ d ++ a ++ b)
  | .bfma2Bf16 w s d a b => some (0x4B#9 ++ BitVec.ofBool w ++ BitVec.ofBool s ++ d ++ a ++ b)
  | .daddF64 w s d a b => some (0x4C#9 ++ BitVec.ofBool w ++ BitVec.ofBool s ++ d ++ a ++ b)
  | .dmulF64 w s d a b => some (0x4D#9 ++ BitVec.ofBool w ++ BitVec.ofBool s ++ d ++ a ++ b)
  | .dfmaF64 w s d a b => some (0x4E#9 ++ BitVec.ofBool w ++ BitVec.ofBool s ++ d ++ a ++ b)
  | .dsltF64 w s d a b => some (0x4F#9 ++ BitVec.ofBool w ++ BitVec.ofBool s ++ d ++ a ++ b)
  | .cvt w d a r x => some (0x50#9 ++ BitVec.ofBool w ++ d ++ a ++ r ++ x)
  | .fscaleF32 w s d a b => some (0x51#9 ++ BitVec.ofBool w ++ BitVec.ofBool s ++ d ++ a ++ b)
  | .frndF32 w d a r => some (0x52#9 ++ BitVec.ofBool w ++ d ++ a ++ r ++ 0x0#5)
  | .fclassF32 w d a => some (0x53#9 ++ BitVec.ofBool w ++ 0x0#1 ++ d ++ a ++ 0x0#7)
  | .fdot2Bf16 w s d a b => some (0x54#9 ++ BitVec.ofBool w ++ BitVec.ofBool s ++ d ++ a ++ b)
  | .dseqF64 w s d a b => some (0x55#9 ++ BitVec.ofBool w ++ BitVec.ofBool s ++ d ++ a ++ b)
  | .mad24I32 s d a b => some (0xC0#10 ++ BitVec.ofBool s ++ d ++ a ++ b)
  | .fmulLg s d a b => some (0xC2#10 ++ BitVec.ofBool s ++ d ++ a ++ b)
  | .vote32Ballot s d a => some (0xC4#10 ++ BitVec.ofBool s ++ d ++ a ++ 0x0#7)
  | .shfl32 s d a b => some (0xC6#10 ++ BitVec.ofBool s ++ d ++ a ++ b)
  | .ldI8 d a p f => some (0x100#10 ++ d ++ a ++ p ++ f)
  | .ldN8 d a p f => some (0x102#10 ++ d ++ a ++ p ++ f)
  | .ldI16 d a p f => some (0x104#10 ++ d ++ a ++ p ++ f)
  | .ldN16 d a p f => some (0x106#10 ++ d ++ a ++ p ++ f)
  | .ldB32 d a p f => some (0x108#10 ++ d ++ a ++ p ++ f)
  | .ldB64 d a p f => some (0x10A#10 ++ d ++ a ++ p ++ f)
  | .ldB128 d a p f => some (0x10C#10 ++ d ++ a ++ p ++ f)
  | .stB8 d a p f => some (0x110#10 ++ d ++ a ++ p ++ f)
  | .stB16 d a p f => some (0x112#10 ++ d ++ a ++ p ++ f)
  | .stB32 d a p f => some (0x114#10 ++ d ++ a ++ p ++ f)
  | .stB64 d a p f => some (0x116#10 ++ d ++ a ++ p ++ f)
  | .stB128 d a p f => some (0x118#10 ++ d ++ a ++ p ++ f)
  | .ldAcqB32 d a c p => some (0x11C#10 ++ d ++ a ++ c ++ p ++ 0x0#3)
  | .ldAcqB64 d a c p => some (0x11E#10 ++ d ++ a ++ c ++ p ++ 0x0#3)
  | .stRelB32 d a c p => some (0x120#10 ++ d ++ a ++ c ++ p ++ 0x0#3)
  | .stRelB64 d a c p => some (0x122#10 ++ d ++ a ++ c ++ p ++ 0x0#3)
  | .stMcB64 d a p f => some (0x124#10 ++ d ++ a ++ p ++ f)
  | .atomAddI32 w c o d a => some (0xA0#9 ++ BitVec.ofBool w ++ c ++ o ++ 0x0#3 ++ d ++ a)
  | .atomAddF32 w c o d a => some (0xA1#9 ++ BitVec.ofBool w ++ c ++ o ++ 0x0#3 ++ d ++ a)
  | .atomMinI32 w c o d a => some (0xA2#9 ++ BitVec.ofBool w ++ c ++ o ++ 0x0#3 ++ d ++ a)
  | .atomMaxI32 w c o d a => some (0xA3#9 ++ BitVec.ofBool w ++ c ++ o ++ 0x0#3 ++ d ++ a)
  | .atomMinN32 w c o d a => some (0xA4#9 ++ BitVec.ofBool w ++ c ++ o ++ 0x0#3 ++ d ++ a)
  | .atomMaxN32 w c o d a => some (0xA5#9 ++ BitVec.ofBool w ++ c ++ o ++ 0x0#3 ++ d ++ a)
  | .atomAndB32 w c o d a => some (0xA6#9 ++ BitVec.ofBool w ++ c ++ o ++ 0x0#3 ++ d ++ a)
  | .atomOrB32 w c o d a => some (0xA7#9 ++ BitVec.ofBool w ++ c ++ o ++ 0x0#3 ++ d ++ a)
  | .atomXorB32 w c o d a => some (0xA8#9 ++ BitVec.ofBool w ++ c ++ o ++ 0x0#3 ++ d ++ a)
  | .atomExchB32 w c o d a => some (0xA9#9 ++ BitVec.ofBool w ++ c ++ o ++ 0x0#3 ++ d ++ a)
  | .atomCasB32 w c o d a => some (0xAA#9 ++ BitVec.ofBool w ++ c ++ o ++ 0x0#3 ++ d ++ a)
  | .atomAddI64 w c o d a => some (0xAB#9 ++ BitVec.ofBool w ++ c ++ o ++ 0x0#3 ++ d ++ a)
  | .atomExchB64 w c o d a => some (0xAC#9 ++ BitVec.ofBool w ++ c ++ o ++ 0x0#3 ++ d ++ a)
  | .atomCasB64 w c o d a => some (0xAD#9 ++ BitVec.ofBool w ++ c ++ o ++ 0x0#3 ++ d ++ a)
  | .atomAdd2Bf16 w c o d a => some (0xAE#9 ++ BitVec.ofBool w ++ c ++ o ++ 0x0#3 ++ d ++ a)
  | .pollB32 y d a c p => some (0xB0#9 ++ BitVec.ofBool y ++ d ++ a ++ c ++ p ++ 0x0#3)
  | .pollB64 y d a c p => some (0xB1#9 ++ BitVec.ofBool y ++ d ++ a ++ c ++ p ++ 0x0#3)
  | .phaseAcq c => some (0x170#10 ++ c ++ 0x20000#19)
  | .phaseRel c => some (0x170#10 ++ c ++ 0x40000#19)
  | .phaseAr c => some (0x170#10 ++ c ++ 0x60000#19)
  | .fenceSg => some (0x5C800000#32)
  | .icinv s a b => some (0x174#10 ++ BitVec.ofBool s ++ 0x0#7 ++ a ++ b)
  | .pfrange s d a b => some (0x176#10 ++ BitVec.ofBool s ++ d ++ a ++ b)
  | .stmap s d a b => some (0x178#10 ++ BitVec.ofBool s ++ d ++ a ++ b)
  | .stunmap a => some (0x17A00#18 ++ a ++ 0x0#7)
  | .shfl s d a b => some (0x180#10 ++ BitVec.ofBool s ++ d ++ a ++ b)
  | .shflUp d a i => some (0x182#10 ++ d ++ a ++ i)
  | .shflDn d a i => some (0x184#10 ++ d ++ a ++ i)
  | .shflX d a i => some (0x186#10 ++ d ++ a ++ i)
  | .voteAny d a => some (0x310#11 ++ d ++ a ++ 0x0#7)
  | .voteAll d a => some (0x314#11 ++ d ++ a ++ 0x0#7)
  | .voteBallot d a => some (0x318#11 ++ d ++ a ++ 0x0#7)
  | .voteEq d a => some (0x31C#11 ++ d ++ a ++ 0x0#7)
  | .reduxAddI32 d a => some (0x320#11 ++ d ++ a ++ 0x0#7)
  | .reduxMaxI32 d a => some (0x324#11 ++ d ++ a ++ 0x0#7)
  | .reduxAddF32 d a => some (0x328#11 ++ d ++ a ++ 0x0#7)
  | .scanAddI32 d a => some (0x32C#11 ++ d ++ a ++ 0x0#7)
  | .xsel a => some (0x19800#18 ++ a ++ 0x0#7)
  | .sample d a b => some (0x335#11 ++ d ++ a ++ b)
  | .rngB32 d => some (0x338#11 ++ d ++ 0x0#14)
  | .rngctlNext => some (0x67800000#32)
  | .rngctlSetStream a => some (0xCF00#17 ++ a ++ 0x1#8)
  | .rngctlSetKey a => some (0xCF00#17 ++ a ++ 0x2#8)
  | .rngctlReadCounter d => some (0x19E#10 ++ d ++ 0x3#15)
  | .join d => some (0x360#11 ++ d ++ 0x0#14)
  | .leave a => some (0x1B200#18 ++ a ++ 0x0#7)
  | .waitk a => some (0x1B400#18 ++ a ++ 0x0#7)
  | .kmov d a => some (0x36C#11 ++ d ++ a ++ 0x0#7)
  | .kmovFromScalar d a => some (0x36C#11 ++ d ++ a ++ 0x1#7)
  | .kmovToScalar d a => some (0x36C#11 ++ d ++ a ++ 0x2#7)
  | .kop d a f => some (0x1B8#10 ++ d ++ a ++ 0x0#4 ++ f)
  | .boff d t c => some (0x1C0#10 ++ d ++ 0x0#7 ++ t ++ c)
  | .pickup d a t c => some (0x1C2#10 ++ d ++ a ++ t ++ c)
  | .estat d => some (0x388#11 ++ d ++ 0x0#14)
  | .exit => some (0x71800000#32)
  | .ldTex2 z => some (0xF0#9 ++ z)
  | .stShared32 z => some (0xF1#9 ++ z)
  | .saddI32 w d a b => some (0x100#9 ++ BitVec.ofBool w ++ 0x0#1 ++ d ++ a ++ b)
  | .ssubI32 w d a b => some (0x101#9 ++ BitVec.ofBool w ++ 0x0#1 ++ d ++ a ++ b)
  | .smulI32 w d a b => some (0x102#9 ++ BitVec.ofBool w ++ 0x0#1 ++ d ++ a ++ b)
  | .sandB32 w d a b => some (0x103#9 ++ BitVec.ofBool w ++ 0x0#1 ++ d ++ a ++ b)
  | .sorB32 w d a b => some (0x104#9 ++ BitVec.ofBool w ++ 0x0#1 ++ d ++ a ++ b)
  | .sxorB32 w d a b => some (0x105#9 ++ BitVec.ofBool w ++ 0x0#1 ++ d ++ a ++ b)
  | .sshlB32 w d a b => some (0x106#9 ++ BitVec.ofBool w ++ 0x0#1 ++ d ++ a ++ b)
  | .sshrN32 w d a b => some (0x107#9 ++ BitVec.ofBool w ++ 0x0#1 ++ d ++ a ++ b)
  | .sshrI32 w d a b => some (0x108#9 ++ BitVec.ofBool w ++ 0x0#1 ++ d ++ a ++ b)
  | .sminI32 w d a b => some (0x109#9 ++ BitVec.ofBool w ++ 0x0#1 ++ d ++ a ++ b)
  | .smaxI32 w d a b => some (0x10A#9 ++ BitVec.ofBool w ++ 0x0#1 ++ d ++ a ++ b)
  | .sminN32 w d a b => some (0x10B#9 ++ BitVec.ofBool w ++ 0x0#1 ++ d ++ a ++ b)
  | .smaxN32 w d a b => some (0x10C#9 ++ BitVec.ofBool w ++ 0x0#1 ++ d ++ a ++ b)
  | .sseqB32 w d a b => some (0x10D#9 ++ BitVec.ofBool w ++ 0x0#1 ++ d ++ a ++ b)
  | .ssltI32 w d a b => some (0x10E#9 ++ BitVec.ofBool w ++ 0x0#1 ++ d ++ a ++ b)
  | .ssltN32 w d a b => some (0x10F#9 ++ BitVec.ofBool w ++ 0x0#1 ++ d ++ a ++ b)
  | .ssel w d a b => some (0x110#9 ++ BitVec.ofBool w ++ 0x0#1 ++ d ++ a ++ b)
  | .smov w d a => some (0x111#9 ++ BitVec.ofBool w ++ 0x0#1 ++ d ++ a ++ 0x0#7)
  | .sli d i => some (0x120#9 ++ d ++ i)
  | .slih d i => some (0x121#9 ++ d ++ i)
  | .saddi d i => some (0x122#9 ++ d ++ i)
  | .vli d i => some (0x123#9 ++ d ++ i)
  | .vlih d i => some (0x124#9 ++ d ++ i)
  | .sldB32 d a p f => some (0x250#10 ++ d ++ a ++ p ++ f)
  | .sldB64 d a p f => some (0x252#10 ++ d ++ a ++ p ++ f)
  | .sstB32 d a p f => some (0x254#10 ++ d ++ a ++ p ++ f)
  | .sstB64 d a p f => some (0x256#10 ++ d ++ a ++ p ++ f)
  | .srd d n => some (0x130#9 ++ d ++ n)
  | .swr d n => some (0x131#9 ++ d ++ n)
  | .wbase i => some (0x9900#16 ++ i)
  | .bnz a o => some (0x140#9 ++ a ++ o)
  | .bz a o => some (0x141#9 ++ a ++ o)
  | .bra o => some (0xA100#16 ++ o)
  | .bnzs a o => some (0x143#9 ++ a ++ o)
  | .call a o => some (0x144#9 ++ a ++ o)
  | .ret a => some (0x145#9 ++ a ++ 0x0#16)
  | .jmp a => some (0x146#9 ++ a ++ 0x0#16)
  | .yield => some (0xA3800000#32)
  | .migr i => some (0xA480#16 ++ i)
  | .sbar32 z => some (0x160#9 ++ z)
  | .sjoin32 z => some (0x161#9 ++ z)
  | .trap i => some (0x600#11 ++ i)
  | .rft => some (0xC0200000#32)
  | .tfence => some (0xC0400000#32)
  | .halt => some (0xC0600000#32)
  | .sleep a => some (0x30200#18 ++ a ++ 0x0#7)
  | .sleepc i => some (0x605#11 ++ i)
  | .barWg => some (0xC2000000#32)
  | .barCl i => some (0x611#11 ++ i)
  | .barcInit a b => some (0x30900#18 ++ a ++ b)
  | .barcArrive a => some (0x30980#18 ++ a ++ 0x0#7)
  | .barcWait a => some (0x30A00#18 ++ a ++ 0x0#7)
  | .macq => some (0xC4000000#32)
  | .mrel => some (0xC4200000#32)
  | .mldw a b => some (0x31100#18 ++ a ++ b)
  | .mldwTable a b => some (0x31100#18 ++ a ++ b)
  | .mswap => some (0xC4600000#32)
  | .mswapFl => some (0xC4600001#32)
  | .mstr d a b => some (0x624#11 ++ d ++ a ++ b)
  | .mrd d a b => some (0x625#11 ++ d ++ a ++ b)
  | .mzero t => some (0x18980000#29 ++ t)
  | .mstat d => some (0x627#11 ++ d ++ 0x0#14)
  | .ttpost d a => some (0x628#11 ++ d ++ a ++ 0x0#7)
  | .npost d a => some (0x630#11 ++ d ++ a ++ 0x0#7)
  | .nctlRetry a b => some (0x31880#18 ++ a ++ b)
  | .nctlSkip a b => some (0x31880#18 ++ a ++ b)
  | .nctlAbort a b => some (0x31880#18 ++ a ++ b)
  | .nctlExtend a b => some (0x31880#18 ++ a ++ b)
  | .bseal d => some (0x632#11 ++ d ++ 0x0#14)
  | .bwait a => some (0x31980#18 ++ a ++ 0x0#7)
  | .cwait a b => some (0x31A00#18 ++ a ++ b)
  | .oscan a b => some (0x32000#18 ++ a ++ b)
  | .ocomp a b => some (0x32080#18 ++ a ++ b)
  | .olegal a b => some (0x32100#18 ++ a ++ b)
  | .oapply a b => some (0x32180#18 ++ a ++ b)
  | .ostat d => some (0x644#11 ++ d ++ 0x0#14)
  | .j o => some (0xCA#8 ++ o)
  | .jl o => some (0xCB#8 ++ o)
  | .retiredXGroup g z => some (0x3E#6 ++ g ++ z)
  | .nAdd d a b => some (0xCC0#12 ++ d ++ a ++ b ++ 0x0#8)
  | .nSub d a b => some (0xCC1#12 ++ d ++ a ++ b ++ 0x0#8)
  | .nMul d a b => some (0xCC2#12 ++ d ++ a ++ b ++ 0x0#8)
  | .nAnd d a b => some (0xCC3#12 ++ d ++ a ++ b ++ 0x0#8)
  | .nOr d a b => some (0xCC4#12 ++ d ++ a ++ b ++ 0x0#8)
  | .nXor d a b => some (0xCC5#12 ++ d ++ a ++ b ++ 0x0#8)
  | .nShl d a b => some (0xCC6#12 ++ d ++ a ++ b ++ 0x0#8)
  | .nShr d a b => some (0xCC7#12 ++ d ++ a ++ b ++ 0x0#8)
  | .nMin d a b => some (0xCC8#12 ++ d ++ a ++ b ++ 0x0#8)
  | .nMax d a b => some (0xCC9#12 ++ d ++ a ++ b ++ 0x0#8)
  | .nAddi d a i => some (0xCCA#12 ++ d ++ a ++ 0x0#4 ++ i)
  | .nLi d i => some (0xCCB#12 ++ d ++ i)
  | .nLih d i => some (0xCCC#12 ++ d ++ i)
  | .nBz d o => some (0xCCD#12 ++ d ++ o)
  | .nBnz d o => some (0xCCE#12 ++ d ++ o)
  | .nBlt a b o => some (0xCCF0#16 ++ a ++ b ++ o)
  | .nLoop d o => some (0xCD0#12 ++ d ++ o)
  | .nLdB32 d a f => some (0xCD1#12 ++ d ++ a ++ 0x0#4 ++ f)
  | .nLdB64 d a f => some (0xCD2#12 ++ d ++ a ++ 0x0#4 ++ f)
  | .nStB64 d a f => some (0xCD3#12 ++ d ++ a ++ 0x0#4 ++ f)
  | .nTag g a => some (0x3350#14 ++ g ++ a ++ 0x0#12)
  | .nStep g i => some (0x3354#14 ++ g ++ 0x0#8 ++ i)
  | .nCopy g h b => some (0x3358#14 ++ g ++ 0x0#2 ++ h ++ b ++ 0x0#8)
  | .nGather g h b => some (0x335C#14 ++ g ++ 0x0#2 ++ h ++ b ++ 0x0#8)
  | .nScat g h b => some (0x3360#14 ++ g ++ 0x0#2 ++ h ++ b ++ 0x0#8)
  | .nChunk a b => some (0xCD90#16 ++ a ++ b ++ 0x0#8)
  | .nArrive a => some (0xCDA0#16 ++ a ++ 0x0#12)
  | .nWait a => some (0xCDB0#16 ++ a ++ 0x0#12)
  | .nPromise a => some (0xCDC0#16 ++ a ++ 0x0#12)
  | .nEnd => some (0xCDD00000#32)
  | .nTrap i => some (0xCDE0#16 ++ i)
  | .loadDataArrival _ => none
  | .releaseComplete _ => none
  | .pageWalkComplete _ => none
  | .pollReread _ _ => none
  | .fairTExpiry _ _ => none
  | .sleepExpiry _ => none
  | .sleepcExpiry _ => none
  | .trapEntry _ => none
  | .asyncTrapEntry _ => none
  | .faultServiceResolved _ => none
  | .faultServiceUnresolvable _ => none
  | .continuationEntry _ => none
  | .accclaim _ => none
  | .promiseExpiry _ _ => none
  | .needleTakeEntry _ _ => none
  | .matrixCommandComplete _ => none
  | .tileTaskStart _ => none
  | .tileTaskComplete _ => none
  | .orreryCommandPerform _ => none
  | .pfrangeComplete _ => none
  | .qrsvRead _ => none
  | .qctlEnable _ _ => none
  | .qctlDrain _ => none
  | .queueDrainEnd _ => none
  | .queueWake _ => none
  | .queueRescan => none
  | .entryConsume _ => none
  | .nop _ => none
  | .launch _ => none
  | .launchAdmission _ => none
  | .graph _ => none
  | .graphNodeStart _ _ => none
  | .loopIteration _ _ => none
  | .signal _ => none
  | .wait _ => none
  | .waitSatisfied _ => none
  | .releaseEstates _ => none
  | .regionUpdate _ => none
  | .regionCreate _ => none
  | .regionDestroy _ => none
  | .regionCheckpoint _ => none
  | .workgroupPlacement _ => none
  | .estateMoveComplete _ _ _ => none
  | .estateArrival _ => none
  | .workgroupBirth _ => none
  | .workgroupFree _ => none
  | .preemptDecision _ => none
  | .preemptDeadline _ => none
  | .preemptionSwap _ _ => none
  | .shadowSpillFill _ _ => none
  | .scratchpadPageExchange _ _ => none
  | .dvfsStep _ _ _ => none
  | .relockEnd _ _ => none
  | .debugResume _ _ => none
  | .pcSample _ => none
  | .patrolScrub _ _ => none
  | .xinvCtlGo => none
  | .invalidationComplete => none
  | .devCtlResume => none
  | .dbgCtlGo => none
  | .jridxWrite _ => none
  | .cntCtlFreeze _ => none
  | .cntCtlClear => none
  | .expCtlOpen _ _ => none
  | .expCtlClose _ => none
  | .exportCloseComplete _ => none
  | .registerWrite _ _ _ => none
  | .bar2Read _ _ => none
  | .bar2Write _ _ _ => none
  | .hostAtomicop _ _ _ _ _ => none
  | .sidebandRead _ _ => none
  | .pldmSensorRead _ => none
  | .powerCapEffecter _ => none
  | .resetEffecter => none
  | .coldResetEffecter => none
  | .firmwareUpdate _ => none
  | .functionLevelReset => none
  | .flrComplete => none
  | .surpriseLinkLoss => none
  | .quiesceComplete => none
  | .linkRetrain => none
  | .powerOn _ => none
  | .perstDeassert => none
  | .bringupReady => none
  | .thermalThrottle _ => none
  | .thermalTrip => none
  | .flitReceive _ _ _ _ => none
  | .ackTimeout _ => none
  | .portRetrainComplete _ _ _ => none
  | .remoteRequest _ _ _ _ _ _ => none
  | .remoteTimeout _ _ => none
  | .responseRetentionExpiry _ => none
  | .ptpMessage _ _ => none
  | .reservedOpcode _ => none
  | .fetchBufferFill _ _ => none
  | .pickupComplete _ => none
  | .clockCycle _ _ => none
  | .softError _ _ _ => none
  | .cxlMemRequest _ _ _ _ => none
  | .resizableBarResize _ => none

/-- The rows that an operand of another row's word selects when the word is performed: their word decodes to that other row. -/
def Instr.sharesWord : Instr → Bool
  | .mldwTable _ _ => true
  | .nctlSkip _ _ => true
  | .nctlAbort _ _ => true
  | .nctlExtend _ _ => true
  | _ => false

end Sys2Proof
end

