-- ==== Sys2Proof/Machine/Reserved.lean ====
section
/-!
DEFINITION. RESERVED_OPCODE: a word that is no instruction, issued by a group (R55) or reached by a needle (R56).
-/

namespace Sys2Proof.Machine

/-- The error of a decoding that failed. -/
def errorOf : Except DecodeError Instr → Option DecodeError
  | .ok _ => none
  | .error e => some e

/-- Why a word outside the needle group is no instruction (R55). -/
def refusedWord (w : Word) : Option DecodeError :=
  let cls := (field w 30 2).toNat
  let grp := (field w 25 5).toNat
  if cls = 0 then errorOf (decodeV w) else if cls = 1 then errorOf (decodeM w) else if cls = 2 then errorOf (decodeS w)
  else if grp = 0 then errorOf (decodeX0 w) else if grp = 1 then errorOf (decodeX1 w) else if grp = 2 then errorOf (decodeX2 w)
  else if grp = 3 then errorOf (decodeX3 w) else if grp = 4 then errorOf (decodeX4 w) else some .reserved

/-- Whether the level forbids the word, a `halt` or an `rft`, whatever its other fields hold (R55, order 3). -/
def levelForbids (u : Sub) (w : Word) : Bool :=
  (w.extractLsb' 21 11 == 0x601#11 && !(u.inHandler)) || (w.extractLsb' 21 11 == 0x603#11 && !(supervisor u))

/-- The detail code of the fields of a word that is no instruction: bit 22 of an `ssel` in the D-form, the scalar of an `icinv` and SB of a `vote32.ballot` come before its
other fields (R55, R116). -/
def fieldDetail (f : Form) (w : Word) : Nat := match refusedWord w with
  | none => 1
  | some .reserved => 1
  | some e =>
    if field w 30 2 = 2 && field w 23 7 == 0x10#7 && bit w 22 && f == .d then 4
    else if e = .field && ((field w 23 9 = 0xba && sbBad (bit w 21) (field w 0 7).toNat) || (field w 23 9 = 0x62 && bit w 21)) then 5
    else e.detail

/-- The detail code of a word that is no instruction, by the order of R55: the level and a needle word in thread code come before the fields of the word; the successor of
an `xsel` that is outside the V class has 0x06 at the latest (R127). -/
def refusedDetail (s : State) (x : Cx) (w : Word) : Nat :=
  if levelForbids (x.sub s) w then 2
  else if w.extractLsb' 25 7 = 0x66 then (if field w 20 5 = 31 then 1 else 3)
  else if (s.row x.core x.row).xsel.isSome && field w 30 2 != 0 then min 6 (fieldDetail x.form w)
  else fieldDetail x.form w

/-- RESERVED_OPCODE (R55, R56): the group raises ILL; the words of group 0x02 wait for every live thread first (R211). A needle stops, with ILLW, or with NPC where the PC
lies outside the needle code (R248, R251). -/
def execReservedOpcode (word : BitVec 32) (s : State) : Out :=
  match s.turn with
  | .needle c n =>
    match (s.needle c n).cmd with
    | none => .next s
    | some (w, _) => .next (stopNeedle s c n { code := if (s.needle c n).pc < codeSize s w then 9 else 0x0a })
  | .row _ _ =>
    withGroup s fun x =>
      if word.extractLsb' 25 7 = 0x62 && (s.row x.core x.row).xsel.isNone then uniformly s x fun y => .next (ill s y (refusedDetail s y word))
      else .next (ill s x (refusedDetail s x word))

end Sys2Proof.Machine
end

