-- ==== Sys2Proof/Machine/Dispatch.lean ====
section
/-!
DEFINITION. The dispatcher: one arm per constructor of Instr, each a direct call of its meaning.
-/

namespace Sys2Proof.Machine

def exec (ins : Instr) (s : State) : Host.Outcome State Fault Refusal :=
  match ins with
  | .addI32 w sb d a b => Sys2Proof.Machine.execAddI32 w sb d a b s
  | .subI32 w sb d a b => Sys2Proof.Machine.execSubI32 w sb d a b s
  | .mulI32 w sb d a b => Sys2Proof.Machine.execMulI32 w sb d a b s
  | .mulhiI32 w sb d a b => Sys2Proof.Machine.execMulhiI32 w sb d a b s
  | .mulhiN32 w sb d a b => Sys2Proof.Machine.execMulhiN32 w sb d a b s
  | .madI32 w sb d a b => Sys2Proof.Machine.execMadI32 w sb d a b s
  | .addI64 w sb d a b => Sys2Proof.Machine.execAddI64 w sb d a b s
  | .subI64 w sb d a b => Sys2Proof.Machine.execSubI64 w sb d a b s
  | .andB32 w sb d a b => Sys2Proof.Machine.execAndB32 w sb d a b s
  | .orB32 w sb d a b => Sys2Proof.Machine.execOrB32 w sb d a b s
  | .xorB32 w sb d a b => Sys2Proof.Machine.execXorB32 w sb d a b s
  | .andnB32 w sb d a b => Sys2Proof.Machine.execAndnB32 w sb d a b s
  | .shlB32 w sb d a b => Sys2Proof.Machine.execShlB32 w sb d a b s
  | .shrN32 w sb d a b => Sys2Proof.Machine.execShrN32 w sb d a b s
  | .shrI32 w sb d a b => Sys2Proof.Machine.execShrI32 w sb d a b s
  | .rotB32 w sb d a b => Sys2Proof.Machine.execRotB32 w sb d a b s
  | .minI32 w sb d a b => Sys2Proof.Machine.execMinI32 w sb d a b s
  | .maxI32 w sb d a b => Sys2Proof.Machine.execMaxI32 w sb d a b s
  | .minN32 w sb d a b => Sys2Proof.Machine.execMinN32 w sb d a b s
  | .maxN32 w sb d a b => Sys2Proof.Machine.execMaxN32 w sb d a b s
  | .seqB32 w sb d a b => Sys2Proof.Machine.execSeqB32 w sb d a b s
  | .sneB32 w sb d a b => Sys2Proof.Machine.execSneB32 w sb d a b s
  | .sltI32 w sb d a b => Sys2Proof.Machine.execSltI32 w sb d a b s
  | .sleI32 w sb d a b => Sys2Proof.Machine.execSleI32 w sb d a b s
  | .sltN32 w sb d a b => Sys2Proof.Machine.execSltN32 w sb d a b s
  | .sleN32 w sb d a b => Sys2Proof.Machine.execSleN32 w sb d a b s
  | .sel w sb d a b => Sys2Proof.Machine.execSel w sb d a b s
  | .popcB32 w d a => Sys2Proof.Machine.execPopcB32 w d a s
  | .clzB32 w d a => Sys2Proof.Machine.execClzB32 w d a s
  | .bfeN32 w sb d a b => Sys2Proof.Machine.execBfeN32 w sb d a b s
  | .bfiB32 w sb d a b => Sys2Proof.Machine.execBfiB32 w sb d a b s
  | .brevB32 w d a => Sys2Proof.Machine.execBrevB32 w d a s
  | .addiI32 w d a i => Sys2Proof.Machine.execAddiI32 w d a i s
  | .andi w d a i => Sys2Proof.Machine.execAndi w d a i s
  | .ori w d a i => Sys2Proof.Machine.execOri w d a i s
  | .xori w d a i => Sys2Proof.Machine.execXori w d a i s
  | .shli w d a i => Sys2Proof.Machine.execShli w d a i s
  | .shriN32 w d a i => Sys2Proof.Machine.execShriN32 w d a i s
  | .shriI32 w d a i => Sys2Proof.Machine.execShriI32 w d a i s
  | .muliI32 w d a i => Sys2Proof.Machine.execMuliI32 w d a i s
  | .dp4I8 w sb d a b => Sys2Proof.Machine.execDp4I8 w sb d a b s
  | .dp4N8 w sb d a b => Sys2Proof.Machine.execDp4N8 w sb d a b s
  | .mov w d a => Sys2Proof.Machine.execMov w d a s
  | .leaX4 w sb d a b => Sys2Proof.Machine.execLeaX4 w sb d a b s
  | .leaX8 w sb d a b => Sys2Proof.Machine.execLeaX8 w sb d a b s
  | .faddF32 w sb d a b => Sys2Proof.Machine.execFaddF32 w sb d a b s
  | .fsubF32 w sb d a b => Sys2Proof.Machine.execFsubF32 w sb d a b s
  | .fmulF32 w sb d a b => Sys2Proof.Machine.execFmulF32 w sb d a b s
  | .ffmaF32 w sb d a b => Sys2Proof.Machine.execFfmaF32 w sb d a b s
  | .fminF32 w sb d a b => Sys2Proof.Machine.execFminF32 w sb d a b s
  | .fmaxF32 w sb d a b => Sys2Proof.Machine.execFmaxF32 w sb d a b s
  | .fminnmF32 w sb d a b => Sys2Proof.Machine.execFminnmF32 w sb d a b s
  | .fmaxnmF32 w sb d a b => Sys2Proof.Machine.execFmaxnmF32 w sb d a b s
  | .fseqF32 w sb d a b => Sys2Proof.Machine.execFseqF32 w sb d a b s
  | .fsltF32 w sb d a b => Sys2Proof.Machine.execFsltF32 w sb d a b s
  | .fsleF32 w sb d a b => Sys2Proof.Machine.execFsleF32 w sb d a b s
  | .fsunF32 w sb d a b => Sys2Proof.Machine.execFsunF32 w sb d a b s
  | .fnegF32 w d a => Sys2Proof.Machine.execFnegF32 w d a s
  | .fabsF32 w d a => Sys2Proof.Machine.execFabsF32 w d a s
  | .frcpF32 w d a => Sys2Proof.Machine.execFrcpF32 w d a s
  | .frsqF32 w d a => Sys2Proof.Machine.execFrsqF32 w d a s
  | .fsqrtF32 w d a => Sys2Proof.Machine.execFsqrtF32 w d a s
  | .fdivF32 w sb d a b => Sys2Proof.Machine.execFdivF32 w sb d a b s
  | .fex2F32 w d a => Sys2Proof.Machine.execFex2F32 w d a s
  | .flg2F32 w d a => Sys2Proof.Machine.execFlg2F32 w d a s
  | .fsinF32 w d a => Sys2Proof.Machine.execFsinF32 w d a s
  | .fcosF32 w d a => Sys2Proof.Machine.execFcosF32 w d a s
  | .hadd2F16 w sb d a b => Sys2Proof.Machine.execHadd2F16 w sb d a b s
  | .hmul2F16 w sb d a b => Sys2Proof.Machine.execHmul2F16 w sb d a b s
  | .hfma2F16 w sb d a b => Sys2Proof.Machine.execHfma2F16 w sb d a b s
  | .badd2Bf16 w sb d a b => Sys2Proof.Machine.execBadd2Bf16 w sb d a b s
  | .bmul2Bf16 w sb d a b => Sys2Proof.Machine.execBmul2Bf16 w sb d a b s
  | .bfma2Bf16 w sb d a b => Sys2Proof.Machine.execBfma2Bf16 w sb d a b s
  | .daddF64 w sb d a b => Sys2Proof.Machine.execDaddF64 w sb d a b s
  | .dmulF64 w sb d a b => Sys2Proof.Machine.execDmulF64 w sb d a b s
  | .dfmaF64 w sb d a b => Sys2Proof.Machine.execDfmaF64 w sb d a b s
  | .dsltF64 w sb d a b => Sys2Proof.Machine.execDsltF64 w sb d a b s
  | .cvt w d a r x => Sys2Proof.Machine.execCvt w d a r x s
  | .fscaleF32 w sb d a b => Sys2Proof.Machine.execFscaleF32 w sb d a b s
  | .frndF32 w d a r => Sys2Proof.Machine.execFrndF32 w d a r s
  | .fclassF32 w d a => Sys2Proof.Machine.execFclassF32 w d a s
  | .fdot2Bf16 w sb d a b => Sys2Proof.Machine.execFdot2Bf16 w sb d a b s
  | .dseqF64 w sb d a b => Sys2Proof.Machine.execDseqF64 w sb d a b s
  | .mad24I32 sb d a b => Sys2Proof.Machine.execMad24I32 sb d a b s
  | .fmulLg sb d a b => Sys2Proof.Machine.execFmulLg sb d a b s
  | .vote32Ballot sb d a => Sys2Proof.Machine.execVote32Ballot sb d a s
  | .shfl32 sb d a b => Sys2Proof.Machine.execShfl32 sb d a b s
  | .ldI8 d a p f => Sys2Proof.Machine.execLdI8 d a p f s
  | .ldN8 d a p f => Sys2Proof.Machine.execLdN8 d a p f s
  | .ldI16 d a p f => Sys2Proof.Machine.execLdI16 d a p f s
  | .ldN16 d a p f => Sys2Proof.Machine.execLdN16 d a p f s
  | .ldB32 d a p f => Sys2Proof.Machine.execLdB32 d a p f s
  | .ldB64 d a p f => Sys2Proof.Machine.execLdB64 d a p f s
  | .ldB128 d a p f => Sys2Proof.Machine.execLdB128 d a p f s
  | .stB8 d a p f => Sys2Proof.Machine.execStB8 d a p f s
  | .stB16 d a p f => Sys2Proof.Machine.execStB16 d a p f s
  | .stB32 d a p f => Sys2Proof.Machine.execStB32 d a p f s
  | .stB64 d a p f => Sys2Proof.Machine.execStB64 d a p f s
  | .stB128 d a p f => Sys2Proof.Machine.execStB128 d a p f s
  | .ldAcqB32 d a c p => Sys2Proof.Machine.execLdAcqB32 d a c p s
  | .ldAcqB64 d a c p => Sys2Proof.Machine.execLdAcqB64 d a c p s
  | .stRelB32 d a c p => Sys2Proof.Machine.execStRelB32 d a c p s
  | .stRelB64 d a c p => Sys2Proof.Machine.execStRelB64 d a c p s
  | .stMcB64 d a p f => Sys2Proof.Machine.execStMcB64 d a p f s
  | .atomAddI32 w c o d a => Sys2Proof.Machine.execAtomAddI32 w c o d a s
  | .atomAddF32 w c o d a => Sys2Proof.Machine.execAtomAddF32 w c o d a s
  | .atomMinI32 w c o d a => Sys2Proof.Machine.execAtomMinI32 w c o d a s
  | .atomMaxI32 w c o d a => Sys2Proof.Machine.execAtomMaxI32 w c o d a s
  | .atomMinN32 w c o d a => Sys2Proof.Machine.execAtomMinN32 w c o d a s
  | .atomMaxN32 w c o d a => Sys2Proof.Machine.execAtomMaxN32 w c o d a s
  | .atomAndB32 w c o d a => Sys2Proof.Machine.execAtomAndB32 w c o d a s
  | .atomOrB32 w c o d a => Sys2Proof.Machine.execAtomOrB32 w c o d a s
  | .atomXorB32 w c o d a => Sys2Proof.Machine.execAtomXorB32 w c o d a s
  | .atomExchB32 w c o d a => Sys2Proof.Machine.execAtomExchB32 w c o d a s
  | .atomCasB32 w c o d a => Sys2Proof.Machine.execAtomCasB32 w c o d a s
  | .atomAddI64 w c o d a => Sys2Proof.Machine.execAtomAddI64 w c o d a s
  | .atomExchB64 w c o d a => Sys2Proof.Machine.execAtomExchB64 w c o d a s
  | .atomCasB64 w c o d a => Sys2Proof.Machine.execAtomCasB64 w c o d a s
  | .atomAdd2Bf16 w c o d a => Sys2Proof.Machine.execAtomAdd2Bf16 w c o d a s
  | .pollB32 y d a c p => Sys2Proof.Machine.execPollB32 y d a c p s
  | .pollB64 y d a c p => Sys2Proof.Machine.execPollB64 y d a c p s
  | .phaseAcq c => Sys2Proof.Machine.execPhaseAcq c s
  | .phaseRel c => Sys2Proof.Machine.execPhaseRel c s
  | .phaseAr c => Sys2Proof.Machine.execPhaseAr c s
  | .fenceSg => Sys2Proof.Machine.execFenceSg s
  | .icinv sb a b => Sys2Proof.Machine.execIcinv sb a b s
  | .pfrange sb d a b => Sys2Proof.Machine.execPfrange sb d a b s
  | .stmap sb d a b => Sys2Proof.Machine.execStmap sb d a b s
  | .stunmap a => Sys2Proof.Machine.execStunmap a s
  | .shfl sb d a b => Sys2Proof.Machine.execShfl sb d a b s
  | .shflUp d a i => Sys2Proof.Machine.execShflUp d a i s
  | .shflDn d a i => Sys2Proof.Machine.execShflDn d a i s
  | .shflX d a i => Sys2Proof.Machine.execShflX d a i s
  | .voteAny d a => Sys2Proof.Machine.execVoteAny d a s
  | .voteAll d a => Sys2Proof.Machine.execVoteAll d a s
  | .voteBallot d a => Sys2Proof.Machine.execVoteBallot d a s
  | .voteEq d a => Sys2Proof.Machine.execVoteEq d a s
  | .reduxAddI32 d a => Sys2Proof.Machine.execReduxAddI32 d a s
  | .reduxMaxI32 d a => Sys2Proof.Machine.execReduxMaxI32 d a s
  | .reduxAddF32 d a => Sys2Proof.Machine.execReduxAddF32 d a s
  | .scanAddI32 d a => Sys2Proof.Machine.execScanAddI32 d a s
  | .xsel a => Sys2Proof.Machine.execXsel a s
  | .sample d a b => Sys2Proof.Machine.execSample d a b s
  | .rngB32 d => Sys2Proof.Machine.execRngB32 d s
  | .rngctlNext => Sys2Proof.Machine.execRngctlNext s
  | .rngctlSetStream a => Sys2Proof.Machine.execRngctlSetStream a s
  | .rngctlSetKey a => Sys2Proof.Machine.execRngctlSetKey a s
  | .rngctlReadCounter d => Sys2Proof.Machine.execRngctlReadCounter d s
  | .join d => Sys2Proof.Machine.execJoin d s
  | .leave a => Sys2Proof.Machine.execLeave a s
  | .waitk a => Sys2Proof.Machine.execWaitk a s
  | .kmov d a => Sys2Proof.Machine.execKmov d a s
  | .kmovFromScalar d a => Sys2Proof.Machine.execKmovFromScalar d a s
  | .kmovToScalar d a => Sys2Proof.Machine.execKmovToScalar d a s
  | .kop d a f => Sys2Proof.Machine.execKop d a f s
  | .boff d t c => Sys2Proof.Machine.execBoff d t c s
  | .pickup d a t c => Sys2Proof.Machine.execPickup d a t c s
  | .estat d => Sys2Proof.Machine.execEstat d s
  | .exit => Sys2Proof.Machine.execExit s
  | .ldTex2 z => Sys2Proof.Machine.execLdTex2 z s
  | .stShared32 z => Sys2Proof.Machine.execStShared32 z s
  | .saddI32 w d a b => Sys2Proof.Machine.execSaddI32 w d a b s
  | .ssubI32 w d a b => Sys2Proof.Machine.execSsubI32 w d a b s
  | .smulI32 w d a b => Sys2Proof.Machine.execSmulI32 w d a b s
  | .sandB32 w d a b => Sys2Proof.Machine.execSandB32 w d a b s
  | .sorB32 w d a b => Sys2Proof.Machine.execSorB32 w d a b s
  | .sxorB32 w d a b => Sys2Proof.Machine.execSxorB32 w d a b s
  | .sshlB32 w d a b => Sys2Proof.Machine.execSshlB32 w d a b s
  | .sshrN32 w d a b => Sys2Proof.Machine.execSshrN32 w d a b s
  | .sshrI32 w d a b => Sys2Proof.Machine.execSshrI32 w d a b s
  | .sminI32 w d a b => Sys2Proof.Machine.execSminI32 w d a b s
  | .smaxI32 w d a b => Sys2Proof.Machine.execSmaxI32 w d a b s
  | .sminN32 w d a b => Sys2Proof.Machine.execSminN32 w d a b s
  | .smaxN32 w d a b => Sys2Proof.Machine.execSmaxN32 w d a b s
  | .sseqB32 w d a b => Sys2Proof.Machine.execSseqB32 w d a b s
  | .ssltI32 w d a b => Sys2Proof.Machine.execSsltI32 w d a b s
  | .ssltN32 w d a b => Sys2Proof.Machine.execSsltN32 w d a b s
  | .ssel w d a b => Sys2Proof.Machine.execSsel w d a b s
  | .smov w d a => Sys2Proof.Machine.execSmov w d a s
  | .sli d i => Sys2Proof.Machine.execSli d i s
  | .slih d i => Sys2Proof.Machine.execSlih d i s
  | .saddi d i => Sys2Proof.Machine.execSaddi d i s
  | .vli d i => Sys2Proof.Machine.execVli d i s
  | .vlih d i => Sys2Proof.Machine.execVlih d i s
  | .sldB32 d a p f => Sys2Proof.Machine.execSldB32 d a p f s
  | .sldB64 d a p f => Sys2Proof.Machine.execSldB64 d a p f s
  | .sstB32 d a p f => Sys2Proof.Machine.execSstB32 d a p f s
  | .sstB64 d a p f => Sys2Proof.Machine.execSstB64 d a p f s
  | .srd d n => Sys2Proof.Machine.execSrd d n s
  | .swr d n => Sys2Proof.Machine.execSwr d n s
  | .wbase i => Sys2Proof.Machine.execWbase i s
  | .bnz a o => Sys2Proof.Machine.execBnz a o s
  | .bz a o => Sys2Proof.Machine.execBz a o s
  | .bra o => Sys2Proof.Machine.execBra o s
  | .bnzs a o => Sys2Proof.Machine.execBnzs a o s
  | .call a o => Sys2Proof.Machine.execCall a o s
  | .ret a => Sys2Proof.Machine.execRet a s
  | .jmp a => Sys2Proof.Machine.execJmp a s
  | .yield => Sys2Proof.Machine.execYield s
  | .migr i => Sys2Proof.Machine.execMigr i s
  | .sbar32 z => Sys2Proof.Machine.execSbar32 z s
  | .sjoin32 z => Sys2Proof.Machine.execSjoin32 z s
  | .trap i => Sys2Proof.Machine.execTrap i s
  | .rft => Sys2Proof.Machine.execRft s
  | .tfence => Sys2Proof.Machine.execTfence s
  | .halt => Sys2Proof.Machine.execHalt s
  | .sleep a => Sys2Proof.Machine.execSleep a s
  | .sleepc i => Sys2Proof.Machine.execSleepc i s
  | .barWg => Sys2Proof.Machine.execBarWg s
  | .barCl i => Sys2Proof.Machine.execBarCl i s
  | .barcInit a b => Sys2Proof.Machine.execBarcInit a b s
  | .barcArrive a => Sys2Proof.Machine.execBarcArrive a s
  | .barcWait a => Sys2Proof.Machine.execBarcWait a s
  | .macq => Sys2Proof.Machine.execMacq s
  | .mrel => Sys2Proof.Machine.execMrel s
  | .mldw a b => Sys2Proof.Machine.execMldw a b s
  | .mldwTable a b => Sys2Proof.Machine.execMldwTable a b s
  | .mswap => Sys2Proof.Machine.execMswap s
  | .mswapFl => Sys2Proof.Machine.execMswapFl s
  | .mstr d a b => Sys2Proof.Machine.execMstr d a b s
  | .mrd d a b => Sys2Proof.Machine.execMrd d a b s
  | .mzero t => Sys2Proof.Machine.execMzero t s
  | .mstat d => Sys2Proof.Machine.execMstat d s
  | .ttpost d a => Sys2Proof.Machine.execTtpost d a s
  | .npost d a => Sys2Proof.Machine.execNpost d a s
  | .nctlRetry a b => Sys2Proof.Machine.execNctlRetry a b s
  | .nctlSkip a b => Sys2Proof.Machine.execNctlSkip a b s
  | .nctlAbort a b => Sys2Proof.Machine.execNctlAbort a b s
  | .nctlExtend a b => Sys2Proof.Machine.execNctlExtend a b s
  | .bseal d => Sys2Proof.Machine.execBseal d s
  | .bwait a => Sys2Proof.Machine.execBwait a s
  | .cwait a b => Sys2Proof.Machine.execCwait a b s
  | .oscan a b => Sys2Proof.Machine.execOscan a b s
  | .ocomp a b => Sys2Proof.Machine.execOcomp a b s
  | .olegal a b => Sys2Proof.Machine.execOlegal a b s
  | .oapply a b => Sys2Proof.Machine.execOapply a b s
  | .ostat d => Sys2Proof.Machine.execOstat d s
  | .j o => Sys2Proof.Machine.execJ o s
  | .jl o => Sys2Proof.Machine.execJl o s
  | .retiredXGroup g z => Sys2Proof.Machine.execRetiredXGroup g z s
  | .nAdd d a b => Sys2Proof.Machine.execNAdd d a b s
  | .nSub d a b => Sys2Proof.Machine.execNSub d a b s
  | .nMul d a b => Sys2Proof.Machine.execNMul d a b s
  | .nAnd d a b => Sys2Proof.Machine.execNAnd d a b s
  | .nOr d a b => Sys2Proof.Machine.execNOr d a b s
  | .nXor d a b => Sys2Proof.Machine.execNXor d a b s
  | .nShl d a b => Sys2Proof.Machine.execNShl d a b s
  | .nShr d a b => Sys2Proof.Machine.execNShr d a b s
  | .nMin d a b => Sys2Proof.Machine.execNMin d a b s
  | .nMax d a b => Sys2Proof.Machine.execNMax d a b s
  | .nAddi d a i => Sys2Proof.Machine.execNAddi d a i s
  | .nLi d i => Sys2Proof.Machine.execNLi d i s
  | .nLih d i => Sys2Proof.Machine.execNLih d i s
  | .nBz d o => Sys2Proof.Machine.execNBz d o s
  | .nBnz d o => Sys2Proof.Machine.execNBnz d o s
  | .nBlt a b o => Sys2Proof.Machine.execNBlt a b o s
  | .nLoop d o => Sys2Proof.Machine.execNLoop d o s
  | .nLdB32 d a f => Sys2Proof.Machine.execNLdB32 d a f s
  | .nLdB64 d a f => Sys2Proof.Machine.execNLdB64 d a f s
  | .nStB64 d a f => Sys2Proof.Machine.execNStB64 d a f s
  | .nTag g a => Sys2Proof.Machine.execNTag g a s
  | .nStep g i => Sys2Proof.Machine.execNStep g i s
  | .nCopy g h b => Sys2Proof.Machine.execNCopy g h b s
  | .nGather g h b => Sys2Proof.Machine.execNGather g h b s
  | .nScat g h b => Sys2Proof.Machine.execNScat g h b s
  | .nChunk a b => Sys2Proof.Machine.execNChunk a b s
  | .nArrive a => Sys2Proof.Machine.execNArrive a s
  | .nWait a => Sys2Proof.Machine.execNWait a s
  | .nPromise a => Sys2Proof.Machine.execNPromise a s
  | .nEnd => Sys2Proof.Machine.execNEnd s
  | .nTrap i => Sys2Proof.Machine.execNTrap i s
  | .loadDataArrival sg => Sys2Proof.Machine.execLoadDataArrival sg s
  | .releaseComplete sg => Sys2Proof.Machine.execReleaseComplete sg s
  | .pageWalkComplete core => Sys2Proof.Machine.execPageWalkComplete core s
  | .pollReread core row => Sys2Proof.Machine.execPollReread core row s
  | .fairTExpiry core row => Sys2Proof.Machine.execFairTExpiry core row s
  | .sleepExpiry sg => Sys2Proof.Machine.execSleepExpiry sg s
  | .sleepcExpiry sg => Sys2Proof.Machine.execSleepcExpiry sg s
  | .trapEntry sg => Sys2Proof.Machine.execTrapEntry sg s
  | .asyncTrapEntry sg => Sys2Proof.Machine.execAsyncTrapEntry sg s
  | .faultServiceResolved sg => Sys2Proof.Machine.execFaultServiceResolved sg s
  | .faultServiceUnresolvable sg => Sys2Proof.Machine.execFaultServiceUnresolvable sg s
  | .continuationEntry sg => Sys2Proof.Machine.execContinuationEntry sg s
  | .accclaim core => Sys2Proof.Machine.execAccclaim core s
  | .promiseExpiry core needle => Sys2Proof.Machine.execPromiseExpiry core needle s
  | .needleTakeEntry core needle => Sys2Proof.Machine.execNeedleTakeEntry core needle s
  | .matrixCommandComplete core => Sys2Proof.Machine.execMatrixCommandComplete core s
  | .tileTaskStart cluster => Sys2Proof.Machine.execTileTaskStart cluster s
  | .tileTaskComplete cluster => Sys2Proof.Machine.execTileTaskComplete cluster s
  | .orreryCommandPerform cluster => Sys2Proof.Machine.execOrreryCommandPerform cluster s
  | .pfrangeComplete cmd => Sys2Proof.Machine.execPfrangeComplete cmd s
  | .qrsvRead q => Sys2Proof.Machine.execQrsvRead q s
  | .qctlEnable q on => Sys2Proof.Machine.execQctlEnable q on s
  | .qctlDrain q => Sys2Proof.Machine.execQctlDrain q s
  | .queueDrainEnd q => Sys2Proof.Machine.execQueueDrainEnd q s
  | .queueWake q => Sys2Proof.Machine.execQueueWake q s
  | .queueRescan => Sys2Proof.Machine.execQueueRescan s
  | .entryConsume q => Sys2Proof.Machine.execEntryConsume q s
  | .nop seq => Sys2Proof.Machine.execNop seq s
  | .launch seq => Sys2Proof.Machine.execLaunch seq s
  | .launchAdmission seq => Sys2Proof.Machine.execLaunchAdmission seq s
  | .graph seq => Sys2Proof.Machine.execGraph seq s
  | .graphNodeStart seq node => Sys2Proof.Machine.execGraphNodeStart seq node s
  | .loopIteration seq node => Sys2Proof.Machine.execLoopIteration seq node s
  | .signal seq => Sys2Proof.Machine.execSignal seq s
  | .wait seq => Sys2Proof.Machine.execWait seq s
  | .waitSatisfied seq => Sys2Proof.Machine.execWaitSatisfied seq s
  | .releaseEstates seq => Sys2Proof.Machine.execReleaseEstates seq s
  | .regionUpdate seq => Sys2Proof.Machine.execRegionUpdate seq s
  | .regionCreate seq => Sys2Proof.Machine.execRegionCreate seq s
  | .regionDestroy seq => Sys2Proof.Machine.execRegionDestroy seq s
  | .regionCheckpoint seq => Sys2Proof.Machine.execRegionCheckpoint seq s
  | .workgroupPlacement launch => Sys2Proof.Machine.execWorkgroupPlacement launch s
  | .estateMoveComplete core row slot => Sys2Proof.Machine.execEstateMoveComplete core row slot s
  | .estateArrival wg => Sys2Proof.Machine.execEstateArrival wg s
  | .workgroupBirth wg => Sys2Proof.Machine.execWorkgroupBirth wg s
  | .workgroupFree wg => Sys2Proof.Machine.execWorkgroupFree wg s
  | .preemptDecision core => Sys2Proof.Machine.execPreemptDecision core s
  | .preemptDeadline core => Sys2Proof.Machine.execPreemptDeadline core s
  | .preemptionSwap core ctx => Sys2Proof.Machine.execPreemptionSwap core ctx s
  | .shadowSpillFill core ctx => Sys2Proof.Machine.execShadowSpillFill core ctx s
  | .scratchpadPageExchange wg page => Sys2Proof.Machine.execScratchpadPageExchange wg page s
  | .dvfsStep die domL code => Sys2Proof.Machine.execDvfsStep die domL code s
  | .relockEnd die domL => Sys2Proof.Machine.execRelockEnd die domL s
  | .debugResume ctx area => Sys2Proof.Machine.execDebugResume ctx area s
  | .pcSample core => Sys2Proof.Machine.execPcSample core s
  | .patrolScrub unit state => Sys2Proof.Machine.execPatrolScrub unit state s
  | .xinvCtlGo => Sys2Proof.Machine.execXinvCtlGo s
  | .invalidationComplete => Sys2Proof.Machine.execInvalidationComplete s
  | .devCtlResume => Sys2Proof.Machine.execDevCtlResume s
  | .dbgCtlGo => Sys2Proof.Machine.execDbgCtlGo s
  | .jridxWrite n => Sys2Proof.Machine.execJridxWrite n s
  | .cntCtlFreeze on => Sys2Proof.Machine.execCntCtlFreeze on s
  | .cntCtlClear => Sys2Proof.Machine.execCntCtlClear s
  | .expCtlOpen win wprot => Sys2Proof.Machine.execExpCtlOpen win wprot s
  | .expCtlClose win => Sys2Proof.Machine.execExpCtlClose win s
  | .exportCloseComplete win => Sys2Proof.Machine.execExportCloseComplete win s
  | .registerWrite off size val => Sys2Proof.Machine.execRegisterWrite off size val s
  | .bar2Read off size => Sys2Proof.Machine.execBar2Read off size s
  | .bar2Write off size val => Sys2Proof.Machine.execBar2Write off size val s
  | .hostAtomicop off wide op x y => Sys2Proof.Machine.execHostAtomicop off wide op x y s
  | .sidebandRead off size => Sys2Proof.Machine.execSidebandRead off size s
  | .pldmSensorRead sensor => Sys2Proof.Machine.execPldmSensorRead sensor s
  | .powerCapEffecter watts => Sys2Proof.Machine.execPowerCapEffecter watts s
  | .resetEffecter => Sys2Proof.Machine.execResetEffecter s
  | .coldResetEffecter => Sys2Proof.Machine.execColdResetEffecter s
  | .firmwareUpdate len => Sys2Proof.Machine.execFirmwareUpdate len s
  | .functionLevelReset => Sys2Proof.Machine.execFunctionLevelReset s
  | .flrComplete => Sys2Proof.Machine.execFlrComplete s
  | .surpriseLinkLoss => Sys2Proof.Machine.execSurpriseLinkLoss s
  | .quiesceComplete => Sys2Proof.Machine.execQuiesceComplete s
  | .linkRetrain => Sys2Proof.Machine.execLinkRetrain s
  | .powerOn gmTime => Sys2Proof.Machine.execPowerOn gmTime s
  | .perstDeassert => Sys2Proof.Machine.execPerstDeassert s
  | .bringupReady => Sys2Proof.Machine.execBringupReady s
  | .thermalThrottle die => Sys2Proof.Machine.execThermalThrottle die s
  | .thermalTrip => Sys2Proof.Machine.execThermalTrip s
  | .flitReceive port head payload check => Sys2Proof.Machine.execFlitReceive port head payload check s
  | .ackTimeout port => Sys2Proof.Machine.execAckTimeout port s
  | .portRetrainComplete port peer pport => Sys2Proof.Machine.execPortRetrainComplete port peer pport s
  | .remoteRequest id key op loc size val => Sys2Proof.Machine.execRemoteRequest id key op loc size val s
  | .remoteTimeout sg store => Sys2Proof.Machine.execRemoteTimeout sg store s
  | .responseRetentionExpiry id => Sys2Proof.Machine.execResponseRetentionExpiry id s
  | .ptpMessage offset gmReached => Sys2Proof.Machine.execPtpMessage offset gmReached s
  | .reservedOpcode word => Sys2Proof.Machine.execReservedOpcode word s
  | .fetchBufferFill core line => Sys2Proof.Machine.execFetchBufferFill core line s
  | .pickupComplete sg => Sys2Proof.Machine.execPickupComplete sg s
  | .clockCycle die domL => Sys2Proof.Machine.execClockCycle die domL s
  | .softError kind unit correctable => Sys2Proof.Machine.execSoftError kind unit correctable s
  | .cxlMemRequest write loc size val => Sys2Proof.Machine.execCxlMemRequest write loc size val s
  | .resizableBarResize log2 => Sys2Proof.Machine.execResizableBarResize log2 s

end Sys2Proof.Machine
end

