-- ==== Sys2Proof/Machine/Hazards.lean ====
section
/-!
DEFINITION. What stands while a relock holds a clock (R318, R322, R325), and the steps of agents outside the cores that are no row of spec/opcode_table.json.
-/

namespace Sys2Proof.Machine

/-- Whether a relock holds the D domain of a cluster's die, which clocks its engines, its scheduler, its slot table, its Orrery and its stitch holder (R318). -/
def heldD (s : State) (cluster : Nat) : Bool := (s.die (s.dieOf cluster)).relockD.isSome

/-- Whether an event waits for the end of a relock, because the unit it is of stands still (R322, R325). A checkpoint and a quiesce wait for every relock, since what they
stop releases its stores at pk. -/
def heldEvent (s : State) : Event → Bool
  | .tileTaskStart k => heldD s k
  | .tileTaskComplete k => heldD s k
  | .orreryCommandPerform k => heldD s k
  | .matrixCommandComplete c => heldD s (clusterOf c)
  | .accclaim c => heldD s (clusterOf c)
  | .needleTakeEntry c _ => heldD s (clusterOf c)
  | .estateMoveComplete c _ _ => heldD s (clusterOf c)
  | .estateArrival w => heldD s (s.wg w).cluster
  | .workgroupBirth w => heldD s (s.wg w).cluster
  | .invalidationComplete => (List.range 4).any (dieHeld s)
  | .pfrangeComplete n => heldD s (s.wg (s.prefetches.get n {}).wg).cluster
  | .regionCheckpoint _ => relocked s 0 5
  | .quiesceComplete => relocked s 0 5
  | _ => false

/-- A swap of a code image by the loader: the old one is superseded, and new launches take the new one (R304). -/
def swapImage (s : State) (ctx : Nat) (code new : Dword) : State :=
  let current (a : Dword) : Bool := s.fe.images.any fun i => i.ctx == ctx && i.code == a && i.by_.isNone
  if code = new || !(current code) then s else
  match readSci s ctx new 0 with
  | .error _ => s
  | .ok i =>
    let old := (s.fe.images.filter fun x => x.ctx != ctx || x.code != new).map fun (x : Loaded) => if x.ctx = ctx && x.code == code then { x with by_ := some new } else x
    dropImages { s with fe := { s.fe with images := old ++ [{ ctx := ctx, code := new, image := imageOf s ctx new i [] }] } } ctx

/-- A step that is no row of spec/opcode_table.json. -/
def performAside (s : State) : Aside → Out
  | .windowRead off size =>
    if 0x10000 ≤ off && off < 0x14000 && off % 64 = 0x28 then execQrsvRead ((off - 0x10000) / 64) s else .next (windowRead s off size)
  | .swapImage ctx code new => .next (swapImage s ctx code new)
  | .trainPort port => .next (trainPort s port)
  | .invalidate ctx va pages => .next (if (List.range 4).any (dieHeld s) then s else firmwareInvalidate s ctx va pages)
  | .writeBack line => .next (s.cleanLines [64 * line])
  | .spillFault core ctx => .next (spillFault s core ctx)
  | .fillFault core ctx => .next (fillFault s core ctx)
  | .restoreElsewhere w => .next (restoreElsewhere s w)
  | .setFairT core cycles => .next (s.modCore core fun k => { k with fairT := BitVec.ofNat 16 cycles })
  | .setGrandmaster pkg => .next (setGrandmaster s pkg)

end Sys2Proof.Machine
end

