-- ==== Sys2Proof/Machine/Resolve.lean ====
section
/-!
DEFINITION. Which row of the opcode table a step performs: an event's, and the row that an operand selects where several rows share one word.
-/

namespace Sys2Proof.Machine

/-- The row of spec/opcode_table.json that an event is. -/
noncomputable def Event.instr : Event → Instr
  | .loadDataArrival sg => .loadDataArrival sg
  | .releaseComplete sg => .releaseComplete sg
  | .pageWalkComplete core => .pageWalkComplete core
  | .pollReread core row => .pollReread core row
  | .fairTExpiry core row => .fairTExpiry core row
  | .sleepExpiry sg => .sleepExpiry sg
  | .sleepcExpiry sg => .sleepcExpiry sg
  | .trapEntry sg => .trapEntry sg
  | .asyncTrapEntry sg => .asyncTrapEntry sg
  | .faultServiceResolved sg => .faultServiceResolved sg
  | .faultServiceUnresolvable sg => .faultServiceUnresolvable sg
  | .continuationEntry sg => .continuationEntry sg
  | .accclaim core => .accclaim core
  | .promiseExpiry wg slot => .promiseExpiry wg slot
  | .needleTakeEntry core needle => .needleTakeEntry core needle
  | .matrixCommandComplete core => .matrixCommandComplete core
  | .tileTaskStart cluster => .tileTaskStart cluster
  | .tileTaskComplete cluster => .tileTaskComplete cluster
  | .orreryCommandPerform cluster => .orreryCommandPerform cluster
  | .pfrangeComplete cmd => .pfrangeComplete cmd
  | .qrsvRead q => .qrsvRead q
  | .qctlEnable q on => .qctlEnable q on
  | .qctlDrain q => .qctlDrain q
  | .queueDrainEnd q => .queueDrainEnd q
  | .queueWake q => .queueWake q
  | .queueRescan => .queueRescan
  | .entryConsume q => .entryConsume q
  | .nop seq => .nop seq
  | .launch seq => .launch seq
  | .launchAdmission seq => .launchAdmission seq
  | .graph seq => .graph seq
  | .graphNodeStart seq node => .graphNodeStart seq node
  | .loopIteration seq node => .loopIteration seq node
  | .signal seq => .signal seq
  | .wait seq => .wait seq
  | .waitSatisfied seq => .waitSatisfied seq
  | .releaseEstates seq => .releaseEstates seq
  | .regionUpdate seq => .regionUpdate seq
  | .regionCreate seq => .regionCreate seq
  | .regionDestroy seq => .regionDestroy seq
  | .regionCheckpoint seq => .regionCheckpoint seq
  | .workgroupPlacement l => .workgroupPlacement l
  | .estateMoveComplete core row slot => .estateMoveComplete core row slot
  | .estateArrival wg => .estateArrival wg
  | .workgroupBirth wg => .workgroupBirth wg
  | .workgroupFree wg => .workgroupFree wg
  | .preemptDecision core => .preemptDecision core
  | .preemptDeadline core => .preemptDeadline core
  | .preemptionSwap core ctx => .preemptionSwap core ctx
  | .shadowSpillFill core ctx => .shadowSpillFill core ctx
  | .scratchpadPageExchange wg page => .scratchpadPageExchange wg page
  | .dvfsStep die domL code => .dvfsStep die domL code
  | .relockEnd die domL => .relockEnd die domL
  | .debugResume ctx area => .debugResume ctx area
  | .pcSample core => .pcSample core
  | .patrolScrub unit state => .patrolScrub unit state
  | .xinvCtlGo => .xinvCtlGo
  | .invalidationComplete => .invalidationComplete
  | .devCtlResume => .devCtlResume
  | .dbgCtlGo => .dbgCtlGo
  | .jridxWrite n => .jridxWrite n
  | .cntCtlFreeze on => .cntCtlFreeze on
  | .cntCtlClear => .cntCtlClear
  | .expCtlOpen win wprot => .expCtlOpen win wprot
  | .expCtlClose win => .expCtlClose win
  | .exportCloseComplete win => .exportCloseComplete win
  | .registerWrite off size val => .registerWrite off size val
  | .bar2Read off size => .bar2Read off size
  | .bar2Write off size val => .bar2Write off size val
  | .hostAtomicop off wide op x y => .hostAtomicop off wide op x y
  | .sidebandRead off size => .sidebandRead off size
  | .pldmSensorRead sensor => .pldmSensorRead sensor
  | .powerCapEffecter watts => .powerCapEffecter watts
  | .resetEffecter => .resetEffecter
  | .coldResetEffecter => .coldResetEffecter
  | .firmwareUpdate len => .firmwareUpdate len
  | .functionLevelReset => .functionLevelReset
  | .flrComplete => .flrComplete
  | .surpriseLinkLoss => .surpriseLinkLoss
  | .quiesceComplete => .quiesceComplete
  | .linkRetrain => .linkRetrain
  | .powerOn gmTime => .powerOn gmTime
  | .perstDeassert => .perstDeassert
  | .bringupReady => .bringupReady
  | .thermalThrottle die => .thermalThrottle die
  | .thermalTrip => .thermalTrip
  | .flitReceive port head payload check => .flitReceive port head payload check
  | .ackTimeout port => .ackTimeout port
  | .portRetrainComplete port peer pport => .portRetrainComplete port peer pport
  | .remoteRequest id key op loc size val => .remoteRequest id key op loc size val
  | .remoteTimeout sg store => .remoteTimeout sg store
  | .responseRetentionExpiry id => .responseRetentionExpiry id
  | .ptpMessage offset gmReached => .ptpMessage offset gmReached
  | .reservedOpcode word => .reservedOpcode word
  | .fetchBufferFill core line => .fetchBufferFill core line
  | .pickupComplete sg => .pickupComplete sg
  | .clockCycle die domL => .clockCycle die domL
  | .softError kind unit correctable => .softError kind unit correctable
  | .cxlMemRequest write loc size val => .cxlMemRequest write loc size val
  | .resizableBarResize log2 => .resizableBarResize log2

/-- Among rows that share a word, the row that the word's control scalar selects: TBL of `mldw` (R216) and OP of `nctl` (R254); every other instruction is its own
row. -/
noncomputable def selectRow (s : State) (i : Instr) : Instr :=
  match s.issuing with
  | none => i
  | some x =>
    match i with
    | .mldw a b => if ((x.sub s).sreg b.toNat).getLsbD 4 then .mldwTable a b else i
    | .nctlRetry a b =>
      let op := ((x.sub s).sreg a.toNat).extractLsb' 0 4
      if op = 1 then .nctlSkip a b else if op = 2 then .nctlAbort a b else if op = 3 then .nctlExtend a b else i
    | i => i

/-- The row that a word stands for: the decoded instruction, or RESERVED_OPCODE where the word is none (R55). -/
noncomputable def rowOfWord (s : State) (w : Word) : Instr :=
  match decode w with
  | .ok i => selectRow s i
  | .error _ => .reservedOpcode w

/-- The row that a word stands for in a needle program: group 0x06 words only; any other is none (R56). -/
noncomputable def rowOfNeedle (w : Word) : Instr :=
  if w.extractLsb' 25 7 = 0x66 then match decode w with
    | .ok i => i
    | .error _ => .reservedOpcode w
  else .reservedOpcode w

end Sys2Proof.Machine
end

