-- ==== Sys2Proof/Machine/Step.lean ====
section
/-!
DEFINITION. The step: what the agenda names goes first, or waits where a relock has stopped its unit (R325); then every unit that has something to do performs one word in each cycle of its clock, in turn; then the clocks
move by one edge.
-/

namespace Sys2Proof.Machine

/-- A lane row takes its turn (R160, R259, R272). -/
noncomputable def stepRow (s : State) (c r : Nat) : Host.Outcome State Fault Refusal :=
  match rowNext s c r with
  | (s, .idle) => .next s
  | (s, .trap g) => exec (.trapEntry g) s
  | (s, .async g) => exec (.asyncTrapEntry g) s
  | (s, .continuation g) => exec (.continuationEntry g) s
  | (s, .reread) => exec (.pollReread c r) (s.modRow c r fun x => { x with spent := some 3 })
  | (s, .issue) =>
    match s.issuing with
    | none => .next s
    | some x =>
      match fetchWord s x with
      | (s, none) => .next s
      | (s, some w) => exec (rowOfWord s w) (useSlot s x w)

/-- A needle takes its turn (R240). -/
noncomputable def stepNeedle (s : State) (c n : Nat) : Host.Outcome State Fault Refusal :=
  if needleActive s c n then
    match needleWord s c n with
    | none => exec (.reservedOpcode 0) (needleTurn s c n 0)
    | some w => exec (rowOfNeedle w) (needleTurn s c n w)
  else .next s

/-- One unit moves. -/
noncomputable def stepUnit (s : State) : Turn → Host.Outcome State Fault Refusal
  | .row c r => stepRow s c r
  | .needle c n => stepNeedle s c n

/-- One step of the package. -/
noncomputable def step (s : State) : Host.Outcome State Fault Refusal :=
  match s.agenda with
  | .event e :: rest => if heldEvent s e then .next { s with agenda := rest, parked := s.parked ++ [e] } else exec e.instr { s with agenda := rest }
  | .aside a :: rest => performAside { s with agenda := rest } a
  | .row c r :: rest => stepRow { s with agenda := rest, turn := .row c r } c r
  | .needle c n :: rest => stepNeedle { s with agenda := rest, turn := .needle c n } c n
  | [] =>
    match nextUnit s with
    | some t => stepUnit { s with turn := t } t
    | none => if clocksRun s then exec (.clockCycle (nextEdge s).1 (nextEdge s).2) s else .next s

/-- The state with a word stored where `step` fetches its next instruction (log 3). -/
def State.withFetchWord (s : State) (_nbits w : Nat) : State := placeWord s (BitVec.ofNat 32 w)

end Sys2Proof.Machine
end

