-- ==== Sys2Proof/Safety.lean ====
section
/-!
DEFINITION. The terms in which statements about the machine speak: the canonical form of memory, what a program can read, and what it is for a word to be
legal, to complete and to leave the rest alone.
-/

namespace Sys2Proof.Machine

/-- An image is in canonical form: its bytes are, and its stamps rise strictly by place. -/
def VMem.wf (m : VMem) : Bool := Mem.wf m.bytes && Tbl.sorted m.stamps
/-- Global memory as published is in canonical form. -/
def State.memOk (s : State) : Bool := s.pk.wf && s.sy.wf

/-- Every byte of memory reads as before: at home, from each core, and in each scratchpad. -/
def SameBytes (s t : State) : Prop :=
  (∀ p, t.homeByte p = s.homeByte p) ∧ (∀ c p, t.seen c p = s.seen c p) ∧ ∀ w a, Mem.read (t.wg w).mem a = Mem.read (s.wg w).mem a

/-- A meaning ends in a next state. -/
def Runs (o : Out) : Prop := ∃ t, o = .next t

/-- The group `x` issues, and no `xsel` stands before its word. -/
def Stands (s : State) (x : Cx) : Prop := s.issuing = some x ∧ (s.row x.core x.row).xsel = none

/-- The members `ls` of the group have gone on from `s`, each to the PC that `pc` gives it, with `v` in the place of their subgroup, and nothing else has
changed: each of them waits for nothing, its row has counted a word and has no `xsel` before the next one, and `sw` says that the row stands at a switch
point, where it stood at one before or an `xsel` ended, too (R25, R127, R160, R263). -/
structure WentOn (s t : State) (x : Cx) (ls : List Nat) (pc : Nat → Dword) (sw : Bool) (v : Sub) : Prop where
  rest : t = { s with cores := t.cores, subs := t.subs }
  subs : ∀ g, g ≠ x.sg → t.sub g = s.sub g
  sub : t.sub x.sg = { v with threads := (t.sub x.sg).threads }
  members : ∀ l, l ∈ ls → (t.sub x.sg).thread l =
    { v.thread l with
      pc := pc l
      wait := .none
      since := min ((v.thread l).since + 1) 0xffffffff
      lastIssue := (s.row x.core x.row).issued + 1
      readyAt := s.cycle x.core
      lastAt := s.cycle x.core }
  others : ∀ l, l ∉ ls → (t.sub x.sg).thread l = v.thread l
  cores : ∀ c, t.core c = if c = x.core then { s.core c with rows := (t.core c).rows } else s.core c
  rows : ∀ c r, t.row c r = if c = x.core ∧ r = x.row
    then { s.row c r with issued := (s.row c r).issued + 1, xsel := none, atSwitch := sw || (s.row c r).atSwitch || (s.row c r).xsel.isSome }
    else s.row c r

/-- The group completes its word and goes on to the PCs that `pc` gives its members: in the next state `P` holds of what the word made of the subgroup, no
other subgroup, core or row has changed, and every byte of memory reads as before. -/
def GoesTo (s : State) (x : Cx) (pc : Nat → Dword) (sw : Bool) (P : Sub → Prop) (o : Out) : Prop :=
  ∃ v t, o = .next t ∧ P v ∧ WentOn s t x x.lanes pc sw v ∧ SameBytes s t
/-- The group goes on to the next word, with no switch point of its own. -/
def Completes (s : State) (x : Cx) (P : Sub → Prop) (o : Out) : Prop := GoesTo s x (fun _ => x.pc s + 4) false P o
/-- The group goes on to the next word, and its row comes to a switch point (R25). -/
def Switches (s : State) (x : Cx) (P : Sub → Prop) (o : Out) : Prop := GoesTo s x (fun _ => x.pc s + 4) true P o

/-- Nothing of the subgroup has changed. -/
def Unchanged (s : State) (x : Cx) (v : Sub) : Prop := v = x.sub s

/-- A word of shape `sh` is legal in the issuing group, by R41 to R45, R84 and R85, and CHECK mode does not stop it (R26). -/
structure Legal (s : State) (x : Cx) (sh : Shape) (w sb : Bool) (d a b : BitVec 7) : Prop where
  issues : s.issuing = some x
  /-- A word that reads D has a destination (R85). -/
  keepsD : sh.readsD = true → w = true → x.form = .l
  dst : (w = true → x.form = .l) → dstOk s x d.toNat (if sh.wideD then 2 else 1) = true
  srcA : srcOk s x a.toNat sh.wideA = true
  srcB : sh.useB = true → sb = false → srcOk s x b.toNat sh.wideB = true
  scalarB : sh.useB = true → sb = true → sbOk b.toNat = true ∧ bOk s x true b.toNat sh.wideB = true
  fresh : x.mode s = 1 → ∀ l ∈ x.lanes, (operands s x sh sb d.toNat a.toNat b.toNat l).2 = false

/-- The register that a destination field names to the group (R21). -/
def destReg (s : State) (x : Cx) (d : BitVec 7) : Nat := (x.sub s).wbase.toNat + d.toNat

/-- What a V-class word has done to the subgroup: each member `l` has the result that `f l` gives for its own TSTAT and operands, in the destination field's register
unless WS keeps it out, and in the D-form at the head of its latch ring; its flags are raised; no other register, thread or field has changed (R24, R83). -/
structure Wrote (s : State) (x : Cx) (sh : Shape) (w sb : Bool) (d a b : BitVec 7) (f : Nat → Word → Dword → Dword → Dword → LaneRes)
    (v : Sub) : Prop where
  rest : v = { x.sub s with threads := v.threads, ring := v.ring }
  others : ∀ l, l ∉ x.lanes → v.thread l = (x.sub s).thread l ∧ v.latch l = (x.sub s).latch l
  members : ∀ l, l ∈ x.lanes →
    let o := (x.sub s).thread l
    let p := operands s x sh sb d.toNat a.toNat b.toNat l
    let r := f l o.tstat p.1.1 p.1.2.1 p.1.2.2
    let n := v.thread l
    n = { o with v := n.v, tstat := setStale (raiseFlags o.tstat r.flags) p.2 } ∧
    (∀ i, n.reg i =
      if w = true ∧ x.form = .d then o.reg i
      else if i = destReg s x d then loOf r.val
      else if sh.wideD = true ∧ i = destReg s x d + 1 then hiOf r.val
      else o.reg i) ∧
    v.latch l = if x.form = .d then ((x.sub s).latch l).push (if sh.wideD then r.val else (loOf r.val).setWidth 64) else (x.sub s).latch l

/-- A scalar ALU word is legal in the issuing group, by R41, R42 and R92, outside an `xsel` (R127), and CHECK mode does not stop it (R26). -/
structure LegalScalar (s : State) (x : Cx) (w useB readsD : Bool) (d a b : BitVec 7) : Prop where
  stands : Stands s x
  keepsD : readsD = true → w = true → x.form = .l
  dst : (w = true → x.form = .l) → sDstOk d.toNat = true
  srcA : sSrcOk x.form a.toNat = true
  srcB : useB = true → sSrcOk x.form b.toNat = true
  fresh : x.mode s = 1 → (readScalar s x a.toNat).2 = false ∧ (useB = true → (readScalar s x b.toNat).2 = false)

/-- What an S-class word has done to the subgroup: the scalar destination has the result, unless WS keeps it out, and in the D-form every lane of the group
has it at the head of its ring; nothing else has changed but LSTALE of the lowest member (R24, R92). -/
structure WroteScalar (s : State) (x : Cx) (w : Bool) (d : BitVec 7) (stale : Bool) (val : Word) (v : Sub) : Prop where
  rest : v = { x.sub s with threads := v.threads, ring := v.ring, s := v.s }
  others : ∀ l, l ≠ lowest x.mask → v.thread l = (x.sub s).thread l
  low : v.thread (lowest x.mask) = { (x.sub s).thread (lowest x.mask) with tstat := setStale ((x.sub s).thread (lowest x.mask)).tstat stale }
  scalars : ∀ i, v.sreg i = if ¬(w = true ∧ x.form = .d) ∧ i = d.toNat then val else (x.sub s).sreg i
  rings : ∀ l, v.latch l = if l ∈ x.lanes ∧ x.form = .d then ((x.sub s).latch l).push (val.setWidth 64) else (x.sub s).latch l

/-- CHECK mode does not stop a word whose members' reads are stale as `p` says (R26). -/
def Calm (s : State) (x : Cx) (p : Nat → Bool) : Prop := x.mode s = 1 → ∀ l ∈ x.lanes, p l = false

/-- Each register of each member has the value that `f` gives, and LSTALE is set in the members whose read was stale; nothing else has changed. -/
structure WroteRegs (s : State) (x : Cx) (stale : Nat → Bool) (f : Nat → Nat → Word) (v : Sub) : Prop where
  rest : v = { x.sub s with threads := v.threads }
  others : ∀ l, l ∉ x.lanes → v.thread l = (x.sub s).thread l
  members : ∀ l, l ∈ x.lanes →
    v.thread l = { (x.sub s).thread l with v := (v.thread l).v, tstat := setStale ((x.sub s).thread l).tstat (stale l) } ∧
    ∀ i, (v.thread l).reg i = f l i

/-- Each member's register of field `d` has the value that `f` gives the member. -/
def WroteReg (s : State) (x : Cx) (d : BitVec 7) (stale : Nat → Bool) (f : Nat → Word) (v : Sub) : Prop :=
  WroteRegs s x stale (fun l i => if i = destReg s x d then f l else ((x.sub s).thread l).reg i) v

/-- The scalars are those that `f` gives, and LSTALE is set in the members whose read was stale; nothing else has changed. -/
structure WroteScalars (s : State) (x : Cx) (stale : Nat → Bool) (f : Nat → Word) (v : Sub) : Prop where
  rest : v = { x.sub s with threads := v.threads, s := v.s }
  others : ∀ l, l ∉ x.lanes → v.thread l = (x.sub s).thread l
  members : ∀ l, l ∈ x.lanes → v.thread l = { (x.sub s).thread l with tstat := setStale ((x.sub s).thread l).tstat (stale l) }
  scalars : ∀ n, v.sreg n = f n

end Sys2Proof.Machine
end

