-- ==== Sys2Proof/Certificates/Slice0/Obligations.lean ====
section
/-!
DEFINITION. The statements.
-/

namespace Sys2Proof.Machine.Claim

/-! ### The shapes in which results are stated -/

/-- A 32-bit result of 32-bit operands A, B and D, which raises no flag (R85). -/
def int32 (f : Word → Word → Word → Word) : Word → Dword → Dword → Dword → LaneRes := fun _ A B D => { val := (f (loOf A) (loOf B) (loOf D)).setWidth 64 }
/-- A 64-bit result of 64-bit operands. -/
def int64 (f : Dword → Dword → Dword) : Word → Dword → Dword → Dword → LaneRes := fun _ A B _ => { val := f A B }

/-- Wherever it is legal, an RR word of the V class completes with the result `f` in each member. -/
def RR (sh : Shape) (i : Bool → Bool → BitVec 7 → BitVec 7 → BitVec 7 → Instr) (f : Word → Dword → Dword → Dword → LaneRes) : Prop :=
  ∀ s x w sb d a b, Legal s x sh w sb d a b → Completes s x (Wrote s x sh w sb d a b fun _ => f) (exec (i w sb d a b) s)
/-- The same of a word that takes A alone. -/
def R1 (sh : Shape) (i : Bool → BitVec 7 → BitVec 7 → Instr) (f : Word → Dword → Dword → Dword → LaneRes) : Prop :=
  ∀ s x w d a, Legal s x { sh with useB := false } w false d a 0 →
    Completes s x (Wrote s x { sh with useB := false } w false d a 0 fun _ => f) (exec (i w d a) s)
/-- A scalar ALU word of two operands. -/
def S2 (i : Bool → BitVec 7 → BitVec 7 → BitVec 7 → Instr) (f : Word → Word → Word) : Prop :=
  ∀ s x w d a b, LegalScalar s x w true false d a b →
    Completes s x (WroteScalar s x w d ((readScalar s x a.toNat).2 || (readScalar s x b.toNat).2) (f (readScalar s x a.toNat).1 (readScalar s x b.toNat).1))
      (exec (i w d a b) s)

end Sys2Proof.Machine.Claim

open Sys2Proof Machine Claim

/-! ### Integer words -/

/-- R86: the two-operand integer words, on integers and naturals. -/
def Sys2Proof.Machine.Claim.IntegerPairWordsGiveR86Results : Prop :=
  RR {} .addI32 (int32 fun A B _ => BitVec.ofInt 32 (A.toInt + B.toInt)) ∧
  RR {} .subI32 (int32 fun A B _ => BitVec.ofInt 32 (A.toInt - B.toInt)) ∧
  RR {} .mulI32 (int32 fun A B _ => BitVec.ofNat 32 (A.toNat * B.toNat)) ∧
  RR {} .mulhiI32 (int32 fun A B _ => BitVec.ofInt 32 (A.toInt * B.toInt / 2 ^ 32)) ∧
  RR {} .mulhiN32 (int32 fun A B _ => BitVec.ofNat 32 (A.toNat * B.toNat / 2 ^ 32)) ∧
  RR {} .andB32 (int32 fun A B _ => BitVec.ofNat 32 (A.toNat &&& B.toNat)) ∧
  RR {} .orB32 (int32 fun A B _ => BitVec.ofNat 32 (A.toNat ||| B.toNat)) ∧
  RR {} .xorB32 (int32 fun A B _ => BitVec.ofNat 32 (A.toNat ^^^ B.toNat)) ∧
  RR {} .andnB32 (int32 fun A B _ => BitVec.ofNat 32 (A.toNat &&& (2 ^ 32 - 1 - B.toNat))) ∧
  RR {} .shlB32 (int32 fun A B _ => if 32 ≤ B.toNat then 0 else BitVec.ofNat 32 (A.toNat * 2 ^ B.toNat)) ∧
  RR {} .shrN32 (int32 fun A B _ => if 32 ≤ B.toNat then 0 else BitVec.ofNat 32 (A.toNat / 2 ^ B.toNat)) ∧
  RR {} .shrI32 (int32 fun A B _ => if 32 ≤ B.toNat then (if A.toInt < 0 then -1 else 0) else BitVec.ofInt 32 (A.toInt / 2 ^ B.toNat)) ∧
  RR {} .rotB32 (int32 fun A B _ => BitVec.ofNat 32 (A.toNat * 2 ^ (B.toNat % 32)) ||| BitVec.ofNat 32 (A.toNat / 2 ^ (32 - B.toNat % 32))) ∧
  RR {} .minI32 (int32 fun A B _ => BitVec.ofInt 32 (min A.toInt B.toInt)) ∧
  RR {} .maxI32 (int32 fun A B _ => BitVec.ofInt 32 (max A.toInt B.toInt)) ∧
  RR {} .minN32 (int32 fun A B _ => BitVec.ofNat 32 (min A.toNat B.toNat)) ∧
  RR {} .maxN32 (int32 fun A B _ => BitVec.ofNat 32 (max A.toNat B.toNat)) ∧
  RR {} .seqB32 (int32 fun A B _ => if A = B then 1 else 0) ∧
  RR {} .sneB32 (int32 fun A B _ => if A = B then 0 else 1) ∧
  RR {} .sltI32 (int32 fun A B _ => if A.toInt < B.toInt then 1 else 0) ∧
  RR {} .sleI32 (int32 fun A B _ => if A.toInt ≤ B.toInt then 1 else 0) ∧
  RR {} .sltN32 (int32 fun A B _ => if A.toNat < B.toNat then 1 else 0) ∧
  RR {} .sleN32 (int32 fun A B _ => if A.toNat ≤ B.toNat then 1 else 0) ∧
  RR {} .bfeN32 (int32 fun A B _ => BitVec.ofNat 32 (A.toNat / 2 ^ (B.toNat % 32) % 2 ^ (B.toNat / 256 % 64)))

/-- R87: the words that read D. -/
def Sys2Proof.Machine.Claim.AccumulatingIntegerWordsGiveR87Results : Prop :=
  RR { readsD := true } .madI32 (int32 fun A B D => BitVec.ofNat 32 (A.toNat * B.toNat + D.toNat)) ∧
  RR { readsD := true } .sel (int32 fun A B D => if D.toNat ≠ 0 then A else B) ∧
  RR { readsD := true } .bfiB32 (int32 fun A B D =>
    let pos := B.toNat % 32
    let m : Word := BitVec.ofNat 32 ((2 ^ min 32 (B.toNat / 256 % 64) - 1) * 2 ^ pos)
    (D &&& ~~~m) ||| (BitVec.ofNat 32 (A.toNat * 2 ^ pos) &&& m)) ∧
  RR { readsD := true } .dp4I8 (int32 fun A B D => BitVec.ofInt 32 (D.toInt + ∑ i ∈ Finset.range 4,
    ((A >>> (8 * i)).setWidth 8).toInt * ((B >>> (8 * i)).setWidth 8).toInt)) ∧
  RR { readsD := true } .dp4N8 (int32 fun A B D => BitVec.ofNat 32 (D.toNat + ∑ i ∈ Finset.range 4, A.toNat / 2 ^ (8 * i) % 256 * (B.toNat / 2 ^ (8 * i) % 256)))

/-- R89, R90: the words of one operand and those with an immediate in place of B. -/
def Sys2Proof.Machine.Claim.OneOperandAndImmediateWordsGiveTheirResults : Prop :=
  R1 {} .popcB32 (int32 fun A _ _ => BitVec.ofNat 32 (∑ i ∈ Finset.range 32, A.toNat / 2 ^ i % 2)) ∧
  R1 {} .clzB32 (int32 fun A _ _ => if A = 0 then 32 else BitVec.ofNat 32 (31 - Nat.log2 A.toNat)) ∧
  R1 {} .brevB32 (int32 fun A _ _ => A.reverse) ∧
  R1 {} .mov (int32 fun A _ _ => A) ∧
  (∀ i, R1 {} (.addiI32 · · · i) (int32 fun A _ _ => BitVec.ofInt 32 (A.toInt + i.toInt))) ∧
  (∀ i, R1 {} (.muliI32 · · · i) (int32 fun A _ _ => BitVec.ofInt 32 (A.toInt * i.toInt))) ∧
  (∀ i, R1 {} (.andi · · · i) (int32 fun A _ _ => BitVec.ofNat 32 (A.toNat &&& i.toNat))) ∧
  (∀ i, R1 {} (.ori · · · i) (int32 fun A _ _ => BitVec.ofNat 32 (A.toNat ||| i.toNat))) ∧
  (∀ i, R1 {} (.xori · · · i) (int32 fun A _ _ => BitVec.ofNat 32 (A.toNat ^^^ i.toNat))) ∧
  (∀ i, R1 {} (.shli · · · i) (int32 fun A _ _ => BitVec.ofNat 32 (A.toNat * 2 ^ i.toNat))) ∧
  (∀ i, R1 {} (.shriN32 · · · i) (int32 fun A _ _ => BitVec.ofNat 32 (A.toNat / 2 ^ i.toNat))) ∧
  ∀ i, R1 {} (.shriI32 · · · i) (int32 fun A _ _ => BitVec.ofInt 32 (A.toInt / 2 ^ i.toNat))

/-- R91: 64-bit sums and address steps on pairs. -/
def Sys2Proof.Machine.Claim.PairWordsGiveR91Results : Prop :=
  RR { wideD := true, wideA := true, wideB := true } .addI64 (int64 fun A B => BitVec.ofNat 64 (A.toNat + B.toNat)) ∧
  RR { wideD := true, wideA := true, wideB := true } .subI64 (int64 fun A B => BitVec.ofInt 64 (A.toInt - B.toInt)) ∧
  RR { wideD := true, wideA := true } .leaX4 (int64 fun A B => BitVec.ofInt 64 (A.toInt + (loOf B).toInt * 4)) ∧
  RR { wideD := true, wideA := true } .leaX8 (int64 fun A B => BitVec.ofInt 64 (A.toInt + (loOf B).toInt * 8))

/-- R92: each scalar ALU word gives, once for the group, what its V-class namesake gives of R86, R87 and R89. -/
def Sys2Proof.Machine.Claim.ScalarWordsGiveTheirVectorResults : Prop :=
  S2 .saddI32 (fun A B => BitVec.ofInt 32 (A.toInt + B.toInt)) ∧
  S2 .ssubI32 (fun A B => BitVec.ofInt 32 (A.toInt - B.toInt)) ∧
  S2 .smulI32 (fun A B => BitVec.ofNat 32 (A.toNat * B.toNat)) ∧
  S2 .sandB32 (fun A B => BitVec.ofNat 32 (A.toNat &&& B.toNat)) ∧
  S2 .sorB32 (fun A B => BitVec.ofNat 32 (A.toNat ||| B.toNat)) ∧
  S2 .sxorB32 (fun A B => BitVec.ofNat 32 (A.toNat ^^^ B.toNat)) ∧
  S2 .sshlB32 (fun A B => if 32 ≤ B.toNat then 0 else BitVec.ofNat 32 (A.toNat * 2 ^ B.toNat)) ∧
  S2 .sshrN32 (fun A B => if 32 ≤ B.toNat then 0 else BitVec.ofNat 32 (A.toNat / 2 ^ B.toNat)) ∧
  S2 .sshrI32 (fun A B => if 32 ≤ B.toNat then (if A.toInt < 0 then -1 else 0) else BitVec.ofInt 32 (A.toInt / 2 ^ B.toNat)) ∧
  S2 .sminI32 (fun A B => BitVec.ofInt 32 (min A.toInt B.toInt)) ∧
  S2 .smaxI32 (fun A B => BitVec.ofInt 32 (max A.toInt B.toInt)) ∧
  S2 .sminN32 (fun A B => BitVec.ofNat 32 (min A.toNat B.toNat)) ∧
  S2 .smaxN32 (fun A B => BitVec.ofNat 32 (max A.toNat B.toNat)) ∧
  S2 .sseqB32 (fun A B => if A = B then 1 else 0) ∧
  S2 .ssltI32 (fun A B => if A.toInt < B.toInt then 1 else 0) ∧
  S2 .ssltN32 (fun A B => if A.toNat < B.toNat then 1 else 0) ∧
  (∀ s x w d a b, LegalScalar s x w true true d a b →
    Completes s x (WroteScalar s x w d ((readScalar s x a.toNat).2 || (readScalar s x b.toNat).2)
      (if (x.sub s).sreg d.toNat = 0 then (readScalar s x b.toNat).1 else (readScalar s x a.toNat).1)) (exec (.ssel w d a b) s)) ∧
  ∀ s x w d a, LegalScalar s x w false false d a 0 →
    Completes s x (WroteScalar s x w d (readScalar s x a.toNat).2 (readScalar s x a.toNat).1) (exec (.smov w d a) s)

/-- R93, R97: the constant words and `wbase`. The scalar ones write s[D] once, the window ones write each member, none pushes, and `wbase` sets WBASE alone. -/
def Sys2Proof.Machine.Claim.ConstantWordsAndWbase : Prop :=
  let scalar (i : BitVec 7 → BitVec 16 → Instr) (f : BitVec 16 → Word → Word) : Prop :=
    ∀ s x d k, Stands s x → d.toNat ≤ 111 → Completes s x (fun v => v = { x.sub s with s := v.s } ∧
      ∀ n, v.sreg n = if n = d.toNat then f k ((x.sub s).sreg n) else (x.sub s).sreg n) (exec (i d k) s)
  let lane (i : BitVec 7 → BitVec 16 → Instr) (f : BitVec 16 → Word → Word) : Prop :=
    ∀ s x d k, Stands s x → dstOk s x d.toNat 1 = true → Completes s x (fun v => v = { x.sub s with threads := v.threads } ∧
      (∀ l, l ∉ x.lanes → v.thread l = (x.sub s).thread l) ∧
      ∀ l, l ∈ x.lanes → v.thread l = { (x.sub s).thread l with v := (v.thread l).v } ∧
        ∀ n, (v.thread l).reg n = if n = destReg s x d then f k (((x.sub s).thread l).reg n) else ((x.sub s).thread l).reg n) (exec (i d k) s)
  let high (k : BitVec 16) (D : Word) : Word := BitVec.ofNat 32 (k.toNat * 2 ^ 16 + D.toNat % 2 ^ 16)
  scalar .sli (fun k _ => BitVec.ofInt 32 k.toInt) ∧ scalar .slih high ∧ scalar .saddi (fun k D => BitVec.ofInt 32 (D.toInt + k.toInt)) ∧
  lane .vli (fun k _ => BitVec.ofInt 32 k.toInt) ∧ lane .vlih high ∧
  ∀ s x (k : BitVec 16), Stands s x →
    (if x.form = .d then k.toNat % 16 = 0 ∧ k.toNat ≤ 144 else (k.toNat % 16 = 0 ∧ k.toNat ≤ 128) ∨ k.toNat = 140) →
    Completes s x (fun v => v = { x.sub s with wbase := k.setWidth 8 }) (exec (.wbase k) s)

/-! ### Floating-point words -/

namespace Sys2Proof.Machine.Claim

/-- One result of format `f`, rounded once from the exact value that `k` gives for the operands as FTZ reads them, in the mode of TSTAT.RM (R99). -/
def flt (f : Fmt) (k : RMode → Fp → Fp → Fp → Res) : Word → Dword → Dword → Dword → LaneRes := fun t A B D =>
  let op (v : Dword) : Fp := unpack f (flushes t) v.toNat
  laneOf (finish f (rmOf t) (flushes t) (k (rmOf t) (op A) (op B) (op D)))
/-- Two 16-bit results, element by element, with the flags of both (R108). -/
def flt2 (f : Fmt) (k : RMode → Fp → Fp → Fp → Res) : Word → Dword → Dword → Dword → LaneRes := fun t A B D =>
  let el (i : Nat) : Code :=
    let op (v : Dword) : Fp := unpack f (flushes t) (v.toNat / 2 ^ (16 * i) % 2 ^ 16)
    finish f (rmOf t) (flushes t) (k (rmOf t) (op A) (op B) (op D))
  { val := BitVec.ofNat 64 ((el 0).bits + 2 ^ 16 * (el 1).bits), flags := (el 0).flags ||| (el 1).flags }
/-- A code of the f32 operands A and B, and of FTZ, that is not rounded. -/
def raw (k : Bool → Nat → Nat → Code) : Word → Dword → Dword → Dword → LaneRes := fun t A B _ => laneOf (k (flushes t) (loOf A).toNat (loOf B).toNat)
/-- A compare of format `f`: 1 where `holds` of the operands as FTZ reads them and neither is NaN; IV for a signaling NaN, and for any in a signaling compare (R103). -/
def compare (f : Fmt) (signaling : Bool) (holds : Fp → Fp → Bool) : Word → Dword → Dword → Dword → LaneRes := fun t A B _ =>
  let x := unpack f (flushes t) (A.toNat % (2 * f.signBit))
  let y := unpack f (flushes t) (B.toNat % (2 * f.signBit))
  let nan := x.isNan || y.isNan
  { val := if !nan && holds x y then 1 else 0, flags := if (nan && signaling) || x.isSig || y.isSig then flagIV else 0 }

/-- The value of a number that is m · 2^e. -/
noncomputable def units (m : Nat) (e : Int) : ℚ := (m : ℚ) * (2 : ℚ) ^ e

end Sys2Proof.Machine.Claim

/-- R100, R105, R111: the rounded f32 words. -/
def Sys2Proof.Machine.Claim.SinglePrecisionWordsRoundTheExactValueOnce : Prop :=
  RR {} .faddF32 (flt f32 fun rm x y _ => addRes rm x y) ∧
  RR {} .fsubF32 (flt f32 fun rm x y _ => addRes rm x y.negate) ∧
  RR {} .fmulF32 (flt f32 fun _ x y _ => mulRes x y) ∧
  RR { readsD := true } .ffmaF32 (flt f32 fmaRes) ∧
  RR {} .fdivF32 (flt f32 fun _ x y _ => divRes x y) ∧
  R1 {} .fsqrtF32 (flt f32 fun _ x _ _ => sqrtRes x) ∧
  R1 {} .frcpF32 (flt f32 fun _ x _ _ => rcpRes x) ∧
  R1 {} .frsqF32 (flt f32 fun _ x _ _ => rsqRes x) ∧
  RR {} .fscaleF32 (fun t A B _ => laneOf (finish f32 (rmOf t) (flushes t) (scaleRes (unpack f32 (flushes t) A.toNat) (loOf B).toInt)))

/-- R102, R103, R104, R113: minimum and maximum, compares, sign words and the class mask, none of which rounds. -/
def Obligations.SelectionCompareSignAndClassWords : Prop :=
  RR {} .fminF32 (raw (minMax false false)) ∧ RR {} .fmaxF32 (raw (minMax true false)) ∧
  RR {} .fminnmF32 (raw (minMax false true)) ∧ RR {} .fmaxnmF32 (raw (minMax true true)) ∧
  RR {} .fseqF32 (compare f32 false fun x y => cmpFp x y == 0) ∧
  RR {} .fsltF32 (compare f32 true fun x y => decide (cmpFp x y < 0)) ∧
  RR {} .fsleF32 (compare f32 true fun x y => decide (cmpFp x y ≤ 0)) ∧
  RR {} .fsunF32 (fun t A B _ =>
    let x := unpack f32 (flushes t) (loOf A).toNat
    let y := unpack f32 (flushes t) (loOf B).toNat
    { val := if x.isNan || y.isNan then 1 else 0, flags := if x.isSig || y.isSig then flagIV else 0 }) ∧
  RR { wideA := true, wideB := true } .dsltF64 (compare f64 true fun x y => decide (cmpFp x y < 0)) ∧
  RR { wideA := true, wideB := true } .dseqF64 (compare f64 false fun x y => cmpFp x y == 0) ∧
  R1 {} .fnegF32 (raw fun z a _ =>
    let x := unpack f32 z a
    if x.isNan then { bits := 0x7fc00000, flags := if x.isSig then flagIV else 0 } else { bits := (ftzRead f32 z a) ^^^ 0x80000000 }) ∧
  R1 {} .fabsF32 (raw fun z a _ =>
    let x := unpack f32 z a
    if x.isNan then { bits := 0x7fc00000, flags := if x.isSig then flagIV else 0 } else { bits := (ftzRead f32 z a) % 0x80000000 }) ∧
  R1 {} .fclassF32 (raw fun z a _ => classOf z a)

/-- R106, R107: the transcendental words give a fixed function of the operand bits and of FTZ. -/
def Sys2Proof.Machine.Claim.TranscendentalWordsAreFixedFunctions : Prop :=
  R1 {} .fex2F32 (raw fun z a _ => fex2Code (BitVec.ofNat 32 a) z) ∧ R1 {} .flg2F32 (raw fun z a _ => flg2Code (BitVec.ofNat 32 a) z) ∧
  R1 {} .fsinF32 (raw fun z a _ => fsinCode (BitVec.ofNat 32 a) z) ∧ R1 {} .fcosF32 (raw fun z a _ => fcosCode (BitVec.ofNat 32 a) z)

/-- R108, R109, R110: the packed words, the dot product and the f64 words. -/
def Sys2Proof.Machine.Claim.PackedAndDoubleWordsRoundEachElementOnce : Prop :=
  RR {} .hadd2F16 (flt2 f16 fun rm x y _ => addRes rm x y) ∧ RR {} .hmul2F16 (flt2 f16 fun _ x y _ => mulRes x y) ∧
  RR { readsD := true } .hfma2F16 (flt2 f16 fmaRes) ∧
  RR {} .badd2Bf16 (flt2 bf16 fun rm x y _ => addRes rm x y) ∧ RR {} .bmul2Bf16 (flt2 bf16 fun _ x y _ => mulRes x y) ∧
  RR { readsD := true } .bfma2Bf16 (flt2 bf16 fmaRes) ∧
  RR { readsD := true } .fdot2Bf16 (fun t A B D =>
    let el (v : Dword) (i : Nat) : Fp := unpack bf16 (flushes t) (v.toNat / 2 ^ (16 * i) % 2 ^ 16)
    laneOf (finish f32 (rmOf t) (flushes t) (dotRes (rmOf t) (el A 0) (el B 0) (el A 1) (el B 1) (unpack f32 (flushes t) D.toNat)))) ∧
  RR { wideD := true, wideA := true, wideB := true } .daddF64 (flt f64 fun rm x y _ => addRes rm x y) ∧
  RR { wideD := true, wideA := true, wideB := true } .dmulF64 (flt f64 fun _ x y _ => mulRes x y) ∧
  RR { wideD := true, wideA := true, wideB := true, readsD := true } .dfmaF64 (flt f64 fmaRes)

/-- R77, R80, R112, R114, R115: `frnd` and `cvt` complete in the mode that their rounding code names where it is permitted, under rsr with the member's
draw and one move of the draw index, and raise ILL with detail 0x08 where it is not. -/
def Sys2Proof.Machine.Claim.RoundingFieldWordsFollowTheirField : Prop :=
  (∀ s x w d a (r : BitVec 3), Legal s x { useB := false } w false d a 0 →
    (r ≠ 5 → r ≠ 7 → Completes s x (Wrote s x { useB := false } w false d a 0
      fun _ t A _ _ => laneOf (roundIntegral (modeOf r t 0) (flushes t) (loOf A).toNat)) (exec (.frndF32 w d a r) s)) ∧
    (r = 5 ∨ r = 7 → exec (.frndF32 w d a r) s = .next (ill s x 8))) ∧
  (∀ s x w d a (r : BitVec 3) (k : BitVec 5), Legal s x (cvtShape k.toNat) w false d a 0 →
    (∀ e, cvtEntry k.toNat = some e → e.permits r = true →
      (r ≠ 5 → Completes s x (Wrote s x (cvtShape k.toNat) w false d a 0 fun _ t A _ _ => laneOf (convertAll e r t 0 A.toNat)) (exec (.cvt w d a r k) s)) ∧
      (r = 5 → (drawSat (x.sub s) = true → (x.sub s).rsten = false) →
        Completes s x (Wrote (s.modSub x.sg drawDone) x (cvtShape k.toNat) w false d a 0
          fun l t A _ _ => laneOf (convertAll e r t (rngWord (x.sub s) l) A.toNat)) (exec (.cvt w d a r k) s))) ∧
    ((∀ e, cvtEntry k.toNat = some e → e.permits r = false) → exec (.cvt w d a r k) s = .next (ill s x 8))) ∧
  (∀ r : BitVec 3, ∀ k : BitVec 5, (∃ e, cvtEntry k.toNat = some e ∧ e.permits r = true) ↔
    k.toNat < 28 ∧ r ≠ 7 ∧ (r = 5 → k.toNat ∈ [0, 1, 12, 13, 14, 15, 18, 19]))

/-- R75: what rounding m · 2^e to a whole number n of units of 2^q does to a magnitude, mode by mode. -/
def Sys2Proof.Machine.Claim.RoundingModesChooseTheR75Neighbour : Prop :=
  ∀ (mode : RMode) (neg : Bool) (m : Nat) (e q : Int) (n : Nat) (lost : Bool), roundTo mode neg m e q false = (n, lost) →
    let x := units m e
    let y := units n q
    let u := (2 : ℚ) ^ q
    (lost = true ↔ y ≠ x) ∧
    (mode = .rne → |x - y| ≤ u / 2 ∧ (|x - y| = u / 2 → n % 2 = 0)) ∧
    (mode = .rna → |x - y| ≤ u / 2 ∧ (|x - y| = u / 2 → x < y)) ∧
    (mode = .rtz → y ≤ x ∧ x < y + u) ∧
    (mode = .rup → if neg then y ≤ x ∧ x < y + u else x ≤ y ∧ y < x + u) ∧
    (mode = .rdn → if neg then x ≤ y ∧ y < x + u else y ≤ x ∧ x < y + u)

/-- R69, R76, R101, R107: the special cases, on the codes that an f32 word delivers. -/
def Sys2Proof.Machine.Claim.SpecialFloatCasesGiveTheirCodesAndFlags : Prop :=
  ∀ (rm : RMode) (ftz : Bool),
    let nan (fl : Flags) : Code := { bits := 0x7fc00000, flags := fl }
    let inf (n : Bool) (fl : Flags) : Code := { bits := if n then 0xff800000 else 0x7f800000, flags := fl }
    let zero (n : Bool) : Code := { bits := if n then 0x80000000 else 0 }
    let fin := finish f32 rm ftz
    (∀ q y, fin (addRes rm (.nan q) y) = nan (if q || y.isSig then flagIV else 0)) ∧
    (∀ q y, fin (mulRes (.nan q) y) = nan (if q || y.isSig then flagIV else 0)) ∧
    (∀ a b, fin (addRes rm (.inf a) (.inf b)) = if a = b then inf a 0 else nan flagIV) ∧
    (∀ a b e, fin (mulRes (.inf a) (.fin b 0 e)) = nan flagIV) ∧
    (∀ a b e q, fin (fmaRes rm (.inf a) (.fin b 0 e) (.nan q)) = nan flagIV) ∧
    (∀ a b e g, fin (divRes (.fin a 0 e) (.fin b 0 g)) = nan flagIV) ∧
    (∀ a b, fin (divRes (.inf a) (.inf b)) = nan flagIV) ∧
    (∀ a b m e g, m ≠ 0 → fin (divRes (.fin a m e) (.fin b 0 g)) = inf (a != b) flagDZ) ∧
    (∀ m e, m ≠ 0 → fin (sqrtRes (.fin true m e)) = nan flagIV) ∧
    (∀ e n, fin (sqrtRes (.fin n 0 e)) = zero n) ∧
    (∀ a m e, m ≠ 0 → fin (addRes rm (.fin a m e) (.fin (!a) m e)) = zero (rm == .rdn)) ∧
    (∀ a e g, fin (addRes rm (.fin a 0 e) (.fin a 0 g)) = zero a) ∧
    (∀ n e, fin (rcpRes (.fin n 0 e)) = inf n flagDZ) ∧
    (∀ n, fin (rcpRes (.inf n)) = zero n) ∧
    (∀ n e, fin (rsqRes (.fin n 0 e)) = inf n flagDZ) ∧
    fin (rsqRes (.inf true)) = nan flagIV ∧ fin (rsqRes (.inf false)) = zero false

/-! ### Divergence, masks and cross-lane words -/

namespace Sys2Proof.Machine.Claim

/-- The 32-bit A operand of a member (R41), and whether the read was stale (R26). -/
def opA (s : State) (x : Cx) (a : BitVec 7) (l : Nat) : Word := loOf (readSrc s x l a.toNat false).1
def staleA (s : State) (x : Cx) (a : BitVec 7) (l : Nat) : Bool := (readSrc s x l a.toNat false).2
/-- The address of the word at offset `o` from the word in course (R40). -/
def away (s : State) (x : Cx) (o : Int) : Dword := x.pc s + BitVec.ofInt 64 (4 * o)
/-- The group goes to where `pc` sends each member, with a trace record of `kind` for those of `ls` (R120, R384); LSTALE is set where `stale` says, and
nothing else changes. -/
def Jumps (s : State) (x : Cx) (kind : Nat) (ls : List Nat) (pc : Nat → Dword) (stale : Nat → Bool) (o : Out) : Prop :=
  GoesTo (traceLanes s x.sg kind ls (fun _ => x.pc s) pc) x pc true (WroteRegs s x stale fun l => ((x.sub s).thread l).reg) o
/-- A mask word: mask `k` takes the value `m`, held to the width of the subgroup; then the knots that it meets are released (R124). -/
def SetsMask (s : State) (x : Cx) (k : Nat) (m : Dword) (o : Out) : Prop :=
  ∃ v t, o = .next (settleKnots t x.sg) ∧ WentOn s t x x.lanes (fun _ => x.pc s + 4) true v ∧ SameBytes s (settleKnots t x.sg) ∧
    v = { x.sub s with k := v.k } ∧
    ∀ n, v.kreg n = if n = k then (if (x.sub s).narrow then m &&& 0xffffffff else m) else (x.sub s).kreg n

end Sys2Proof.Machine.Claim

/-- R120, R121: where the control-flow words send each member, and what else they write. Where a clause goes beyond
the words of spec/, it is the model's choice: log 20, log 21. -/
def Obligations.ControlFlowWordsSendEachMemberToItsTarget : Prop :=
  (∀ s x a o, Stands s x → srcOk s x a.toNat false = true → Calm s x (staleA s x a) →
    Jumps s x 1 (x.lanes.filter fun l => opA s x a l ≠ 0) (fun l => if opA s x a l ≠ 0 then away s x o.toInt else x.pc s + 4) (staleA s x a)
      (exec (.bnz a o) s) ∧
    Jumps s x 1 (x.lanes.filter fun l => opA s x a l = 0) (fun l => if opA s x a l = 0 then away s x o.toInt else x.pc s + 4) (staleA s x a)
      (exec (.bz a o) s)) ∧
  (∀ s x a o, Stands s x → sSrcOk x.form a.toNat = true → (x.mode s = 1 → (readScalar s x a.toNat).2 = false) →
    let taken := (readScalar s x a.toNat).1 ≠ 0
    Jumps s x 1 (if taken then x.lanes else []) (fun _ => if taken then away s x o.toInt else x.pc s + 4)
      (fun l => (readScalar s x a.toNat).2 && l == lowest x.mask) (exec (.bnzs a o) s)) ∧
  (∀ s x o, Stands s x → Jumps s x 1 x.lanes (fun _ => away s x o.toInt) (fun _ => false) (exec (.bra o) s)) ∧
  (∀ s x o, Stands s x → Jumps s x 4 x.lanes (fun _ => away s x o.toInt) (fun _ => false) (exec (.j o) s)) ∧
  (∀ s x o, Stands s x → GoesTo (traceLanes s x.sg 2 x.lanes (fun _ => x.pc s) fun _ => away s x o.toInt) x (fun _ => away s x o.toInt) true
    (WroteScalars s x (fun _ => false) fun n => if n = 110 then loOf (x.pc s + 4) else if n = 111 then hiOf (x.pc s + 4) else (x.sub s).sreg n)
    (exec (.jl o) s)) ∧
  (∀ s x a o, Stands s x → linkOk s x a.toNat = true →
    GoesTo (traceLanes s x.sg 2 x.lanes (fun _ => x.pc s) fun _ => away s x o.toInt) x (fun _ => away s x o.toInt) true
      (WroteRegs s x (fun _ => false) fun l i => if i = destReg s x a then loOf (x.pc s + 4) else if i = destReg s x a + 1 then hiOf (x.pc s + 4)
        else ((x.sub s).thread l).reg i) (exec (.call a o) s)) ∧
  (∀ s x a, Stands s x → linkOk s x a.toNat = true →
    let dest (l : Nat) : Dword := (readSrc s x l a.toNat true).1
    ((∀ l ∈ x.lanes, (dest l).toNat % 4 = 0) →
      Jumps s x 3 x.lanes dest (fun _ => false) (exec (.ret a) s) ∧ Jumps s x 4 x.lanes dest (fun _ => false) (exec (.jmp a) s)) ∧
    (∀ m ls, x.lanes.filter (fun l => (dest l).toNat % 4 ≠ 0) = m :: ls →
      exec (.ret a) s = .next (raise s x { trapOf s x (maskOf (m :: ls)) 3 2 with addr := dest m }) ∧
      exec (.jmp a) s = .next (raise s x { trapOf s x (maskOf (m :: ls)) 3 2 with addr := dest m }))) ∧
  ∀ s x, Stands s x → Switches s x (fun v => v = { x.sub s with yielded := true }) (exec .yield s)

/-- R123, R125: `join`, `leave`, `kmov` and `kop`, each performed once for the group. -/
def Sys2Proof.Machine.Claim.MaskWordsWriteTheirMaskOnce : Prop :=
  (∀ s x (d : BitVec 7), Stands s x → 1 ≤ d.toNat → d.toNat ≤ 11 →
    SetsMask s x d.toNat ((x.sub s).kreg d.toNat ||| x.mask) (exec (.join d) s) ∧
    SetsMask s x d.toNat ((x.sub s).kreg d.toNat &&& ~~~x.mask) (exec (.leave d) s) ∧
    (∀ a : BitVec 7, a.toNat ≤ 11 → SetsMask s x d.toNat ((x.sub s).kreg a.toNat) (exec (.kmov d a) s)) ∧
    (∀ a : BitVec 7, a.toNat ≤ 110 → a.toNat % 2 = 0 → SetsMask s x d.toNat ((x.sub s).spair a.toNat) (exec (.kmovFromScalar d a) s)) ∧
    ∀ (a : BitVec 7) (f : BitVec 4), a.toNat ≤ 11 → ∃ m : Dword, SetsMask s x d.toNat m (exec (.kop d a f) s) ∧
      ∀ l < 64, m.getLsbD l = f.getLsbD (2 * ((x.sub s).kreg d.toNat |>.getLsbD l).toNat + ((x.sub s).kreg a.toNat |>.getLsbD l).toNat)) ∧
  ∀ s x (d a : BitVec 7), Stands s x → d.toNat ≤ 110 → d.toNat % 2 = 0 → a.toNat ≤ 11 →
    Switches s x (WroteScalars s x (fun _ => false) fun n => if n = d.toNat then loOf ((x.sub s).kreg a.toNat)
      else if n = d.toNat + 1 then hiOf ((x.sub s).kreg a.toNat) else (x.sub s).sreg n) (exec (.kmovToScalar d a) s)

/-- R124: `waitk` blocks each member at its word, and the threads blocked at a `waitk` go on past it when every live member that their mask names is
blocked at the same word. -/
def Sys2Proof.Machine.Claim.WaitkBlocksUntilItsKnotIsMet : Prop :=
  (∀ s x (a : BitVec 7), Stands s x → a.toNat ≤ 11 →
    exec (.waitk a) s = .next (settleKnots (blockAt s x x.lanes (.knot (a.setWidth 4))) x.sg) ∧
    ∀ l ∈ x.lanes, ((blockAt s x x.lanes (.knot (a.setWidth 4))).sub x.sg).thread l =
      { (x.sub s).thread l with
        wait := .knot (a.setWidth 4)
        lastIssue := (s.row x.core x.row).issued + 1
        readyAt := s.cycle x.core
        lastAt := s.cycle x.core }) ∧
  ∀ s g, (s.sub g).handler = none →
    let u := s.sub g
    let n := (settleKnots s g).sub g
    let met (l : Nat) (k : BitVec 4) : Prop := u.live.getLsbD l = true ∧
      ∀ m < 64, (u.kreg k.toNat).getLsbD m = true → u.live.getLsbD m = true → (∃ j, (u.thread m).wait = .knot j) ∧ (u.thread m).pc = (u.thread l).pc
    (∀ l t, u.threads.find? l = some t → ∀ k, t.wait = .knot k → met l k →
      n.thread l = { t with pc := t.pc + 4, wait := .none, since := min (t.since + 1) 0xffffffff, readyAt := s.cycle u.core }) ∧
    (∀ l t, u.threads.find? l = some t → ∀ k, t.wait = .knot k → ¬ met l k → n.thread l = t) ∧
    (∀ l, (∀ k, (u.thread l).wait ≠ .knot k) → n.thread l = u.thread l) ∧ settleKnots s g = s.setSub g n ∧ n = { u with threads := n.threads }

/-- R126, R128: the shuffles deliver the A operand of the member that each names; an index that no member has delivers zero. -/
def Sys2Proof.Machine.Claim.ShufflesDeliverTheNamedMembersOperand : Prop :=
  ∀ s x (d a : BitVec 7), Stands s x → dstOk s x d.toNat 1 = true → srcOk s x a.toNat false = true →
    let from_ (m : Nat → Option Nat) (o : Out) : Prop := Calm s x (fun l => (m l).any (staleA s x a)) →
      Switches s x (WroteReg s x d (fun l => (m l).any (staleA s x a)) fun l => match m l with
        | some k => opA s x a k
        | none => 0) o
    (∀ i : BitVec 8, from_ (fun l => if i.toNat ≤ l then some (l - i.toNat) else none) (exec (.shflUp d a i) s) ∧
      from_ (fun l => some (l + i.toNat)) (exec (.shflDn d a i) s) ∧ from_ (fun l => some (l ^^^ i.toNat)) (exec (.shflX d a i) s)) ∧
    (∀ sb (b : BitVec 7), (sb = true → sbOk b.toNat = true) → bOk s x sb b.toNat false = true →
      Calm s x (fun l => (readB s x sb l b.toNat false).2 || staleA s x a (readB s x sb l b.toNat false).1.toNat) →
      Switches s x (WroteReg s x d (fun l => (readB s x sb l b.toNat false).2 || staleA s x a (readB s x sb l b.toNat false).1.toNat)
        fun l => opA s x a (readB s x sb l b.toNat false).1.toNat) (exec (.shfl sb d a b) s)) ∧
    ∀ m, (x.sub s).width ≤ m ∨ (x.sub s).live.getLsbD m = false → opA s x a m = 0 ∧ staleA s x a m = false

/-- R129: the votes, written once for the group. -/
def Sys2Proof.Machine.Claim.VotesCountTheIssuingGroupOnly : Prop :=
  ∀ s x (d a : BitVec 7), Stands s x → srcOk s x a.toNat false = true → Calm s x (staleA s x a) →
    let gives (f : Nat → Word) (o : Out) : Prop := Switches s x (WroteScalars s x (staleA s x a) f) o
    let one (b : Prop) [Decidable b] (n : Nat) : Word := if n = d.toNat then (if b then 1 else 0) else (x.sub s).sreg n
    (d.toNat ≤ 111 →
      gives (one (∃ l ∈ x.lanes, opA s x a l ≠ 0)) (exec (.voteAny d a) s) ∧
      gives (one (∀ l ∈ x.lanes, opA s x a l ≠ 0)) (exec (.voteAll d a) s) ∧
      gives (one (∀ l ∈ x.lanes, ∀ m ∈ x.lanes, opA s x a l = opA s x a m)) (exec (.voteEq d a) s)) ∧
    (d.toNat ≤ 110 → d.toNat % 2 = 0 → ∃ m : Dword, (∀ l < 64, m.getLsbD l = (x.mask.getLsbD l && opA s x a l != 0)) ∧
      gives (fun n => if n = d.toNat then loOf m else if n = d.toNat + 1 then hiOf m else (x.sub s).sreg n) (exec (.voteBallot d a) s))

/-- R130: the reductions and the scan over the issuing group. -/
def Sys2Proof.Machine.Claim.ReductionsCombineTheIssuingGroup : Prop :=
  ∀ s x (d a : BitVec 7), Stands s x → dstOk s x d.toNat 1 = true → srcOk s x a.toNat false = true → Calm s x (staleA s x a) →
    let gives (f : Nat → Word) (o : Out) : Prop := Switches s x (WroteReg s x d (staleA s x a) f) o
    gives (fun _ => BitVec.ofNat 32 (x.lanes.map fun l => (opA s x a l).toNat).sum) (exec (.reduxAddI32 d a) s) ∧
    gives (fun l => BitVec.ofNat 32 ((x.lanes.filter (· ≤ l)).map fun m => (opA s x a m).toNat).sum) (exec (.scanAddI32 d a) s) ∧
    gives (fun _ => treeSum (x.lanes.map fun l => (l, opA s x a l))) (exec (.reduxAddF32 d a) s) ∧
    ∃ m : Word, (∃ l ∈ x.lanes, m = opA s x a l) ∧ (∀ l ∈ x.lanes, (opA s x a l).toInt ≤ m.toInt) ∧ gives (fun _ => m) (exec (.reduxMaxI32 d a) s)

/-- R127, R131, R133, R134: `xsel`, `sample`, `rng.b32` and `rngctl`. Where a clause goes beyond
the words of spec/, it is the model's choice: log 20. -/
def Obligations.SamplingAndGeneratorWords : Prop :=
  (∀ s x (a : BitVec 7), Stands s x → srcOk s x a.toNat false = true → Calm s x (staleA s x a) →
    ∃ t, exec (.xsel a) s = .next t ∧
      (∃ p, (t.row x.core x.row).xsel = some p ∧ p.pc = x.pc s ∧ p.word = (s.row x.core x.row).word ∧
        (∀ l ∈ x.lanes, p.sel.get l 0 = opA s x a l ∧ p.stale.getLsbD l = staleA s x a l) ∧
        t.row x.core x.row = { s.row x.core x.row with issued := (s.row x.core x.row).issued + 1, xsel := some p, atSwitch := false }) ∧
      t.issuing = some x ∧ (∀ l ∈ x.lanes, ((x.sub t).thread l).pc = x.pc s + 4 ∧ ((x.sub t).thread l).v = ((x.sub s).thread l).v) ∧ SameBytes s t) ∧
  (∀ s x (d a b : BitVec 7), Stands s x → sbOk b.toNat = true → d.toNat ≤ 110 → srcOk s x a.toNat false = true → Calm s x (staleA s x a) →
    let w := (x.sub s).width
    let r := sampleOf (if (x.sub s).narrow then 5 else 6) ((List.range w).map fun l => if x.mask.getLsbD l then opA s x a l else 0)
      (loOf (readSb (x.sub s) b.toNat false))
    Switches s x (fun v => WroteScalars (s.setSub x.sg { x.sub s with sstat := setBit (x.sub s).sstat 0 r.2.2 }) x (staleA s x a)
      (fun n => if n = d.toNat + 1 then r.2.1 else if n = d.toNat then r.1 else (x.sub s).sreg n) v) (exec (.sample d a b) s)) ∧
  (∀ s x (d : BitVec 7), Stands s x → dstOk s x d.toNat 1 = true →
    ((drawSat (x.sub s) = false ∨ (x.sub s).rsten = false) →
      Switches s x (WroteReg (s.setSub x.sg (drawDone (x.sub s))) x d (fun _ => false) (rngWord (x.sub s))) (exec (.rngB32 d) s)) ∧
    (drawSat (x.sub s) = true → (x.sub s).rsten = true → exec (.rngB32 d) s =
      .next (raise (s.modSub x.sg fun u => { u with sstat := setBit u.sstat 1 true }) x (trapOf s x x.mask 9 0)))) ∧
  ∀ s x, Stands s x →
    ((x.sub s).rngPos ≠ 0xffffffffff →
      Switches s x (fun v => v = { x.sub s with rngPos := (x.sub s).rngPos + 1, rngDraw := 0 }) (exec .rngctlNext s)) ∧
    ((x.sub s).rngPos = 0xffffffffff → exec .rngctlNext s = .next (raise s x (trapOf s x x.mask 0x0a 0))) ∧
    ∀ a : BitVec 7, a.toNat ≤ 110 → a.toNat % 2 = 0 →
      Switches s x (fun v => v = { x.sub s with rngStream := (x.sub s).spair a.toNat, rngPos := 0, rngDraw := 0 }) (exec (.rngctlSetStream a) s) ∧
      Switches s x (fun v => v = { x.sub s with rngKey := (x.sub s).spair a.toNat }) (exec (.rngctlSetKey a) s) ∧
      Switches s x (WroteScalars s x (fun _ => false) fun n =>
        let c : Dword := BitVec.ofNat 64 ((x.sub s).rngPos.toNat * 2 ^ 24 + (x.sub s).rngDraw.toNat)
        if n = a.toNat then loOf c else if n = a.toNat + 1 then hiOf c else (x.sub s).sreg n) (exec (.rngctlReadCounter a) s)

/-! ### Memory words -/

namespace Sys2Proof.Machine.Claim

/-- The address of a member's access: its 64-bit A operand plus an offset (R138); and whether the read was stale (R26). -/
def addrA (s : State) (x : Cx) (a : BitVec 7) (off : Int) (l : Nat) : Dword := (readSrc s x l a.toNat true).1 + BitVec.ofInt 64 off
def staleA2 (s : State) (x : Cx) (a : BitVec 7) (l : Nat) : Bool := (readSrc s x l a.toNat true).2
/-- Each member's access of `n` bytes passes checks 1 to 5 of R154: `r` is the state with what translation and first touch leave, `at_ l` the bytes that the
access of member `l` names. -/
structure Access (s : State) (x : Cx) (sp : BitVec 2) (n : Nat) (natural : Bool) (need : Need) (addr : Nat → Dword) (r : State) (at_ : Nat → List Spot) :
    Prop where
  located : locateEach s (x.party s) sp n natural need (x.lanes.map fun l => (l, addr l)) = (r, x.lanes.map fun l => ⟨l, addr l, .ok (at_ l)⟩)
/-- The number that little-endian bytes are (R4). -/
def number (bs : List Byte) : Nat := bs.foldr (fun b n => b.toNat + 256 * n) 0
/-- Bytes paired with global places, and with scratchpad bytes. -/
def globs (L : List (Spot × Byte)) : List (Loc × Byte) := L.filterMap fun p => match p.1 with
  | .glob y => some (y.loc, p.2)
  | .scr _ _ => none
def scrs (L : List (Spot × Byte)) : List ((Nat × Nat) × Byte) := L.filterMap fun p => match p.1 with
  | .glob _ => none
  | .scr w off => some ((w, off), p.2)
/-- The last byte that a list pairs with a place. -/
def lastTo {κ : Type} [DecidableEq κ] (L : List (κ × Byte)) (k : κ) : Option Byte := ((L.filter fun p => p.1 = k).getLast?).map Prod.snd
/-- The bytes of `L` stored one after the other, those of global memory in the view of core `c`: every other byte reads as before, from every core and at
home; nothing else changes but the model's stamps and list of stores on their way, the dirty marks of stash lines and the ECC units made whole (R8, R143, R176, R177). -/
structure Stored (r q : State) (c : Nat) (L : List (Spot × Byte)) : Prop where
  rest : q = { r with cores := q.cores, wgs := q.wgs, stamp := q.stamp, bad := q.bad, unsent := q.unsent, follows := q.follows }
  cores : ∀ k, q.core k = if k = c then { r.core k with view := (q.core k).view } else r.core k
  wgs : ∀ w, q.wg w = { r.wg w with mem := (q.wg w).mem, stash := (q.wg w).stash, bad := (q.wg w).bad }
  view : ∀ p, (q.core c).view.read p = (lastTo (globs L) p).getD ((r.core c).view.read p)
  seen : ∀ k p, k ≠ c ∨ lastTo (globs L) p = none → q.seen k p = r.seen k p
  scratch : ∀ w off, Mem.read (q.wg w).mem off = (lastTo (scrs L) (w, off)).getD (Mem.read (r.wg w).mem off)
  home : ∀ p, q.homeByte p = r.homeByte p
/-- The registers `m` of field `d` take the words that `f` gives, and LSTALE is set in the members whose read was stale (R26). -/
def WroteSpan (s : State) (x : Cx) (d : BitVec 7) (m : Nat) (stale : Nat → Bool) (f : Nat → Nat → Word) (v : Sub) : Prop :=
  WroteRegs s x stale (fun l i => if destReg s x d ≤ i ∧ i < destReg s x d + m then f l (i - destReg s x d) else ((x.sub s).thread l).reg i) v

/-- Nothing has changed in the subgroup but LSTALE of the members whose read was stale (R26). -/
def OnlyStale (s : State) (x : Cx) (stale : Nat → Bool) (v : Sub) : Prop := WroteRegs s x stale (fun l i => ((x.sub s).thread l).reg i) v

/-- The homes of the bytes that members access answer now, and no member waited at its word for an answer in vain (R393). -/
def Answered (s r : State) (x : Cx) (at_ : Nat → List Spot) : Prop :=
  (∀ l ∈ x.lanes, ∀ p, ((x.sub s).thread l).wait ≠ .late p) ∧ ∀ l ∈ x.lanes, ∀ y ∈ at_ l, spotAnswers r y = true
/-- Where the home of some byte does not answer now, the group waits at its word for it (R393). -/
def WaitsForAnswer (s r : State) (x : Cx) (store : Bool) (at_ : Nat → List Spot) (stale : Nat → Bool) (o : Out) : Prop :=
  (∀ l ∈ x.lanes, ∀ p, ((x.sub s).thread l).wait ≠ .late p) → (∀ l ∈ x.lanes, stale l = false) → (∃ l ∈ x.lanes, ∃ y ∈ at_ l, spotAnswers r y = false) →
    ∃ q, o = .next (awaitAnswer r x store q)
/-- A load of `n` bytes whose register `i` takes `ext v i` of the number `v` that was read through the core's view. -/
def Loads (i : BitVec 7 → BitVec 7 → BitVec 2 → BitVec 6 → Instr) (n : Nat) (ext : Nat → Nat → Word) : Prop :=
  ∀ s x d a sp (f : BitVec 6) r at_, Stands s x → dstOk s x d.toNat (regCount n) = true → srcOk s x a.toNat true = true → Calm s x (staleA2 s x a) →
    Access s x sp n false .load (addrA s x a (f.toInt * n)) r at_ →
    (∀ l ∈ x.lanes, correctable r (addrA s x a (f.toInt * n) l) (at_ l) [] = none) →
    (Answered s r x at_ → GoesTo (loadIssued r x) x (fun _ => x.pc s + 4) true
      (WroteSpan (loadIssued r x) x d (regCount n) (staleA2 s x a) fun l => ext (number ((at_ l).map (readSpot r x.core)))) (exec (i d a sp f) s)) ∧
    WaitsForAnswer s r x false at_ (staleA2 s x a) (exec (i d a sp f) s)

/-- Byte `i` of what a store of `n` bytes takes from field `d` of a member (R140, R141). -/
def storedByte (s : State) (x : Cx) (d : BitVec 7) (n l i : Nat) : Byte :=
  if n ≤ 8 then ((readSrc s x l d.toNat (n == 8)).1 >>> (8 * i)).setWidth 8
  else if d = 120 then 0 else ((((x.sub s).thread l).reg (destReg s x d + i / 4)) >>> (8 * (i % 4))).setWidth 8
def storedBytes (s : State) (x : Cx) (d : BitVec 7) (n l : Nat) : List Byte := (List.range n).map (storedByte s x d n l)
/-- Whether the address or the data of a member's store was a stale latch (R26). -/
def staleStore (s : State) (x : Cx) (d a : BitVec 7) (n l : Nat) : Bool := staleA2 s x a l || (decide (n ≤ 8) && (readSrc s x l d.toNat (n == 8)).2)
/-- Check 6 of R154 for the stores of a group: units that the event rewrites in full pass. -/
def Correctable (r : State) (x : Cx) (n : Nat) (addr : Nat → Dword) (at_ : Nat → List Spot) : Prop :=
  ∀ l ∈ x.lanes, correctable r (addr l) (at_ l) (if oneEvent n (x.lanes.map fun m => (m, addr m, at_ m)) then x.lanes.flatMap at_ else at_ l) = none
/-- A plain store of `n` bytes. -/
def Stores (i : BitVec 7 → BitVec 7 → BitVec 2 → BitVec 6 → Instr) (n : Nat) : Prop :=
  ∀ s x d a sp (f : BitVec 6) r at_, Stands s x → storeOk s x d.toNat n = true → srcOk s x a.toNat true = true → Calm s x (staleStore s x d a n) →
    Access s x sp n false .store (addrA s x a (f.toInt * n)) r at_ → Correctable r x n (addrA s x a (f.toInt * n)) at_ →
    ∃ q, Stored r q x.core (x.lanes.flatMap fun l => (at_ l).zip (storedBytes s x d n l)) ∧
      GoesTo q x (fun _ => x.pc s + 4) true (OnlyStale q x (staleStore s x d a n)) (exec (i d a sp f) s)

/-- An acquire load of `n` bytes: the latest published value, then an acquire at the scope (R144). -/
def LoadsAcquire (i : BitVec 7 → BitVec 7 → BitVec 3 → BitVec 2 → Instr) (n : Nat) : Prop :=
  ∀ s x d a (c : BitVec 3) sp r at_, Stands s x → c ≠ 7 → dstOk s x d.toNat (regCount n) = true → srcOk s x a.toNat true = true → Calm s x (staleA2 s x a) →
    Access s x sp n true .load (addrA s x a 0) r at_ → (∀ l ∈ x.lanes, correctable r (addrA s x a 0 l) (at_ l) [] = none) →
    let q := loadIssued (acquire (moveView r x.core (x.wg s) x.sg c.toNat (x.lanes.flatMap at_)) (x.party r) c.toNat) x
    (Answered s r x at_ → GoesTo q x (fun _ => x.pc s + 4) true (WroteSpan q x d (regCount n) (staleA2 s x a) fun l i =>
      BitVec.ofNat 32 (number ((at_ l).map (readPublished r x.core (x.wg s) x.sg c.toNat)) / 2 ^ (32 * i))) (exec (i d a c sp) s)) ∧
    WaitsForAnswer s r x false at_ (staleA2 s x a) (exec (i d a c sp) s)

/-- A release store of `n` bytes: a release at the scope, the store, and its publication (R144). One that writes NOTIFY of a needle ring publishes the entries
that it covers (R237). -/
def StoresRelease (i : BitVec 7 → BitVec 7 → BitVec 3 → BitVec 2 → Instr) (n : Nat) : Prop :=
  ∀ s x d a (c : BitVec 3) sp r r' at_, Stands s x → c ≠ 7 → storeOk s x d.toNat n = true → srcOk s x a.toNat true = true → Calm s x (staleStore s x d a n) →
    Access s x sp n true .store (addrA s x a 0) r at_ → Correctable r x n (addrA s x a 0) at_ →
    relocked r x.core c.toNat = false → release r (x.party r) c.toNat = (r', none) →
    let notifies (l : Nat) : Prop := n = 4 ∧ 2 ≤ c.toNat ∧ ∃ w off, (at_ l).head? = some (.scr w off) ∧ ringOf r' w = some off
    ((∀ l ∈ x.lanes, ¬ notifies l) →
      ∃ q, Stored (ownRelease r' x c.toNat) q x.core (x.lanes.flatMap fun l => (at_ l).zip (storedBytes s x d n l)) ∧
        let p := ownRelease (q.publish x.core (x.wg q) c.toNat) x c.toNat
        GoesTo p x (fun _ => x.pc s + 4) true (OnlyStale p x (staleStore s x d a n)) (exec (i d a c sp) s)) ∧
    ∀ l w off, x.lanes = [l] → n = 4 → 2 ≤ c.toNat → (at_ l).head? = some (.scr w off) → ringOf r' w = some off →
      ∃ q, Stored r' q x.core ((at_ l).zip (storedBytes s x d n l)) ∧
        let p := publishNotify q w x.sg [l] (scrRead r' w off 4)
        GoesTo (p.publish x.core (x.wg p) c.toNat) x (fun _ => x.pc s + 4) true (OnlyStale (p.publish x.core (x.wg p) c.toNat) x (staleStore s x d a n)) (exec (i d a c sp) s)

/-- The turns of members `ls` in an atomic, one after the other: each reads its location at home and puts `new` of what it read there (R146, R149). -/
def turns (s : State) (c n : Nat) (at_ : Nat → List Spot) (new : Nat → Dword → Dword) (ls : List Nat) : State :=
  ls.foldl (fun s l => (atomicStep s c n (at_ l) (new l)).1) s
/-- The value that member `l` of a group reads in its turn. -/
def oldOf (s : State) (x : Cx) (n : Nat) (at_ : Nat → List Spot) (new : Nat → Dword → Dword) (l : Nat) : Dword :=
  (atomicStep (turns s x.core n at_ new (x.lanes.filter (· < l))) x.core n (at_ l) id).2
/-- The D operand of an atomic with `regs` registers as its low and its high pair (R146). -/
def atomicOperand (s : State) (x : Cx) (d : BitVec 7) (regs l : Nat) : (Dword × Dword) × Bool :=
  if regs = 4 then ((if d = 120 then 0 else ((x.sub s).thread l).pair (destReg s x d), if d = 120 then 0 else ((x.sub s).thread l).pair (destReg s x d + 2)), false)
  else (((readSrc s x l d.toNat (regs == 2)).1, 0), (readSrc s x l d.toNat (regs == 2)).2)
/-- An atomic word on `n` bytes: `regs` registers of D, `back` of them written with the old value unless WS discards it, and the new value `f` of the old one
and the D operand; a release before and an acquire after it as its ORD field asks (R146 to R149). -/
def Atomics (i : Bool → BitVec 3 → BitVec 2 → BitVec 7 → BitVec 7 → Instr) (n regs back : Nat) (f : Nat → Nat → Nat → Nat) : Prop :=
  ∀ s x w (c : BitVec 3) (o : BitVec 2) d a r r' at_, Stands s x → c ≠ 7 →
    (if w then (if regs = 4 then quadSrcOk s x d.toNat else srcOk s x d.toNat (regs == 2)) else dstOk s x d.toNat regs) = true →
    srcOk s x a.toNat true = true →
    let stale (l : Nat) : Bool := staleA2 s x a l || (atomicOperand s x d regs l).2
    Calm s x stale → Access s x 0 n true .store (addrA s x a 0) r at_ →
    (∀ l ∈ x.lanes, correctable r (addrA s x a 0 l) (at_ l) [] = none) →
    (∀ l ∈ x.lanes, ∀ q, .glob q ∈ at_ l → atUnit q.leaf q.loc = true → r.badAt (q.loc / 128 * 128) 128 = false) →
    (if o.getLsbD 1 then relocked r x.core c.toNat = false ∧ release r (x.party r) c.toNat = (r', none) else r' = r) →
    let new (l : Nat) (m : Dword) : Dword :=
      BitVec.ofNat 64 (f m.toNat (atomicOperand s x d regs l).1.1.toNat (atomicOperand s x d regs l).1.2.toNat)
    let b := if o.getLsbD 1 then ownRelease r' x c.toNat else r'
    let t := turns b x.core n at_ new x.lanes
    let t := if o.getLsbD 1 then ownRelease (t.publish x.core (x.wg t) c.toNat) x c.toNat else t
    let t := if o.getLsbD 0 then acquire t (x.party t) c.toNat else t
    ((∀ l ∈ x.lanes, ∀ y ∈ at_ l, spotAnswers r y = true) → GoesTo t x (fun _ => x.pc s + 4) true (WroteSpan t x d (if w then 0 else back) stale fun l i =>
      BitVec.ofNat 32 ((oldOf b x n at_ new l).toNat / 2 ^ (32 * i))) (exec (i w c o d a) s)) ∧
    WaitsForAnswer s r x true at_ stale (exec (i w c o d a) s)

/-- A `poll` of `n` bytes: a member without the hint, or whose register differs from what is published, takes the value and goes on; the others watch (R150). -/
def Polls (i : Bool → BitVec 7 → BitVec 7 → BitVec 3 → BitVec 2 → Instr) (n : Nat) : Prop :=
  ∀ s x hint d a (c : BitVec 3) sp r at_, Stands s x → c ≠ 7 → dstOk s x d.toNat (regCount n) = true → srcOk s x a.toNat true = true → Calm s x (staleA2 s x a) →
    Access s x sp n true .load (addrA s x a 0) r at_ → (∀ l ∈ x.lanes, correctable r (addrA s x a 0 l) (at_ l) [] = none) →
    let q := moveView r x.core (x.wg s) x.sg c.toNat (x.lanes.flatMap at_)
    let value (l : Nat) : Nat := number ((at_ l).map (readPublished r x.core (x.wg s) x.sg c.toNat))
    let held (l : Nat) : Nat := if n = 8 then (((x.sub s).thread l).pair (destReg s x d)).toNat else (((x.sub s).thread l).reg (destReg s x d)).toNat
    let go (l : Nat) : Prop := hint = false ∨ value l ≠ held l
    WaitsForAnswer s r x false at_ (staleA2 s x a) (exec (i hint d a c sp) s) ∧
    (Answered s r x at_ → ((∀ l ∈ x.lanes, go l) → GoesTo q x (fun _ => x.pc s + 4) true
      (WroteSpan q x d (regCount n) (staleA2 s x a) fun l i => BitVec.ofNat 32 (value l / 2 ^ (32 * i))) (exec (i hint d a c sp) s)) ∧
    ∃ t, exec (i hint d a c sp) s = .next t ∧ SameBytes q t ∧ (t.row x.core x.row).atSwitch = true ∧ ∀ l ∈ x.lanes,
      let u := (x.sub t).thread l
      let o := (x.sub q).thread l
      (go l → u.pc = x.pc s + 4 ∧ u.wait = .none ∧ ∀ k, u.reg k =
        if destReg s x d ≤ k ∧ k < destReg s x d + regCount n then BitVec.ofNat 32 (value l / 2 ^ (32 * (k - destReg s x d))) else o.reg k) ∧
      (¬ go l → u = { o with
        wait := .poll (addrA s x a 0 l)
        lastIssue := (s.row x.core x.row).issued + 1
        readyAt := s.cycle x.core
        lastAt := s.cycle x.core
        tstat := setStale o.tstat (staleA2 s x a l) }))

end Sys2Proof.Machine.Claim

/-- R138 to R141: the loads. -/
def Sys2Proof.Machine.Claim.LoadsExtendWhatTheCoreSees : Prop :=
  let signed (w : Nat) (v _ : Nat) : Word := BitVec.ofInt 32 (BitVec.ofNat w v).toInt
  let unsigned (v i : Nat) : Word := BitVec.ofNat 32 (v / 2 ^ (32 * i))
  Loads .ldI8 1 (signed 8) ∧ Loads .ldN8 1 unsigned ∧ Loads .ldI16 2 (signed 16) ∧ Loads .ldN16 2 unsigned ∧
  Loads .ldB32 4 unsigned ∧ Loads .ldB64 8 unsigned ∧ Loads .ldB128 16 unsigned

/-- R138 to R143: the plain stores, and the multicast store with its four replicas on a REP page (R145). -/
def Sys2Proof.Machine.Claim.StoresWriteTheirBytesAndNoOthers : Prop :=
  Stores .stB8 1 ∧ Stores .stB16 2 ∧ Stores .stB32 4 ∧ Stores .stB64 8 ∧ Stores .stB128 16 ∧
  ∀ s x d a sp (f : BitVec 6) r at_, Stands s x → storeOk s x d.toNat 8 = true → srcOk s x a.toNat true = true → Calm s x (staleStore s x d a 8) →
    Access s x sp 8 true .store (addrA s x a (f.toInt * 8)) r at_ →
    (∀ l ∈ x.lanes, correctable r (addrA s x a (f.toInt * 8) l) ((at_ l).flatMap (replicas r x.core)) ((at_ l).flatMap (replicas r x.core)) = none) →
    ∃ q, Stored r q x.core (x.lanes.flatMap fun l => ((at_ l).zip (storedBytes s x d 8 l)).flatMap fun p => (replicas r x.core p.1).map (·, p.2)) ∧
      GoesTo q x (fun _ => x.pc s + 4) true (OnlyStale q x (staleStore s x d a 8)) (exec (.stMcB64 d a sp f) s)

/-- R144: acquire loads and release stores. -/
def Sys2Proof.Machine.Claim.AcquireLoadsAndReleaseStoresOrder : Prop :=
  LoadsAcquire .ldAcqB32 4 ∧ LoadsAcquire .ldAcqB64 8 ∧ StoresRelease .stRelB32 4 ∧ StoresRelease .stRelB64 8

/-- R146 to R149: the atomics. -/
def Sys2Proof.Machine.Claim.AtomicsReplaceTheHomeValueInMemberOrder : Prop :=
  let low (v : Nat) : Nat := v % 2 ^ 32
  let int (v : Nat) : Int := (BitVec.ofNat 32 v).toInt
  let word (f : Nat → Nat → Nat) : Nat → Nat → Nat → Nat := fun m v _ => low (f (low m) (low v))
  let fsum (m v : Nat) : Nat := (finish f32 .rne false (addRes .rne (unpack f32 false m) (unpack f32 false v))).bits
  let bsum (m v : Nat) : Nat := (finish bf16 .rne false (addRes .rne (unpack bf16 false (m % 2 ^ 16)) (unpack bf16 false (v % 2 ^ 16)))).bits
  Atomics .atomAddI32 4 1 1 (word fun m v => m + v) ∧ Atomics .atomAddF32 4 1 1 (word fsum) ∧
  Atomics .atomMinI32 4 1 1 (word fun m v => if int v < int m then v else m) ∧ Atomics .atomMaxI32 4 1 1 (word fun m v => if int m < int v then v else m) ∧
  Atomics .atomMinN32 4 1 1 (word min) ∧ Atomics .atomMaxN32 4 1 1 (word max) ∧
  Atomics .atomAndB32 4 1 1 (word fun m v => m &&& v) ∧ Atomics .atomOrB32 4 1 1 (word fun m v => m ||| v) ∧
  Atomics .atomXorB32 4 1 1 (word fun m v => m ^^^ v) ∧ Atomics .atomExchB32 4 1 1 (word fun _ v => v) ∧
  Atomics .atomCasB32 4 2 1 (fun m v _ => if low m = low v then v / 2 ^ 32 else m) ∧
  Atomics .atomAddI64 8 2 2 (fun m v _ => m + v) ∧ Atomics .atomExchB64 8 2 2 (fun _ v _ => v) ∧
  Atomics .atomCasB64 8 4 2 (fun m v n => if m = v then n else m) ∧
  Atomics .atomAdd2Bf16 4 1 1 (fun m v _ => bsum m v + 2 ^ 16 * bsum (m / 2 ^ 16) (v / 2 ^ 16))

/-- R149: what one turn of an atomic reads and writes. -/
def Sys2Proof.Machine.Claim.AnAtomicTurnIsReadAndWriteAtHome : Prop :=
  ∀ (s : State) (c n : Nat) (f : Dword → Dword), n ≤ 8 → 0 < s.stamp →
    (∀ y ys,
      let r := atomicStep s c n (.glob y :: ys) f
      let old := number ((List.range n).map fun i => s.homeByte (y.loc + i))
      r.2 = BitVec.ofNat 64 old ∧
      (∀ i < n, r.1.pk.read (y.loc + i) = ((f r.2) >>> (8 * i)).setWidth 8 ∧ r.1.sy.read (y.loc + i) = ((f r.2) >>> (8 * i)).setWidth 8) ∧
      (∀ i < n, isRemote (y.loc + i) = false → r.1.homeByte (y.loc + i) = ((f r.2) >>> (8 * i)).setWidth 8) ∧
      (∀ p, p < y.loc ∨ y.loc + n ≤ p → r.1.homeByte p = s.homeByte p) ∧
      (∀ w, Mem.read (r.1.wg w).mem = Mem.read (s.wg w).mem) ∧
      (∀ g, r.1.sub g = { s.sub g with image := (r.1.sub g).image } ∧ (r.1.sub g).image.bytes = (s.sub g).image.bytes) ∧ r.1.fe = s.fe) ∧
    ∀ w off ys,
      let r := atomicStep s c n (.scr w off :: ys) f
      let old := number ((List.range n).map fun i => Mem.read (s.wg w).mem (off + i))
      r.2 = BitVec.ofNat 64 old ∧
      (∀ a, Mem.read (r.1.wg w).mem a = if off ≤ a ∧ a < off + n then ((f r.2) >>> (8 * (a - off))).setWidth 8 else Mem.read (s.wg w).mem a) ∧
      (∀ v, v ≠ w → r.1.wg v = s.wg v) ∧ (∀ p, r.1.homeByte p = s.homeByte p) ∧ (∀ k p, r.1.seen k p = s.seen k p) ∧ r.1.subs = s.subs ∧ r.1.fe = s.fe

/-- R150: `poll`. Where a clause goes beyond
the words of spec/, it is the model's choice: log 5, log 14. -/
def Obligations.PollTakesAPublishedValueOrWatches : Prop := Polls .pollB32 4 ∧ Polls .pollB64 8

/-- R94, R95: the scalar accesses, made once for the group. Where a clause goes beyond
the words of spec/, it is the model's choice: log 5, log 14, log 20, log 54. -/
def Obligations.ScalarAccessesAreMadeOnceForTheGroup : Prop :=
  let loads (i : BitVec 7 → BitVec 7 → BitVec 2 → BitVec 6 → Instr) (n : Nat) (ok : Nat → Bool) : Prop :=
    ∀ s x d a sp (f : BitVec 6) r at_, Stands s x → ok d.toNat = true → sBaseOk x.form a.toNat = true →
      (x.mode s = 1 → (readScalarWide s x a.toNat true).2 = false) →
      let addr := (readScalarWide s x a.toNat true).1 + BitVec.ofInt 64 (f.toInt * n)
      locate s (x.party s) sp addr n false .load = (r, .ok at_) →
      correctable r addr at_ [] = none → (∀ p, ((x.sub s).thread (lowest x.mask)).wait ≠ .late p) → (∀ y ∈ at_, spotAnswers r y = true) →
      GoesTo r x (fun _ => x.pc s + 4) false (WroteScalars r x (fun l => (readScalarWide s x a.toNat true).2 && l == lowest x.mask) fun k => if d.toNat ≤ k ∧ k < d.toNat + n / 4
        then BitVec.ofNat 32 (number (at_.map (readSpot r x.core)) / 2 ^ (32 * (k - d.toNat))) else (x.sub s).sreg k) (exec (i d a sp f) s)
  let stores (i : BitVec 7 → BitVec 7 → BitVec 2 → BitVec 6 → Instr) (n : Nat) : Prop :=
    ∀ s x d a sp (f : BitVec 6) r at_, Stands s x → sDataOk x.form d.toNat (n == 8) = true → sBaseOk x.form a.toNat = true →
      let stale := (readScalarWide s x a.toNat true).2 || (readScalarWide s x d.toNat (n == 8)).2
      (x.mode s = 1 → stale = false) →
      let addr := (readScalarWide s x a.toNat true).1 + BitVec.ofInt 64 (f.toInt * n)
      locate s (x.party s) sp addr n false .store = (r, .ok at_) → correctable r addr at_ at_ = none →
      ∃ q, Stored r q x.core (at_.zip ((List.range n).map fun i => ((readScalarWide s x d.toNat (n == 8)).1 >>> (8 * i)).setWidth 8)) ∧
        GoesTo q x (fun _ => x.pc s + 4) false (OnlyStale q x fun l => stale && l == lowest x.mask) (exec (i d a sp f) s)
  loads .sldB32 4 sDstOk ∧ loads .sldB64 8 spairOk ∧ stores .sstB32 4 ∧ stores .sstB64 8

/-- R154, R340: locating an access changes no byte that a program could have read, but for stash lines touched for the first time (R152), and no subgroup. -/
def Sys2Proof.Machine.Claim.LocatingAnAccessChangesNoByteButStashFills : Prop :=
  ∀ s P sp a n natural need, let r := (locate s P sp a n natural need).1
    r = { s with cores := r.cores, clusters := r.clusters, wgs := r.wgs, fabric := { s.fabric with ports := r.fabric.ports, names := r.fabric.names } } ∧
    (∀ c, r.core c = { s.core c with tlb := (r.core c).tlb, walks := (r.core c).walks, stale := (r.core c).stale }) ∧
    (∀ k, r.cluster k = { s.cluster k with tlb := (r.cluster k).tlb }) ∧
    (∀ p, r.homeByte p = s.homeByte p) ∧ (∀ c p, r.seen c p = s.seen c p) ∧
    ∀ w off, Mem.read (r.wg w).mem off ≠ Mem.read (s.wg w).mem off →
      ∃ t ∈ (s.wg w).stash, t.off ≤ off ∧ off < t.off + t.len + 128 ∧ (off - t.off) / 128 ∉ t.filled

/-- R154: the checks of an access come in their order, each at the lowest byte that fails it. -/
def Sys2Proof.Machine.Claim.AccessChecksComeInR154Order : Prop :=
  ∀ s P sp (a : Dword) n natural need,
    let b (i : Nat) : Dword := a + BitVec.ofNat 64 i
    let named (i : Nat) : Option Named := decodeAddr s P.core P.ctx P.wg sp (b i)
    let answer := (locate s P sp a n natural need).2
    (∀ i < n, named i = none → (∀ j < i, named j ≠ none) → answer = .error { cause := 4, detail := 1, addr := b i }) ∧
    ((∀ i < n, named i ≠ none) → natural = true → a.toNat % n ≠ 0 → answer = .error { cause := 3, detail := 1, addr := a }) ∧
    ((∀ i < n, named i ≠ none) → (natural = true → a.toNat % n = 0) → ∀ i < n,
      let away (j : Nat) : Prop := ∃ w off, named j = some (.scr w off) ∧ w ≠ P.wg ∧ (s.wg w).resident = false
      away i → (∀ j < i, ¬ away j) → answer = .error { cause := 6, detail := 0, addr := b i }) ∧
    (n = 1 → ∀ va, named 0 = some (.glob va) → (natural = true → a.toNat % n = 0) → tlbFind (s.core P.core).tlb P.ctx va = none →
      tlbFind (s.cluster (clusterOf P.core)).tlb P.ctx va = none →
      (∀ c d, walk s P.ctx va = .error (c, d) → answer = .error { cause := c, detail := d, addr := BitVec.ofNat 64 va }) ∧
      ∀ e log, walk s P.ctx va = .ok (e, log) →
        (∀ d, denied e need = some d → answer = .error { cause := 4, detail := d, addr := BitVec.ofNat 64 va }) ∧
        (denied e need = none → (fun p => isRemote p = false ∧ s.reachable p = true) (leafLoc s e log va (s.dieOfCore P.core)) →
          answer = .ok [.glob ⟨leafLoc s e log va (s.dieOfCore P.core), e⟩]))

/-- R175, R177, R178: merging keeps the later store of each place; a release takes a core's view to the images of its scope, an acquire takes those images to
the view. -/
def Sys2Proof.Machine.Claim.ReleasesPublishAndAcquiresTakeInByScope : Prop :=
  (∀ (a b : VMem) p, (a.merge b).stampAt p = max (a.stampAt p) (b.stampAt p) ∧
    (a.merge b).read p = if a.stampAt p < b.stampAt p then b.read p else a.read p) ∧
  (∀ (s : State) c w S, let t := s.publish c w S; let v := (s.core c).view
    t.pk = (if 5 ≤ S then s.pk.merge v else s.pk) ∧ t.sy = (if 6 ≤ S then s.sy.merge v else s.sy) ∧
    (∀ d, (t.die d).image = if 4 ≤ S ∧ d = s.dieOfCore c then (s.die d).image.merge v else (s.die d).image) ∧
    (∀ k, (t.cluster k).image = if 3 ≤ S ∧ k = clusterOf c then (s.cluster k).image.merge v else (s.cluster k).image) ∧
    (∀ u, (t.wg u).image = if u = w ∧ (S = 1 ∨ 3 ≤ S) ∧ s.wgs.find? w ≠ none then (s.wg u).image.merge v else (s.wg u).image) ∧
    (S = 0 → t = s) ∧ t.subs = s.subs ∧
    ∀ k, t.core k = if 2 ≤ S ∧ k = c then { s.core c with image := (s.core c).image.merge v } else s.core k) ∧
  ∀ (s : State) c w S p, let t := s.takeIn c w S; let v := (t.core c).view
    (s.core c).view.stampAt p ≤ v.stampAt p ∧ (5 ≤ S → s.pk.stampAt p ≤ v.stampAt p) ∧ (6 ≤ S → s.sy.stampAt p ≤ v.stampAt p) ∧
    (4 ≤ S → (s.die (s.dieOfCore c)).image.stampAt p ≤ v.stampAt p) ∧ (3 ≤ S → (s.cluster (clusterOf c)).image.stampAt p ≤ v.stampAt p) ∧
    (S = 1 ∨ 3 ≤ S → (s.wg w).image.stampAt p ≤ v.stampAt p) ∧
    (S = 0 ∨ S = 2 → v = (s.core c).view) ∧ (∀ k, k ≠ c → t.core k = s.core k) ∧ t = { s with cores := t.cores, unsent := t.unsent, follows := t.follows }

/-- R179, R180, R325: the phases and the fence; a release that a relock holds waits at its word. -/
def Sys2Proof.Machine.Claim.PhaseWordsAndTheSubgroupFence : Prop :=
  ∀ s x, Stands s x → Switches s x (Unchanged s x) (exec .fenceSg s) ∧
    (∀ c : BitVec 3, c ≠ 7 →
      (let q := acquire s (x.party s) c.toNat
       GoesTo q x (fun _ => x.pc s + 4) true (Unchanged q x) (exec (.phaseAcq c) s)) ∧
      (∀ r, relocked s x.core c.toNat = false → release s (x.party s) c.toNat = (r, none) →
        let p := ownRelease r x c.toNat
        let q := acquire p (x.party p) c.toNat
        GoesTo p x (fun _ => x.pc s + 4) true (Unchanged p x) (exec (.phaseRel c) s) ∧
        GoesTo q x (fun _ => x.pc s + 4) true (Unchanged q x) (exec (.phaseAr c) s)) ∧
      (relocked s x.core c.toNat = true →
        exec (.phaseRel c) s = .next (blockAt s x x.lanes (.release c.toNat)) ∧ exec (.phaseAr c) s = .next (blockAt s x x.lanes (.release c.toNat)))) ∧
    exec (.phaseAcq 7) s = .next (ill s x 8) ∧ exec (.phaseRel 7) s = .next (ill s x 8) ∧ exec (.phaseAr 7) s = .next (ill s x 8)

/-- R185: `icinv` drops the lines that overlap the range of some member. -/
def Sys2Proof.Machine.Claim.IcinvDropsTheLinesOfItsRanges : Prop :=
  ∀ s x sb (a b : BitVec 7), Stands s x → (sb = true → sbOk b.toNat = true) → srcOk s x a.toNat true = true → bOk s x sb b.toNat false = true →
    let B (l : Nat) : Dword × Bool := readB s x sb l b.toNat false
    let stale (l : Nat) : Bool := staleA2 s x a l || (B l).2
    Calm s x stale →
    ∃ q, (∀ line, (q.core x.core).lines.find? line =
        if ∃ l ∈ x.lanes, (B l).1.toNat ≠ 0 ∧ line < (addrA s x a 0 l).toNat + (B l).1.toNat ∧ (addrA s x a 0 l).toNat < line + 64 then none
        else (s.core x.core).lines.find? line) ∧
      q = { s with cores := q.cores } ∧
      (∀ c, q.core c = if c = x.core then { s.core c with lines := (q.core c).lines } else s.core c) ∧
      GoesTo q x (fun _ => x.pc s + 4) true (OnlyStale q x stale) (exec (.icinv sb a b) s)

/-- R290: `pfrange` gives the batch token, or names a barrier, and its command completes later. -/
def Sys2Proof.Machine.Claim.PfrangeCountsInABatchOrArrivesOnABarrier : Prop :=
  (∀ s x sb (d a b : BitVec 7), Stands s x → (sb = true → sbOk b.toNat = true) → srcOk s x a.toNat true = true → bOk s x sb b.toNat false = true →
    let B (l : Nat) : Dword × Bool := readB s x sb l b.toNat false
    let stale (l : Nat) : Bool := staleA2 s x a l || (B l).2
    Calm s x stale →
    let done (q : State) (p : Prefetch) : State := { q with fresh := s.fresh + 1, prefetches := s.prefetches.set s.fresh p }.post [.pfrangeComplete s.fresh]
    ((B (lowest x.mask)).1.getLsbD 31 = false → d.toNat ≤ 111 →
      let q := done { s with cmds := s.cmds.set s.fresh { joins := x.lanes.map fun l => ((x.sg, l), ((x.sub s).thread l).batch), core := x.core } }
        { cmd := some s.fresh, wg := x.wg s }
      GoesTo q x (fun _ => x.pc s + 4) true (WroteScalars q x stale fun k =>
        if k = d.toNat then ((x.sub s).thread (lowest x.mask)).batch.setWidth 32 else (x.sub s).sreg k) (exec (.pfrange sb d a b) s)) ∧
    ((B (lowest x.mask)).1.getLsbD 31 = true → spairOk d.toNat = true → ∀ r w off,
      barrierAt { s with fresh := s.fresh + 1 } (x.party s) ((x.sub s).spair d.toNat) = (r, .ok (w, off)) →
      let q := done r { barrier := some (w, off), wg := x.wg s }
      GoesTo q x (fun _ => x.pc s + 4) true (OnlyStale q x stale) (exec (.pfrange sb d a b) s))) ∧
  ∀ s n p, s.prefetches.find? n = some p →
    (p.barrier = none → exec (.pfrangeComplete n) s = .next { finishCmd s n {} with prefetches := s.prefetches.del n }) ∧
    ∀ w off, p.barrier = some (w, off) →
      (s.wgs.find? w = none ∨ s.badScr w off = true → exec (.pfrangeComplete n) s = .next { s with prefetches := s.prefetches.del n }) ∧
      (s.wgs.find? w ≠ none → s.badScr w off = false → (s.wg w).resident = false → exec (.pfrangeComplete n) s = .next s) ∧
      (s.wgs.find? w ≠ none → s.badScr w off = false → (s.wg w).resident = true →
        ∃ t, exec (.pfrangeComplete n) s = .next t ∧ barrierWord t w off = arrived (barrierWord s w off) 1 ∧ t.prefetches.find? n = none)

/-- R151, R153: `stmap` maps a range that passes its table of faults, `stunmap` writes its dirty lines back and forgets it. -/
def Sys2Proof.Machine.Claim.StashWordsMapAndUnmapARange : Prop :=
  (∀ s x sb (d a b : BitVec 7), Stands s x → (sb = true → sbOk b.toNat = true) → srcOk s x d.toNat false = true → srcOk s x a.toNat true = true →
    bOk s x sb b.toNat false = true →
    let l := lowest x.mask
    let off := (readSrc s x l d.toNat false).1.toNat
    let base := (readSrc s x l a.toNat true).1.toNat
    let len := (readB s x sb l b.toNat false).1.toNat
    let stale := (readSrc s x l d.toNat false).2 || (readSrc s x l a.toNat true).2 || (readB s x sb l b.toNat false).2
    (x.mode s = 1 → stale = false) →
    let w := s.wg (x.wg s)
    let whole : Prop := off % 128 = 0 ∧ base % 128 = 0 ∧ len % 128 = 0 ∧ len ≠ 0
    let fits : Prop := off + len ≤ w.size ∧ base + len ≤ 2 ^ 56 ∧ (∀ t ∈ w.stash, off + len ≤ t.off ∨ t.off + t.len ≤ off) ∧ w.stash.length < 8
    (whole → fits → let q := s.setWg (x.wg s) { w with stash := w.stash ++ [{ off := off, base := base, len := len }] }
      GoesTo q x (fun _ => x.pc s + 4) true (OnlyStale q x fun k => stale && k == l) (exec (.stmap sb d a b) s)) ∧
    (¬ whole → exec (.stmap sb d a b) s = .next (raise s x (trapOf s x x.mask 3 4))) ∧
    (whole → ¬ fits → exec (.stmap sb d a b) s = .next (raise s x (trapOf s x x.mask 4 5)))) ∧
  ∀ s x (a : BitVec 7), Stands s x → srcOk s x a.toNat false = true →
    let l := lowest x.mask
    let off := (readSrc s x l a.toNat false).1.toNat
    let stale := (readSrc s x l a.toNat false).2
    (x.mode s = 1 → stale = false) →
    (∀ t r, (s.wg (x.wg s)).stash.find? (fun t => t.off == off) = some t → writeBack s (x.party s) (x.wg s) t t.dirty = (r, none) →
      let q := r.modWg (x.wg s) fun g => { g with stash := g.stash.filter fun o => o.off != off }
      GoesTo q x (fun _ => x.pc s + 4) true (OnlyStale q x fun k => stale && k == l) (exec (.stunmap a) s)) ∧
    ((s.wg (x.wg s)).stash.find? (fun t => t.off == off) = none → exec (.stunmap a) s = .next (raise s x (trapOf s x x.mask 4 5)))

/-! ### Threads that end, estates and control registers -/

namespace Sys2Proof.Machine.Claim

/-- The members of the group have retired: their bits are gone from every mask and their registers are zero; a subgroup whose threads have all retired is gone
(R135, R167). -/
def Retired (s t : State) (x : Cx) : Prop :=
  ((x.sub s).live &&& ~~~x.mask = 0 → t.subs.find? x.sg = none) ∧
  ((x.sub s).live &&& ~~~x.mask ≠ 0 → (∀ n, (x.sub t).kreg n = (x.sub s).kreg n &&& ~~~x.mask) ∧
    (∀ l ∈ x.lanes, ∀ i, ((x.sub t).thread l).reg i = 0) ∧ ∀ l, l ∉ x.lanes → ((x.sub t).thread l).v = ((x.sub s).thread l).v)
/-- No workgroup that has dirty stash lines runs a handler, whose end a writeback that faults at a cluster barrier would be (R152, R264). -/
def Tidy (s : State) : Prop := ∀ w, (∀ t ∈ (s.wg w).stash, t.dirty = []) ∨ ∀ g ∈ s.subsOf w, (s.sub g).inHandler = false
/-- No handler runs in the subgroup of the group. -/
def NoHandler (s : State) (x : Cx) : Prop := (x.sub s).handler = none ∧ (x.sub s).inHandler = false
/-- The estate of `es` that a claim of launch `la` meets, and what is left of `es` after the claims of members `ls` in their order (R192, R195). -/
def met (es : List Estate) (la : Launch) (key : Dword) (tag : BitVec 3) : Option Estate := es.find? fun e => eligibleFor la e && e.key == key && e.tag == tag
def left (la : Launch) (tag : BitVec 3) (key : Nat → Dword) (es : List Estate) (ls : List Nat) : List Estate :=
  ls.foldl (fun es l => match met es la (key l) tag with
    | some e => es.filter fun o => !(e.same o)
    | none => es) es
/-- The registers `r` to `r + n - 1` of field `d` lie in the window and below REGS (R188, R195). -/
def spanOk (s : State) (x : Cx) (d : BitVec 7) (n : Nat) : Prop := d.toNat + n - 1 ≤ topCode x.form ∧ destReg s x d + n ≤ x.regs s

end Sys2Proof.Machine.Claim

/-- R135, R188: `exit` and `boff`, outside a handler; the second leaves one estate for every member and every entry of the bequest list. -/
def Sys2Proof.Machine.Claim.ExitAndBoffRetireTheirMembers : Prop :=
  ∀ s x, Stands s x → NoHandler s x →
    (∃ t, exec .exit s = .next t ∧
      (Tidy s → Retired s t x ∧ t.fe.estates = s.fe.estates ∧ ((∀ k, traced s k = false) → ∀ p, t.homeByte p = s.homeByte p))) ∧
    ∀ (d : BitVec 7) (g : BitVec 3) (c : BitVec 5), spanOk s x d (c.toNat + 1) →
      let bs := (x.launch s).lpb.bequest
      (∃ e ∈ bs, e.tag = g ∧ e.base = destReg s x d ∧ e.count = c.toNat + 1) →
      ∃ t L, exec (.boff d g c) s = .next t ∧ L.length = x.lanes.length * bs.length ∧ (Tidy s → Retired s t x ∧ t.fe.estates = s.fe.estates ++ L) ∧
        ∀ i j l e, x.lanes[i]? = some l → bs[j]? = some e → L[i * bs.length + j]? = some {
          ctx := (x.launch s).ctx
          region := (x.launch s).region
          fdom := (x.launch s).fdom
          store := (x.launch s).store
          key := ((x.sub s).thread l).wid
          tag := e.tag
          seq := (s.fe.regions.get (x.launch s).region {}).seq + BitVec.ofNat 64 (i * bs.length + j)
          regs := (List.range e.count).map fun k => ((x.sub s).thread l).reg (e.base + k)
          launch := (s.wg (x.wg s)).launch
          place := .inPlace (x.sub s).core (x.sub s).row (x.sub s).slot l }

/-- R192, R195, R196, R198, R202: `pickup` delivers the estate that each member claims in its turn, or zeros with EST.PKMISS; from the stitch holder of another core and
from the backing store an estate is brought first; one with an uncorrectable error raises MEMERR and is gone. While a relock holds the request for an estate the group
waits at the word (R325). `estat` delivers EST. -/
def Sys2Proof.Machine.Claim.PickupDeliversTheClaimedEstates : Prop :=
  (∀ s x (d a : BitVec 7) (g : BitVec 3) (c : BitVec 5), Stands s x → s.subs.find? x.sg ≠ none → spanOk s x d (c.toNat + 1) → srcOk s x a.toNat true = true →
    Calm s x (staleA2 s x a) →
    let n := c.toNat + 1
    let key (l : Nat) : Dword := (readSrc s x l a.toNat true).1
    let meets (l : Nat) : Option Estate := met (left (x.launch s) g key s.fe.estates (x.lanes.filter (· < l))) (x.launch s) (key l) g
    let wrote (q : State) (v : Sub) : Prop := v = { x.sub q with threads := v.threads } ∧ (∀ l, l ∉ x.lanes → v.thread l = (x.sub q).thread l) ∧
      ∀ l ∈ x.lanes, let o := (x.sub q).thread l
        v.thread l = { o with v := (v.thread l).v, est := setBit o.est 8 (meets l).isNone, tstat := setStale o.tstat (staleA2 s x a l) } ∧
        ∀ i, (v.thread l).reg i = if destReg s x d ≤ i ∧ i < destReg s x d + n then (match meets l with
          | some e => e.regs.getD (i - destReg s x d) 0
          | none => 0) else o.reg i
    let flying (q : State) : State := (q.modSub x.sg fun u => { u with inflight := u.inflight + 1 }).post [.pickupComplete x.sg]
    let free : Prop := ∀ l ∈ x.lanes, ∀ e, met s.fe.estates (x.launch s) (key l) g = some e → estateHeld s x.core e = none
    (¬ free → (∀ l ∈ x.lanes, staleA2 s x a l = false) → ∃ k, exec (.pickup d a g c) s = .next (blockAt s x x.lanes (.fifo k))) ∧
    (free → (∀ l ∈ x.lanes, ∀ e, meets l = some e → e.bad = false ∧ ((∃ r k m, e.place = .inPlace x.core r k m) ∨ ∃ j, e.place = .holder j)) →
      ∃ q, q.fe.estates = left (x.launch s) g key s.fe.estates x.lanes ∧
        q = { flying s with fe := { s.fe with estates := q.fe.estates, regions := q.fe.regions }, dbgr := q.dbgr } ∧
        GoesTo q x (fun _ => x.pc s + 4) true (wrote q) (exec (.pickup d a g c) s)) ∧
    ∀ l e, free → x.lanes = [l] → meets l = some e →
      let b := bringEstate s x.core e
      let r := takeEstate b.1 e
      r.subs.find? x.sg ≠ none →
      (b.2 = false → let q := flying r; GoesTo q x (fun _ => x.pc q + 4) true (wrote q) (exec (.pickup d a g c) s)) ∧
      (b.2 = true → let q := flying r
        exec (.pickup d a g c) s = .next (switchPoint (raise (advance q x []) x { trapOf r x (maskOf [l]) 5 2 with addr := 0 }) x))) ∧
  (∀ s x (d : BitVec 7), Stands s x → dstOk s x d.toNat 1 = true →
    Switches s x (WroteReg s x d (fun _ => false) fun l => ((x.sub s).thread l).est) (exec (.estat d) s)) ∧
  ∀ s g u, s.subs.find? g = some u →
    exec (.pickupComplete g) s = .next (s.setSub g { u with inflight := u.inflight - 1 }) ∧
    exec (.loadDataArrival g) s = .next (s.setSub g { u with inflight := u.inflight - 1 })

/-- R34, R96, R320, R321, R323: what `srd` delivers for each number, with the sample that a read of 0x0030 takes. -/
def Sys2Proof.Machine.Claim.SrdDeliversTheNumberedRegister : Prop :=
  ∀ s x (d : BitVec 7), Stands s x → d.toNat ≤ 111 →
    let u := x.sub s
    let t := u.thread (lowest x.mask)
    let y := s.die (s.dieOfCore x.core)
    let gives (n : Nat) (v : Word) : Prop :=
      let q : State := if n = 0x30 then s.setSub x.sg { u with smpCyc := y.cyc, smpScyc := y.scyc, smpEtime := s.etime } else s
      GoesTo q x (fun _ => x.pc s + 4) false (WroteScalars q x (fun _ => false) fun k => if k = d.toNat then v else u.sreg k) (exec (.srd d (BitVec.ofNat 16 n)) s)
    gives 1 t.tstat ∧ gives 2 t.est ∧ gives 3 (t.batch.setWidth 32) ∧
    gives 0x10 (setBit u.sstat 5 ((s.core x.core).engine.owner == some x.sg)) ∧ gives 0x11 u.fen ∧ gives 0x12 (u.wbase.setWidth 32) ∧
    gives 0x20 ((s.core x.core).mode.setWidth 32) ∧
    gives 0x30 (loOf y.cyc) ∧ gives 0x31 (hiOf u.smpCyc) ∧ gives 0x32 (loOf u.smpScyc) ∧ gives 0x33 (hiOf u.smpScyc) ∧
    gives 0x34 (loOf u.smpEtime) ∧ gives 0x35 (hiOf u.smpEtime) ∧
    gives 0x36 (BitVec.ofNat 32 (y.lcode.toNat * 16 + y.dcode.toNat)) ∧
    gives 0x37 (BitVec.ofNat 32 (s.dieOfCore x.core * 2 ^ 16 + clusterOf x.core * 2 ^ 8 + (if isL x.core then 16 else 0) + coreIndex x.core)) ∧
    gives 0x38 y.dsteps ∧
    (∀ i < 8, let e := y.log.get i {}
      gives (0x40 + 8 * i) (loOf e.etime) ∧ gives (0x41 + 8 * i) (hiOf e.etime) ∧ gives (0x42 + 8 * i) (loOf e.cyc) ∧ gives (0x43 + 8 * i) (hiOf e.cyc) ∧
      gives (0x44 + 8 * i) (loOf e.scyc) ∧ gives (0x45 + 8 * i) (hiOf e.scyc) ∧ gives (0x46 + 8 * i) e.seq ∧ gives (0x47 + 8 * i) e.codes) ∧
    ∀ n : BitVec 16, n.toNat ∉ [1, 2, 3, 0x10, 0x11, 0x12, 0x20, 0x30, 0x31, 0x32, 0x33, 0x34, 0x35, 0x36, 0x37, 0x38] → n.toNat < 0x40 ∨ 0x80 ≤ n.toNat →
      exec (.srd d n) s = .next (ill s x 8)

/-- R28, R30, R34, R96: what `swr` writes, and that CORE_CTL takes it at supervisor level alone. -/
def Sys2Proof.Machine.Claim.SwrWritesTheWritableBits : Prop :=
  ∀ s x (d : BitVec 7), Stands s x → d.toNat ≤ 111 →
    let u := x.sub s
    let v := u.sreg d.toNat
    (Completes s x (fun w => w = { u with threads := w.threads } ∧ (∀ l, l ∉ x.lanes → w.thread l = u.thread l) ∧
      ∀ l ∈ x.lanes, w.thread l = { u.thread l with tstat := v &&& 0x171f }) (exec (.swr d 1) s)) ∧
    Completes s x (fun w => w = { u with sstat := (u.sstat &&& 0xfffffff8) ||| (v &&& 7) }) (exec (.swr d 0x10) s) ∧
    Completes s x (fun w => w = { u with fen := v &&& 0x1f }) (exec (.swr d 0x11) s) ∧
    (supervisor u = true → ∀ q, q = s.setCore x.core { s.core x.core with mode := if v.toNat % 4 = 3 then (s.core x.core).mode else v.setWidth 2 } →
      GoesTo q x (fun _ => x.pc s + 4) false (Unchanged q x) (exec (.swr d 0x20) s)) ∧
    (supervisor u = false → exec (.swr d 0x20) s = .next (ill s x 8)) ∧
    ∀ n : BitVec 16, n.toNat ∉ [1, 0x10, 0x11, 0x20] → exec (.swr d n) s = .next (ill s x 8)

/-- R302, R303: `migr` stays where the request is declined, and otherwise carries the subgroup to the other kind of core of its cluster at the same transit
point. Where a clause goes beyond
the words of spec/, it is the model's choice: log 46. -/
def Obligations.MigrStaysOrMovesToTheTwinPoint : Prop :=
  ∀ s x (i : BitVec 16) e, Stands s x → x.mask = (x.sub s).live → NoHandler s x →
    let im := (x.launch s).image
    let twin := transitPc im e (match x.form with
      | .d => .l
      | .l => .d)
    im.lform = true → im.transit[i.toNat]? = some e → x.pc s = transitPc im e x.form →
    (migrTarget s x.core (x.party s).ctx (x.sub s).index = none →
      ∃ t, exec (.migr i) s = .next t ∧ (x.sub t).core = (x.sub s).core ∧ (x.sub t).row = (x.sub s).row ∧ (x.sub t).slot = (x.sub s).slot ∧ SameBytes s t ∧
        (x.sub t).s = (x.sub s).s ∧ (x.sub t).ring = (x.sub s).ring ∧ ∀ l ∈ x.lanes, let n := (x.sub t).thread l
          n.pc = x.pc s + 4 ∧ n.wait = .none ∧ n.twin = twin ∧ n.since = 0 ∧ n.v = ((x.sub s).thread l).v) ∧
    ∀ c r k q, migrTarget s x.core (x.party s).ctx (x.sub s).index = some (c, r, k) → (x.mode s = 1 → ∀ p ∈ (x.sub s).ring, p.2 = {}) →
      relocked s x.core 3 = false → release s (x.party s) 3 = (q, none) → isL c = !(isL x.core) →
      ∃ t, exec (.migr i) s = .next t ∧ (x.sub t).core = c ∧ (x.sub t).row = r ∧ (x.sub t).slot = k ∧ (x.sub t).ring = [] ∧ (x.sub t).s = (x.sub s).s ∧
        (x.sub t).k = (x.sub s).k ∧ (x.sub t).wbase = BitVec.ofNat 8 (if isL c then e.lwb else e.dwb) ∧
        ∀ l ∈ x.lanes, let n := (x.sub t).thread l
          n.pc = twin ∧ n.wait = .none ∧ n.since = 0 ∧ n.twin = x.pc s ∧ n.tstat = ((x.sub s).thread l).tstat ∧
          ((e.pairs.map fun p => if isL c then p.2 else p.1).Nodup → ∀ p ∈ e.pairs,
            n.reg (if isL c then p.2 else p.1) = ((x.sub s).thread l).reg (if isL c then p.1 else p.2)) ∧
          ∀ g, (∀ p ∈ e.pairs, (if isL c then p.2 else p.1) ≠ g) → n.reg g = 0

/-! ### Traps, time and words without an effect of their own -/

namespace Sys2Proof.Machine.Claim

/-- A precise trap `T` of the issuing group is pending, numbered in the order of its subgroup: its members wait trapped at its PC, the row stands at a switch point with no
`xsel`, and nothing else has changed (R155, R259). A trap word counts as an instruction since the last transit point (R263). -/
structure Raised (s t : State) (x : Cx) (T : Trap) : Prop where
  rest : t = { s with cores := t.cores, subs := t.subs }
  subs : ∀ g, g ≠ x.sg → t.sub g = s.sub g
  sub : x.sub t = { x.sub s with
    threads := (x.sub t).threads
    traps := (x.sub s).traps ++ [{ T with order := (x.sub s).raised }]
    raised := (x.sub s).raised + 1 }
  members : ∀ l, (x.sub t).thread l = if T.mask.getLsbD l then { (x.sub s).thread l with
      pc := T.pc
      wait := .trapped
      since := if T.kind = 1 then min (((x.sub s).thread l).since + 1) 0xffffffff else ((x.sub s).thread l).since } else (x.sub s).thread l
  cores : ∀ c, t.core c = if c = x.core then { s.core c with rows := (t.core c).rows } else s.core c
  rows : ∀ c r, t.row c r = if c = x.core ∧ r = x.row then { s.row c r with xsel := none, atSwitch := true } else s.row c r
/-- The group issues, outside a handler, from a subgroup that the package holds. -/
def Issues (s : State) (x : Cx) : Prop := s.issuing = some x ∧ (s.subs.find? x.sg).isSome = true ∧ (x.sub s).inHandler = false
/-- ILL with a detail code in every thread of the group. -/
def RaisesIll (s : State) (x : Cx) (detail : Nat) (o : Out) : Prop :=
  ∃ t p w, o = .next t ∧ Raised s t x { cause := 1, detail := BitVec.ofNat 8 detail, pc := p, mask := x.mask, word := w } ∧
    ((s.row x.core x.row).xsel = none → p = x.pc s ∧ w = (s.row x.core x.row).word) ∧
    ∀ y, (s.row x.core x.row).xsel = some y → p = y.pc ∧ w = y.word
/-- Trap `T` is entered at `pc` in a subgroup: the members of its mask run at `pc`, WBASE is 0, s104 to s106 give the frame and the cause, the latch ring is put
away, and the other members and scalars stay as they are (R257, R260). -/
structure Entered (q t : State) (g : Nat) (T : Trap) (cont : Bool) (pc : Dword) : Prop where
  wbase : (t.sub g).wbase = 0
  inHandler : (t.sub g).inHandler = true
  scalars : ∀ n, (t.sub g).sreg n = if n = 104 then loOf (frameAddr q g) else if n = 105 then hiOf (frameAddr q g)
    else if n = 106 then causeWord T cont else (q.sub g).sreg n
  masks : (t.sub g).k = (q.sub g).k
  ring : (t.sub g).ring = []
  handler : ∃ h, (t.sub g).handler = some h ∧ h.mask = T.mask ∧ h.frame = frameAddr q g ∧ h.cause = T.cause ∧ h.cont = cont ∧ h.signalled = false ∧
    h.ring = (q.sub g).ring
  members : ∀ l th, (q.sub g).threads.find? l = some th → T.mask.getLsbD l = true →
    ∃ n, (t.sub g).threads.find? l = some n ∧ n.pc = pc ∧ n.wait = .none ∧ n.v = th.v ∧ n.tstat = th.tstat
  others : ∀ l, T.mask.getLsbD l = false → (t.sub g).thread l = (q.sub g).thread l

end Sys2Proof.Machine.Claim

/-- R55: the checks of a V-class word come in their order, and the first that fails raises ILL with its detail. -/
def Sys2Proof.Machine.Claim.IllegalVectorWordsRaiseIllInR55Order : Prop :=
  ∀ s x w sb (d a b : BitVec 7), Issues s x →
    let one (sh : Shape) (o : Out) : Prop :=
      let n := if sh.wideD then 2 else 1
      let ring := w = true ∧ x.form = .d
      (sh.readsD = true → ring → RaisesIll s x 4 o) ∧
      (¬ (sh.readsD = true ∧ ring) → sb = true → sbOk b.toNat = false → RaisesIll s x 5 o) ∧
      (¬ (sh.readsD = true ∧ ring) → (sb = true → sbOk b.toNat = true) →
        (¬ ring ∧ dstOk s x d.toNat n = false) ∨ srcOk s x a.toNat sh.wideA = false ∨ bOk s x sb b.toNat sh.wideB = false → RaisesIll s x 7 o)
    one {} (exec (.addI32 w sb d a b) s) ∧ one { readsD := true } (exec (.madI32 w sb d a b) s) ∧ one { readsD := true } (exec (.sel w sb d a b) s) ∧
    one { wideD := true, wideA := true, wideB := true } (exec (.addI64 w sb d a b) s) ∧ one { wideD := true, wideA := true } (exec (.leaX4 w sb d a b) s) ∧
    one {} (exec (.faddF32 w sb d a b) s) ∧ one { readsD := true } (exec (.ffmaF32 w sb d a b) s) ∧
    one { wideD := true, wideA := true, wideB := true, readsD := true } (exec (.dfmaF64 w sb d a b) s) ∧
    one { wideA := true, wideB := true } (exec (.dsltF64 w sb d a b) s)

/-- R117, R270: the retired V-class words, which the firmware performs: they write D in every member and push nothing. The other retired words go on to the next word,
which is the model's choice (log 11), since spec/ gives them no effect. -/
def Sys2Proof.Machine.Claim.RetiredWordsArePerformedByFirmware : Prop :=
  let form (i : Bool → BitVec 7 → BitVec 7 → BitVec 7 → Instr) (source : Nat → Word → Nat) (f : Word → Word → Word → Word) : Prop :=
    ∀ s x sb d a b, Stands s x → (sb = true → sbOk b.toNat = true) → dstOk s x d.toNat 1 = true → srcOk s x a.toNat false = true →
      bOk s x sb b.toNat false = true →
      let B (l : Nat) : Dword × Bool := readB s x sb l b.toNat false
      let A (l : Nat) : Dword × Bool := readSrc s x (source l (loOf (B l).1)) a.toNat false
      let stale (l : Nat) : Bool := (A l).2 || (B l).2
      Calm s x stale → Completes s x (WroteReg s x d stale fun l => f (loOf (A l).1) (loOf (B l).1) (((x.sub s).thread l).reg (destReg s x d))) (exec (i sb d a b) s)
  form .mad24I32 (fun l _ => l) (fun p q r => BitVec.ofInt 32 ((BitVec.ofNat 24 p.toNat).toInt * (BitVec.ofNat 24 q.toNat).toInt + r.toInt)) ∧
  form .fmulLg (fun l _ => l) (fun p q _ => if (unpack f32 true p.toNat).isZero || (unpack f32 true q.toNat).isZero then 0
    else BitVec.ofNat 32 (finish f32 .rne true (mulRes (unpack f32 true p.toNat) (unpack f32 true q.toNat))).bits) ∧
  form .shfl32 (fun l q => l / 32 * 32 + q.toNat % 32) (fun p _ _ => p) ∧
  (∀ s x (d a : BitVec 7), Stands s x → dstOk s x d.toNat 1 = true → srcOk s x a.toNat false = true → Calm s x (staleA s x a) →
    ∃ f : Nat → Word, (∀ l, ∀ i < 32, (f l).getLsbD i = (x.mask.getLsbD (l / 32 * 32 + i) && opA s x a (l / 32 * 32 + i) != 0)) ∧
      Completes s x (WroteReg s x d (staleA s x a) f) (exec (.vote32Ballot false d a) s)) ∧
  ∀ s x, Stands s x → ∀ z, Switches s x (Unchanged s x) (exec (.ldTex2 z) s) ∧ Switches s x (Unchanged s x) (exec (.stShared32 z) s) ∧
    Completes s x (Unchanged s x) (exec (.sbar32 z) s) ∧ Completes s x (Unchanged s x) (exec (.sjoin32 z) s) ∧
    ∀ g y, Switches s x (Unchanged s x) (exec (.retiredXGroup g y) s)

/-- R54, R55, R56, R243: a word that is no instruction raises ILL in the group that issues it, and stops a needle that reaches it with ILLW; so does `n.step` with a
dimension above 5. -/
def Sys2Proof.Machine.Claim.ReservedWordsRaiseIllOrStopTheNeedle : Prop :=
  (∀ s x c r (w : Word), Issues s x → s.turn = .row c r → w.extractLsb' 25 7 ≠ 0x62 →
    RaisesIll s x (refusedDetail s x w) (exec (.reservedOpcode w) s)) ∧
  (∀ s x (w : Word), w.extractLsb' 25 7 = 0x66 → refusedDetail s x w = if w.extractLsb' 20 5 = 31 then 1 else 3) ∧
  (∀ s x (w : Word), w.extractLsb' 21 11 ≠ 0x601 → w.extractLsb' 21 11 ≠ 0x603 → w.extractLsb' 25 7 ≠ 0x66 →
    refusedWord w = some .reserved → refusedDetail s x w = 1) ∧
  (∀ s c n w slot (g : BitVec 2) (i : BitVec 8), s.turn = .needle c n → (s.needle c n).cmd = some (w, slot) → s.subsOf w ≠ [] → 5 < i.toNat →
    ∃ t, exec (.nStep g i) s = .next t ∧ (t.needle c n).stopped = some 9 ∧ (t.needle c n).pc = (s.needle c n).pc) ∧
  ∀ s c n (w : Word) v slot, s.turn = .needle c n → (s.needle c n).cmd = some (v, slot) → (s.needle c n).pc < codeSize s v → s.subsOf v ≠ [] →
    ∃ t, exec (.reservedOpcode w) s = .next t ∧ (t.needle c n).stopped = some 9 ∧ (t.needle c n).pc = (s.needle c n).pc

/-- R82, R266, R267, R274: `trap`, `tfence`, `halt`, `sleep` and `sleepc`. -/
def Obligations.SystemWordsTrapFenceHaltAndSleep : Prop :=
  (∀ s x (i : BitVec 21), Stands s x → Issues s x → ∃ t, exec (.trap i) s = .next t ∧ Raised s t x {
    cause := if i.getLsbD 20 = true ∧ (x.launch s).dbg = true then 0x0e else 0x0d
    aux := i.setWidth 32
    pc := x.pc s
    mask := x.mask
    word := (s.row x.core x.row).word
    kind := 1 }) ∧
  (∀ s x, Stands s x →
    let flagged (l : Nat) : Bool := ((x.sub s).thread l).tstat &&& (x.sub s).fen &&& 0x1f != 0
    ((∀ l ∈ x.lanes, flagged l = false) → Switches s x (Unchanged s x) (exec .tfence s)) ∧
    (Issues s x → ∀ m : Dword, (∀ l < 64, m.getLsbD l = (x.mask.getLsbD l && flagged l)) → m ≠ 0 →
      ∃ t, exec .tfence s = .next t ∧ Raised s t x { cause := 8, pc := x.pc s, mask := m, word := (s.row x.core x.row).word })) ∧
  (∀ s x, Stands s x → supervisor (x.sub s) = true → Switches s x (fun v => v = { x.sub s with halted := true }) (exec .halt s)) ∧
  (∀ s x, Issues s x → RaisesIll s x 2 (exec .halt s) ∧ RaisesIll s x 2 (exec .rft s)) ∧
  (∀ s x (a : BitVec 7), Stands s x → spairOk a.toNat = true →
    (((x.sub s).spair a.toNat).toNat ≤ s.etime.toNat → Switches s x (Unchanged s x) (exec (.sleep a) s)) ∧
    (s.etime.toNat < ((x.sub s).spair a.toNat).toNat → exec (.sleep a) s = .next (blockAt s x x.lanes (.sleep ((x.sub s).spair a.toNat))))) ∧
  ∀ s x (i : BitVec 21), Stands s x →
    let count (l : Nat) : Nat := match ((x.sub s).thread l).slept with
      | some (p, n) => if p = x.pc s then n else i.toNat
      | none => i.toNat
    ((∀ l ∈ x.lanes, count l = 0) → Switches s x (fun v => v = { x.sub s with threads := v.threads } ∧ ∀ l, v.thread l =
      if l ∈ x.lanes then { (x.sub s).thread l with slept := none } else (x.sub s).thread l) (exec (.sleepc i) s)) ∧
    ∃ t, exec (.sleepc i) s = .next t ∧ SameBytes s t ∧ ∀ l ∈ x.lanes, let n := (x.sub t).thread l
      (count l = 0 → n.pc = x.pc s + 4 ∧ n.wait = .none ∧ n.slept = none ∧ n.v = ((x.sub s).thread l).v) ∧
      (count l ≠ 0 → n = { (x.sub s).thread l with wait := .sleepc, slept := some (x.pc s, count l), lastIssue := (s.row x.core x.row).issued + 1, readyAt := s.cycle x.core, lastAt := s.cycle x.core })

/-- R259, R260, R261, R262, R272: a trap is entered once its frame is written, at the PC that the vector record gives the form; an asynchronous one in every live thread. -/
def Sys2Proof.Machine.Claim.TrapEntryRunsTheHandlerInTheMembers : Prop :=
  (∀ s g T Ts r bs q, (s.sub g).traps = T :: Ts → (s.sub g).inHandler = false → (s.sub g).halted = false → noneReady s g = true →
    (∀ f, serviceTrap s g = some f → T.order < f.1.order) →
    vectorRecord (s.setSub g { s.sub g with traps := Ts }) g = (r, .ok bs) →
    let pc := dwordAt bs (if isL (s.sub g).core then 8 else 0)
    pc ≠ 0 → writeFrame r ⟨(r.sub g).core, (r.wg (r.sub g).wg).ctx, (r.sub g).wg⟩ (frameAddr r g) 80 (frameBytes r g T false) = .ok q →
    ∃ t, exec (.trapEntry g) s = .next t ∧ Entered r t g T false pc ∧ (t.sub g).traps = Ts) ∧
  (∀ s g T r bs q, asyncTakeable s g = some T → atSwitchPoint s g = true →
    vectorRecord (s.setSub g { s.sub g with asyncs := (s.sub g).asyncs.erase T, traps := [], service := [] }) g = (r, .ok bs) →
    let pc := dwordAt bs (if isL (s.sub g).core then 8 else 0)
    let A : Trap := { T with mask := (s.sub g).live, kind := 2 }
    pc ≠ 0 → writeFrame r ⟨(r.sub g).core, (r.wg (r.sub g).wg).ctx, (r.sub g).wg⟩ (frameAddr r g) 80 (frameBytes r g A false) = .ok q →
    ∃ t, exec (.asyncTrapEntry g) s = .next t ∧ Entered r t g A false pc ∧ (t.sub g).asyncs = (s.sub g).asyncs.erase T ∧ (t.sub g).traps = []) ∧
  (∀ s g T Ts bar pc q, (s.sub g).service = T :: Ts → (∀ y ∈ (s.sub g).traps, T.order < y.order) → (s.sub g).inHandler = false → (s.sub g).halted = false → noneReady s g = true →
    continuationOf s g = some (pc, bar) → s.badScr (s.sub g).wg (bar + 8 * (s.sub g).index) = false →
    writeFrame s ⟨(s.sub g).core, (s.wg (s.sub g).wg).ctx, (s.sub g).wg⟩ (frameAddr s g) 80 (frameBytes s g T true) = .ok q →
    ∃ t, exec (.continuationEntry g) s = .next t ∧ (t.sub g).wbase = 0 ∧ (t.sub g).inHandler = true ∧ supervisor (t.sub g) = false ∧
      (∀ l th, (s.sub g).threads.find? l = some th → T.mask.getLsbD l = true → ((t.sub g).thread l).pc = pc ∧ ((t.sub g).thread l).v = th.v) ∧
      (barrierWord t (s.sub g).wg (bar + 8 * (s.sub g).index)).toNat % 2 ^ 63 = 1) ∧
  ∀ u : Sub, ∀ T, firstAsync u.asyncs = some T → ∀ S ∈ u.asyncs,
    let rank (c : BitVec 8) : Nat := if c = 0x0e then 0 else if c = 0x13 then 1 else if c = 0x11 then 2 else 3
    rank T.cause ≤ rank S.cause

/-- R261: what the hardware writes into a frame, field by field. -/
def Sys2Proof.Machine.Claim.TrapFramesHoldTheR261Fields : Prop :=
  ∀ s g (T : Trap) cont, let u := s.sub g; let bs := frameBytes s g T cont; let low := u.thread (lowest T.mask)
    let lform := (s.launchOf g).image.lform
    bs.length = 640 ∧ wordAt bs 0x00 = BitVec.ofNat 32 (T.cause.toNat + 2 ^ 8 * T.detail.toNat + 2 ^ 16 * T.svc.toNat + 2 ^ 17 * cont.toNat + 2 ^ 18 * T.kind.toNat) ∧
    wordAt bs 0x04 = T.aux ∧ dwordAt bs 0x08 = faultPc u T ∧
    dwordAt bs 0x10 = (if lform then low.twin else 0xffffffffffffffff) ∧ wordAt bs 0x18 = (if lform then BitVec.ofNat 32 low.since else 0) ∧ wordAt bs 0x1c = 0 ∧
    dwordAt bs 0x20 = T.mask ∧ dwordAt bs 0x28 = T.addr ∧ wordAt bs 0x30 = T.word ∧ wordAt bs 0x34 = u.wbase.setWidth 32 ∧ dwordAt bs 0x38 = 0 ∧
    (∀ i < 8, wordAt bs (0x40 + 4 * i) = u.sreg (104 + i)) ∧ (∀ i < 4, dwordAt bs (0x60 + 8 * i) = 0) ∧
    ∀ l < 64, dwordAt bs (0x80 + 8 * l) =
      if u.live.getLsbD l = false then 0
      else if T.kind = 2 ∨ T.mask.getLsbD l = false then (u.thread l).pc else if T.kind = 1 then T.pc + 4 else T.pc

/-- R257, R265: `rft` restores from the frame what R265 names, and the handler has ended. -/
def Sys2Proof.Machine.Claim.RftRestoresWhatTheFrameHolds : Prop :=
  ∀ s x h r bs, Stands s x → (x.sub s).inHandler = true → (x.sub s).handler = some h → x.mask = (x.sub s).live &&& h.mask → h.cont = false →
    loadBytes (switchPoint s x) ⟨(x.sub s).core, (s.wg (x.wg s)).ctx, x.wg s⟩ h.frame 640 = (r, .ok bs) →
    ∃ t, exec .rft s = .next t ∧
      let u := x.sub t
      u.inHandler = false ∧ u.handler = none ∧ u.ring = h.ring ∧ u.wbase.toNat = (wordAt bs 0x34).toNat % 256 ∧ u.k = (x.sub s).k ∧
      (∀ n, u.sreg n = if 104 ≤ n ∧ n < 112 then wordAt bs (0x40 + 4 * (n - 104)) else (x.sub s).sreg n) ∧
      ∀ l o, (x.sub s).threads.find? l = some o → (x.sub s).live.getLsbD l = true →
        (u.thread l).v = o.v ∧ (u.thread l).tstat = o.tstat ∧
        (h.mask.getLsbD l = true → (u.thread l).pc = dwordAt bs (0x80 + 8 * l) ∧ (u.thread l).wait = .none) ∧
        (h.mask.getLsbD l = false → o.pc ≠ dwordAt bs (0x80 + 8 * l) → (u.thread l).pc = dwordAt bs (0x80 + 8 * l) ∧ (u.thread l).wait = .none) ∧
        (h.mask.getLsbD l = false → o.pc = dwordAt bs (0x80 + 8 * l) → o.wait ≠ .released → u.thread l = o)

/-- R268, R269: fault service ends for the oldest page fault of a subgroup that runs no continuation. -/
def Sys2Proof.Machine.Claim.FaultServiceWakesItsThreadsOrTrapsThem : Prop :=
  ∀ s g T Ts, (s.sub g).service = T :: Ts → (s.sub g).handler = none → (s.sub g).inHandler = false → (s.subs.find? g).isSome = true →
    (∃ t, exec (.faultServiceResolved g) s = .next t ∧ (t.sub g).service = Ts ∧ (t.sub g).traps = (s.sub g).traps ∧ SameBytes s t ∧
      ∀ l, ((t.sub g).thread l) = if T.mask.getLsbD l = true ∧ ((s.sub g).thread l).wait = .service
        then { (s.sub g).thread l with pc := T.pc, wait := .none, readyAt := s.cycle (s.sub g).core } else (s.sub g).thread l) ∧
    ∃ t, exec (.faultServiceUnresolvable g) s = .next t ∧ (t.sub g).service = Ts ∧ (t.sub g).traps = (s.sub g).traps ++ [{ T with svc := true, order := (s.sub g).raised }] ∧ SameBytes s t ∧
      ∀ l, ((t.sub g).thread l) = if T.mask.getLsbD l = true ∧ ((s.sub g).thread l).wait = .service
        then { (s.sub g).thread l with wait := .trapped } else (s.sub g).thread l

/-- R161, R178, R274, R325, R340: the ends of a sleep, of a wait for a relock, of a fairness interval and of a page walk. -/
def Sys2Proof.Machine.Claim.WaitsEndWhenTheirTimeHasCome : Prop :=
  (∀ s g, ∃ t, exec (.sleepExpiry g) s = .next t ∧ SameBytes s t ∧ ∀ l o, (s.sub g).threads.find? l = some o →
    (∀ a : Dword, o.wait = .sleep a → a.toNat ≤ s.etime.toNat → (t.sub g).thread l = { o with wait := .none, readyAt := s.cycle (s.sub g).core }) ∧
    ((∀ a : Dword, o.wait = .sleep a → s.etime.toNat < a.toNat) → (t.sub g).thread l = o)) ∧
  (∀ s g, ∃ t, exec (.sleepcExpiry g) s = .next t ∧ SameBytes s t ∧ ∀ l o p n, (s.sub g).threads.find? l = some o → o.slept = some (p, n) →
    (t.sub g).thread l = if o.wait = .sleepc ∧ n = 0 then { o with wait := .none, readyAt := s.cycle (s.sub g).core } else o) ∧
  (∀ s g u, s.subs.find? g = some u → ∃ t, exec (.releaseComplete g) s = .next t ∧ SameBytes s t ∧ ∀ l o, u.threads.find? l = some o →
    (∀ n, o.wait = .release n → relocked s u.core n = false → (t.sub g).thread l = { o with wait := .none, readyAt := s.cycle u.core }) ∧
    ((∀ n, o.wait = .release n → relocked s u.core n = true) → (t.sub g).thread l = o)) ∧
  (∀ s c r g m, (s.row c r).issuing = some (g, m) → max 256 (s.core c).fairT.toNat ≤ s.cycle c - (s.row c r).runAt →
    (∃ l < 64, threadReady s g l = true ∧ m.getLsbD l = false) → exec (.fairTExpiry c r) s = .next (s.setRow c r { s.row c r with fairOut := true })) ∧
  ∀ s c, (s.core c).walks ≠ 0 → exec (.pageWalkComplete c) s = .next (s.setCore c { s.core c with walks := (s.core c).walks - 1 })

/-- R150, R162, R184: a reread of the watchers that were chosen, with the back-off that follows; and a fetch-buffer fill. -/
def Sys2Proof.Machine.Claim.RereadsAndFetchFills : Prop :=
  (∀ s c r x w p q, { s with turn := .row c r }.issuing = some x → (x.sub s).live &&& x.mask ≠ 0 →
    fetchWord { s with turn := .row c r } x = (q, some w) → pollWord w = some p → (∀ k ∈ pollChecks q x p, k.1 = false) →
    let o := pollRead q x p (watched q x)
    ∀ u, o.1.subs.find? x.sg = some u → exec (.pollReread c r) s = .next (o.1.setSub x.sg
      (if o.2 then { u with dp := 128, dec := 1 } else { u with dp := u.dp - u.dec, dec := min 64 (2 * u.dec) }))) ∧
  ∀ s c ctx (a : Dword) q y, (s.core c).ctx = some ctx → a.toNat % 4 = 0 → a.toNat < 2 ^ 56 →
    translate s c ctx (a.toNat / 64 * 64) (.fetch (formOf c)) = (q, .ok y) → q.remoteFault ctx y.loc a = none → q.badAt y.loc 64 = false →
    ∃ t, exec (.fetchBufferFill c a) s = .next t ∧
      (t.core c).lines.find? (a.toNat / 64 * 64) = some ((List.range 16).map fun i => BitVec.ofNat 32 (number ((List.range 4).map fun j => q.seen c (y.loc + 4 * i + j)))) ∧
      ∀ p, t.homeByte p = s.homeByte p ∧ ∀ k, t.seen k p = s.seen k p

/-! ### Needles -/

namespace Sys2Proof.Machine.Claim

/-- A needle that runs the command in a slot of workgroup `w` has its turn. -/
def Turns (s : State) (c n w slot : Nat) : Prop := s.turn = .needle c n ∧ (s.needle c n).cmd = some (w, slot)
/-- A PC inside the needle code of a workgroup (R232, R248). -/
def Inside (s : State) (w pc : Nat) : Prop := pc % 4 = 0 ∧ pc < codeSize s w ∧ pc < 2 ^ 32
/-- The needle goes on at `pc` with the registers, generators and the rest of `x`, and nothing else has changed from `q`. -/
def NeedleGoes (q : State) (c n : Nat) (x : Needle) (pc : Nat) (o : Out) : Prop := o = .next (q.setNeedle c n { x with pc := pc, waiting := none })
/-- An arithmetic word of three registers. -/
def NAlu (i : BitVec 4 → BitVec 4 → BitVec 4 → Instr) (f : Dword → Dword → Dword) : Prop :=
  ∀ s c n w slot d a b, Turns s c n w slot → let x := s.needle c n
    Inside s w (x.pc + 4) → NeedleGoes s c n (x.setReg d.toNat (f (x.reg a.toNat) (x.reg b.toNat))) (x.pc + 4) (exec (i d a b) s)
/-- A branch. -/
def NBranch (s : State) (c n w : Nat) (x : Needle) (taken : Prop) (off : Int) (o : Out) : Prop :=
  let t := ((x.pc + 4 * off) % 2 ^ 32).toNat
  (taken → Inside s w t → NeedleGoes s c n x t o) ∧ (¬ taken → Inside s w (x.pc + 4) → NeedleGoes s c n x (x.pc + 4) o)

end Sys2Proof.Machine.Claim

/-- R231, R241: the arithmetic and the branches of needles; n0 reads as zero and discards what is written to it. -/
def Sys2Proof.Machine.Claim.NeedleArithmeticAndBranches : Prop :=
  (∀ (x : Needle) i v, x.reg 0 = 0 ∧ x.setReg 0 v = x ∧ (i ≠ 0 → (x.setReg i v).reg i = v) ∧ ∀ j, j ≠ i → (x.setReg i v).reg j = x.reg j) ∧
  NAlu .nAdd (fun A B => BitVec.ofNat 64 (A.toNat + B.toNat)) ∧ NAlu .nSub (fun A B => BitVec.ofInt 64 (A.toInt - B.toInt)) ∧
  NAlu .nMul (fun A B => BitVec.ofNat 64 (A.toNat * B.toNat)) ∧ NAlu .nAnd (fun A B => BitVec.ofNat 64 (A.toNat &&& B.toNat)) ∧
  NAlu .nOr (fun A B => BitVec.ofNat 64 (A.toNat ||| B.toNat)) ∧ NAlu .nXor (fun A B => BitVec.ofNat 64 (A.toNat ^^^ B.toNat)) ∧
  NAlu .nShl (fun A B => if 64 ≤ B.toNat then 0 else BitVec.ofNat 64 (A.toNat * 2 ^ B.toNat)) ∧
  NAlu .nShr (fun A B => if 64 ≤ B.toNat then 0 else BitVec.ofNat 64 (A.toNat / 2 ^ B.toNat)) ∧
  NAlu .nMin (fun A B => BitVec.ofInt 64 (min A.toInt B.toInt)) ∧ NAlu .nMax (fun A B => BitVec.ofInt 64 (max A.toInt B.toInt)) ∧
  ∀ s c n w slot, Turns s c n w slot → let x := s.needle c n
    (Inside s w (x.pc + 4) →
      (∀ (d a : BitVec 4) (i : BitVec 8), NeedleGoes s c n (x.setReg d.toNat (BitVec.ofInt 64 ((x.reg a.toNat).toInt + i.toInt))) (x.pc + 4) (exec (.nAddi d a i) s)) ∧
      ∀ (d : BitVec 4) (i : BitVec 16), NeedleGoes s c n (x.setReg d.toNat (BitVec.ofInt 64 i.toInt)) (x.pc + 4) (exec (.nLi d i) s) ∧
        NeedleGoes s c n (x.setReg d.toNat (BitVec.ofNat 64 ((x.reg d.toNat).toNat * 2 ^ 16 + i.toNat))) (x.pc + 4) (exec (.nLih d i) s)) ∧
    ∀ (d a b : BitVec 4) (o : BitVec 16) (p : BitVec 8),
      NBranch s c n w x (x.reg d.toNat = 0) o.toInt (exec (.nBz d o) s) ∧ NBranch s c n w x (x.reg d.toNat ≠ 0) o.toInt (exec (.nBnz d o) s) ∧
      NBranch s c n w x ((x.reg a.toNat).toInt < (x.reg b.toNat).toInt) p.toInt (exec (.nBlt a b p) s) ∧
      NBranch s c n w (x.setReg d.toNat (x.reg d.toNat - 1)) (x.reg d.toNat ≠ 1) o.toInt (exec (.nLoop d o) s)

/-- R242: the loads and the store of needles, which must be naturally aligned. -/
def Sys2Proof.Machine.Claim.NeedleLoadsAndStores : Prop :=
  ∀ s c n w slot (d a : BitVec 4) (f : BitVec 8), Turns s c n w slot → let x := s.needle c n
    let P := needleParty s c w
    Inside s w (x.pc + 4) →
    (∀ size : Nat, size = 4 ∨ size = 8 → let addr := x.reg a.toNat + BitVec.ofInt 64 (f.toInt * size)
      ∀ r at_, locate s P 0 addr size true .load = (r, .ok at_) → correctable r addr at_ [] = none →
        NeedleGoes r c n (x.setReg d.toNat (BitVec.ofNat 64 (number (at_.map (readSpot r c))))) (x.pc + 4)
          (exec (if size = 4 then .nLdB32 d a f else .nLdB64 d a f) s)) ∧
    let addr := x.reg a.toNat + BitVec.ofInt 64 (f.toInt * 8)
    ∀ r at_, locate s P 0 addr 8 true .store = (r, .ok at_) → correctable r addr at_ at_ = none →
      ∃ q m, Stored r q c (at_.zip ((List.range 8).map fun i => ((x.reg d.toNat) >>> (8 * i)).setWidth 8)) ∧
        NeedleGoes q c n { x with writes := m } (x.pc + 4) (exec (.nStB64 d a f) s)

/-- R215, R234: a generator advances as one number whose digits are its coordinates; the address of an element is the base plus its strides, and each logical byte in a
scratchpad window stands where the swizzle puts it: bits 6 to 4 of the offset are exclusive-ored with the SWZ low bits of its bits 9 to 7. -/
def Sys2Proof.Machine.Claim.GeneratorsAdvanceAndAddress : Prop :=
  (∀ (g : Gen) d k, d ≤ 5 → g.c.length = 6 → (∀ i < 6, 0 < g.ext.getD i 1 ∧ g.c.getD i 0 < g.ext.getD i 1) →
    let h := g.advance d k 6
    let unit (i : Nat) : Nat := ∏ j ∈ Finset.Ico d i, g.ext.getD j 1
    let value (y : Gen) : Nat := ∑ i ∈ Finset.Ico d 6, y.c.getD i 0 * unit i
    h = { g with c := h.c } ∧ (∀ i < 6, h.c.getD i 0 < g.ext.getD i 1) ∧ (∀ i < d, h.c.getD i 0 = g.c.getD i 0) ∧ value h = (value g + k) % unit 6) ∧
  ∀ (g : Gen) (ks : List Nat), ks.length = 6 → g.str.length = 6 →
    let a := g.base + BitVec.ofInt 64 (∑ i ∈ Finset.range 6, (ks.getD i 0 : Int) * g.str.getD i 0)
    g.addr ks = a ∧ ∀ b : Dword,
    (b.toNat < 2 ^ 56 → g.phys b = b) ∧
    (b.toNat / 2 ^ 24 = 0xff00000000 ∨ b.toNat / 2 ^ 32 = 0xfe000000 → (g.phys b).toNat / 2 ^ 24 = b.toNat / 2 ^ 24 ∧
      (g.phys b).toNat % 2 ^ 24 = b.toNat % 2 ^ 24 ^^^ (b.toNat % 2 ^ 24 / 2 ^ 7 % 2 ^ g.swz * 2 ^ 4))

/-- R233, R243, R244: binding a generator, stepping it, and the copy words, which read every source element before any destination element is written. -/
def Sys2Proof.Machine.Claim.GeneratorAndCopyWords : Prop :=
  ∀ s c n w slot, Turns s c n w slot → let x := s.needle c n
    let P := needleParty s c w
    Inside s w (x.pc + 4) →
    (∀ (g : BitVec 2) (a : BitVec 4) r y, bindGen s c w g.toNat ((x.reg a.toNat).toNat % 2 ^ 16) = (r, .ok y) →
      NeedleGoes r c n (x.setGen g.toNat y) (x.pc + 4) (exec (.nTag g a) s)) ∧
    (∀ (g : BitVec 2) (i : BitVec 8), (x.gen g.toNat).bound = true → i.toNat ≤ 5 →
      NeedleGoes s c n (x.setGen g.toNat ((x.gen g.toNat).advance i.toNat 1 6)) (x.pc + 4) (exec (.nStep g i) s)) ∧
    ∀ kind < 3, ∀ (d a : BitVec 2) (b : BitVec 4), let D := x.gen d.toNat; let A := x.gen a.toNat; let es := elemSize A.fmt
      A.bound = true → D.bound = true → elemSize D.fmt = es → ∀ ks, copyCoords kind D A d.toNat a.toNat (x.reg b.toNat).toNat = .ok ks →
      ∀ r1 r2 xs ys, locateParts s P .load a.toNat (ks.flatMap fun k => A.parts k.1) = (r1, [], xs) →
        locateParts r1 P .store d.toNat (ks.flatMap fun k => D.parts k.2) = (r2, [], ys) →
        (∀ p ∈ xs, correctable r2 p.1 [p.2] [] = none) → (∀ p ∈ ys, correctable r2 p.1 [p.2] (ys.map Prod.snd) = none) →
        ∃ q m, Stored r2 q c ((ys.map Prod.snd).zip (xs.map fun p => readSpot r2 c p.2)) ∧
          NeedleGoes q c n (afterCopy kind { x with writes := m } d.toNat a.toNat (x.reg b.toNat).toNat) (x.pc + 4)
            (exec (if kind = 0 then .nCopy d a b else if kind = 1 then .nGather d a b else .nScat d a b) s)

/-- R172, R245, R247, R248: chunk bits, arrivals, waits, promises and the end of a command. -/
def Sys2Proof.Machine.Claim.NeedleSynchronizationWords : Prop :=
  ∀ s c n w slot, Turns s c n w slot → let x := s.needle c n
    let P := needleParty s c w
    Inside s w (x.pc + 4) →
    (∀ (a b : BitVec 4) r v off, let i := (x.reg b.toNat).toNat
      barrierAt s P (x.reg a.toNat + BitVec.ofNat 64 (8 * (i / 64))) = (r, .ok (v, off)) →
      ∃ t, exec (.nChunk a b) s = .next t ∧ (∀ j < 64, (barrierWord t v off).getLsbD j = ((barrierWord r v off).getLsbD j || decide (j = i % 64))) ∧
        (t.needle c n).pc = x.pc + 4 ∧ (t.needle c n).n = x.n ∧ ∀ k, clusterOf k = clusterOf c → ∀ p, (s.cores.find? k).isSome = true →
          x.writes.stampAt p ≤ (t.core k).view.stampAt p) ∧
    (∀ (a : BitVec 4) r v off, barrierAt s P (x.reg a.toNat) = (r, .ok (v, off)) →
      let S := barrierScope (x.reg a.toNat)
      (relocked r c S = false → ∃ t, exec (.nArrive a) s = .next t ∧ barrierWord t v off = arrived (barrierWord r v off) 1 ∧ (t.needle c n).pc = x.pc + 4 ∧
        (S = 3 → ∀ p, x.writes.stampAt p ≤ (t.cluster (clusterOf c)).image.stampAt p)) ∧
      (relocked r c S = true → exec (.nArrive a) s = .next r)) ∧
    (∀ (a : BitVec 4) r v off, let A := x.reg a.toNat
      A.toNat / 2 % 4 = 0 → barrierAt s P (BitVec.ofNat 64 (A.toNat / 8 * 8)) = (r, .ok (v, off)) →
      ((barrierWord r v off).getLsbD 63 = A.getLsbD 0 →
        NeedleGoes (acquire r (needleParty r c w) (barrierScope (BitVec.ofNat 64 (A.toNat / 8 * 8)))) c n x (x.pc + 4) (exec (.nWait a) s)) ∧
      ((barrierWord r v off).getLsbD 63 ≠ A.getLsbD 0 →
        exec (.nWait a) s = .next (r.setNeedle c n { x with waiting := some (BitVec.ofNat 64 (A.toNat / 8 * 8), A.getLsbD 0) }))) ∧
    (c = (s.wg w).home → n < needlesOf c →
      (∀ (a : BitVec 4) p, (s.wg w).posted.find? slot = some p → ∃ t, exec (.nPromise a) s = .next t ∧
        (t.wg w).posted.find? slot = some { p with promise := x.reg a.toNat, missed := false } ∧ (t.needle c n).promise = x.reg a.toNat ∧
        (t.needle c n).pc = x.pc + 4 ∧ SameBytes s t) ∧
      ∃ t, exec .nEnd s = .next t ∧ (t.needle c n).cmd = none ∧ (t.wg w).posted.find? slot = none ∧
        (∀ p, (s.wg w).posted.find? slot = some p → t.cmds.find? p.cmd = none) ∧
        ∀ r, ringOf s w = some r → slot < 64 → (∀ k, traced s k = false) → scrRead t w (r + 8) 8 = scrRead s w (r + 8) 8 &&& (2 ^ 64 - 1 - 2 ^ slot)) ∧
    (s.subsOf w ≠ [] → ∀ i : BitVec 16, ∃ t, exec (.nTrap i) s = .next t ∧ (t.needle c n).stopped = some 0x0c ∧ (t.needle c n).pc = x.pc ∧
      ∀ r, ringOf s w = some r → n < 2 → slot < 64 → scrRead s w (r + recordOff n + 1) 1 % 2 = 0 →
        scrRead t w (r + recordOff n) 4 = n * 2 ^ 22 + slot * 2 ^ 16 + 2 ^ 8 + 0x0c)

/-- R55: a needle word in thread code raises ILL with detail 0x03. -/
def Sys2Proof.Machine.Claim.NeedleWordsAreIllegalInThreadCode : Prop :=
  ∀ s x c r, Issues s x → s.turn = .row c r → ∀ (d a b : BitVec 4) (i : BitVec 8) (o : BitVec 16) (g h : BitVec 2), ∀ e ∈ ([
    .nAdd d a b, .nSub d a b, .nMul d a b, .nAnd d a b, .nOr d a b, .nXor d a b, .nShl d a b, .nShr d a b, .nMin d a b, .nMax d a b, .nAddi d a i, .nLi d o, .nLih d o,
    .nBz d o, .nBnz d o, .nBlt a b i, .nLoop d o, .nLdB32 d a i, .nLdB64 d a i, .nStB64 d a i, .nTag g a, .nStep g i, .nCopy g h b, .nGather g h b, .nScat g h b,
    .nChunk a b, .nArrive a, .nWait a, .nPromise a, .nEnd, .nTrap o] : List Instr), RaisesIll s x 3 (exec e s)

/-- R231, R236 to R239: `npost` publishes an entry in one step and gives its promise; the oldest entry is taken by a needle that is free, with its arguments. -/
def Sys2Proof.Machine.Claim.NpostPublishesAnEntryThatANeedleTakes : Prop :=
  (∀ s x (d a : BitVec 7) r q, Stands s x → spairOk d.toNat = true → a.toNat ≤ 104 → ringOf s (x.wg s) = some r →
    let w := x.wg s
    let num := scrRead s w r 4
    let slot := num % 64
    let e := r + 0xc0 + 32 * slot
    let u := s.usePages w r 2240
    (∀ i < 16, s.badScr w (r + i) = false) →
    ((s.wg w).posted.find? slot ≠ none → exec (.npost d a) s = .next (blockAt u x x.lanes .ring)) ∧
    ((s.wg w).posted.find? slot = none → release u (x.party u) 2 = (q, none) →
      let promise := q.etime + BitVec.ofNat 64 (600 + 200 * (q.wg w).posted.length + 64 * (((x.sub s).sreg (a.toNat + 1)).toNat / 256 % 256))
      ∃ p, GoesTo p x (fun _ => x.pc s + 4) true (WroteScalars p x (fun _ => false) fun k =>
          if k = d.toNat then loOf promise else if k = d.toNat + 1 then hiOf promise else (x.sub s).sreg k) (exec (.npost d a) s) ∧
        (∀ i < 8, scrRead p w (e + 4 * i) 4 = ((x.sub s).sreg (a.toNat + i)).toNat) ∧ scrRead p w r 4 = (num + 1) % 2 ^ 32 ∧
        scrRead p w (r + 8) 8 = scrRead q w (r + 8) 8 ||| 2 ^ slot ∧
        (∀ k, (k < r ∨ r + 4 ≤ k) → (k < r + 8 ∨ r + 16 ≤ k) → (k < e ∨ e + 32 ≤ k) → Mem.read (p.wg w).mem k = Mem.read (q.wg w).mem k) ∧
        (p.wg w).posted.find? slot = some { num := num, sg := x.sg, cmd := q.fresh, promise := promise, watch := ((x.sub s).sreg (a.toNat + 1)).getLsbD 1
                                            seen := if (x.sub s).core = (s.wg w).home then {} else (q.core (x.sub s).core).view } ∧
        p.cmds.find? q.fresh = some { joins := x.lanes.map fun l => ((x.sg, l), ((x.sub s).thread l).batch), core := (s.wg w).home })) ∧
  ∀ s c n w slot p r, (s.needle c n).cmd = none → n < needlesOf c → nextEntry s c n = some (w, slot, p) → ringOf s w = some r →
    let e := r + 0xc0 + 32 * slot
    let pc := scrRead s w e 4
    scrRead s w (e + 4) 1 < 4 → pc % 4 = 0 → pc < codeSize s w → (∀ i < 32, s.badScr w (e + i) = false) →
    (∀ m ∈ (s.wg w).stash, m.off + m.len ≤ r ∨ r + 0x8c0 ≤ m.off) →
    ∃ t, exec (.needleTakeEntry c n) s = .next t ∧ (t.needle c n).cmd = some (w, slot) ∧ (t.needle c n).pc = pc ∧ (t.needle c n).promise = p.promise ∧
      (t.needle c n).gens = [] ∧ (t.needle c n).stopped = none ∧
      (∀ i, (t.needle c n).reg i = if i = 1 ∨ i = 2 ∨ i = 3 then BitVec.ofNat 64 (scrRead s w (e + 8 * i) 8)
        else if i = 4 then BitVec.ofNat 64 (scrRead s w (e + 6) 2) else 0) ∧
      scrRead t w (r + 4) 4 = (scrRead s w (r + 4) 4 + 1) % 2 ^ 32 ∧ (∀ k, p.seen.stampAt k ≤ (t.core c).view.stampAt k) ∧
      ∀ k y, (s.wg w).posted.find? k = some y → (t.wg w).posted.find? k = some (if k = slot then { y with taken := true } else y)

/-- R254: `nctl` acts on the command that its control word names, where that is stopped with its record VALID, and has no other effect elsewhere. -/
def Sys2Proof.Machine.Claim.NctlActsOnAStoppedCommand : Prop :=
  ∀ s x (a b : BitVec 7), Stands s x → a.toNat ≤ 111 → spairOk b.toNat = true →
    let v := ((x.sub s).sreg a.toNat).toNat
    v < 2 ^ 12 → v % 16 ≤ 3 →
    let w := x.wg s
    let c := (s.wg w).home
    let n := v / 2 ^ 10 % 2
    let slot := v / 2 ^ 4 % 64
    let y := s.needle c n
    (stoppedAt s w n slot = false → Switches s x (Unchanged s x) (exec (.nctlRetry a b) s) ∧ Switches s x (Unchanged s x) (exec (.nctlSkip a b) s) ∧
      Switches s x (Unchanged s x) (exec (.nctlAbort a b) s)) ∧
    (stoppedAt s w n slot = true → n < needlesOf c →
      (v < 2 ^ 11 → (y.stopped = some 4 → y.word ≠ 0) →
        (∀ r, ringOf s w = some r → y.stopped = some 0x0b → scrRead s w (r + 0xc4 + 32 * slot) 1 < 4) → Inside s w y.pc → ∃ t, exec (.nctlRetry a b) s = .next t ∧ t.needle c n = { y with stopped := none } ∧
        ∀ r, ringOf s w = some r → scrRead t w (r + recordOff n + 1) 1 % 2 = 0) ∧
      (Inside s w (y.pc + 4) → ∃ t, exec (.nctlSkip a b) s = .next t ∧ (t.needle c n).stopped = none ∧ (t.needle c n).pc = y.pc + 4 ∧ (t.needle c n).cmd = some (w, slot)) ∧
      ∃ t, exec (.nctlAbort a b) s = .next t ∧ (t.needle c n).cmd = none ∧ (t.wg w).posted.find? slot = none) ∧
    ∃ q, (∀ p, (s.wg w).posted.find? slot = some p → (q.wg w).posted.find? slot = some { p with promise := (x.sub s).spair b.toNat, missed := false }) ∧
      ((s.wg w).posted.find? slot = none → (q.wg w).posted = (s.wg w).posted) ∧ q.subs = s.subs ∧
      GoesTo q x (fun _ => x.pc s + 4) true (Unchanged q x) (exec (.nctlExtend a b) s)

/-- R246, R249: `bseal` gives the current batch and begins the next; `bwait` and `cwait` go on once the batch or the chunks are complete. -/
def Sys2Proof.Machine.Claim.BatchesAndChunksAreWaitedFor : Prop :=
  ∀ s x, Stands s x → (∀ l ∈ x.lanes, ((x.sub s).thread l).wait = .none) →
    (∀ d : BitVec 7, d.toNat ≤ 111 → Switches s x (fun v => v = { x.sub s with threads := v.threads, s := v.s } ∧
      (∀ l, v.thread l = if l ∈ x.lanes then { (x.sub s).thread l with batch := ((x.sub s).thread l).batch + 1 } else (x.sub s).thread l) ∧
      ∀ k, v.sreg k = if k = d.toNat then ((x.sub s).thread (lowest x.mask)).batch.setWidth 32 else (x.sub s).sreg k) (exec (.bseal d) s)) ∧
    (∀ a : BitVec 7, a.toNat ≤ 111 → let num : BitVec 16 := ((x.sub s).sreg a.toNat).setWidth 16
      ((∀ l ∈ x.lanes, batchDone s x.sg l num = true) → Switches s x (Unchanged s x) (exec (.bwait a) s)) ∧
      ∃ t, exec (.bwait a) s = .next t ∧ SameBytes s t ∧ ∀ l ∈ x.lanes, ((x.sub t).thread l).pc = (if batchDone s x.sg l num then x.pc s + 4 else ((x.sub s).thread l).pc) ∧
        ((x.sub t).thread l).wait = if batchDone s x.sg l num then .none else .batch num) ∧
    ∀ (a b : BitVec 7) r m, spairOk a.toNat = true → spairOk b.toNat = true → barrierAt s (x.party s) ((x.sub s).spair a.toNat) = (r, .ok m) →
      (chunksDone r (x.party r) ((x.sub s).spair a.toNat) ((x.sub s).spair b.toNat) = true →
        GoesTo r x (fun _ => x.pc s + 4) true (Unchanged r x) (exec (.cwait a b) s)) ∧
      (chunksDone r (x.party r) ((x.sub s).spair a.toNat) ((x.sub s).spair b.toNat) = false →
        ∃ t, exec (.cwait a b) s = .next t ∧ SameBytes r t ∧ ∀ l ∈ x.lanes,
          ((x.sub t).thread l).wait = .chunks ((x.sub s).spair a.toNat) ((x.sub s).spair b.toNat) ∧ ((x.sub t).thread l).pc = ((x.sub s).thread l).pc)

/-- R248, R250, R254: the promise of a watched command that has neither ended nor stopped, once reached, raises PMISS in the subgroup that posted it. -/
def Sys2Proof.Machine.Claim.AMissedPromiseRaisesPmissOnce : Prop :=
  ∀ s w slot p, (s.wg w).posted.find? slot = some p → (s.subs.find? p.sg).isSome = true →
    (p.watch = true → p.missed = false → p.promise.toNat ≤ s.etime.toNat → (s.wg w).stopped = [] →
      (∀ n < needlesOf (s.wg w).home, (s.needle (s.wg w).home n).cmd = some (w, slot) → (s.needle (s.wg w).home n).stopped = none) →
      ∃ t, exec (.promiseExpiry w slot) s = .next t ∧ SameBytes s t ∧ (t.wg w).posted.find? slot = some { p with missed := true } ∧
        t.sub p.sg = { s.sub p.sg with asyncs := (s.sub p.sg).asyncs ++ [{ cause := 0x10, aux := BitVec.ofNat 32 slot, kind := 2 }] }) ∧
    (p.watch = false ∨ p.missed = true ∨ s.etime.toNat < p.promise.toNat → exec (.promiseExpiry w slot) s = .next s)

/-! ### The matrix engine, tile tasks and the Orrery -/

namespace Sys2Proof.Machine.Claim

/-- Every thread that a uniform word needs stands in the issuing group (R211). -/
def Uniform (s : State) (x : Cx) : Prop := Stands s x ∧ x.mask = uniformNeed (x.sub s)
/-- The subgroup owns the engine, and the engine holds its context's accumulators, or planes, where the word touches them (R213, R227). -/
def OwnsEngine (s : State) (x : Cx) (acc planes : Bool) : Prop :=
  let e := (s.core x.core).engine
  e.owner = some x.sg ∧ (acc = true → e.actx = (s.wg (x.wg s)).ctx) ∧ (planes = true → e.wctx = (s.wg (x.wg s)).ctx)
/-- The word has left engine `e` and nothing else. -/
def LeavesEngine (s : State) (x : Cx) (e : Engine) (o : Out) : Prop :=
  let q := s.setEngine x.core e
  GoesTo q x (fun _ => x.pc s + 4) true (Unchanged q x) o

end Sys2Proof.Machine.Claim

/-- R212, R213: `macq` takes a free engine, or waits in the owner queue; `mrel` passes it on; a word that needs ownership is illegal without it. -/
def Sys2Proof.Machine.Claim.MatrixOwnershipIsTakenAndPassedOn : Prop :=
  ∀ s x, Uniform s x → let e := (s.core x.core).engine
    (e.owner = some x.sg → Switches s x (Unchanged s x) (exec .macq s)) ∧
    (e.owner = none → e.queue = [] → e.task = none → LeavesEngine s x { e with owner := some x.sg } (exec .macq s)) ∧
    (e.owner ≠ some x.sg → e.owner ≠ none ∨ e.queue ≠ [] ∨ e.task ≠ none →
      exec .macq s = .next (blockAt (s.setEngine x.core { e with queue := if x.sg ∈ e.queue then e.queue else e.queue ++ [x.sg] }) x x.lanes .owner)) ∧
    (e.owner ≠ some x.sg → Switches s x (Unchanged s x) (exec .mrel s)) ∧
    (e.owner = some x.sg → (s.core x.core).ctx = some (s.wg (x.wg s)).ctx → engineWanted s x.core = none →
      (e.queue = [] → LeavesEngine s x { e with owner := none } (exec .mrel s)) ∧
      ∀ g gs, e.queue = g :: gs → g ≠ x.sg → (s.sub g).handler = none → ∃ t, exec .mrel s = .next t ∧
        (t.core x.core).engine = { e with owner := some g, queue := gs } ∧ ∀ l th, (s.sub g).threads.find? l = some th →
          (t.sub g).thread l = if th.wait = .owner then { th with pc := th.pc + 4, wait := .none, since := min (th.since + 1) 0xffffffff, readyAt := s.cycle x.core } else th) ∧
    (Issues s x → e.owner ≠ some x.sg → RaisesIll s x 9 (exec .mswap s) ∧ RaisesIll s x 9 (exec .mswapFl s) ∧ ∀ t : BitVec 3, t.toNat < 4 → RaisesIll s x 9 (exec (.mzero t) s))

/-- R215, R216, R217: a weight load gives the shadow plane its elements, a table load its magnitudes. -/
def Sys2Proof.Machine.Claim.WeightLoadsFillTheShadowPlane : Prop :=
  ∀ s x (a b : BitVec 7) o, Uniform s x → OwnsEngine s x false true → spairOk a.toNat = true → b.toNat ≤ 111 →
    let e := (s.core x.core).engine
    let w := (x.sub s).sreg b.toNat
    let v := w.toNat
    (Load.bad x.core w = false →
      let fmt := v % 2 ^ 4
      let spar := v / 2 ^ 5 % 2 ^ 2
      let kr := v / 2 ^ 8 % 2 ^ 6 + 1
      let nc := v / 2 ^ 16 % 2 ^ 6 + 1
      let cs := round16 (packedBytes fmt kr)
      let len := nc * cs + if spar = 0 then 0 else nc * round16 kr
      operandAt s (x.party s) ((x.sub s).spair a.toNat) len 0 (v / 2 ^ 22 % 2 ^ 2) = .ok o → stashed s o = false → e.shadow.lc2Bad = false → o.bad s 0 len = false →
      let row (n i : Nat) : Nat := if spar = 0 then i else i / (8 * 2 ^ spar) * 128 + o.byte s (nc * cs + n * round16 kr + i)
      let u := s.usePages o.wg o.off o.len
      ∃ p : Plane, LeavesEngine u x { e with shadow := p } (exec (.mldw a b) s) ∧ p.valid = true ∧ p.failed = false ∧ p.wfmt.toNat = fmt ∧ p.kr = kr ∧ p.nc = nc ∧
        p.spar.toNat = spar ∧ p.lc2 = e.shadow.lc2 ∧
        ∀ n < nc, ∀ i < kr, (∀ j < kr, j ≠ i → row n j ≠ row n i) → p.w.get (n * 65536 + row n i) (.fin 0) =
          exactOf 160 (element fmt e.shadow.entry (fun k => o.byte s (n * cs + k)) i)) ∧
    (v = 0x10 → operandAt s (x.party s) ((x.sub s).spair a.toNat) 512 0 0 = .ok o → stashed s o = false → o.bad s 0 512 = false → let u := s.usePages o.wg o.off o.len
      ∃ p : Plane, LeavesEngine u x { e with shadow := p } (exec (.mldwTable a b) s) ∧ p = { e.shadow with lc2 := p.lc2, lc2Bad := false } ∧
        ∀ i < 256, p.entry i = o.byte s (2 * i) + 256 * o.byte s (2 * i + 1))

/-- R218: `mswap` exchanges the planes, and `mswap.fl` closes every open tile as well; a shadow plane whose load met an error traps. -/
def Sys2Proof.Machine.Claim.MswapExchangesThePlanes : Prop :=
  ∀ s x, Uniform s x → let e := (s.core x.core).engine
    let swapped : Engine := { e with active := e.shadow, shadow := { e.active with lc2 := [], lc2Bad := false } }
    (e.shadow.failed = false → (e.shadow.valid = true → goodMeta e.shadow = true) →
      (OwnsEngine s x false true → LeavesEngine s x swapped (exec .mswap s)) ∧
      (OwnsEngine s x true true → ∃ f : Engine, LeavesEngine s x f (exec .mswapFl s) ∧
        f = { swapped with tiles := f.tiles, nan := f.nan, ovf := f.ovf } ∧ (∀ t < 8, f.tiles.get t {} = if (e.tiles.get t {}).cpos = 0 then e.tiles.get t {} else (closeTile (e.tiles.get t {})).1) ∧
        (f.nan = true ↔ e.nan = true ∨ ∃ t < 8, (e.tiles.get t {}).cpos ≠ 0 ∧ (closeTile (e.tiles.get t {})).2.1 = true) ∧
        (f.ovf = true ↔ e.ovf = true ∨ ∃ t < 8, (e.tiles.get t {}).cpos ≠ 0 ∧ (closeTile (e.tiles.get t {})).2.2 = true))) ∧
    (e.shadow.failed = true → OwnsEngine s x false true → let q := s.setEngine x.core { e with shadow := { e.shadow with valid := false, failed := false, lc2Bad := false } }
      exec .mswap s = .next (raise q x (trapOf q x x.mask 5 3)))

/-- R219, R220: partial sums are exact; closing a chunk adds each once, in round-to-nearest-even, to its accumulator. -/
def Sys2Proof.Machine.Claim.ChunksAreExactAndRoundOnceWhenClosed : Prop :=
  (∀ (t : Tile) (xs ws : List (List Exact)) k n, ws.length ≤ 64 → ∀ i j x w, xs[i]? = some x → ws[j]? = some w →
    (foldSpan t xs ws k n).part.get (64 * i + j) (.fin 0) = (t.part.get (64 * i + j) (.fin 0)).add (dot ((x.drop k).take n) ((w.drop k).take n)) ∧
    (foldSpan t xs ws k n).acc = t.acc ∧ (foldSpan t xs ws k n).cpos = t.cpos + n) ∧
  (∀ (t : Tile) k, (closeTile t).1.acc.get k 0 = (addPart (t.acc.get k 0) (t.part.get k (.fin 0))).val ∧ (closeTile t).1.part = [] ∧ (closeTile t).1.cpos = 0) ∧
  (∀ (acc : Word) (p a : Int), exactOf 320 (unpack f32 false acc.toNat) = .fin a → (addPart acc (.fin p)).val =
    if p = 0 then acc else if a + p = 0 then 0 else BitVec.ofNat 32 (round f32 .rne false (.fin (decide (a + p < 0)) (a + p).natAbs (-320))).bits) ∧
  (∀ acc : Word, (addPart acc .nan).val = 0x7fc00000 ∧ (addPart acc .nan).nan = true) ∧
  (∀ (a b : Int) (m n : Bool), Exact.mul (.fin a) (.fin b) = .fin (a * b) ∧ Exact.add (.fin a) (.fin b) = .fin (a + b) ∧
    Exact.mul (.fin 0) (.inf m) = .nan ∧ Exact.add (.inf m) (.inf n) = (if m = n then .inf m else .nan)) ∧
  ∀ xs ws (t : Tile) k n fuel, 0 < n → 1 ≤ fuel →
    (t.cpos + n < 128 → stream xs ws fuel (t, false, false) k n = (foldSpan t xs ws k n, false, false)) ∧
    (t.cpos + n = 128 → stream xs ws fuel (t, false, false) k n = closeTile (foldSpan t xs ws k n))

/-- R214, R219, R221, R222, R223: streaming into a tile, reading one out, clearing one, and the status word. -/
def Sys2Proof.Machine.Claim.StreamsReadoutsAndStatus : Prop :=
  ∀ s x, Uniform s x → let e := (s.core x.core).engine
    let joins : List ((Nat × Nat) × BitVec 16) := (lanesOf (x.sub s).live).map fun l => ((x.sg, l), ((x.sub s).thread l).batch)
    let runs (o : Out) (f : Engine) (q : State) : Prop := GoesTo q x (fun _ => x.pc s + 4) true (Unchanged q x) o ∧ (q.core x.core).engine = { f with running := e.running ++ [s.fresh] } ∧
      q.cmds.find? s.fresh = some { joins := joins, core := x.core } ∧ q.agenda = s.agenda ++ [.event (.matrixCommandComplete x.core)] ∧ q.subs = s.subs
    (OwnsEngine s x true true → ∀ (d a b : BitVec 7) o, d.toNat ≤ 111 → spairOk a.toNat = true → b.toNat ≤ 111 →
      let w := (x.sub s).sreg b.toNat
      let v := w.toNat
      let stride := ((x.sub s).sreg d.toNat).toNat
      let m := v / 2 ^ 12 % 2 ^ 6 + 1
      let t := v % 2 ^ 3
      let fmt := v / 2 ^ 8 % 2 ^ 4
      let kl := e.active.kl
      let len := packedBytes fmt kl
      streamBad x.core w = false → e.active.valid = true → e.active.bad = false → (fmt = 4 → kl % 16 = 0) → len ≤ stride →
      operandAt s (x.party s) ((x.sub s).spair a.toNat) ((m - 1) * stride + len) stride (v / 2 ^ 24 % 2 ^ 2) = .ok o → stashed s o = false →
      (∀ r < m, o.bad s (r * stride) len = false) →
      let rows := (List.range m).map fun r => (List.range kl).map fun k => exactOf 160 (element fmt e.active.entry (fun i => o.byte s (r * stride + i)) k)
      let columns := (List.range e.active.nc).map e.active.column
      let z := stream rows columns (kl + 1) (if w.getLsbD 3 then {} else e.tiles.get t {}, false, false) 0 kl
      ∃ q, runs (exec (.mstr d a b) s) { e with tiles := e.tiles.set t { z.1 with used := true }, nan := e.nan || z.2.1, ovf := e.ovf || z.2.2 } q ∧ q.wgs = s.wgs) ∧
    (OwnsEngine s x true false → ∀ (d a b : BitVec 7) o, d.toNat ≤ 111 → spairOk a.toNat = true → b.toNat ≤ 111 →
      let w := (x.sub s).sreg b.toNat
      let v := w.toNat
      let stride := ((x.sub s).sreg d.toNat).toNat
      let m := v / 2 ^ 12 % 2 ^ 6 + 1
      let nc := v / 2 ^ 18 % 2 ^ 6 + 1
      let t := e.tiles.get (v % 2 ^ 3) {}
      let ofmt := v / 2 ^ 4 % 2 ^ 4
      let size := if ofmt = 0 then 4 else if ofmt ≤ 2 then 2 else 1
      readBad x.core w = false → nc * size ≤ stride →
      operandAt s (x.party s) ((x.sub s).spair a.toNat) ((m - 1) * stride + nc * size) stride (v / 2 ^ 24 % 2 ^ 2) = .ok o → stashed s o = false → (s.wg o.wg).bad = [] →
      let at_ (r n i : Nat) : Nat := swizzle o.swz (o.off + r * stride + n * size + i)
      ∃ q, runs (exec (.mrd d a b) s) (if w.getLsbD 3 && t.used then putTile e (v % 2 ^ 3) (closeTile t) else e) q ∧
        (∀ r < m, ∀ n < nc, ∀ i < size, Mem.read (q.wg o.wg).mem (at_ r n i) =
          BitVec.ofNat 8 (outValue ofmt (v / 2 ^ 8 % 2 ^ 3) (addPart (t.acc.get (64 * r + n) 0) (t.part.get (64 * r + n) (.fin 0))).val / 256 ^ i)) ∧
        (∀ k, (∀ r < m, ∀ n < nc, ∀ i < size, k ≠ at_ r n i) → Mem.read (q.wg o.wg).mem k = Mem.read (s.wg o.wg).mem k) ∧ ∀ u, u ≠ o.wg → q.wg u = s.wg u) ∧
    (OwnsEngine s x true false → ∀ t : BitVec 3, (isL x.core = true → t.toNat ≤ 3) → LeavesEngine s x { e with tiles := e.tiles.del t.toNat } (exec (.mzero t) s)) ∧
    ∀ d : BitVec 7, d.toNat ≤ 111 → e.running = [] → e.actx = (s.wg (x.wg s)).ctx → e.wctx = (s.wg (x.wg s)).ctx →
      let q := s.setEngine x.core { e with nan := false, ovf := false, merr := false }
      ∃ v : Word, GoesTo q x (fun _ => x.pc s + 4) true (WroteScalars q x (fun _ => false) fun k => if k = d.toNat then v else (x.sub s).sreg k) (exec (.mstat d) s) ∧
        (∀ t < 8, v.getLsbD t = (e.tiles.get t {}).used ∧ v.getLsbD (8 + t) = decide ((e.tiles.get t {}).cpos ≠ 0)) ∧
        v.getLsbD 16 = e.active.valid ∧ v.getLsbD 17 = e.shadow.valid ∧ v.getLsbD 19 = e.nan ∧ v.getLsbD 20 = e.ovf ∧ v.getLsbD 21 = e.merr ∧
        v.toNat / 2 ^ 22 % 2 ^ 4 = min 15 e.queue.length ∧ v.getLsbD 27 = decide (e.owner = some x.sg)

/-- R214, R227: commands of an engine complete in order; the firmware exchanges the state of an idle engine for the context whose word needs it. Where a clause goes beyond
the words of spec/, it is the model's choice: log 4, log 9, log 12. -/
def Obligations.MatrixCommandsCompleteAndContextsAreExchanged : Prop :=
  (∀ s c n ns, (s.core c).engine.running = n :: ns → n ∉ ns → ∃ t, exec (.matrixCommandComplete c) s = .next t ∧ (t.core c).engine.running = ns ∧ t.cmds.find? n = none ∧
    SameBytes s t ∧ ∀ k, k ≠ n → t.cmds.find? k = s.cmds.find? k) ∧
  ∀ s c g pc w q u, claimant s c = some (g, pc) → (s.core c).engine.running = [] → buffered (s.core c) pc = some w →
    let ctx := (s.wg (s.sub g).wg).ctx
    claim s c ctx (touches w).1 (touches w).2 = (q, true) → q.subs.find? g = some u →
    ∃ t, exec (.accclaim c) s = .next t ∧ ((touches w).1 = true → (t.core c).engine.actx = ctx) ∧ ((touches w).2 = true → (t.core c).engine.wctx = ctx) ∧
      ∀ l th, u.threads.find? l = some th → (t.sub g).thread l = if th.wait = .firmware then { th with wait := .uniform } else th

/-- R295 to R299: `ttpost` takes a legal record into the scheduler, whose first task that may start takes its engines once all of them are free; a task that ends, or that
depended on one that was not done, leaves the scheduler. Where a clause goes beyond
the words of spec/, it is the model's choice: log 9, log 43. -/
def Obligations.TileTasksArePostedStartedAndEnded : Prop :=
  (∀ s x (d a : BitVec 7) r bs, Uniform s x → postOf s x = none → d.toNat ≤ 111 → spairOk a.toNat = true →
    let addr := (x.sub s).spair a.toNat
    let k := clusterOf x.core
    let ctx := (s.wg (x.wg s)).ctx
    let id := fieldAt bs 0x2c 2
    commandRead s (x.party s) addr 64 true = (r, .ok bs) →
    let reply (v : Word) : Prop := GoesTo r x (fun _ => x.pc s + 4) true (WroteScalars r x (fun _ => false) fun n => if n = d.toNat then v else (x.sub s).sreg n) (exec (.ttpost d a) s)
    (tileBad bs = true → reply 1) ∧
    (tileBad bs = false → (∃ t ∈ (s.cluster k).tasks, t.ctx = ctx ∧ t.taskid = id) → reply 2) ∧
    (tileBad bs = false → (∀ t ∈ (s.cluster k).tasks, t.ctx = ctx → t.taskid ≠ id) → (s.cluster k).tasks.length < 64 →
      ∀ q ys, storeAt r (x.party r) 0 (addr + 0x38) (bytesOf 4 1) true = (q, .ok ys) →
      ∃ p, (∃ t : TileTask, (p.cluster k).tasks = (s.cluster k).tasks ++ [t] ∧ t.num = s.fresh ∧ t.ctx = ctx ∧ t.wg = x.wg s ∧ t.sg = x.sg ∧ t.core = x.core ∧ t.addr = addr ∧
          t.taskid = id ∧ t.record = bs ∧ t.started = false ∧
          ∀ n, n ∈ t.deps ↔ ∃ i < 4, fieldAt bs (0x30 + 2 * i) 2 ≠ 0 ∧ ((s.cluster k).tasks.find? fun o => o.ctx == ctx && o.taskid == fieldAt bs (0x30 + 2 * i) 2).map TileTask.num = some n) ∧
        GoesTo p x (fun _ => x.pc s + 4) true (WroteScalars p x (fun _ => false) fun n => if n = d.toNat then 0 else (x.sub s).sreg n) (exec (.ttpost d a) s))) ∧
  (∀ s k t, (s.cluster k).tasks.find? (fun t => taskReady s t && t.doomed) = some t →
    ∃ u, exec (.tileTaskStart k) s = .next u ∧ u.cmds.find? t.cmd = none ∧ ∀ o ∈ (u.cluster k).tasks, o.num ≠ t.num) ∧
  (∀ s k t, (s.cluster k).tasks.find? (fun t => taskReady s t && t.doomed) = none → nextTask s k = some t → taskFits s k t none = true →
    (∀ c ∈ t.gang k, (s.core c).engine.actx = 0 ∧ (s.core c).engine.wctx = 0) →
    ∃ u, exec (.tileTaskStart k) s = .next u ∧ SameBytes s u ∧ (∀ c ∈ t.gang k, (u.core c).engine.task = some t.num ∧ (u.core c).engine.tiles = []) ∧
      (u.cluster k).tasks = (s.cluster k).tasks.map (fun o => if o.num = t.num then { o with started := true } else o) ∧
      u.agenda = s.agenda ++ [.event (.tileTaskStart k), .event (.tileTaskComplete k)]) ∧
  ∀ s k t, (s.cluster k).tasks.find? (fun t => t.started) = some t →
    ∃ u, exec (.tileTaskComplete k) s = .next u ∧ u.cmds.find? t.cmd = none ∧ ∀ o ∈ (u.cluster k).tasks, o.num ≠ t.num

/-- R307, R308: maps as they are stored, and their composition, in which the first map is applied first. -/
def Sys2Proof.Machine.Claim.OrreryMapsComposeAndKeepTheirEntries : Prop :=
  (∀ n (m : List Nat), 1 ≤ n → n ≤ 256 → m.length = n → (∀ v ∈ m, v < n) → readMap n (mapBytes n m) = (m, false) ∧ (mapBytes n m).length = mapSize n) ∧
  (∀ n bs, 1 ≤ n → n ≤ 256 → (readMap n bs).1.length = n ∧ ∀ v ∈ (readMap n bs).1, v < n) ∧
  (∀ (a b : List Nat) (i v : Nat), a[i]? = some v → v < b.length → (composeMaps a b)[i]? = b[v]?) ∧
  ∀ n (a b c : List Nat), a.length = n → b.length = n → (∀ v ∈ a, v < n) → composeMaps (composeMaps a b) c = composeMaps a (composeMaps b c)

/-- R310, R311, R315, R316: the command words post what they read, the engine performs the oldest command, and `ostat` reads and clears. -/
def Sys2Proof.Machine.Claim.OrreryCommandsArePostedPerformedAndCounted : Prop :=
  (∀ s x (a b : BitVec 7) r bs q ys, Stands s x → (∀ l ∈ x.lanes, ((x.sub s).thread l).posts.find? (x.pc s).toNat = none) → spairOk a.toNat = true → b.toNat ≤ 111 →
    let addr := (x.sub s).spair a.toNat
    let k := clusterOf x.core
    commandRead s (x.party s) addr 64 true = (r, .ok bs) → storeAt r (x.party s) 0 (addr + 0x38) (bytesOf 4 1) true = (q, .ok ys) →
    (s.cluster k).orrery.length < 64 → ∀ op : BitVec 2,
      let o := exec (if op = 0 then .oscan a b else if op = 1 then .ocomp a b else if op = 2 then .olegal a b else .oapply a b) s
      ∃ p, (p.cluster k).orrery = (s.cluster k).orrery ++ [{
          op := op
          desc := addr
          record := bs
          count := (x.sub s).sreg b.toNat
          sg := x.sg
          wg := x.wg s
          core := x.core
          cmd := s.fresh }] ∧
        p.cmds.find? s.fresh = some { joins := x.lanes.map fun l => ((x.sg, l), ((x.sub s).thread l).batch), core := x.core } ∧
        p.agenda = s.agenda ++ [.event (.orreryCommandPerform k)] ∧ GoesTo p x (fun _ => x.pc s + 4) true (Unchanged p x) o) ∧
  (∀ s k c, (s.cluster k).orrery.find? (fun c => (s.wg c.wg).resident) = some c → ∃ t, exec (.orreryCommandPerform k) s = .next t ∧ t.cmds.find? c.cmd = none ∧
    ∀ o ∈ (t.cluster k).orrery, o.cmd ≠ c.cmd) ∧
  (∀ (d : Desc), d.nst = 0 ∨ 256 < d.nst → ∀ op n, refusal op d n = some 2) ∧
  ∀ s x (d : BitVec 7), Stands s x → d.toNat ≤ 111 →
    let q := (s.cluster (clusterOf x.core)).orrery
    ∃ v : Word, Switches s x (fun u => u = { x.sub s with s := u.s, merr := false } ∧ ∀ k, u.sreg k = if k = d.toNat then v else (x.sub s).sreg k) (exec (.ostat d) s) ∧
      v.getLsbD 0 = (x.sub s).merr ∧ (q.length ≤ 64 → v.toNat / 2 ^ 16 = q.length ∧ v.toNat / 4 % 2 ^ 14 = (q.filter fun o => o.sg = x.sg).length)

namespace Sys2Proof.Machine.Claim

/-- Bytes of a workgroup's scratchpad; the map of `n` states that stands there, and whether one of its entries is clamped (R307); the address of a byte of it (R16). -/
def bytesAt (s : State) (w off n : Nat) : List Byte := (List.range n).map fun i => Mem.read (s.wg w).mem (off + i)
def mapAt (s : State) (w n off : Nat) : List Nat := (readMap n (bytesAt s w off (mapSize n))).1
def clampAt (s : State) (w n off : Nat) : Bool := (readMap n (bytesAt s w off (mapSize n))).2
def own (off : Nat) : Dword := 0xff00000000000000 + BitVec.ofNat 64 off
/-- Two spans of bytes do not overlap. -/
def NoOverlap (a n b m : Nat) : Prop := a + n ≤ b ∨ b + m ≤ a
/-- Command `c` is the next that the Orrery of cluster `k` performs, and is not refused; its descriptor lies at `E` in the scratchpad of its workgroup, which holds no
stash range and no error. -/
structure PerformsNext (s : State) (k : Nat) (c : OCmd) (E : Nat) : Prop where
  oldest : (s.cluster k).orrery.find? (fun c => (s.wg c.wg).resident) = some c
  legal : refusal c.op.toNat (descOf c.record) c.count.toNat = none
  desc : c.desc = own E ∧ E % 8 = 0 ∧ E + 64 ≤ (s.wg c.wg).size ∧ (s.wg c.wg).size ≤ 2 ^ 24
  plain : (s.wg c.wg).stash = [] ∧ (s.wg c.wg).bad = []
/-- The results `L` lie in the scratchpad of workgroup `w`, and do not overlap each other or the words of the descriptor at `E` that the command writes. -/
def Fits (s : State) (w E : Nat) (L : List (Nat × List Byte)) : Prop :=
  (∀ x ∈ L, x.1 + x.2.length ≤ (s.wg w).size ∧ NoOverlap x.1 x.2.length (E + 0x34) 12) ∧ L.Pairwise fun x y => NoOverlap x.1 x.2.length y.1 y.2.length
/-- The command has ended: its results `L` stand at their offsets, and RES0, RES1 and STATUS in its descriptor; no other byte of the scratchpad has changed (R309, R311). -/
structure Performed (s t : State) (k : Nat) (c : OCmd) (E : Nat) (L : List (Nat × List Byte)) (res0 res1 status : Nat) : Prop where
  results : ∀ x ∈ L, bytesAt t c.wg x.1 x.2.length = x.2
  words : scrRead t c.wg (E + 0x34) 4 = res0 ∧ scrRead t c.wg (E + 0x3c) 4 = res1 ∧ scrRead t c.wg (E + 0x38) 4 = status
  others : ∀ a, (∀ x ∈ L, a < x.1 ∨ x.1 + x.2.length ≤ a) → a < E + 0x34 ∨ E + 0x40 ≤ a → Mem.read (t.wg c.wg).mem a = Mem.read (s.wg c.wg).mem a
  gone : t.cmds.find? c.cmd = none ∧ ∀ o ∈ (t.cluster k).orrery, o.cmd ≠ c.cmd

end Sys2Proof.Machine.Claim

/-- R307 to R309, R311 to R314: what the commands of the Orrery write, where their operands lie in the own scratchpad: `ocomp` the compositions of its pairs of maps, `oapply`
the states that its map gives, `olegal` the rows of its states or their OR, and `oscan` the prefixes of its token maps, which end at a dead one. -/
def Sys2Proof.Machine.Claim.OrreryOperationsWriteTheirResults : Prop :=
  ∀ s k c E, PerformsNext s k c E →
    let w := c.wg
    let d := descOf c.record
    let n := c.count.toNat
    let N := d.nst
    let z := mapSize N
    let size := (s.wg w).size
    let performs (L : List (Nat × List Byte)) (res0 res1 status : Nat) : Prop :=
      Fits s w E L → ∃ t, exec (.orreryCommandPerform k) s = .next t ∧ Performed s t k c E L res0 res1 status
    let state (off : Nat) : Nat := let v := (Mem.read (s.wg w).mem off).toNat; if v < N then v else N - 1
    let clamped (off : Nat) : Bool := decide (N ≤ (Mem.read (s.wg w).mem off).toNat)
    ∀ A B D, d.src0 = own A → d.src1 = own B → d.dst = own D →
    (c.op = 1 → A + n * z ≤ size → B + n * z ≤ size →
      performs ((List.range n).map fun j => (D + j * z, mapBytes N (composeMaps (mapAt s w N (A + j * z)) (mapAt s w N (B + j * z))))) 0 0xffffffff
        (if (List.range n).any fun j => clampAt s w N (A + j * z) || clampAt s w N (B + j * z) then 0x100 else 0)) ∧
    (c.op = 3 → A + z ≤ size → B + n ≤ size →
      performs ((List.range n).map fun j => (D + j, [BitVec.ofNat 8 ((mapAt s w N A).getD (state (B + j)) 0)])) 0 0xffffffff
        (if clampAt s w N A || (List.range n).any fun j => clamped (B + j) then 0x100 else 0)) ∧
    (c.op = 2 → let rb := (d.vocab + 63) / 64 * 8
      A + n ≤ size → (∀ j < n, B + state (A + j) * d.stride + rb ≤ size) →
      let row (j i : Nat) : Byte := Mem.read (s.wg w).mem (B + state (A + j) * d.stride + i) &&& BitVec.ofNat 8 (2 ^ min 8 (d.vocab - 8 * i) - 1)
      performs (if d.flags = 1 then [(D, (List.range rb).map fun i => (List.range n).foldl (fun b j => b ||| row j i) 0)]
          else (List.range n).map fun j => (D + j * rb, (List.range rb).map (row j))) 0 0xffffffff
        (if (List.range n).any fun j => clamped (A + j) then 0x100 else 0)) ∧
    (c.op = 0 → B + 4 * n ≤ size →
      let token (j : Nat) : Nat := scrRead s w (B + 4 * j) 4
      let dead := List.replicate N (N - 1)
      let map (j : Nat) : List Nat := if d.vocab ≤ token j then dead else mapAt s w N (A + token j * z)
      let prefix_ (i : Nat) : List Nat := (List.range i).foldl (fun p j => composeMaps p (map (j + 1))) (map 0)
      ∀ e F, e < n → (∀ i < e, prefix_ i ≠ dead) → e + 1 = n ∨ prefix_ e = dead → d.pfx = 0 ∨ d.pfx = own F →
      (∀ j ≤ e, token j < d.vocab → A + token j * z + z ≤ size) →
      performs ((if d.pfx = 0 then [] else (List.range (e + 1)).map fun i => (F + i * z, mapBytes N (prefix_ i))) ++ [(D, mapBytes N (prefix_ e))])
        ((prefix_ e).getD d.start 0) (if prefix_ e = dead then e else 0xffffffff)
        ((if (List.range (e + 1)).any fun j => decide (token j < d.vocab) && clampAt s w N (A + token j * z) then 0x100 else 0)
          + (if prefix_ e = dead then 0x200 else 0) + if (List.range (e + 1)).any fun j => decide (d.vocab ≤ token j) then 0x400 else 0))

/-! ### The front end -/

namespace Sys2Proof.Machine.Claim

/-- An accepted entry of an operation that may start now, not a graph node (R352, R353). -/
def Starts (s : State) (seq : Nat) (op : BitVec 8) (e : Entry) : Prop :=
  s.fe.entries.find? seq = some e ∧ e.op = op ∧ e.graph = none ∧ startable s seq e = true
/-- An entry has reached a final state: it is no longer listed, and its journal slot holds its record (R362). -/
def Ended (s t : State) (seq : Nat) (e : Entry) (st : BitVec 8) (status : Nat) (cause : BitVec 8) (fpc : Dword) : Prop :=
  t.fe.entries.find? seq = none ∧
  (s.fe.jset = true → ∀ i < 64, t.homeByte (journalLoc s seq + i) = (journalBytes seq e st s.etime fpc cause status).getD i 0)
/-- An entry as it stands once it has started (R362). -/
def started (s : State) (e : Entry) : Entry := { e with state := 2, tstart := s.etime }
/-- A span that does not meet the journal slot of an entry. -/
def Apart (s : State) (seq : Nat) (p n : Nat) : Prop := s.fe.jset = false ∨ p + n ≤ journalLoc s seq ∨ journalLoc s seq + 64 ≤ p

end Sys2Proof.Machine.Claim

/-- R348, R349, R351: reservation, enabling, draining, waking and rescanning of queues. -/
def Sys2Proof.Machine.Claim.QueueRegistersReserveEnableDrainAndWake : Prop :=
  ∀ s q, let x := s.queue q
    let put (t : State) (y : Queue) : State := { t with fe := { t.fe with queues := s.fe.queues.set q y } }
    (hostUp s = true → q < 256 →
      (x.waiting = x.slots → exec (.qrsvRead q) s = .next { s with link := { s.link with reads := s.link.reads ++ [.data 0xffffffff] } }) ∧
      (x.waiting ≠ x.slots → exec (.qrsvRead q) s =
        .next (put { s with link := { s.link with reads := s.link.reads ++ [.data (BitVec.ofNat 64 (x.reserved % 2 ^ (x.log.toNat % 32)))] } } { x with reserved := (x.reserved + 1) % 2 ^ 32 })) ∧
      exec (.qctlEnable q false) s = .next (put s { x with enable := false }) ∧
      exec (.qctlDrain q) s = .next (put s { x with drain := true }) ∧
      (x.enable = true → exec (.qctlEnable q true) s = .next s) ∧
      (x.enable = false → (6 ≤ x.log.toNat ∧ x.log.toNat ≤ 16 ∧ (x.rcb = 0 → x.host = true)) → ∃ t, exec (.qctlEnable q true) s = .next t ∧
        t.queue q = { x with enable := true, cons := 0, reserved := 0 } ∧ (x.host = true → (∀ i < 2 ^ x.log.toNat / 8, s.badAt (hostPlace x.map + i) 1 = false) → ∀ i < 2 ^ x.log.toNat / 8, t.homeByte (hostPlace x.map + i) = 0)) ∧
      (x.enable = false → ¬ (6 ≤ x.log.toNat ∧ x.log.toNat ≤ 16 ∧ (x.rcb = 0 → x.host = true)) → exec (.qctlEnable q true) s = .next s)) ∧
    (x.drain = true → queueBusy s q = false → exec (.queueDrainEnd q) s = .next (put s { x with drain := false })) ∧
    (x.enable = true → exec (.queueWake q) s = .next (put s { x with awake := true })) ∧
    ∃ t, exec .queueRescan s = .next t ∧ t = { s with fe := { s.fe with queues := t.fe.queues } } ∧
      ∀ k y, s.fe.queues.find? k = some y → t.fe.queues.find? k = some { y with awake := y.awake || y.enable }

/-- R350, R352, R353, R362: a committed slot is consumed, and its entry accepted, or refused with ENTRY. -/
def Sys2Proof.Machine.Claim.ConsumingASlotAcceptsOrRefusesItsEntry : Prop :=
  ∀ s q bs m, let x := s.queue q
    takes s x = true → queueRead s x (x.base + BitVec.ofNat 64 (64 * x.slot)) 64 = some bs → queueRead s x x.mapWord 8 = some m →
    s.fe.entries.find? s.fe.jseq.toNat = none →
    ∃ t, exec (.entryConsume q) s = .next t ∧ t.fe.jseq = s.fe.jseq + 1 ∧ t.fe.turn = q ∧ (t.queue q).cons = x.cons + 1 ∧ (t.queue q).reserved = x.reserved ∧
      (entryOk x bs = true → ∃ e, t.fe.entries.find? s.fe.jseq.toNat = some e ∧ e.queue = q ∧ e.graph = none ∧ e.op = BitVec.ofNat 8 (fieldAt bs 0 1) ∧
        (e.fence = true ↔ fieldAt bs 1 1 % 2 = 1) ∧ e.tag = wordAt bs 4 ∧ e.ctx = (queueCtx s x).getD 0 ∧ e.bytes = bs ∧ e.state = 1 ∧ e.tacc = s.etime ∧
        (t.queue q).stat = x.stat) ∧
      (entryOk x bs = false → t.fe.entries.find? s.fe.jseq.toNat = none ∧ (t.queue q).stat = 1)

/-- R362: the fields of a journal entry. -/
def Sys2Proof.Machine.Claim.JournalEntriesHoldTheR362Fields : Prop :=
  ∀ seq (e : Entry) st tend fpc cause status, let bs := journalBytes seq e st tend fpc cause status
    bs.length = 64 ∧ (seq < 2 ^ 64 → (dwordAt bs 0).toNat = seq) ∧ dwordAt bs 8 = e.tacc ∧ dwordAt bs 0x10 = e.tstart ∧ dwordAt bs 0x18 = tend ∧ dwordAt bs 0x20 = fpc ∧
    wordAt bs 0x28 = e.tag ∧ fieldAt bs 0x2c 1 = (if e.graph.isSome then 0xff else e.queue % 256) ∧ fieldAt bs 0x2d 1 = e.op.toNat ∧ fieldAt bs 0x2e 1 = st.toNat ∧
    fieldAt bs 0x2f 1 = cause.toNat ∧ fieldAt bs 0x30 2 = status % 2 ^ 16 ∧ fieldAt bs 0x32 2 = e.node % 2 ^ 16 ∧ fieldAt bs 0x34 4 = e.iter % 2 ^ 32 ∧
    fieldAt bs 0x38 2 = e.ctx % 2 ^ 16 ∧ fieldAt bs 0x3a 6 = 0

/-- R206, R350, R353: NOP, SIGNAL, WAIT and RELEASE_ESTATES, from start to end. Where a clause goes beyond
the words of spec/, it is the model's choice: log 27. -/
def Obligations.NopSignalWaitAndReleaseEstatesEnd : Prop :=
  (∀ s seq e, Starts s seq 0 e → ∃ t, exec (.nop seq) s = .next t ∧ Ended s t seq (started s e) 3 0 0 0 ∧ t.cores = s.cores ∧ t.subs = s.subs) ∧
  (∀ s seq e p, Starts s seq 3 e → wordPlace s e.ctx (dwordAt e.bytes 0x10) .store = .ok p → 0 < s.stamp → Apart s seq p 8 →
    ∃ t, exec (.signal seq) s = .next t ∧ Ended s t seq (started s e) 3 0 0 0 ∧
      let old := number ((List.range 8).map fun i => s.homeByte (p + i))
      let new := if fieldAt e.bytes 0x20 1 = 0 then (dwordAt e.bytes 0x18).toNat else (old + (dwordAt e.bytes 0x18).toNat) % 2 ^ 64
      ∀ i < 8, (t.sy.read (p + i)).toNat = new / 256 ^ i % 256 ∧ (isRemote p = false → (t.homeByte (p + i)).toNat = new / 256 ^ i % 256)) ∧
  (∀ s seq e p, Starts s seq 4 e → wordPlace s e.ctx (dwordAt e.bytes 0x10) .load = .ok p →
    ∃ t, exec (.wait seq) s = .next t ∧ t.fe.entries.find? seq = some (started s e)) ∧
  (∀ s seq e p, s.fe.entries.find? seq = some e → e.op = 4 → e.state = 2 → e.graph = none → wordPlace s e.ctx (dwordAt e.bytes 0x10) .load = .ok p →
    let v := number ((List.range 8).map fun i => s.homeByte (p + i))
    let w := (dwordAt e.bytes 0x18).toNat
    let mode := fieldAt e.bytes 0x20 1
    let holds : Prop := if mode = 0 then w ≤ v else if mode = 1 then v = w else v ≠ w
    (holds → ∃ t, exec (.waitSatisfied seq) s = .next t ∧ Ended s t seq e 3 0 0 0) ∧ (¬ holds → exec (.waitSatisfied seq) s = .next s)) ∧
  ∀ s seq e r bs, Starts s seq 5 e → readRcb s e.ctx (dwordAt e.bytes 0x10) = some (r, bs) →
    ∃ t, exec (.releaseEstates seq) s = .next t ∧ Ended s t seq (started s e) 3 0 0 0 ∧
      t.fe.estates = s.fe.estates.filter fun x => !(x.region == r && x.ctx == e.ctx && decide (x.seq < e.cut) && (fieldAt e.bytes 0x18 1).testBit x.tag.toNat)

/-- R359: a graph reads and checks its nodes, starts those whose predecessors have ended, and runs its loops. Where a clause goes beyond
the words of spec/, it is the model's choice: log 28. -/
def Obligations.GraphsStartTheirNodesAndRunTheirLoops : Prop :=
  (∀ s seq e ns, Starts s seq 2 e → let n := fieldAt e.bytes 0x18 2
    let f : Entry := { e with bytes := e.bytes ++ ns }
    1 ≤ n → n ≤ 1024 → readHome s e.ctx (dwordAt e.bytes 0x10) (64 * n) = .ok ns → (∀ i < n, nodeOk { e with bytes := e.bytes ++ ns } i = true) → bodiesApart f = true →
    f.ncount = n → ∃ t, exec (.graph seq) s = .next t ∧ t.fe.entries.find? seq = some (started s f)) ∧
  (∀ s seq e i, s.fe.entries.find? seq = some e → e.op = 2 → nodeReady e i = true → seq ≠ s.fe.jseq.toNat → (∀ p ∈ predsOf (e.nodeBytes i), e.node? p ≠ 3) →
    ∃ t f, exec (.graphNodeStart seq i) s = .next t ∧ t.fe.jseq = s.fe.jseq + 1 ∧ t.fe.entries.find? s.fe.jseq.toNat = some f ∧ f.graph = some seq ∧ f.node = i ∧ f.bytes = e.nodeBytes i ∧
      f.tag = e.tag ∧ f.ctx = e.ctx ∧ f.state = (if fieldAt (e.nodeBytes i) 0 1 = 7 then 2 else 1) ∧
      t.fe.entries.find? seq = some { e with nodes := e.nodes.set i 1, iters := e.iters.set i 0 }) ∧
  ∀ s seq e i n f bs, s.fe.entries.find? seq = some e → nodeEntry s seq i = some n → s.fe.entries.find? n = some f → n ≠ seq → loopReady e i = true →
    let k := e.iters.get i 0
    let body := (List.range (e.loopCount i)).map fun j => e.loopFirst i + j
    (k % 2 = 1 → ∀ j ∈ body, e.node? j ≠ 3) → readHome s e.ctx (dwordAt (e.nodeBytes i) 0x10) 4 = .ok bs →
    ((ofBytes bs = 0 ∨ (k + 1) / 2 = fieldAt (e.nodeBytes i) 0x1c 4) → ∃ t, exec (.loopIteration seq i) s = .next t ∧ t.fe.entries.find? n = none) ∧
    (ofBytes bs ≠ 0 → (k + 1) / 2 ≠ fieldAt (e.nodeBytes i) 0x1c 4 → ∃ t g, exec (.loopIteration seq i) s = .next t ∧ t.fe.entries.find? seq = some g ∧ g.iters.get i 0 = 2 * ((k + 1) / 2) + 1 ∧
      (∀ j ∈ body, g.node? j = 0) ∧ (∀ j, j ∉ body → g.node? j = e.node? j) ∧ SameBytes s t)

/-! ### Barriers -/

namespace Sys2Proof.Machine.Claim

/-- A thread that a barrier word has released has gone on past the word, and is otherwise as it was (R170, R294). -/
def Passed (s t : State) (g l : Nat) : Prop :=
  let n := (t.sub g).thread l
  n = { (s.sub g).thread l with pc := ((s.sub g).thread l).pc + 4, wait := .none, since := min (((s.sub g).thread l).since + 1) 0xffffffff, lastIssue := n.lastIssue, readyAt := n.readyAt, lastAt := n.lastAt }
/-- Every live thread of some subgroups is a member of the group or waits for `w`. -/
def AllWait (s : State) (x : Cx) (w : Wait) (gs : List Nat) : Prop :=
  ∀ g ∈ gs, ∀ l ∈ lanesOf (s.sub g).live, (g = x.sg ∧ l ∈ x.lanes) ∨ ((s.sub g).thread l).wait = w
/-- The eight bytes of the object at `off` of workgroup `w` are `v`; every other byte of scratchpad is as in `r`, and nothing else but the dirty marks of stash
lines has changed (R171). -/
structure PutObject (r q : State) (w off : Nat) (v : Dword) : Prop where
  rest : q = { r with wgs := q.wgs }
  wgs : ∀ k, q.wg k = { r.wg k with mem := (q.wg k).mem, stash := (q.wg k).stash }
  object : ∀ i < 8, Mem.read (q.wg w).mem (off + i) = (v >>> (8 * i)).setWidth 8
  others : ∀ k a, (k = w → a < off ∨ off + 8 ≤ a) → Mem.read (q.wg k).mem a = Mem.read (r.wg k).mem a
/-- Each member's arrival record names the object at `a` with the sense `b` (R171). -/
def Recorded (q : State) (x : Cx) (a : Dword) (b : Bool) (v : Sub) : Prop :=
  v = { x.sub q with threads := v.threads } ∧ (∀ l, l ∉ x.lanes → v.thread l = (x.sub q).thread l) ∧
  ∀ l ∈ x.lanes, v.thread l = { (x.sub q).thread l with arrival := some (a, b) }

end Sys2Proof.Machine.Claim

/-- R170, R293, R294: `bar.wg` and `bar.cl` hold their threads until every live thread of the workgroup, or of every participant, waits at one. -/
def Sys2Proof.Machine.Claim.WorkgroupAndClusterBarriers : Prop :=
  (∀ s x, Stands s x → let gs := s.subsOf (x.wg s)
    (¬ AllWait s x .barWg gs → exec .barWg s = .next (blockAt (s.publish x.core (x.wg s) 1) x x.lanes .barWg)) ∧
    (AllWait s x .barWg gs → (∀ g ∈ gs, (s.sub g).handler = none) → ∃ t, exec .barWg s = .next t ∧ (∀ p, t.homeByte p = s.homeByte p) ∧
      ∀ g ∈ gs, ∀ l ∈ lanesOf (s.sub g).live, Passed s t g l)) ∧
  (∀ s x (i : BitVec 21) r, Stands s x → i.toNat < 32 → (x.launch s).lpb.clbar.getLsbD i.toNat = true → relocked s x.core 3 = false →
    release s (x.party s) 3 = (r, none) → (r.wgs.find? (x.wg r)).isSome = true →
    let ws := participants r (r.wg (x.wg r)).launch (r.wg (x.wg r)).cluster
    let gs := ws.flatMap r.subsOf
    let every : Prop := (∀ w ∈ ws, (r.wg w).born = true) ∧ AllWait r x (.barCl (i.setWidth 5)) gs
    (¬ every → exec (.barCl i) s = .next (blockAt r x x.lanes (.barCl (i.setWidth 5)))) ∧
    (every → (∀ g ∈ gs, (r.sub g).handler = none) → relocked r (dCore (r.wg (x.wg r)).cluster 0) 3 = false →
      (writeBackEach (blockAt r x x.lanes (.barCl (i.setWidth 5))) (.barCl (i.setWidth 5)) ws).2 = true → ∃ t, exec (.barCl i) s = .next t ∧ (∀ p, t.homeByte p = r.homeByte p) ∧
      ∀ g ∈ gs, ∀ l ∈ lanesOf (r.sub g).live, Passed r t g l)) ∧
  ∀ s x (i : BitVec 21), Stands s x →
    (32 ≤ i.toNat ∨ (x.launch s).lpb.clbar.getLsbD i.toNat = false → exec (.barCl i) s = .next (ill s x 8)) ∧
    (i.toNat < 32 → (x.launch s).lpb.clbar.getLsbD i.toNat = true → relocked s x.core 3 = true → exec (.barCl i) s = .next (blockAt s x x.lanes (.release 3)))

/-- R171, R172, R173: the counted barriers. -/
def Sys2Proof.Machine.Claim.CountedBarriersInitArriveAndWait : Prop :=
  ∀ s x (a : BitVec 7) r w off, Stands s x → spairOk a.toNat = true →
    let addr := (x.sub s).spair a.toNat
    barrierAt s (x.party s) addr = (r, .ok (w, off)) →
    let S := if addr.toNat / 2 ^ 56 = 0xff then 2 else 3
    (∀ b : BitVec 7, b.toNat ≤ 111 → let n := ((x.sub s).sreg b.toNat).toNat
      n ≠ 0 → n < 2 ^ 31 → ∃ q, PutObject r q w off (BitVec.ofNat 64 (((barrierWord r w off).toNat / 2 ^ 63) * 2 ^ 63 + n)) ∧
        GoesTo q x (fun _ => x.pc r + 4) true (Recorded q x addr ((barrierWord r w off).getLsbD 63)) (exec (.barcInit a b) s)) ∧
    (relocked r x.core S = true → exec (.barcArrive a) s = .next (blockAt r x x.lanes (.release S))) ∧
    (∀ p, relocked r x.core S = false → release r (x.party r) S = (p, none) →
      let o := (barrierWord p w off).toNat
      let expected := o % 2 ^ 32
      let count := o / 2 ^ 32 % 2 ^ 31 + x.lanes.length
      let sense := o / 2 ^ 63
      ∃ q, PutObject p q w off (BitVec.ofNat 64 (if expected ≤ count then (1 - sense) * 2 ^ 63 + expected else sense * 2 ^ 63 + count * 2 ^ 32 + expected)) ∧
        GoesTo q x (fun _ => x.pc p + 4) true (Recorded q x addr ((barrierWord p w off).getLsbD 63)) (exec (.barcArrive a) s)) ∧
    let sense := (barrierWord r w off).getLsbD 63
    let record (l : Nat) : Option (Dword × Bool) := ((x.sub r).thread l).arrival
    ((∀ l ∈ x.lanes, record l = some (addr, sense)) → exec (.barcWait a) s = .next (switchPoint (blockAt r x x.lanes (.barc addr)) x)) ∧
    ((∀ l ∈ x.lanes, record l = some (addr, !sense)) → let q := acquire r (x.party r) S
      GoesTo q x (fun _ => x.pc r + 4) true (Unchanged q x) (exec (.barcWait a) s)) ∧
    ((∀ l ∈ x.lanes, ∀ b, record l ≠ some (addr, b)) → GoesTo r x (fun _ => x.pc r + 4) true (Unchanged r x) (exec (.barcWait a) s))

/-! ### Launches, regions and placement -/

namespace Sys2Proof.Machine.Claim

/-- An entry is refused: its journal entry ends in state 5 with a status, which the queue shows (R348, R357). -/
def Refused (s : State) (seq : Nat) (e : Entry) (status : Nat) (o : Out) : Prop :=
  ∃ t, o = .next t ∧ Ended s t seq e 5 status 0 0 ∧ (t.queue e.queue).stat = BitVec.ofNat 32 status ∧ t.fe.launches = s.fe.launches ∧
    t.fe.contexts = s.fe.contexts ∧ t.cores = s.cores ∧ t.subs = s.subs ∧ t.wgs = s.wgs
/-- The bytes of an RCB as the machine stores it: CTX is the context's number (R356). -/
def RcbAt (t : State) (p : Loc) (bs : List Byte) (ctx : Nat) : Prop :=
  ∀ i < 256, t.homeByte (p + i) = if i = 0x0c then BitVec.ofNat 8 ctx else if i = 0x0d then BitVec.ofNat 8 (ctx / 256) else bs.getD i 0
/-- A REGION_UPDATE that may start completes in `t`. -/
def RegionDone (s : State) (seq : Nat) (e : Entry) (o : Out) (P : State → Prop) : Prop := ∃ t, o = .next t ∧ Ended s t seq (started s e) 3 0 0 0 ∧ P t

end Sys2Proof.Machine.Claim

/-- R352, R354, R357, R203: a launch goes to admission, where it is admitted, with its estate room reserved, held, or refused with the status of the first check that fails. Where a clause goes beyond
the words of spec/, it is the model's choice: log 10, log 13, log 26, log 42, log 57. -/
def Obligations.LaunchesAreCheckedAndAdmitted : Prop :=
  ∀ s seq e, Starts s seq 1 e → s.fe.launches.find? seq = none →
    exec (.launch seq) s = .next (s.post [.launchAdmission seq]) ∧
    ((dwordAt e.bytes 0x10).toNat % 64 ≠ 0 → Refused s seq e 5 (exec (.launchAdmission seq) s)) ∧
    (∀ h st, readImage s e.ctx (dwordAt e.bytes 0x10) = .ok h → fieldAt h 4 2 = 1 → readSaved s e.ctx (dwordAt e.bytes 0x10) h = .error st →
      Refused s seq e st (exec (.launchAdmission seq) s)) ∧
    (∀ st, readLaunch s e = .error st → Refused s seq e st (exec (.launchAdmission seq) s)) ∧
    ∀ l rs legal h, readLaunch s e = .ok (l, rs, legal, h) →
      (heldByOrder s seq l = true → exec (.launchAdmission seq) s = .next s) ∧
      (heldByOrder s seq l = false →
        (fieldAt h 4 2 = 0 →
          let room := l.lpb.gx * l.lpb.gy * l.lpb.gz * (l.lpb.wx * l.lpb.wy * l.lpb.wz) * (l.lpb.bequest.map fun b => 32 + 16 * ((b.count + 3) / 4)).sum
          (∀ st, fitStatus s l rs legal room = some st → Refused s seq e st (exec (.launchAdmission seq) s)) ∧
          (fitStatus s l rs legal room = none → ∃ t, exec (.launchAdmission seq) s = .next t ∧
            t = { s with fe := { s.fe with launches := t.fe.launches, regions := t.fe.regions, images := t.fe.images, order := s.fe.order + 1 } } ∧
            (∃ i ∈ t.fe.images, i.ctx = l.ctx ∧ i.code = l.lpb.code) ∧ (∀ i ∈ s.fe.images, i ∈ t.fe.images) ∧
            t.fe.launches = s.fe.launches.set seq { l with reserved := room, admitted := s.fe.order } ∧
            (t.fe.regions.get l.store {}).reserved = (s.fe.regions.get l.store {}).reserved + room)) ∧
        (fieldAt h 4 2 ≠ 0 → ∀ v, readSaved s e.ctx (dwordAt e.bytes 0x10) h = .ok v →
          let es := restoredEstates s l v (savedRecords s e.ctx (dwordAt e.bytes 0x10) h)
          let room := v.launch.reserved + ((es.filter fun b => b.store == l.store).map fun b => 32 + 16 * ((b.regs.length + 3) / 4)).sum
          let restored (t : State) : Prop := ∃ k, t.fe.launches.find? seq = some k ∧ k.todo = v.launch.todo ∧ k.stopped.length = v.stopped.length ∧
            (∀ x ∈ k.stopped, x.wg.ctx = l.ctx ∧ x.wg.launch = seq) ∧ k.reserved = v.launch.reserved ∧ k.cores = v.launch.cores ∧ k.lpb = l.lpb ∧ k.image = l.image
          (∀ st, fitStatus s l rs legal room = some st → Refused s seq e st (exec (.launchAdmission seq) s)) ∧
          (fitStatus s l rs legal room = none →
            (es = [] → ∃ t, exec (.launchAdmission seq) s = .next t ∧ restored t ∧ SameBytes s t) ∧
            ∀ b off q, es = [b] → b.store = l.store → storeGap (storeRange s b).2 (32 + 16 * ((b.regs.length + 3) / 4)) (storedRecords s b) = some off →
              writeHome s b.ctx ((storeRange s b).1 + BitVec.ofNat 64 off) (estateBytes b) = .ok q →
              ∃ t, exec (.launchAdmission seq) s = .next t ∧ restored t ∧ (∀ p, t.homeByte p = q.homeByte p) ∧ ∃ o ∈ t.fe.estates, b.same o = true ∧ o.regs = b.regs ∧ o.place = .store off)))

/-- R13, R356, R358: REGION_UPDATE, plain and with CREATE, on the RCB at ADDR with the bytes at SRC; an update that would break the tree of its context is refused. What is
the model's reading and not the spec's words stands in log 50: that a plain update makes the checks that R13 gives for the tree (PARENT = 0 on a child is refused), the
status 7 of a plain update whose RCB or SRC is not legal or cannot be read, and that a SRC of 0 takes the RCB as it stands in place. -/
def Sys2Proof.Machine.Claim.RegionsAreUpdatedAndCreated : Prop :=
  ∀ s seq e, Starts s seq 6 e →
    let a := dwordAt e.bytes 0x10
    let src := dwordAt e.bytes 0x18
    (readRcb s e.ctx a = none → Refused s seq e 7 (exec (.regionUpdate seq) s)) ∧
    (∀ p old, readRcb s e.ctx a = some (p, old) →
      let taken (u : State) (bs : List Byte) : State := if isRoot s e.ctx p then setContext u e.ctx p bs else u
      let calm (u : State) : Prop := ∀ r ∈ knownRcbs s e.ctx, heldRight s e.ctx r = (debugOf u e.ctx r).map Prod.fst
      let holds (u t : State) (bs : List Byte) : Prop :=
        (∀ c, t.fe.contexts.find? c = if c = e.ctx ∧ ∃ k, s.fe.contexts.find? c = some k ∧ k.root = p then some (contextOf p bs) else s.fe.contexts.find? c) ∧
        ∀ n l b area, s.fe.launches.find? n = some l → l.ctx = e.ctx → debugOf u e.ctx l.lpb.rcb = some (b, area) → ∃ k, t.fe.launches.find? n = some k ∧ k.dbg = b
      (src = 0 → calm (taken s old) → RegionDone s seq e (exec (.regionUpdate seq) s) fun t => holds (taken s old) t old) ∧
      (src ≠ 0 → srcBytes s e = none → Refused s seq e 7 (exec (.regionUpdate seq) s)) ∧
      ∀ bs, src ≠ 0 → srcBytes s e = some bs →
        (∀ st, treeStatus s (s.homeWrite p (withCtx bs e.ctx)) e.ctx a p = some st → Refused s seq e st (exec (.regionUpdate seq) s)) ∧
        (treeStatus s (s.homeWrite p (withCtx bs e.ctx)) e.ctx a p = none → let u := taken (s.homeWrite p (withCtx bs e.ctx)) bs
          calm u → RegionDone s seq e (exec (.regionUpdate seq) s) fun t => (Apart s seq p 256 → bs.length = 256 → RcbAt t p bs e.ctx) ∧ holds u t bs)) ∧
    (src = 0 → Refused s seq e 7 (exec (.regionCreate seq) s)) ∧
    (src ≠ 0 → srcBytes s e = none → Refused s seq e 7 (exec (.regionCreate seq) s)) ∧
    ∀ bs, src ≠ 0 → srcBytes s e = some bs →
      (dwordAt bs 0 = 0 → ∀ n p, freeContext s = some n → let u : State := { s with fe := { s.fe with contexts := s.fe.contexts.set n (contextOf 0 bs) } }
        newRcbPlace u n a = some p → (foreignRcb u n p = true → Refused s seq e 7 (exec (.regionCreate seq) s)) ∧ (foreignRcb u n p = false →
        n ≠ 0 ∧ s.fe.contexts.find? n = none ∧ RegionDone s seq e (exec (.regionCreate seq) s) fun t =>
          t.fe.contexts.find? n = some (contextOf p bs) ∧ t.fe.regions.find? p = some { ctx := n, rcb := a } ∧ (Apart s seq p 256 → bs.length = 256 → RcbAt t p bs n))) ∧
      (dwordAt bs 0 ≠ 0 → e.rcb = 0 → Refused s seq e 1 (exec (.regionCreate seq) s)) ∧
      (dwordAt bs 0 ≠ 0 → e.rcb ≠ 0 → ∀ st, chainOf s e.ctx 8 (dwordAt bs 0) = .error st → Refused s seq e st (exec (.regionCreate seq) s)) ∧
      (dwordAt bs 0 ≠ 0 → e.rcb ≠ 0 → ∀ rs, chainOf s e.ctx 8 (dwordAt bs 0) = .ok rs →
        (rs.length = 8 → Refused s seq e 6 (exec (.regionCreate seq) s)) ∧
        ∀ p, rs.length < 8 → newRcbPlace s e.ctx a = some p → let u := s.homeWrite p (withCtx bs e.ctx)
          (foreignRcb s e.ctx p = true → Refused s seq e 7 (exec (.regionCreate seq) s)) ∧
          (foreignRcb s e.ctx p = false → ∀ st, treeStatus s u e.ctx a p = some st → Refused s seq e st (exec (.regionCreate seq) s)) ∧
          (foreignRcb s e.ctx p = false → treeStatus s u e.ctx a p = none → RegionDone s seq e (exec (.regionCreate seq) s) fun t =>
          t.fe.contexts = s.fe.contexts ∧ t.fe.regions.find? p = some { ctx := e.ctx, rcb := a } ∧ (Apart s seq p 256 → bs.length = 256 → RcbAt t p bs e.ctx)))

/-- R358, R207: DESTROY of a root ends its context; on another region it has no effect beyond that of the update (log 17), and which region is a root is read as log 50 says;
CHECKPOINT takes every launch of the subtree off the machine, and the image of each holds what it was. -/
def Sys2Proof.Machine.Claim.RegionsAreDestroyedAndCheckpointed : Prop :=
  ∀ s seq e q, Starts s seq 6 e → plainUpdate s e = .ok q → ∀ p bs, readRcb q e.ctx (dwordAt e.bytes 0x10) = some (p, bs) →
    (readRcb (startEntry q seq) e.ctx (dwordAt e.bytes 0x10) = some (p, bs) → isRoot q e.ctx p = false → exec (.regionDestroy seq) s = exec (.regionUpdate seq) s) ∧
    (readRcb (startEntry q seq) e.ctx (dwordAt e.bytes 0x10) = some (p, bs) → isRoot q e.ctx p = true → ∃ t, exec (.regionDestroy seq) s = .next t ∧ t.fe.entries.find? seq = none ∧ t.fe.contexts.find? e.ctx = none ∧
      (∀ l ∈ t.fe.launches, l.2.ctx ≠ e.ctx) ∧ (∀ x ∈ t.fe.estates, x.ctx ≠ e.ctx) ∧ ∀ r ∈ t.fe.regions, r.2.ctx ≠ e.ctx) ∧
    ∃ t, exec (.regionCheckpoint seq) s = .next t ∧ t.fe.entries.find? seq = none ∧
      (∀ l ∈ t.fe.launches, l.2.ctx = e.ctx → p ∉ l.2.regions) ∧
      ∀ n l, q.fe.launches = [(n, l)] → l.ctx = e.ctx → p ∈ l.regions →
        let v := spillContext (startEntry q seq) e.ctx
        let u := quietLaunch v n
        let y := readEstates u (carried v n l (idleRegions v e.ctx p [n]))
        let x := saving y.1 n y.2
        v.fe.launches = q.fe.launches → u.fe.launches = q.fe.launches → y.1.fe.launches = q.fe.launches → ∀ r, writeHome y.1 l.ctx (dwordAt e.bytes 0x28) x.2 = .ok r →
          t.fe.launches.find? n = none ∧ t.fe.saved.find? r.fresh = some x.1 ∧ x.1.was = n ∧ x.1.launch.lpb = l.lpb ∧ fieldAt x.2 4 2 = 1 ∧ x.2.length % 64 = 0

namespace Sys2Proof.Machine.Claim

/-- Workgroup `w` of launch `l` stands in room `r`: a part of the scratchpad, a slot handle and a position for each subgroup, which nothing else on the core, of its
cluster, or of its context on the core has (R14, R158, R291). -/
structure Placed (s t : State) (seq id : Nat) (l : Launch) (r : Room) (w : Nat) : Prop where
  allowed : l.lpb.allows r.core = true
  wg : t.wg w = { ctx := l.ctx, launch := seq, id := BitVec.ofNat 64 id, gx := id % l.lpb.gx, gy := id / l.lpb.gx % l.lpb.gy, gz := id / (l.lpb.gx * l.lpb.gy)
                  cluster := clusterOf r.core, home := r.core, base := r.base, size := (l.lpb.scratch + 1023) / 1024 * 1024, handle := r.handle
                  born := false, arrived := false }
  context : (t.core r.core).ctx = some l.ctx
  scratch : r.base + (l.lpb.scratch + 1023) / 1024 * 1024 ≤ scratchOf r.core
  apart : ∀ k ∈ s.wgs, k.2.home = r.core → k.2.resident = true →
    r.base + (l.lpb.scratch + 1023) / 1024 * 1024 ≤ k.2.base ∨ k.2.base + k.2.size ≤ r.base
  handle : r.handle < 255 ∧ ∀ k ∈ s.wgs, k.2.cluster = clusterOf r.core → k.2.handle ≠ r.handle
  slots : r.slots.Nodup ∧ r.slots.length = l.nsub
  subs : ∀ i p, r.slots[i]? = some p → p.1 < rowsOf r.core ∧ p.2 < slotsOf r.core ∧ slotTaken s r.core l.ctx p.1 p.2 = false ∧
    ∃ g, t.subs.find? g = some { wg := w, index := i, core := r.core, row := p.1, slot := p.2 }

/-- The estates are told apart by their numbers (R189), and the stitch holder of cluster `k` has room for those of `es` beside what it holds (R198). -/
def HolderRoom (s : State) (k : Nat) (es : List Estate) : Prop :=
  s.fe.estates.Pairwise (fun a b => a.same b = false) ∧ holderBytes s k + (es.map fun e => recordSize e.regs.length).sum ≤ 4194304
/-- Estates as they are, places apart. -/
def anywhere (es : List Estate) : List Estate := es.map fun e => { e with place := .store 0 }

end Sys2Proof.Machine.Claim

/-- R158, R169, R199, R200, R327, R357: a workgroup is placed where it finds room, and waits where it does not; a held position that it takes keeps only the estates that it
claims there, and a position is freed by the move of its estates to the stitch holder. Where a clause goes beyond
the words of spec/, it is the model's choice: log 25, log 32, log 57. -/
def Obligations.WorkgroupsArePlacedWhereTheyFindRoom : Prop :=
  (∀ s seq l id ids, s.fe.launches.find? seq = some l → l.lpb.coop = false → l.stopped = [] → l.todo = id :: ids →
    (chooseRoom s seq l id = none → exec (.workgroupPlacement seq) s = .next s) ∧
    ∀ r, chooseRoom s seq l id = some r → ∃ t, exec (.workgroupPlacement seq) s = .next t ∧ Placed s t seq id l r s.fresh ∧
      (t.launch seq).todo = ids ∧ r.core ∈ (t.launch seq).cores ∧ (t.launch seq).lpb = l.lpb ∧ SameBytes s t ∧
      t.agenda.getLast? = some (.event (.estateArrival s.fresh))) ∧
  (∀ s seq l, s.fe.launches.find? seq = some l → l.lpb.coop = true → (l.todo ≠ [] ∨ l.stopped ≠ []) →
    (placeAll s seq (l.stopped.length + l.todo.length) = none → exec (.workgroupPlacement seq) s = .next s) ∧
    ∀ q, placeAll s seq (l.stopped.length + l.todo.length) = some q → ∃ t, exec (.workgroupPlacement seq) s = .next t ∧
      (t.launch seq).todo = [] ∧ (t.launch seq).stopped = []) ∧
  (∀ s w g, s.wgs.find? w = some g → g.born = false → g.arrived = false →
    HolderRoom s g.cluster ((s.subsOf w).flatMap fun k => estatesAt s (s.sub k).core (s.sub k).row (s.sub k).slot) → ∃ t, exec (.estateArrival w) s = .next t ∧
    t.wg w = { g with arrived := true } ∧ t.agenda = s.agenda ++ [.event (.workgroupBirth w)] ∧ anywhere t.fe.estates = anywhere s.fe.estates ∧ SameBytes s t ∧
    ∀ k ∈ s.subsOf w, ∀ e ∈ estatesAt t (s.sub k).core (s.sub k).row (s.sub k).slot, e ∈ claimsOf s (s.launch g.launch) g.id.toNat (s.sub k).index) ∧
  ∀ s c r k, ∃ t, exec (.estateMoveComplete c r k) s = .next t ∧ estatesAt t c r k = [] ∧
    (HolderRoom s (clusterOf c) (estatesAt s c r k) → SameBytes s t ∧ anywhere t.fe.estates = anywhere s.fe.estates ∧
      (∀ e ∈ estatesAt s c r k, { e with place := .holder (clusterOf c) } ∈ t.fe.estates) ∧ ∀ e ∈ s.fe.estates, e ∉ estatesAt s c r k → e ∈ t.fe.estates)

/-- R14, R37, R192, R193, R194: what the threads of a workgroup hold at birth, and what a claim at birth delivers. Where a clause goes beyond
the words of spec/, it is the model's choice: log 31, log 57. -/
def Obligations.BirthGivesR37StateAndInheritance : Prop :=
  (∀ s w, birthMay s w = true → let l := s.launch (s.wg w).launch; let id := (s.wg w).id.toNat; let p := l.lpb; let width := if l.image.narrow then 32 else 64
    (p.inherit = [] ∨ traced s 7 = false ∧ (∀ k, HolderRoom s k (s.fe.estates.filter fun e => e.place matches .inPlace _ _ _ _)) ∧
      ∀ e ∈ claimsAll s l id, ∀ off f, e.place = .store off →
        readHome s e.ctx ((storeRange s e).1 + BitVec.ofNat 64 off) (recordSize e.regs.length) = .error f → f.cause = 5) →
    ∃ t, exec (.workgroupBirth w) s = .next t ∧ (t.wg w).born = true ∧ (t.launch (s.wg w).launch).started = true ∧
      ∀ j < l.nsub, ∀ g, (s.subsOf w).find? (fun g => (s.sub g).index == j) = some g → let u := t.sub g
        (∀ m < 64, u.live.getLsbD m = decide (m < width ∧ j * width + m < p.threads)) ∧
        u.sreg 0 = loOf p.args ∧ u.sreg 1 = hiOf p.args ∧ u.sreg 2 = loOf (s.wg w).id ∧ u.sreg 3 = BitVec.ofNat 32 j ∧
        u.narrow = l.image.narrow ∧ u.rngKey = p.rngkey ∧
        ∀ m, m < width → j * width + m < p.threads → let th := u.thread m; let lid := j * width + m
          th.lid = BitVec.ofNat 32 lid ∧
          th.x = id % p.gx * p.wx + lid % p.wx ∧ th.y = id / p.gx % p.gy * p.wy + lid / p.wx % p.wy ∧ th.z = id / (p.gx * p.gy) * p.wz + lid / (p.wx * p.wy) ∧
          th.wid = BitVec.ofNat 64 ((th.z * (p.gy * p.wy) + th.y) * (p.gx * p.wx) + th.x) ∧ th.tstat = 0 ∧ th.batch = 0 ∧
          th.pc = (if isL u.core then l.image.entryL else l.image.entryD) ∧ th.twin = (if isL u.core then l.image.entryD else l.image.entryL) ∧
          (p.inherit = [] → th.wait = .none ∧ th.est = 0 ∧ ∀ i, th.reg i = 0)) ∧
  ∀ s la g l i (h : Inherit) key, let r := claimOne s la g l i h key
    let gives (q : State) (regs : List Word) (est : Word) : Prop := let o := (q.sub g).thread l; let n := (r.1.sub g).thread l
      n = { o with v := n.v, est := est } ∧ ∀ k, n.reg k = if h.dst ≤ k ∧ k < h.dst + h.count then regs.getD (k - h.dst) 0 else o.reg k
    (findEstate s la key h.tag = none → r.2 = .missing ∧ gives s [] (setBit ((s.sub g).thread l).est i true) ∧ r.1.fe = s.fe) ∧
    ∀ e, findEstate s la key h.tag = some e → let b := bringClaim s (s.sub g) l h e; let q := b.1
      let est := ((q.sub g).thread l).est
      (e.place = .inPlace (s.sub g).core (s.sub g).row (s.sub g).slot l → h.copy = false → b.2 = e.bad ∧ q.fe = s.fe) ∧
      ((q.subs.find? g).isSome = true →
        (b.2 = true → r.2 = .failed ∧ gives q [] (setBit est i true) ∧ r.1.fe.estates = q.fe.estates.filter fun o => !(e.same o)) ∧
        (b.2 = false → r.2 = .found ∧ gives q e.regs (if e.regs.length < h.count then setBit est (4 + i) true else est) ∧
          r.1.fe.estates = if h.copy then q.fe.estates else q.fe.estates.filter fun o => !(e.same o)))

/-- R168, R204, R360: a workgroup is freed once its dirty stash lines are written back; the last one's freeing completes the launch, whose estates become eligible. Where a clause goes beyond
the words of spec/, it is the model's choice: log 33, log 34, log 57. -/
def Obligations.FreeingTheLastWorkgroupCompletesTheLaunch : Prop :=
  ∀ s w, freeMay s w = true →
    (relocked s (s.wg w).home 6 = true → exec (.workgroupFree w) s = .next s) ∧
    ∀ r, relocked s (s.wg w).home 6 = false → writeBackAll s ⟨(s.wg w).home, (s.wg w).ctx, w⟩ w (s.wg w).stash = (r, none) →
      ∃ t, exec (.workgroupFree w) s = .next t ∧ t.wgs.find? w = none ∧
        ∀ l, s.fe.launches.find? (s.wg w).launch = some l → let seq := (s.wg w).launch
          (l.todo ≠ [] → (∀ k ∈ s.wgs, k.1 ≠ w → k.2.launch = seq → ∀ y ∈ k.2.stash, y.dirty = []) →
            t.fe.launches.find? seq = some l ∧ t.fe.entries = s.fe.entries) ∧
          (l.todo = [] → l.stopped = [] → (∀ k ∈ s.wgs, k.1 ≠ w → k.2.launch ≠ seq) →
            (∀ e ∈ s.fe.estates, sweeps l e = true → ∀ off f, e.place = .store off →
              readHome r e.ctx ((storeRange r e).1 + BitVec.ofNat 64 off) (recordSize e.regs.length) = .error f → f.cause = 5) →
            t.fe.launches.find? seq = none ∧
            (∀ e ∈ t.fe.estates, e.launch = seq → e.ctx = l.ctx → e.eligible = true) ∧
            ∀ e, s.fe.entries.find? seq = some e → e.op = 1 → e.ctx = l.ctx → t.fe.entries.find? seq = none)

/-! ### Clocks, pre-emption, debug, errors -/

namespace Sys2Proof.Machine.Claim

/-- A record of an error stands in the log: SEQ names its slot, an unread record it overwrites counts as lost, and nothing else has changed (R345). -/
structure Logged (s t : State) (addr : Dword) (unit sev ctx : Nat) : Prop where
  rest : t = { s with errLog := t.errLog, errSeq := s.errSeq + 1, errLost := t.errLost, errSeen := t.errSeen }
  record : ∃ bs, t.errLog.find? (s.errSeq.toNat % 256) = some bs ∧ bs.length = 32 ∧ dwordAt bs 0 = s.etime ∧ dwordAt bs 8 = addr ∧ fieldAt bs 0x10 2 = unit % 2 ^ 16 ∧
    fieldAt bs 0x12 1 = sev % 256 ∧ fieldAt bs 0x14 4 = ctx % 2 ^ 32 ∧ dwordAt bs 0x18 = s.errSeq
  others : ∀ i, i ≠ s.errSeq.toNat % 256 → t.errLog.find? i = s.errLog.find? i
  lost : t.errLost.toNat = if (s.errLog.find? (s.errSeq.toNat % 256)).isSome = true ∧ s.errSeq.toNat % 256 ∉ s.errSeen ∧ s.errLost ≠ 0xffffffff
    then s.errLost.toNat + 1 else s.errLost.toNat

end Sys2Proof.Machine.Claim

/-- R318, R319, R322, R323, R325, R382: frequency steps, which begin at a cycle boundary, the ends of their relocks, the edges of the clocks, and the slots that they end:
the ten leaves of a row add up to SLOTS. Where a clause goes beyond
the words of spec/, it is the model's choice: log 7, log 22, log 46. -/
def Obligations.ClocksStepRelockAndCount : Prop :=
  (∀ s d b c, let x := s.die d; let old : BitVec 4 := if b then x.lcode else x.dcode
    let may : Prop := d < 4 ∧ c.toNat ≤ (if b then 12 else 10) ∧ (if b then x.relockL else x.relockD) = none ∧
      ∀ f, (if b then x.freeL else x.freeD) = some f → f.toNat + 8000 ≤ s.etime.toNat
    let boundary : Prop := (if b then x.edgeL else x.edgeD) = s.ticks + 10 * tickNs / (if b then 12 + x.lcode.toNat else 8 + x.dcode.toNat)
    (may → ¬ boundary → exec (.dvfsStep d b c) s = .next (s.setDie d (if b then { x with wantL := some c } else { x with wantD := some c }))) ∧
    (may → boundary → ∃ t, exec (.dvfsStep d b c) s = .next t ∧ let y := t.die d
      (if b then y.relockL else y.relockD) = some { until_ := s.etime + 2000, code := c } ∧ y.dcode = x.dcode ∧ y.lcode = x.lcode ∧ y.cyc = x.cyc ∧ y.scyc = x.scyc ∧
      y.dsteps = x.dsteps + 1 ∧ y.log.find? (x.dsteps.toNat % 8) = some {
        etime := s.etime
        cyc := x.cyc
        scyc := x.scyc
        seq := x.dsteps + 1
        codes := BitVec.ofNat 32 (old.toNat + 2 ^ 4 * c.toNat + 2 ^ 8 * b.toNat) } ∧
      (∀ k, k ≠ d → t.die k = s.die k) ∧ t.cores = s.cores ∧ t.subs = s.subs) ∧
    (¬ may → exec (.dvfsStep d b c) s = .next s)) ∧
  (∀ s d b r, let x := s.die d; (if b then x.relockL else x.relockD) = some r →
    (s.etime.toNat < r.until_.toNat → exec (.relockEnd d b) s = .next s) ∧
    (r.until_.toNat ≤ s.etime.toNat → ∃ t, exec (.relockEnd d b) s = .next t ∧ let y := t.die d
      (if b then y.relockL else y.relockD) = none ∧ (if b then y.lcode else y.dcode) = r.code ∧ (if b then y.dcode else y.lcode) = (if b then x.dcode else x.lcode) ∧
      (if b then y.freeL else y.freeD) = some s.etime ∧ y.cyc = x.cyc ∧ y.scyc = x.scyc ∧ (∀ k, k ≠ d → t.die k = s.die k) ∧
      t.parked = [] ∧ ((∀ w ∈ s.wgs, ∀ y ∈ w.2.stash, y.dirty = []) →
        t.agenda = s.agenda ++ (heldReleases s).map (fun g => Act.event (.releaseComplete g)) ++ s.parked.map Act.event ++
          if s.link.flr && (List.range 4).all fun k => (t.die k).relockD.isNone && (t.die k).relockL.isNone then [Act.event .flrComplete] else []))) ∧
  (∀ s d b, d < 4 → s.link.bringUp ≠ .off → let x := s.die d; let now : Nat := max s.ticks (if b then x.edgeL else x.edgeD)
    (∀ r, (if b then x.relockL else x.relockD) = some r → s.fabric.slew = 0 → ((now : Int) + s.fabric.skew).toNat / tickNs < 2 ^ 64 → ∃ t, exec (.clockCycle d b) s = .next t ∧
      t = { s with ticks := t.ticks, agenda := s.agenda ++ [.event (.relockEnd d b)] } ∧ now ≤ t.ticks ∧ r.until_.toNat ≤ t.etime.toNat ∧
      (r.until_.toNat ≤ ({ s with ticks := now } : State).etime.toNat → t.ticks = now)) ∧
    ((if b then x.relockL else x.relockD) = none → ∃ t, exec (.clockCycle d b) s = .next t ∧ t.ticks = now ∧ (∀ k, k ≠ d → t.die k = s.die k) ∧ t.pk = s.pk ∧ t.sy = s.sy ∧
      let y := t.die d
      y.dcode = x.dcode ∧ y.lcode = x.lcode ∧
      (b = false → y.slotsD = x.slotsD + (if s.dbgr.freeze then 0 else 1) ∧ y.slotsL = x.slotsL ∧ y.cyc = x.cyc + 1 ∧ y.scyc = x.scyc + BitVec.ofNat 64 (incOf x.dcode) ∧ y.lcyc = x.lcyc ∧ y.edgeD = now + 10 * tickNs / (8 + x.dcode.toNat)) ∧
      (b = true → y.slotsL = x.slotsL + (if s.dbgr.freeze then 0 else 1) ∧ y.slotsD = x.slotsD ∧ y.cyc = x.cyc ∧ y.scyc = x.scyc ∧ y.lcyc = x.lcyc + 1 ∧ y.edgeL = now + 10 * tickNs / (12 + x.lcode.toNat)))) ∧
  (List.range 11).map (fun c => incOf (BitVec.ofNat 4 c)) = [114688, 101945, 91750, 83409, 76459, 70577, 65536, 61167, 57344, 53971, 50972] ∧
  (∀ s c r, let t := endSlot s c r; let k := (slotClass s c r).toNat
    ∀ i, (t.row c r).counts.get i 0 = (s.row c r).counts.get i 0 + (if s.dbgr.freeze = false ∧ i = k ∧ k ≠ 0 then 1 else 0)) ∧
  ∀ s c r, slotCounter s c r 0 + ((List.range 9).map fun k => slotCounter s c r (k + 1)).sum = slotCounter s c r 10

/-- R262, R273, R276, R278, R279: the notice of a pre-emption, its deadline, the swap, and what fills the shadow bank and the scratchpad. Where a clause goes beyond
the words of spec/, it is the model's choice: log 22, log 23, log 24, log 25, log 46. -/
def Obligations.PreemptionNotifiesSwapsAndFills : Prop :=
  (∀ s c o i, (s.core c).ctx = some o → (s.core c).shadow = some i → o ≠ i → (s.core c).preempt = none →
    (holdsState s c o = false → exec (.preemptDecision c) s = .next (s.setCore c { s.core c with preempt := some s.etime })) ∧
    (holdsState s c o = true → ∃ t d, exec (.preemptDecision c) s = .next t ∧ t.core c = { s.core c with preempt := some d } ∧ s.etime.toNat ≤ d.toNat ∧ SameBytes s t ∧
      ∀ g ∈ subsOn s c o, ∀ us, graceOf s g = some us → (t.sub g).noticed = true ∧
        ∃ T ∈ (t.sub g).asyncs, T.cause = 0x13 ∧ T.kind = 2 ∧ T.addr = s.etime + BitVec.ofNat 64 (1000 * us) ∧ T.addr.toNat ≤ d.toNat)) ∧
  (∀ s c i, (s.core c).ctx = none → (s.core c).shadow = some i → (s.core c).preempt = none →
    exec (.preemptDecision c) s = .next (s.setCore c { s.core c with preempt := some s.etime })) ∧
  (∀ s c d i, (s.core c).preempt = some d → (s.core c).shadow = some i → d.toNat ≤ s.etime.toNat →
    exec (.preemptDeadline c) s = .next (s.post [.preemptionSwap c i])) ∧
  (∀ s c d, (s.core c).preempt = some d → (s.core c).shadow = none → d.toNat ≤ s.etime.toNat → rowsApart s c = true →
    clocked s (.row c 0) = true → clocked s (.needle c 0) = true → relocked s c 5 = false →
    ∃ t, exec (.preemptDeadline c) s = .next t ∧ (t.core c).ctx = none ∧ (t.core c).preempt = none ∧ ∀ r < rowsOf c, (t.row c r).issuing = none) ∧
  (∀ s c i d, (s.core c).ctx = none → (s.core c).shadow = some i → (s.core c).preempt = some d → rowsApart s c = true →
    clocked s (.row c 0) = true → clocked s (.needle c 0) = true → relocked s c 5 = false →
    ∃ t, exec (.preemptionSwap c i) s = .next t ∧ (t.core c).ctx = some i ∧ (t.core c).shadow = none ∧ (t.core c).preempt = none ∧
      ∀ r < rowsOf c, (t.row c r).issuing = none ∧ (t.row c r).spent = (s.row c r).spent ∧ (t.row c r).held = (s.row c r).held) ∧
  (∀ s c o i d, (s.core c).ctx = some o → (s.core c).shadow = some i → (s.core c).preempt = some d → rowsApart s c = true →
    clocked s (.row c 0) = true → clocked s (.needle c 0) = true → relocked s c 5 = false →
    (s.etime.toNat < d.toNat → (∃ g ∈ subsOn s c o, (s.sub g).noticed = true) → exec (.preemptionSwap c i) s = .next s) ∧
    (d.toNat ≤ s.etime.toNat ∨ (∀ g ∈ subsOn s c o, (s.sub g).noticed = false) →
      ∃ t, exec (.preemptionSwap c i) s = .next t ∧ (t.core c).ctx = some i ∧ (t.core c).shadow = none ∧ (t.core c).preempt = none ∧
        ∀ r < rowsOf c, (t.row c r).issuing = none ∧ (t.row c r).xsel = none ∧ (t.row c r).atSwitch = true ∧
          (holdsState s c o = false → (t.row c r).spent = (s.row c r).spent ∧ (t.row c r).held = (s.row c r).held) ∧
          (holdsState s c o = true → isL c = false →
            ((s.row c r).spent = none → (t.row c r).spent = some 0 ∧ (t.row c r).held = (s.row c r).held ++ List.replicate 95 0) ∧
            ((s.row c r).spent ≠ none → (t.row c r).spent = (s.row c r).spent ∧ (t.row c r).held = (s.row c r).held ++ List.replicate 96 0)))) ∧
  (∀ s c x, (s.core c).shadow = none → (s.core c).preempt = none → (s.core c).ctx ≠ some x → (s.fe.contexts.find? x).isSome = true → s.hasCore c = true →
    exec (.shadowSpillFill c x) s = .next (s.setCore c { s.core c with shadow := some x })) ∧
  ∀ s w p, let c := (s.wg w).home
    exec (.scratchpadPageExchange w p) s = .next (s.setCore c { s.core c with stale := (s.core c).stale.filter (· != p) })

/-- R345, R378, R380, R383, R384, R362: the debug halt, PC samples, counters, and JRIDX. Where a clause goes beyond
the words of spec/, it is the model's choice: log 40. -/
def Obligations.DebugRequestsSamplesAndCounters : Prop :=
  (∀ s, hostUp s = true →
    (s.dbgr.busy = false → debugTarget s = none → exec .dbgCtlGo s = .next { s with dbgr := { s.dbgr with err := true, done := false } }) ∧
    (s.dbgr.busy = false → ∀ w, debugTarget s = some w → ∃ t, exec .dbgCtlGo s = .next t ∧
      (s.subsOf w = [] → t.dbgr = { s.dbgr with busy := false, err := false, done := true, target := none }) ∧
      ((∃ g ∈ s.subsOf w, (s.sub g).wg = w) → t.dbgr = { s.dbgr with busy := true, err := false, done := false, target := some w }) ∧
      ∀ g ∈ s.subsOf w, ∃ T ∈ (t.sub g).asyncs, T.cause = 0x0e ∧ T.kind = 2) ∧
    (s.dbgr.busy = true → exec .dbgCtlGo s = .next s) ∧
    (∀ b, exec (.cntCtlFreeze b) s = .next { s with dbgr := { s.dbgr with freeze := b } }) ∧
    (∃ t, exec .cntCtlClear s = .next t ∧ t = { s with cores := t.cores, dies := t.dies } ∧ (∀ d, t.die d = { s.die d with slotsD := 0, slotsL := 0 }) ∧ (∀ c r, t.row c r = { s.row c r with counts := [] }) ∧
      ∀ c, t.core c = { s.core c with rows := (t.core c).rows }) ∧
    ∀ n, exec (.jridxWrite n) s = .next { s with fe := { s.fe with jridx := n } }) ∧
  (∀ s ctx a bs, readHome s ctx (a + 8) 8 = .ok bs → ∃ t, exec (.debugResume ctx a) s = .next t ∧ t = { s with subs := t.subs } ∧
    ∀ g u, s.subs.find? g = some u → let w := s.wg u.wg; let run := number bs
      t.sub g = if w.ctx = ctx ∧ w.id.toNat = run % 2 ^ 32 ∧ (run / 2 ^ (32 + u.index)) % 2 = 1 ∧
        (∃ b, debugOf s ctx (s.launch w.launch).lpb.rcb = some (b, a)) then { u with halted := false } else u) ∧
  (∀ s c, (nextSample (s.core c).sampled (liveOn s c) = none → exec (.pcSample c) s = .next s) ∧
    ∀ i g l, nextSample (s.core c).sampled (liveOn s c) = some (i, g, l) → ∃ t, exec (.pcSample c) s = .next t ∧ (t.core c).sampled = i ∧ t.subs = s.subs ∧
      (traced s 9 = false → t = s.setCore c { s.core c with sampled := i })) ∧
  ∀ s kind lane (pc data : Dword), let d := s.dbgr; let n := 2 ^ (d.trcLog.toNat % 32)
    let t := traceRecord s kind lane pc data
    let p := tierPlace d.trcBase + 32 * (d.trcWr.toNat % n)
    ((d.trcWr - d.trcRd).toNat = n → t = { s with dbgr := { d with trcLost := if d.trcLost = 0xffffffff then d.trcLost else d.trcLost + 1 } }) ∧
    ((d.trcWr - d.trcRd).toNat ≠ n → t.dbgr = { d with trcWr := d.trcWr + 1 } ∧
      let bs := (List.range 32).map fun i => t.homeByte (p + i)
      dwordAt bs 0 = s.etime ∧ wordAt bs 8 = BitVec.ofNat 32 lane ∧ fieldAt bs 0x0c 1 = kind % 256 ∧ fieldAt bs 0x0d 3 = 0 ∧ dwordAt bs 0x10 = pc ∧ dwordAt bs 0x18 = data)

/-- R8, R202, R225, R305, R333, R334, R343, R344, R345, R372: an error is logged, and what cannot be corrected faults from then on, is fetched or walked again, poisons an
engine, or ends its domains; a unit that no store has reached reads as zero and does not fault. Where a clause goes beyond
the words of spec/, it is the model's choice: log 18, log 40, log 58. -/
def Obligations.ErrorsAreLoggedAndConfined : Prop :=
  (∀ s kind u, ∃ t, exec (.softError kind u true) s = .next t ∧ Logged s t (errorPlace s kind.toNat u).1 (errorPlace s kind.toNat u).2 0 0) ∧
  (∀ s u, ∀ tier < 2, u < 2 ^ 51 → let p := tier * 2 ^ 56 + 32 * u
    ∃ t q, exec (.softError (BitVec.ofNat 4 tier) u false) s = .next t ∧ Logged s q (tierWord p) (memUnit s p) 1 0 ∧ t = { q with bad := t.bad } ∧
      ∀ v, v ∈ t.bad ↔ (v = p / 32 ∧ p / 4096 ∈ s.written) ∨ v ∈ s.bad) ∧
  (∀ s u, u < 2 ^ 60 → (∃ t, exec (.softError 2 u false) s = .next t ∧ Logged s t (tierWord (8 * u)) (homeDie s (8 * u) * 2 ^ 12 + 2 * 2 ^ 8) 0 0) ∧
    ∀ k < 256, ∃ t, exec (.softError 3 (k * 2 ^ 76 + u) false) s = .next t ∧ Logged s t (tierWord (8 * u)) (s.dieOf k * 2 ^ 12 + 3 * 2 ^ 8 + k) 0 0) ∧
  (∀ s kind u n, kind = 2 ∨ kind = 3 → u < 2 ^ 60 → 0 < n → n < 2 ^ 16 → ∃ t, exec (.softError kind (n * 2 ^ 60 + u) false) s = .next t ∧
    ∀ l ∈ t.fe.launches, l.2.ctx ≠ n) ∧
  (∀ s u g, s.wgs.find? (u / 2 ^ 16) = some g → ∃ t, exec (.softError 4 u false) s = .next t ∧ t.wg (u / 2 ^ 16) = { g with bad := u % 2 ^ 16 :: g.bad } ∧ SameBytes s t) ∧
  (∀ s c i, c < 4096 → i < 256 → ∃ t, exec (.softError 6 (256 * c + i) false) s = .next t ∧ t.core c = { s.core c with tlb := (s.core c).tlb.eraseIdx i } ∧ SameBytes s t ∧
    ∀ e, (s.core c).tlb[i]? = some e → e ∉ (t.cluster (clusterOf c)).tlb) ∧
  (∀ s k i, i < 4096 → ∃ t, exec (.softError 6 (2 ^ 20 + 4096 * k + i) false) s = .next t ∧ t.cluster k = { s.cluster k with tlb := (s.cluster k).tlb.eraseIdx i } ∧
    t.cores = s.cores ∧ SameBytes s t) ∧
  (∀ s u, ∃ t, exec (.softError 7 u false) s = .next t ∧
    ∀ v, v ∈ t.bad ↔ (4 * u ≤ v ∧ v < 4 * u + 4) ∨ v ∈ s.bad) ∧
  (∀ s u e, (s.fe.estates.filter fun e => e.place == .holder (u / 2 ^ 20))[u % 2 ^ 20]? = some e → ∃ t, exec (.softError 8 u false) s = .next t ∧ t.subs = s.subs ∧
    t.fe = { s.fe with estates := s.fe.estates.map fun o => if e.same o then { o with bad := true } else o }) ∧
  (∀ s c, let e := s.engine c
    (∀ i < 8, ∃ t, exec (.softError 9 (16 * c + i) false) s = .next t ∧ t.subs = s.subs ∧
      t.engine c = if (e.tiles.get i {}).used then { e with tiles := e.tiles.set i (nanTile c), merr := true } else e) ∧
    (∃ t, exec (.softError 9 (16 * c + 8) false) s = .next t ∧ (t.engine c).shadow = { e.shadow with valid := false, failed := true } ∧ (t.engine c).active = e.active ∧
      (e.actx = e.wctx → (t.engine c).merr = true) ∧ (e.actx ≠ e.wctx → (t.engine c).merr = e.merr)) ∧
    ∃ t, exec (.softError 9 (16 * c + 9) false) s = .next t ∧ (t.engine c).active = { e.active with bad := true } ∧ (t.engine c).shadow = e.shadow ∧
      (e.actx = e.wctx → (t.engine c).merr = true) ∧ (e.actx ≠ e.wctx → (t.engine c).merr = e.merr)) ∧
  ∀ s u, u < 2 ^ 52 → tierOf (32 * u) < 2 →
    (∃ t, exec (.patrolScrub u 1) s = .next t ∧ Logged s t (tierWord (32 * u)) (memUnit s (32 * u)) 0 0) ∧
    (u ∉ s.bad → ∃ t q, exec (.patrolScrub u 2) s = .next t ∧ Logged s q (tierWord (32 * u)) (memUnit s (32 * u)) 1 0 ∧
      t = { q with bad := if 32 * u / 4096 ∈ s.written then u :: s.bad else s.bad }) ∧
    (u ∈ s.bad → exec (.patrolScrub u 2) s = .next s) ∧ exec (.patrolScrub u 0) s = .next s

/-- R340, R341, R342: a request to invalidate translations, of the control window's set or of the firmware policy core's, runs, or sets ERR, and drops what lies in its range
from every TLB of the cores and the clusters. Where a clause goes beyond
the words of spec/, it is the model's choice: log 45. -/
def Obligations.InvalidationDropsTheTranslationsOfItsRange : Prop :=
  (∀ s, hostUp s = true → let x := s.xinv; let legal : Prop := x.ctx.toNat < 2 ^ 16 ∧ x.va.toNat < 2 ^ 56 ∧ x.va.toNat % 4096 = 0
    (x.busy = true → exec .xinvCtlGo s = .next s) ∧
    (x.busy = false → legal → exec .xinvCtlGo s = .next { s with xinv := { x with busy := true, err := false }, agenda := s.agenda ++ [.event .invalidationComplete] }) ∧
    (x.busy = false → ¬ legal → exec .xinvCtlGo s = .next { s with xinv := { x with err := true } })) ∧
  let drops (s t : State) (x : Xinv) : Prop :=
    let out (e : TlbEnt) : Prop := e.ctx = x.ctx.toNat ∧ (x.pages = 0 ∨ x.va.toNat < e.va + 2 ^ e.log ∧ e.va < x.va.toNat + 4096 * x.pages.toNat)
    (∀ c, t.core c = { s.core c with tlb := (t.core c).tlb } ∧ ∀ e, e ∈ (t.core c).tlb ↔ e ∈ (s.core c).tlb ∧ ¬ out e) ∧
    ∀ k, t.cluster k = { s.cluster k with tlb := (t.cluster k).tlb } ∧ ∀ e, e ∈ (t.cluster k).tlb ↔ e ∈ (s.cluster k).tlb ∧ ¬ out e
  (∀ s, s.xinv.busy = true → ∃ t, exec .invalidationComplete s = .next t ∧
    t = { s with xinv := { s.xinv with busy := false }, cores := t.cores, clusters := t.clusters } ∧ drops s t s.xinv) ∧
  ∀ s, s.xinv.busy = false → s.fwXinv.busy = true → ∃ t, exec .invalidationComplete s = .next t ∧
    t = { s with fwXinv := { s.fwXinv with busy := false }, cores := t.cores, clusters := t.clusters } ∧ drops s t s.fwXinv

/-! ### The host link, the fabric and management -/

namespace Sys2Proof.Machine.Claim

/-- Bytes stored at home from `p` on: every other byte there is as it was (R186). -/
def StoredHome (s t : State) (p n : Nat) (v : Nat) : Prop :=
  (∀ i < n, (t.homeByte (p + i)).toNat = v / 256 ^ i % 256) ∧ ∀ q, (q < p ∨ p + n ≤ q) → t.homeByte q = s.homeByte q
/-- The number at home. -/
def homeNumber (s : State) (p n : Nat) : Nat := number ((List.range n).map fun i => s.homeByte (p + i))
/-- A request of the host or the sideband is answered, and nothing else happens (R186, R368, R374). -/
def Answers (s : State) (r : Reply) (o : Out) : Prop := o = .next (answer s r)
/-- The answer to a read is the bytes, eight to an entry, the lowest first; `s` is the machine with whatever else the read has done (R186). -/
def Delivers (s : State) (bs : List Byte) (o : Out) : Prop :=
  o = .next { s with link := { s.link with reads := s.link.reads ++ (List.range ((bs.length + 7) / 8)).map fun i => .data (BitVec.ofNat 64 (number ((bs.drop (8 * i)).take 8))) } }
/-- Nothing runs, and the memory of the device is empty, as after a reset of the main power domain; the memory of the host, without the lines that the device held modified,
the log of errors and ETIME stay (R371, R372). -/
structure Emptied (s t : State) : Prop where
  units : t.subs = [] ∧ t.wgs = [] ∧ t.cores = [] ∧ t.clusters = [] ∧ t.cmds = [] ∧ t.prefetches = [] ∧ t.spilled = [] ∧ t.opaques = [] ∧ t.unsent = [] ∧ t.written = [] ∧
    t.dbgr = {} ∧ t.xinv = {} ∧ t.fwXinv = {} ∧ t.link.lines = []
  front : t.fe = { saved := t.fe.saved } ∧ t.fe.saved.keys = s.fe.saved.keys
  faulting : t.bad = (revertLines s).bad.filter fun u => tierOf (32 * u) == 2
  device : ∀ p, isRemote p = false → tierOf p ≠ 2 → t.homeByte p = 0
  host : ∀ p, isRemote p = false → tierOf p = 2 → t.homeByte p = (revertLines s).sy.read p
  dies : ∀ d < 4, (t.die d).dcode = 6 ∧ (t.die d).lcode = 9 ∧ (t.die d).cyc = 0 ∧ (t.die d).scyc = 0 ∧ (t.die d).relockD = none ∧ (t.die d).relockL = none
  exports : t.fabric.exports = []

/-- Launch `q` of a quiesced machine `r` has been saved, its `image` at byte `used` of the link-loss area, where LLSIZE has room for it, or faulted with LINKDOWN, and QFAIL
says so; `m` is the machine then, and the next image goes to byte `n`. A store of the image that faults ends the fault domain (R364, R373). -/
def SavedOrFaulted (r m : State) (q used n : Nat) (image : List Byte) : Prop :=
  let p := tierPlace r.link.llArea + used
  let gone : Prop := m.fe.launches.find? q = none ∧ ∀ w ∈ m.wgs, w.2.launch ≠ q
  (r.link.llSize.toNat < used + image.length → n = used ∧ gone ∧ m.link.qfail = true ∧
    ∀ e, r.fe.entries.find? q = some e → e.graph = none → Ended r m q e 4 0 0x0c 0) ∧
  (used + image.length ≤ r.link.llSize.toNat →
    (∀ f, writePlace r p image = .error f → n = used ∧ gone) ∧
    ∀ w, writePlace r p image = .ok w → n = used + image.length ∧ gone ∧ m.link.qfail = r.link.qfail ∧
      (∀ e, r.fe.entries.find? q = some e → e.graph = none → Ended r m q e 6 0 0 0 ∧
        (Apart r q p image.length → p + image.length ≤ 2 ^ 58 → ∀ i < image.length, m.homeByte (p + i) = image.getD i 0)))
/-- The launches `qs` have been stopped one after the other, each at an instruction boundary, and saved from byte `used` on, or faulted; `t` is the machine then (R373). -/
def Quiesces (t : State) : State → Nat → List Nat → Prop
  | s, _, [] => t = s
  | s, used, q :: qs => match s.fe.launches.find? q with
    | none => Quiesces t s used qs
    | some l =>
      let r := quietLaunch s q
      let e := readEstates r (carried r q l (spareRegions r l.ctx))
      if (r.fe.launches.find? q).isNone || (e.1.fe.launches.find? q).isNone then Quiesces t e.1 used qs
      else ∃ m n, SavedOrFaulted e.1 m q used n (saving e.1 q e.2).2 ∧ Quiesces t m n qs

/-- A port that carries flits: the package has it, and it is trained (R386, R388). -/
def Carries (s : State) (p : Nat) : Prop := p < 128 ∧ p ≠ s.fabric.id % 64 ∧ 2 ≤ (s.port p).state.toNat
/-- The machine with a port as `y`. -/
def withPort (s : State) (p : Nat) (y : Port) : State := { s with fabric := { s.fabric with ports := s.fabric.ports.set p y } }
/-- The machine `q` with a request sent, under its own id, by the port on which it goes to its package now; without one it waits at port `p` (R389, R393). -/
def sentAgain (q : State) (p : Nat) (f : Flit) (pkg line : Nat) : State := match q.route pkg line with
  | some k => withPort q k ((q.port k).send q.etime f)
  | none => withPort q p { q.port p with queue := (q.port p).queue ++ [f] }
/-- The port, which stood as `y`, is down, and the error log says so; a request among its flits goes by another path (R388, R393). -/
def GoesDown (s : State) (p : Nat) (y : Port) (o : Out) : Prop :=
  ∃ q t, o = .next t ∧ Logged (withPort s p { y with state := 0, replays := 0, asks := 0, sent := [], queue := [] }) q (BitVec.ofNat 64 p) (10 * 2 ^ 8 + p) 1 0 ∧
    t = { q with fabric := { q.fabric with ports := t.fabric.ports } } ∧ ((∀ f ∈ y.sent ++ y.queue, f.to_ = none) → t = q) ∧
    ∀ f pkg line, y.sent ++ y.queue = [f] → f.to_ = some (pkg, line) → t = sentAgain q p f pkg line
/-- A port after a flit taken in order: the flit next in order is the one behind it, and a request holds its credit until it is drained (R387). -/
def taken (x : Port) (vc : Nat) : Port :=
  { x with rxSeq := x.rxSeq + 1, replays := 0, state := 2
           credits := if vc = 0 then x.credits.set 0 (x.credits.get 0 0 - 1) else x.credits
           waiting := if vc = 0 then x.waiting.set 0 (x.waiting.get 0 0 + 1) else x.waiting }
/-- A subgroup's thread waits for another package with an atomic or a release, and has for 10 ms (R393). -/
def LateStore (s : State) (g : Nat) (th : Thread) : Prop :=
  (∃ k a d, th.wait = .answer true k a d ∧ d.toNat + 10000000 ≤ s.etime.toNat) ∨
  ∃ S d, th.wait = .release S ∧ unacknowledged s (s.sub g).core S = true ∧ s.fabric.owed.find? g = some d ∧ d.toNat + 10000000 ≤ s.etime.toNat

end Sys2Proof.Machine.Claim

/-- R5, R341, R348, R362, R369, R370, R378, R384, R391: the registers that the host writes; it writes none while the device cannot be reached, and a read-only one ignores the write. Where a clause goes beyond
the words of spec/, it is the model's choice: log 19. -/
def Obligations.RegisterWritesFollowTheirAccess : Prop :=
  ∀ s, (hostUp s = false → ∀ off size v, exec (.registerWrite off size v) s = .next s) ∧
    (hostUp s = true →
      let link (off size : Nat) (v : Dword) (f : Link) : Prop := exec (.registerWrite off size v) s = .next { s with link := f }
      let debug (off size : Nat) (v : Dword) (f : Debug) : Prop := exec (.registerWrite off size v) s = .next { s with dbgr := f }
      (∀ v : Dword, link 0x108 8 v { s.link with llArea := v } ∧ link 0x110 8 v { s.link with llSize := v } ∧
        link 0x200 8 v { s.link with bar2Base := BitVec.ofNat 64 (v.toNat % 2 ^ 52) } ∧
        (s.xinv.busy = false → exec (.registerWrite 0x2000 4 v) s = .next { s with xinv := { s.xinv with ctx := loOf v } } ∧
          exec (.registerWrite 0x2008 8 v) s = .next { s with xinv := { s.xinv with va := v } } ∧
          exec (.registerWrite 0x2010 4 v) s = .next { s with xinv := { s.xinv with pages := loOf v } }) ∧
        (s.xinv.busy = true → ∀ off size, 0x2000 ≤ off → off < 0x201c → exec (.registerWrite off size v) s = .next s) ∧
        debug 0x6300 8 v { s.dbgr with trcBase := v } ∧ debug 0x630c 4 v { s.dbgr with trcCtl := loOf v &&& 0xffff } ∧ debug 0x6318 8 v { s.dbgr with trcRd := v } ∧
        debug 0x6010 4 v { s.dbgr with done := s.dbgr.done && !(v.getLsbD 3), err := s.dbgr.err && !(v.getLsbD 2) } ∧
        (s.dbgr.busy = false → debug 0x6008 8 v { s.dbgr with seq := v } ∧ debug 0x6004 4 v { s.dbgr with wg := loOf v } ∧
          debug 0x6000 4 v { s.dbgr with ctx := loOf v &&& 0xffff }) ∧
        ((∀ q ∈ s.fe.queues, q.2.enable = false) → v.toNat / 2 ^ 62 ≤ 1 → v.toNat % 2 ^ 52 % (64 * 2 ^ s.fe.jlog.toNat) = 0 →
          exec (.registerWrite 0x3000 8 v) s = .next { s with fe := { s.fe with jbase := v, jset := true } }) ∧
        ((∃ q ∈ s.fe.queues, q.2.enable = true) → exec (.registerWrite 0x3000 8 v) s = .next s ∧ exec (.registerWrite 0x3008 4 v) s = .next s) ∧
        (∀ off ∈ [0x10, 0x100, 0x3010, 0x3018, 0x4000, 0x6100, 0x6310, 0x8000, 0xa000], ∀ size, exec (.registerWrite off size v) s = .next s)) ∧
      (∀ (v : Dword) q, q < 256 → let x := s.queue q; let at_ (o : Nat) : Nat := 0x10000 + 64 * q + o
        let put (o size : Nat) (y : Queue) : Prop := exec (.registerWrite (at_ o) size v) s = .next { s with fe := { s.fe with queues := s.fe.queues.set q y } }
        (x.enable = true → ∀ o size, o < 64 → o ≠ 0x0c → exec (.registerWrite (at_ o) size v) s = .next s) ∧
        (x.enable = false → put 0 8 { x with base := v } ∧ put 8 4 { x with log := loOf v } ∧ put 0x10 8 { x with rcb := v } ∧ put 0x18 8 { x with map := v } ∧
          put 0x20 8 { x with widx := v })) ∧
      (∀ (v : Dword) w, w < 16 → let x := s.window w; let at_ (o : Nat) : Nat := 0x901000 + 32 * w + o
        let put (o size : Nat) (y : Export) : Prop := exec (.registerWrite (at_ o) size v) s = .next { s with fabric := { s.fabric with exports := s.fabric.exports.set w y } }
        (x.opened = false → x.busy = false → put 0 8 { x with base := v } ∧ put 8 8 { x with size := v } ∧ put 16 4 { x with key := loOf v }) ∧
        let q := s.setWindow w { x with err := x.err && !(v.getLsbD 3), wprot := if v.getLsbD 0 then x.wprot else v.getLsbD 1 }
        exec (.registerWrite (at_ 20) 4 v) s = exec (if v.getLsbD 0 then .expCtlOpen w (v.getLsbD 1) else .expCtlClose w) q) ∧
      (∀ w b, w < 16 → let x := s.window w
        let put (y : Export) : State := { s with fabric := { s.fabric with exports := s.fabric.exports.set w y } }
        exec (.expCtlOpen w b) s = .next (put (if exportOk s x then { x with opened := true, wprot := b, err := false } else { x with err := true })) ∧
        (x.opened = true → exec (.expCtlClose w) s = .next { put { x with opened := false, busy := true } with
          agenda := s.agenda ++ [.event (.exportCloseComplete w)] }) ∧
        (x.opened = false → exec (.expCtlClose w) s = .next s) ∧
        (x.busy = true → exec (.exportCloseComplete w) s = .next (put { x with busy := false })) ∧ (x.busy = false → exec (.exportCloseComplete w) s = .next s)) ∧
      (s.link.linkState = 3 → exec .devCtlResume s = .next { s with link := { s.link with linkState := 0 } }) ∧
      (s.link.linkState ≠ 3 → exec .devCtlResume s = .next s))

/-- R3, R186, R334, R367, R368, R370, R374: what the host and the sideband read and write of the device. Where a clause goes beyond
the words of spec/, it is the model's choice: log 34, log 40. -/
def Obligations.HostAccessesReachTheHomeOfTheirLine : Prop :=
  ∀ s, (hostUp s = true → ∀ off n, let a := s.link.bar2Base.toNat + off
      let inside : Prop := off + n ≤ 2 ^ s.link.bar2Log ∧ a + n ≤ s.tierSize 0
      (¬ inside → Answers s .unsupported (exec (.bar2Read off n) s) ∧ ∀ v, exec (.bar2Write off n v) s = .next s) ∧
      (inside → (s.badAt a n = false → Delivers s (s.homeBytes a n) (exec (.bar2Read off n) s)) ∧
        (s.badAt a n = true → ∃ q, Logged s q (tierWord a) (memUnit s a) 1 0 ∧ Answers q .abort (exec (.bar2Read off n) s))) ∧
      (inside → n ≤ 64 → ∀ v : BitVec 512, ∃ t, exec (.bar2Write off n v) s = .next t ∧ StoredHome s t a n v.toNat ∧ t.subs = s.subs) ∧
      (∀ wide, n = (if wide then 8 else 4) → off % n = 0 → ∀ (op : BitVec 2) (x y : Dword), op ≠ 3 →
        (¬ inside → Answers s .unsupported (exec (.hostAtomicop off wide op x y) s)) ∧
        (inside → s.badAt (a / 128 * 128) 128 = true → ∃ q, Logged s q (tierWord a) (memUnit s a) 1 0 ∧ Answers q .abort (exec (.hostAtomicop off wide op x y) s)) ∧
        (inside → s.badAt (a / 128 * 128) 128 = false →
          let old := homeNumber s a n
          let new := if op = 0 then (old + x.toNat) % 2 ^ (8 * n) else if op = 1 then x.toNat % 2 ^ (8 * n) else if old = x.toNat % 2 ^ (8 * n) then y.toNat % 2 ^ (8 * n) else old
          ∃ t, exec (.hostAtomicop off wide op x y) s = .next t ∧ t.link.reads = s.link.reads ++ [.data (BitVec.ofNat 64 old)] ∧ StoredHome s t a n new)) ∧
      (30 ≤ n → n ≤ 40 → exec (.resizableBarResize n) s = .next { s with link := { s.link with bar2Log := n } }) ∧
      (n < 30 ∨ 40 < n → exec (.resizableBarResize n) s = .next s) ∧
      ∀ p, isRemote p = false → (tierOf p = 0 ∨ tierOf p = 2) →
        (s.tierSize (tierOf p) < tierAddr p + n → ∀ v, Answers s .unsupported (exec (.cxlMemRequest false p n v) s) ∧ exec (.cxlMemRequest true p n v) s = .next s) ∧
        (tierAddr p + n ≤ s.tierSize (tierOf p) → ∀ v : BitVec 512,
          (s.badAt p n = false → tierOf p = 0 → Delivers s (s.homeBytes p n) (exec (.cxlMemRequest false p n v) s)) ∧
          (s.badAt p n = false → tierOf p = 2 → ∃ q, q = { s with link := { s.link with lines := q.link.lines } } ∧
            (∀ k ∈ q.link.lines, k ∈ s.link.lines ∧ ∀ i < n, (p + i) / 64 ≠ k.1) ∧
            Delivers q ((List.range n).map fun i => s.sy.read (p + i)) (exec (.cxlMemRequest false p n v) s)) ∧
          (s.badAt p n = true → ∃ q, Logged s q (tierWord p) (memUnit s p) 1 0 ∧ Answers q .abort (exec (.cxlMemRequest false p n v) s)) ∧
          (n ≤ 64 → ∃ t, exec (.cxlMemRequest true p n v) s = .next t ∧ StoredHome s t p n v.toNat))) ∧
    (∀ off n, (∀ i < n, sideReadable s (off + i) = true ∨ 2 ^ 24 ≤ off + i) → (∀ p, journalBad s ((List.range n).map fun i => off + i) = some p →
      ∃ q, Logged s q (tierWord p) (memUnit s p) 1 0 ∧ Answers q .error (exec (.sidebandRead off n) s)) ∧
      (journalBad s ((List.range n).map fun i => off + i) = none → ∃ q, q = { s with errSeen := q.errSeen } ∧
      (∀ k, k ∈ q.errSeen ↔ k ∈ s.errSeen ∨ ∃ i < n, 0x8000 ≤ off + i ∧ off + i < 0xa000 ∧ k = (off + i - 0x8000) / 32) ∧
      Delivers q ((List.range n).map fun i => sideByte s (off + i)) (exec (.sidebandRead off n) s))) ∧
    (∀ offs p, journalBad s offs = some p → s.badAt p 1 = true ∧ s.fe.jset = true ∧ ∃ off ∈ offs,
      (2 ^ 24 ≤ off ∧ p = journalLoc s ((off - 2 ^ 24) / 64) + (off - 2 ^ 24) % 64) ∨
      (0x3040 ≤ off ∧ off < 0x3080 ∧ p = journalLoc s s.fe.jridx.toNat + (off - 0x3040))) ∧
    (∀ off n, (∃ i < n, sideReadable s (off + i) = false ∧ off + i < 2 ^ 24) → Answers s .error (exec (.sidebandRead off n) s)) ∧
    windowWord s 0x10 = BitVec.ofNat 32 ((if s.g9140 then 0x91403880 else 0x920040c0) + s.stepping.toNat) ∧
    windowWord s 0x100 = BitVec.ofNat 32 ((if s.link.bringUp = .ready then 1 else 0) + 2 ^ 4 * s.link.qfail.toNat + 2 ^ 5 * s.link.flr.toNat + 2 ^ 6 * s.link.linkState.toNat +
      2 ^ 8 * s.link.therm.toNat)

/-- R334, R387, R388, R390 to R393: a flit is taken, replayed or discarded; a request of another package that waits at a port is drained, and performed where an open window
admits it; answers are kept, and requests that time out end as R393 says. Where a clause goes beyond
the words of spec/, it is the model's choice: log 4, log 14, log 39. -/
def Obligations.TheFabricServesOpenWindows : Prop :=
  (∀ s p head payload check, Carries s p → let x := s.port p; let vc := flitChannel head
    (flitGood head payload check = false → let y : Port := { x with crc := x.crc + 1, replays := x.replays + 1, state := 3 }
      (x.replays < 16 → exec (.flitReceive p head payload check) s = .next (withPort s p (y.send s.etime { vc := 2, kind := 1, payload := x.rxSeq.setWidth 448 }))) ∧
      (16 ≤ x.replays → GoesDown s p y (exec (.flitReceive p head payload check) s))) ∧
    (flitGood head payload check = true → flitSeq head ≠ x.rxSeq ∨ 3 ≤ vc ∨ x.credits.get vc 0 = 0 → exec (.flitReceive p head payload check) s = .next s) ∧
    (flitGood head payload check = true → flitSeq head = x.rxSeq → vc < 3 → x.credits.get vc 0 ≠ 0 → x.asks < 17 →
      let o := exec (.flitReceive p head payload check) s
      let field (i : Nat) : BitVec 16 := (payload >>> (16 * i)).setWidth 16
      (vc ≠ 2 ∨ (flitType head ≠ 0 ∧ flitType head ≠ 1) → o = .next (withPort s p (taken x vc))) ∧
      (vc = 2 → flitType head = 0 → let n := (field 0).toNat
        o = .next (withPort s p (({ taken x vc with
          sent := x.sent.drop n, ackAt := if n = 0 then x.ackAt else s.etime, asks := if n = 0 then x.asks else 0
          txCredits := [(0, x.txCredits.get 0 0 + (field 1).toNat), (1, x.txCredits.get 1 0 + (field 2).toNat), (2, x.txCredits.get 2 0 + (field 3).toNat)] } : Port).drain s.etime))) ∧
      (vc = 2 → flitType head = 1 → let y : Port := { taken x vc with asked := field 0, asks := if x.asked = field 0 then x.asks + 1 else 1 }
        (y.asks < 17 → o = .next (withPort s p y)) ∧ (17 ≤ y.asks → GoesDown s p y o)))) ∧
  (∀ (x : Port) (now : Dword) (f : Flit), let y := x.send now f
    (x.txCredits.get f.vc 0 = 0 ∨ (∃ g ∈ x.queue, g.vc = f.vc) → y = { x with queue := x.queue ++ [f] }) ∧
    (x.txCredits.get f.vc 0 ≠ 0 → (∀ g ∈ x.queue, g.vc ≠ f.vc) →
      y = { x with txCredits := y.txCredits, sent := y.sent, txSeq := x.txSeq + 1, ackAt := if x.sent = [] then now else x.ackAt } ∧
      (∀ vc, y.txCredits.get vc 0 = x.txCredits.get vc 0 - if vc = f.vc then 1 else 0) ∧ y.sent.length ≤ 512 ∧ y.sent.getLast? = some { f with seq := x.txSeq } ∧
      (x.sent.length < 512 → y.sent = x.sent ++ [{ f with seq := x.txSeq }])) ∧
    (x.queue = [] → x.drain now = x) ∧ (x.queue = [f] → x.drain now = ({ x with queue := [] } : Port).send now f)) ∧
  (∀ s p head payload check, ¬ Carries s p → exec (.flitReceive p head payload check) s = .next s) ∧
  (∀ s port id key (op : BitVec 5) p size (v : BitVec 1024), let o := exec (.remoteRequest (port, id) key op p size v) s
    let x := s.port port
    let n := remoteSize op size
    let q := withPort s port (let y : Port := { x with waiting := x.waiting.set 0 (x.waiting.get 0 0 - 1), credits := x.credits.set 0 (x.credits.get 0 0 + 1) }
      if x.state.toNat < 2 then y else y.send s.etime { vc := 1, payload := Config.flitPayload id s.ticks })
    let keeps (r : Option (List Byte)) : Tbl (Option (List Byte) × Dword) := s.fabric.kept.set id (r, s.etime)
    (x.waiting.get 0 0 = 0 → o = .next s) ∧
    (x.waiting.get 0 0 ≠ 0 → isRemote p = false → n ≤ 128 → op.toNat ≤ 18 →
      (s.fabric.kept.find? id ≠ none → o = .next q) ∧
      (s.fabric.kept.find? id = none → admits s key (op != 0) p n = false ∨ remoteBad s op p n = true →
        o = .next { q with fabric := { q.fabric with kept := keeps none } }) ∧
      (s.fabric.kept.find? id = none → admits s key (op != 0) p n = true → remoteBad s op p n = false → p + n ≤ 2 ^ 58 →
        let from_ := id / 2 ^ 32
        let mine (y : Nat × Loc × Byte) : Prop := y.1 = from_ ∧ p ≤ y.2.1 ∧ y.2.1 < p + n
        ∃ t r, o = .next t ∧ t.fabric = { q.fabric with kept := keeps (some r), carried := t.fabric.carried } ∧ t.subs.keys = s.subs.keys ∧ t.cores.keys = s.cores.keys ∧
          (op.toNat < 17 → t.fabric.carried = s.fabric.carried) ∧
          (op = 0 → r = (List.range n).map (fun i => s.sy.read (p + i)) ∧ t = { q with fabric := t.fabric }) ∧
          (op = 1 → r = [] ∧ StoredHome s t p n v.toNat) ∧
          (op = 17 → r = [] ∧ t = { q with fabric := t.fabric } ∧
            ∀ y, y ∈ t.fabric.carried ↔ (y ∈ s.fabric.carried ∧ ¬ mine y) ∨ ∃ i < n, y = (from_, p + i, BitVec.ofNat 8 (v.toNat / 256 ^ i))) ∧
          (op = 18 → r = [] ∧ (∀ y, y ∈ t.fabric.carried ↔ y ∈ s.fabric.carried ∧ ¬ mine y) ∧
            (∀ a, (∀ y ∈ s.fabric.carried, mine y → y.2.1 ≠ a) → t.homeByte a = s.homeByte a) ∧
            ((s.fabric.carried.map fun y => (y.1, y.2.1)).Nodup → ∀ y ∈ s.fabric.carried, mine y → t.homeByte y.2.1 = y.2.2)) ∧
          ∀ A, 2 ≤ op.toNat → atomics[op.toNat - 2]? = some A → let old := BitVec.ofNat 64 (homeNumber s p A.size)
            r = s.homeBytes p A.size ∧ StoredHome s t p A.size (A.f old (v.setWidth 64) ((v >>> 64).setWidth 64)).toNat))) ∧
  (∀ s id, let due : Prop := ∃ r at_, s.fabric.kept.find? id = some (r, at_) ∧ at_.toNat + 1000000 ≤ s.etime.toNat
    (due → ∃ t, exec (.responseRetentionExpiry id) s = .next t ∧ t = { s with fabric := { s.fabric with kept := t.fabric.kept } } ∧
      ∀ k, t.fabric.kept.find? k = if k = id then none else s.fabric.kept.find? k) ∧
    (¬ due → exec (.responseRetentionExpiry id) s = .next s)) ∧
  ∀ s g u, s.subs.find? g = some u → u.threads.keys.Nodup →
    (∃ t, exec (.remoteTimeout g false) s = .next t ∧ t = { s with subs := t.subs } ∧ (∀ k, k ≠ g → t.sub k = s.sub k) ∧ t.sub g = { u with threads := (t.sub g).threads } ∧
      ∀ l th, u.threads.find? l = some th →
        (∀ k a d, th.wait = .answer false k a d → d.toNat + 10000000 ≤ s.etime.toNat → (t.sub g).threads.find? l = some { th with wait := .late k }) ∧
        ((∀ k a d, th.wait = .answer false k a d → s.etime.toNat < d.toNat + 10000000) → (t.sub g).threads.find? l = some th)) ∧
    ((∃ l th, u.threads.find? l = some th ∧ LateStore s g th) →
      ∃ t, exec (.remoteTimeout g true) s = .next t ∧ ∀ l ∈ t.fe.launches, ¬ (l.2.ctx = (s.launchOf g).ctx ∧ l.2.fdom = (s.launchOf g).fdom)) ∧
    ((∀ l th, u.threads.find? l = some th → ¬ LateStore s g th) → exec (.remoteTimeout g true) s = .next s)

/-- R374, R375: sensors, effecters and the cooling policy. Where a clause goes beyond
the words of spec/, it is the model's choice: log 4, log 36, log 37, log 40. -/
def Obligations.SidebandEffectersAndCooling : Prop :=
  ∀ s, let limit := if s.g9140 then 3200 else 3600
    let x := s.link
    Answers s (.data (BitVec.ofNat 64 x.therm.toNat)) (exec (.pldmSensorRead 4) s) ∧ Answers s (.data (BitVec.ofNat 64 x.linkState.toNat)) (exec (.pldmSensorRead 5) s) ∧
    (∀ i : BitVec 3, i.toNat < 4 → exec (.pldmSensorRead i) s = .next { s with draw := s.draw + 1, link := { x with reads := x.reads ++ [.data (Config.freeValue s.draw)] } }) ∧
    (∀ w, (1200 ≤ w → w ≤ limit → exec (.powerCapEffecter w) s =
        .next { s with link := { x with cap := w, therm := if 2 ≤ x.therm.toNat then x.therm else if w < limit then 1 else 0 } }) ∧
      (w < 1200 ∨ limit < w → exec (.powerCapEffecter w) s = .next s)) ∧
    (∀ n, exec (.firmwareUpdate n) s = .next { s with link := { x with firmware := x.firmware + n } }) ∧
    ∀ d, d < 4 → x.bringUp ≠ .off → ∃ t, exec (.thermalThrottle d) s = .next t ∧ t.link = { x with therm := 2 } ∧ t.dies = s.dies ∧
      t.agenda = s.agenda ++ (if (s.die d).dcode = 0 then [] else [.event (.dvfsStep d false ((s.die d).dcode - 1))]) ++
        (if (s.die d).lcode = 0 then [] else [.event (.dvfsStep d true ((s.die d).lcode - 1))])

/-- R319, R325, R371, R372, R374, R375, R376, R394: what power, bring-up, the time of the grandmaster and each kind of reset make of the package. Where a clause goes beyond
the words of spec/, it is the model's choice: log 13, log 34, log 35, log 38, log 39, log 41. -/
def Obligations.ResetsAndBringUp : Prop :=
  (∀ s, s.link.bringUp ≠ .off →
    exec .perstDeassert s = .next { s with link := { s.link with config := true }, agenda := s.agenda ++ [.event .bringupReady] } ∧
    (s.link.flr = true → exec .functionLevelReset s = .next s ∧ exec .resetEffecter s = .next s) ∧
    (s.link.flr = false → ∃ q, exec .functionLevelReset s = .next q ∧ exec .resetEffecter s = .next q ∧ q = { s with link := { s.link with flr := true }, dies := q.dies } ∧
      ∀ d < 4, let t := s.ticks + 2000 * tickNs
        q.die d = { s.die d with relockD := some { until_ := s.etime + 2000, code := 6 }, relockL := some { until_ := s.etime + 2000, code := 9 }, edgeD := t, edgeL := t
                                 wantD := none, wantL := none })) ∧
  (∀ s, s.link.flr = true → ∃ t, exec .flrComplete s = .next t ∧ Emptied s t ∧ t.ticks = s.ticks ∧ t.etime = s.etime ∧ t.errLog = s.errLog ∧ t.errSeq = s.errSeq ∧ t.link.flr = false ∧
    t.link.linkState = (if s.link.linkState = 3 then 0 else s.link.linkState) ∧ t.link.bringUp = s.link.bringUp ∧ t.link.therm = s.link.therm ∧ t.link.cap = s.link.cap ∧ ∀ d < 4, (t.die d).log = (s.die d).log ∧ (t.die d).dsteps = (s.die d).dsteps) ∧
  (∀ s, ∃ t, exec .coldResetEffecter s = .next t ∧ Emptied s t ∧ t.ticks = s.ticks ∧ t.etime = s.etime ∧ t.fabric.ports = [] ∧ t.errLog = s.errLog ∧ t.link.bringUp = .training ∧ t.link.config = false) ∧
  (∀ s, ∃ t q, exec .thermalTrip s = .next t ∧ Logged s q 0 0 2 0 ∧ Emptied s t ∧ t.errLog = q.errLog ∧ t.errSeq = q.errSeq ∧ t.ticks = s.ticks ∧ t.etime = s.etime ∧ t.fabric.ports = [] ∧ t.link.bringUp = .off ∧
    t.link.therm = 3) ∧
  (∀ s g, s.link.bringUp = .off → ∃ t, exec (.powerOn g) s = .next t ∧ Emptied s t ∧ t.etime = g.getD 0 ∧ t.errLog = [] ∧ t.errSeq = 0 ∧ t.link.bringUp = .training ∧
    t.fabric.free = g.isNone ∧ t.fabric.lock = g.isSome) ∧
  (∀ s, s.link.bringUp = .training → s.link.config = true → exec .bringupReady s = .next { s with
    link := { s.link with bringUp := .ready }, fabric := { s.fabric with gm := some (s.fabric.gm.getD 0), timed := true } }) ∧
  (∀ s (o : Int) b, let first : Prop := b = true ∧ s.fabric.timed = false ∧ s.link.bringUp = .training
    let message (k : Nat) (x : Port) (t : State) : Port := if s.portUp k then x.send t.etime { vc := 2, kind := 2, payload := Config.flitPayload k t.ticks } else x
    (¬ first → ∃ t, exec (.ptpMessage o b) s = .next t ∧ t = { s with fabric := { s.fabric with
        ports := t.fabric.ports, toff := BitVec.ofInt 64 o, free := !b, lock := b && decide (-100 ≤ o ∧ o ≤ 100), slew := if b then -(o * tickNs) else 0 } } ∧
      (s.fabric.ports.keys.Nodup → ∀ k, t.fabric.ports.find? k = (s.fabric.ports.find? k).map fun x => message k x s)) ∧
    (first → ∃ t, exec (.ptpMessage o b) s = .next t ∧ t.etime = s.etime - BitVec.ofInt 64 o ∧
      t = { s with ticks := t.ticks, dies := t.dies, fabric := { s.fabric with
        timed := true, toff := BitVec.ofInt 64 o, free := false, lock := true, skew := 0, slew := 0, ports := t.fabric.ports, kept := t.fabric.kept } } ∧
      (s.fabric.ports.keys.Nodup → ∀ k, t.fabric.ports.find? k = (s.fabric.ports.find? k).map fun x => message k { x with ackAt := x.ackAt - BitVec.ofInt 64 o } t) ∧
      (∀ k, t.fabric.kept.find? k = (s.fabric.kept.find? k).map fun r => (r.1, r.2 - BitVec.ofInt 64 o)) ∧
      ∀ d, (t.die d).cyc = (s.die d).cyc ∧ (t.die d).scyc = (s.die d).scyc ∧ (t.die d).dcode = (s.die d).dcode ∧ (t.die d).lcode = (s.die d).lcode)) ∧
  (∀ s d b, d < 4 → s.link.bringUp ≠ .off → (if b then (s.die d).relockL else (s.die d).relockD) = none → ∃ t, exec (.clockCycle d b) s = .next t ∧
    let most : Int := ((t.ticks - s.ticks) / 20000 : Nat)
    t.fabric.skew + t.fabric.slew = s.fabric.skew + s.fabric.slew ∧ -most ≤ t.fabric.skew - s.fabric.skew ∧ t.fabric.skew - s.fabric.skew ≤ most ∧
      (-most ≤ s.fabric.slew → s.fabric.slew ≤ most → t.fabric.slew = 0)) ∧
  (∀ s, s.link.lines = [] → revertLines s = s) ∧
  ∀ s n (x : HostLine), s.link.lines = [(n, x)] → x.was.length = 64 → ∀ p, (revertLines s).sy.read p = if p / 64 = n then x.was.getD (p % 64) 0 else s.sy.read p

/-- R373, R388, R389: the link lost without warning, with the lines of host memory that were held modified, the quiesce that saves or faults every launch, and the link back;
and a fabric port that goes down when no flit is acknowledged for 10 µs, and trains again. Where a clause goes beyond
the words of spec/, it is the model's choice: log 13, log 34, log 39. -/
def Obligations.LinkLossQuiescesAndReturns : Prop :=
  (∀ s, s.link.bringUp ≠ .off → s.link.linkState.toNat % 3 = 0 →
    (s.link.lines = [] → exec .surpriseLinkLoss s = .next { s with link := { s.link with linkState := 1 }, agenda := s.agenda ++ [.event .quiesceComplete] }) ∧
    ∃ t, exec .surpriseLinkLoss s = .next t ∧ t.link.linkState = 1 ∧ t.link.lines = [] ∧ t.agenda.getLast? = some (.event .quiesceComplete) ∧
      ∀ l ∈ t.fe.launches, ∀ k ∈ s.link.lines, l.2.ctx ∉ k.2.owners) ∧
  (∀ s, s.link.linkState = 1 → ∃ t u, exec .quiesceComplete s = .next t ∧ t.link = { u.link with linkState := 2 } ∧ t.fe = u.fe ∧ t.fe.launches = [] ∧ SameBytes u t ∧
    let r := ((s.fe.launches.map fun p => p.2.ctx).eraseDups).foldl spillContext s
    Quiesces u { r with link := { r.link with qfail := false } } 0 r.fe.launches.keys) ∧
  (∀ s, s.link.linkState = 2 → exec .linkRetrain s = .next { s with link := { s.link with linkState := 3 } }) ∧
  (∀ s, s.link.linkState ≠ 0 → ∀ q, takes s (s.queue q) = false) ∧
  ∀ s p, let x := s.port p
    let due : Prop := Carries s p ∧ x.sent ≠ [] ∧ x.ackAt.toNat + 10000 ≤ s.etime.toNat
    (due → GoesDown s p x (exec (.ackTimeout p) s)) ∧ (¬ due → exec (.ackTimeout p) s = .next s) ∧
    ∀ a b, let legal : Prop := p < 128 ∧ p ≠ s.fabric.id % 64 ∧ x.state = 1 ∧ a = (if p < 64 then s.fabric.id / 64 * 64 + p else p - 64) ∧
        if p < 64 then b = s.fabric.id % 64 else b < 128
      (legal →
        let up (s : State) : State := withPort s p { x with
          state := 2, peer := a, pport := b, rxSeq := 0, txSeq := 0, replays := 0, asks := 0, sent := [], queue := []
          credits := [(0, Config.portCredits 0 - x.waiting.get 0 0), (1, Config.portCredits 1 - x.waiting.get 1 0), (2, Config.portCredits 2 - x.waiting.get 2 0)]
          txCredits := [(0, Config.portCredits 0), (1, Config.portCredits 1), (2, Config.portCredits 2)] }
        (heldFlits s = [] → exec (.portRetrainComplete p a b) s = .next (up s)) ∧
        (∃ t, exec (.portRetrainComplete p a b) s = .next t ∧ t = { s with fabric := { s.fabric with ports := t.fabric.ports } }) ∧
        ∀ k f pkg line, heldFlits s = [(k, f)] → f.to_ = some (pkg, line) → exec (.portRetrainComplete p a b) s = .next (sentAgain
          (up { s with fabric := { s.fabric with ports := s.fabric.ports.map fun y => (y.1, if s.portUp y.1 then y.2 else { y.2 with queue := [] }) } }) k f pkg line)) ∧
      (¬ legal → exec (.portRetrainComplete p a b) s = .next s)

/-! ### The whole machine -/

/-- R222: `mzero` clears a tile. -/
def Obligations.MzeroClearsItsTile : Prop :=
  ∀ s x (n : BitVec 3), Uniform s x → OwnsEngine s x true false → (isL x.core = true → n.toNat ≤ 3) → ∃ t, exec (.mzero n) s = .next t ∧
    let e := (s.core x.core).engine
    let f := (t.core x.core).engine
    let tile := f.tiles.get n.toNat {}
    tile.used = false ∧ (∀ k, tile.acc.get k 0 = 0 ∧ tile.part.get k (.fin 0) = .fin 0) ∧ tile.cpos = 0 ∧
      (∀ m, m ≠ n.toNat → f.tiles.get m {} = e.tiles.get m {}) ∧ f.nan = e.nan ∧ f.ovf = e.ovf ∧ f.merr = e.merr ∧ f.active = e.active ∧ f.shadow = e.shadow ∧
      ∀ l ∈ x.lanes, ((x.sub t).thread l).tstat = ((x.sub s).thread l).tstat ∧ ((x.sub t).thread l).pc = x.pc s + 4

/-- R56: a needle executes only group 0x06 words; any other word stops it, and so does a needle word that breaks the rules of its encoding, an `n.step` with a dimension above 5
among them; no thread takes ILL for it. -/
def Obligations.ANeedleExecutesOnlyNeedleWords : Prop :=
  ∀ s c n w slot, Turns s c n w slot → ∀ word : Word,
    (∀ i, word.extractLsb' 25 7 = 0x66 → decode word = .ok i → rowOfNeedle word = i) ∧
    (word.extractLsb' 25 7 ≠ 0x66 ∨ (∀ i, decode word ≠ .ok i) → (s.needle c n).pc < codeSize s w → s.subsOf w ≠ [] →
      ∃ t, exec (rowOfNeedle word) s = .next t ∧ (t.needle c n).stopped = some 9 ∧ (t.needle c n).pc = (s.needle c n).pc ∧ (t.needle c n).n = (s.needle c n).n ∧
        ∀ g, (t.sub g).traps = (s.sub g).traps) ∧
    (∀ (g : BitVec 2) (i : BitVec 8), 5 < i.toNat → s.subsOf w ≠ [] → ∃ t, exec (.nStep g i) s = .next t ∧ (t.needle c n).stopped = some 9 ∧
      (t.needle c n).pc = (s.needle c n).pc ∧ (t.needle c n).n = (s.needle c n).n ∧ ∀ g, (t.sub g).traps = (s.sub g).traps) ∧
    ∀ z, decode (0xcdf00000 ||| BitVec.setWidth 32 (z : BitVec 20)) = .error .reserved

/-- R4, R38: words written out from the encodings of spec/ decode to the instructions they stand for; a group or an opcode that is reserved is refused. -/
def Obligations.WrittenWordsDecode : Prop :=
  decode 0x00004103 = .ok (.addI32 false false 1 2 3) ∧ decode 0x0d01c103 = .ok (.sel false false 7 2 3) ∧ decode 0x18004103 = .ok (.faddF32 false false 1 2 3) ∧
  decode 0xa0870005 = .ok (.bz 7 5) ∧ decode 0x6c004000 = .ok (.join 1) ∧ decode 0x60004103 = .ok (.shfl false 1 2 3) ∧
  decode 0x71800000 = .ok .exit ∧ decode 0xc0400000 = .ok .tfence ∧ decode 0xc620030c = .ok (.nctlRetry 6 12) ∧ decode 0xcd112002 = .ok (.nLdB32 1 2 2) ∧
  decode 0xc800050c = .ok (.oscan 10 12) ∧ decodeBytes [0x03, 0x41, 0x00, 0x00, 0xff] = .ok (.addI32 false false 1 2 3) ∧ decodeBytes [0x03, 0x41, 0x00] = .error .short ∧
  decode 0xce000000 = .error .reserved

/-- R38, R39, R49 to R54: decoding the word of an instruction gives the instruction back, with every operand at every value; the rows that an operand selects under another
row's word give that row; and every word that decodes is the word of what it decodes to. -/
def Obligations.EncodingRoundTrips : Prop :=
  (∀ i w, encode i = some w → i.sharesWord = false → decode w = .ok i) ∧
  (∀ (a b : BitVec 7) w, encode (.mldwTable a b) = some w → decode w = .ok (.mldw a b)) ∧
  (∀ (a b : BitVec 7) w, (encode (.nctlSkip a b) = some w ∨ encode (.nctlAbort a b) = some w ∨ encode (.nctlExtend a b) = some w) → decode w = .ok (.nctlRetry a b)) ∧
  (∀ i, (encode i).isSome = true ∨ ∃ e : Event, e.instr = i) ∧
  ∀ w i, decode w = .ok i → encode i = some w

/-- R66, R160, R184, R240, R325, and the model's agenda (log 3): a step performs the head of the agenda, an event or one of the model's own steps of outside agents, and keeps an
event whose clock a relock holds until the relock ends; else the unit in turn takes a trap that is due or performs the row that its next word stands for. -/
def Obligations.AStepRunsTheDecodedInstruction : Prop :=
  (∀ s e rest, s.agenda = .event e :: rest →
    step s = if heldEvent s e then .next { s with agenda := rest, parked := s.parked ++ [e] } else exec e.instr { s with agenda := rest }) ∧
  (∀ s a rest, s.agenda = .aside a :: rest → step s = performAside { s with agenda := rest } a) ∧
  (∀ s c r v x q w, s.agenda = [] → nextUnit s = some (.row c r) → let u : State := { s with turn := .row c r }
    (midRun u c r = true → rowNext u c r = (u, .issue)) ∧
    (∀ g, rowNext u c r = (v, .trap g) → step s = exec (.trapEntry g) v) ∧
    (∀ g, rowNext u c r = (v, .async g) → step s = exec (.asyncTrapEntry g) v) ∧ (∀ g, rowNext u c r = (v, .continuation g) → step s = exec (.continuationEntry g) v) ∧
    (rowNext u c r = (v, .reread) → step s = exec (.pollReread c r) (v.modRow c r fun y => { y with spent := some 3 })) ∧
    (rowNext u c r = (v, .issue) → v.issuing = some x → fetchWord v x = (q, none) → step s = .next q) ∧
    (rowNext u c r = (v, .issue) → v.issuing = some x → fetchWord v x = (q, some w) →
      (∀ i, decode w = .ok i → step s = exec (selectRow q i) (useSlot q x w)) ∧ ((∀ i, decode w ≠ .ok i) → step s = exec (.reservedOpcode w) (useSlot q x w)) ∧
      (let b := q.row c r;
        (useSlot q x w).row c r = { b with spent := some (if (x.sub q).live = x.mask then 1 else 2), held := b.held ++ List.replicate (portCycles q x w - 1) 5 }) ∧ (q.row c r).word = w)) ∧
  (∀ s x q w, fetchWord s x = (q, some w) → ∀ v, (x.pc s).toNat % 4 = 0 → buffered (s.core x.core) (x.pc s) = some v → w = v) ∧
  (∀ s i, (∀ a b, i ≠ .mldw a b ∧ i ≠ .nctlRetry a b) → selectRow s i = i) ∧
  (∀ s x a b, s.issuing = some x → selectRow s (.mldw a b) = if ((x.sub s).sreg b.toNat).getLsbD 4 then .mldwTable a b else .mldw a b) ∧
  (∀ s x a b, s.issuing = some x → selectRow s (.nctlRetry a b) =
    match ((x.sub s).sreg a.toNat).toNat % 16 with
    | 1 => .nctlSkip a b
    | 2 => .nctlAbort a b
    | 3 => .nctlExtend a b
    | _ => .nctlRetry a b) ∧
  (∀ s c n w, s.agenda = [] → nextUnit s = some (.needle c n) → needleActive s c n = true → needleWord s c n = some w →
    let u : State := { s with turn := .needle c n }
    step s = exec (rowOfNeedle w) (u.setNeedle c n { s.needle c n with word := w, spent := true })) ∧
  ∀ s, s.agenda = [] → nextUnit s = none → (s.link.bringUp = .off → step s = .next s) ∧
    (s.link.bringUp ≠ .off → ∃ d b, step s = exec (.clockCycle d b) s)

/-- R28, R161, R318, R319, R348, R362, R368, R370, R389, R391: what reset leaves; the values that spec/ does not state are the model's (log 1, 2). -/
def Obligations.ResetLeavesTheStatedValues : Prop :=
  let s := State.reset
  (∀ d, (s.die d).dcode = 6 ∧ (s.die d).lcode = 9 ∧ (s.die d).cyc = 0 ∧ (s.die d).scyc = 0 ∧ (s.die d).dsteps = 0 ∧ (s.die d).relockD = none) ∧ s.etime = 0 ∧
  (∀ c, (s.core c).mode = 2 ∧ (s.core c).fairT = 4096 ∧ (s.core c).ctx = none ∧ (s.core c).lines = [] ∧ (s.core c).tlb = []) ∧
  (∀ q, s.queue q = {} ∧ windowWord s (0x10000 + 64 * (q % 256) + 0x0c) = 0 ∧ windowWord s (0x10000 + 64 * (q % 256) + 0x2c) = 0) ∧
  s.fe.jbase = 0 ∧ s.fe.jlog = 8 ∧ s.fe.jset = false ∧ s.fe.jseq = 0 ∧ s.fe.jridx = 0 ∧ s.link.bar2Base = 0 ∧ s.link.bar2Log = 30 ∧ s.link.linkState = 0 ∧
  windowWord s 0x100 = 0 ∧ windowWord s 0x2018 = 0 ∧ windowWord s 0x6010 = 0 ∧ windowWord s 0x6200 = 0 ∧ windowWord s 0xa000 = 0 ∧ windowWord s 0xa008 = 0 ∧
  (∀ w < 16, s.window w = {} ) ∧ (∀ p, s.port p = {}) ∧ s.subs = [] ∧ s.wgs = [] ∧ s.fe.launches = [] ∧ s.fe.estates = [] ∧ s.agenda = [] ∧
  (∀ p, s.pk.read p = 0 ∧ s.sy.read p = 0)

/-- The model's form of memory (log 5): reset memory has it. -/
def Obligations.ResetMemoryIsCanonical : Prop := State.reset.memOk = true ∧ State.reset.pk.stamps = [] ∧ ∀ c, (State.reset.core c).view.wf = true

/-- The model's form of memory (log 5): whatever a step does, global memory as published at pk and at sy stays in canonical form, its places strictly rising and no byte listed
that an unlisted place reads as. -/
def Obligations.EveryStepKeepsMemoryCanonical : Prop :=
  ∀ s t, s.memOk = true → step s = .next t → t.memOk = true

/-! ### Statements of several parts -/

/-- The integer words of the V class. -/
def Obligations.IntegerWordsGiveTheirResults : Prop :=
  IntegerPairWordsGiveR86Results ∧ AccumulatingIntegerWordsGiveR87Results ∧ OneOperandAndImmediateWordsGiveTheirResults

/-- The words on pairs, the scalar ALU words, the constant words and `wbase`. Where a clause goes beyond
the words of spec/, it is the model's choice: log 20. -/
def Obligations.PairScalarAndConstantWordsGiveTheirResults : Prop :=
  PairWordsGiveR91Results ∧ ScalarWordsGiveTheirVectorResults ∧ ConstantWordsAndWbase

/-- The floating-point words that compute: their exact value, rounded once. Where a clause goes beyond
the words of spec/, it is the model's choice: log 8, log 55. -/
def Obligations.FloatingPointWordsRoundTheExactValueOnce : Prop :=
  SinglePrecisionWordsRoundTheExactValueOnce ∧ TranscendentalWordsAreFixedFunctions ∧ PackedAndDoubleWordsRoundEachElementOnce ∧ RoundingFieldWordsFollowTheirField

/-- The rounding of an exact value, and the operands that have no finite exact value. -/
def Obligations.RoundingAndSpecialCasesFollowTheirRules : Prop :=
  RoundingModesChooseTheR75Neighbour ∧ SpecialFloatCasesGiveTheirCodesAndFlags

/-- The mask words and the wait on a knot. -/
def Obligations.MaskWordsAndWaitk : Prop :=
  MaskWordsWriteTheirMaskOnce ∧ WaitkBlocksUntilItsKnotIsMet

/-- The words whose members read each other. Where a clause goes beyond
the words of spec/, it is the model's choice: log 53. -/
def Obligations.ShufflesVotesAndReductionsCombineTheIssuingGroup : Prop :=
  ShufflesDeliverTheNamedMembersOperand ∧ VotesCountTheIssuingGroupOnly ∧ ReductionsCombineTheIssuingGroup

/-- Vector loads and stores, and their acquire and release forms. Where a clause goes beyond
the words of spec/, it is the model's choice: log 5, log 9, log 14, log 48, log 54. -/
def Obligations.LoadsAndStoresMoveTheirBytes : Prop :=
  LoadsExtendWhatTheCoreSees ∧ StoresWriteTheirBytesAndNoOthers ∧ AcquireLoadsAndReleaseStoresOrder

/-- The atomics. Where a clause goes beyond
the words of spec/, it is the model's choice: log 5, log 14, log 48. -/
def Obligations.AtomicsReadAndWriteAtHomeInMemberOrder : Prop :=
  AtomicsReplaceTheHomeValueInMemberOrder ∧ AnAtomicTurnIsReadAndWriteAtHome

/-- How an access finds its bytes, and the order in which its checks come. Where a clause goes beyond
the words of spec/, it is the model's choice: log 14, log 48. -/
def Obligations.AccessesAreLocatedAndCheckedInOrder : Prop :=
  LocatingAnAccessChangesNoByteButStashFills ∧ AccessChecksComeInR154Order

/-- What releases publish and acquires take in, and the phase words. Where a clause goes beyond
the words of spec/, it is the model's choice: log 5. -/
def Obligations.ReleasesAcquiresAndPhasesMoveStoresByScope : Prop :=
  ReleasesPublishAndAcquiresTakeInByScope ∧ PhaseWordsAndTheSubgroupFence

/-- The words on address ranges. Where a clause goes beyond
the words of spec/, it is the model's choice: log 48, log 58. -/
def Obligations.RangeWordsInvalidatePrefetchAndMap : Prop :=
  IcinvDropsTheLinesOfItsRanges ∧ PfrangeCountsInABatchOrArrivesOnABarrier ∧ StashWordsMapAndUnmapARange

/-- How members retire, hand off an estate and take one up. Where a clause goes beyond
the words of spec/, it is the model's choice: log 57. -/
def Obligations.MembersRetireAndEstatesAreDelivered : Prop :=
  ExitAndBoffRetireTheirMembers ∧ PickupDeliversTheClaimedEstates

/-- `srd` and `swr`. Where a clause goes beyond
the words of spec/, it is the model's choice: log 7. -/
def Obligations.SpecialRegistersAreReadAndWritten : Prop :=
  SrdDeliversTheNumberedRegister ∧ SwrWritesTheWritableBits

/-- What becomes of a word that is not legal, is retired or is reserved. Where a clause goes beyond
the words of spec/, it is the model's choice: log 11, log 48, log 58. -/
def Obligations.IllegalRetiredAndReservedWords : Prop :=
  IllegalVectorWordsRaiseIllInR55Order ∧ RetiredWordsArePerformedByFirmware ∧ ReservedWordsRaiseIllOrStopTheNeedle

/-- Entry into a handler, what its frame holds, and the return. Where a clause goes beyond
the words of spec/, it is the model's choice: log 58. -/
def Obligations.TrapsSaveRunTheirHandlerAndReturn : Prop :=
  TrapEntryRunsTheHandlerInTheMembers ∧ TrapFramesHoldTheR261Fields ∧ RftRestoresWhatTheFrameHolds

/-- How page-fault service, timed waits, re-reads and fetch fills end. Where a clause goes beyond
the words of spec/, it is the model's choice: log 44. -/
def Obligations.FaultServiceWaitsAndRereadsEnd : Prop :=
  FaultServiceWakesItsThreadsOrTrapsThem ∧ WaitsEndWhenTheirTimeHasCome ∧ RereadsAndFetchFills

/-- The words of a needle, and that no thread issues one. Where a clause goes beyond
the words of spec/, it is the model's choice: log 9. -/
def Obligations.NeedleWordsComputeLoadStoreAndSynchronize : Prop :=
  NeedleArithmeticAndBranches ∧ NeedleLoadsAndStores ∧ NeedleSynchronizationWords ∧ NeedleWordsAreIllegalInThreadCode

/-- The generators, and the words that copy through them. Where a clause goes beyond
the words of spec/, it is the model's choice: log 9. -/
def Obligations.GeneratorsAddressAndCopyWordsMove : Prop :=
  GeneratorsAdvanceAndAddress ∧ GeneratorAndCopyWords

/-- Needle commands: posted, taken up and controlled after a stop. -/
def Obligations.CommandsArePostedTakenAndControlled : Prop :=
  NpostPublishesAnEntryThatANeedleTakes ∧ NctlActsOnAStoppedCommand

/-- Waiting for batches and chunks, and a promise that is missed. -/
def Obligations.BatchesChunksAndPromisesEnd : Prop :=
  BatchesAndChunksAreWaitedFor ∧ AMissedPromiseRaisesPmissOnce

/-- The ownership of the matrix engine and its two weight planes. Where a clause goes beyond
the words of spec/, it is the model's choice: log 9, log 56, log 58. -/
def Obligations.MatrixOwnershipWeightsAndPlanes : Prop :=
  MatrixOwnershipIsTakenAndPassedOn ∧ WeightLoadsFillTheShadowPlane ∧ MswapExchangesThePlanes

/-- The arithmetic of the matrix engine and the words that drive it. Where a clause goes beyond
the words of spec/, it is the model's choice: log 9, log 58. -/
def Obligations.MatrixChunksStreamsAndReadouts : Prop :=
  ChunksAreExactAndRoundOnceWhenClosed ∧ StreamsReadoutsAndStatus

/-- Orrery maps, and the commands that change them. Where a clause goes beyond
the words of spec/, it is the model's choice: log 9, log 43. -/
def Obligations.OrreryMapsAndCommands : Prop :=
  OrreryMapsComposeAndKeepTheirEntries ∧ OrreryCommandsArePostedPerformedAndCounted ∧ OrreryOperationsWriteTheirResults

/-- The queue registers, the consumption of a slot and the journal. Where a clause goes beyond
the words of spec/, it is the model's choice: log 16, log 27. -/
def Obligations.QueuesTakeEntriesAndJournalThem : Prop :=
  QueueRegistersReserveEnableDrainAndWake ∧ ConsumingASlotAcceptsOrRefusesItsEntry ∧ JournalEntriesHoldTheR362Fields

/-- The barriers of workgroups and clusters, and the counted barriers. -/
def Obligations.BarriersPassWhenAllHaveArrived : Prop :=
  WorkgroupAndClusterBarriers ∧ CountedBarriersInitArriveAndWait

/-- The region commands of the queues. Where a clause goes beyond
the words of spec/, it is the model's choice: log 13, log 17, log 29, log 30, log 50. -/
def Obligations.RegionCommandsUpdateCreateDestroyAndCheckpoint : Prop :=
  RegionsAreUpdatedAndCreated ∧ RegionsAreDestroyedAndCheckpointed
end

