-- ==== Sys2Proof/Laws/Tables.lean ====
section
/-!
SUPPORT. What the operations of the sparse tables do: lookup after a change, and the canonical form.
-/

namespace Sys2Proof.Machine.Tbl
variable {α : Type}

theorem find?_del (t : Tbl α) (k j : Nat) : find? (del t k) j = if j = k then none else find? t j := by
  induction t with
  | nil => simp [del, find?]
  | cons p t ih =>
    obtain ⟨i, x⟩ := p
    by_cases h : i = k <;> by_cases g : i = j <;> simp_all [del, find?]

/-- What a lookup finds is listed. -/
theorem mem_of_find? {t : Tbl α} {k : Nat} {v : α} (h : find? t k = some v) : (k, v) ∈ t := by
  induction t with
  | nil => cases h
  | cons p t ih =>
    obtain ⟨i, x⟩ := p
    by_cases g : i = k
    · subst g; simp_all [find?]
    · exact .tail _ (ih (by simpa [find?, g] using h))

theorem find?_ins (t : Tbl α) (k j : Nat) (v : α) (h : find? t k = none) : find? (ins t k v) j = if j = k then some v else find? t j := by
  induction t with
  | nil => by_cases g : k = j <;> simp_all [ins, find?, eq_comm]
  | cons p t ih =>
    obtain ⟨i, x⟩ := p
    have hik : i ≠ k := by rintro rfl; simp [find?] at h
    have ht : find? t k = none := by simpa [find?, hik] using h
    by_cases hlt : k < i
    · by_cases g : k = j <;> simp_all [ins, find?, eq_comm]
    · have hi : ins ((i, x) :: t) k v = (i, x) :: ins t k v := by simp [ins, hlt]
      rw [hi]
      by_cases g : i = j
      · subst g; simp [find?, hik]
      · simp [find?, g, ih ht]

/-- Lookup after a value was put at `k`. -/
theorem find?_set (t : Tbl α) (k j : Nat) (v : α) : find? (set t k v) j = if j = k then some v else find? t j := by
  rw [set, find?_ins _ _ _ _ (by simp [find?_del]), find?_del]
  by_cases h : j = k <;> simp [h]

@[simp] theorem get_set_self (t : Tbl α) (k : Nat) (v d : α) : get (set t k v) k d = v := by simp [get, find?_set]

theorem get_set_ne (t : Tbl α) {k j : Nat} (v d : α) (h : j ≠ k) : get (set t k v) j d = get t j d := by simp [get, find?_set, h]

theorem get_set (t : Tbl α) (k j : Nat) (v d : α) : get (set t k v) j d = if j = k then v else get t j d := by
  by_cases h : j = k <;> simp [get, find?_set, h]

@[simp] theorem get_del_self (t : Tbl α) (k : Nat) (d : α) : get (del t k) k d = d := by simp [get, find?_del]

theorem get_del_ne (t : Tbl α) {k j : Nat} (d : α) (h : j ≠ k) : get (del t k) j d = get t j d := by simp [get, find?_del, h]

theorem find?_modify (t : Tbl α) (k j : Nat) (f : α → α) : find? (modify t k f) j = if j = k then (find? t j).map f else find? t j := by
  induction t with
  | nil => simp [modify, find?]
  | cons p t ih =>
    obtain ⟨i, x⟩ := p
    by_cases h : i = k <;> by_cases g : i = j <;> simp_all [modify, find?]

/-- Values mapped in place. -/
theorem find?_mapVals (t : Tbl α) (f : Nat → α → α) (j : Nat) : find? (t.map fun p => (p.1, f p.1 p.2)) j = (find? t j).map (f j) := by
  induction t with
  | nil => simp [find?]
  | cons p t ih =>
    obtain ⟨i, x⟩ := p
    by_cases g : i = j
    · subst g; simp [find?]
    · simpa [find?, g] using ih

theorem del_ins (t : Tbl α) (k : Nat) (v : α) : del (ins t k v) k = del t k := by
  induction t with
  | nil => simp [ins, del]
  | cons p t ih =>
    obtain ⟨i, x⟩ := p
    by_cases h : k < i
    · simp [ins, h, del]
    · simp only [ins, h, if_false, del, ih]

theorem del_del (t : Tbl α) (k : Nat) : del (del t k) k = del t k := by
  induction t with
  | nil => rfl
  | cons p t ih =>
    obtain ⟨i, x⟩ := p
    by_cases h : i = k <;> simp [del, h, ih]

@[simp] theorem set_set (t : Tbl α) (k : Nat) (v w : α) : set (set t k v) k w = set t k w := by simp [set, del_ins, del_del]

/-- The keys of a table are at least `n`, and rise: the form in which the canonical form is carried through an induction. -/
def above (n : Nat) : Tbl α → Bool
  | [] => true
  | (i, _) :: t => decide (n ≤ i) && above (i + 1) t

theorem sorted_cons (i : Nat) (x : α) (t : Tbl α) : sorted ((i, x) :: t) = above (i + 1) t := by
  induction t generalizing i x with
  | nil => simp [sorted, above]
  | cons p t ih => obtain ⟨j, y⟩ := p; rw [sorted, ih, above]; rfl

theorem sorted_eq_above (t : Tbl α) : sorted t = above 0 t := by
  cases t with
  | nil => simp [sorted, above]
  | cons p t => obtain ⟨i, x⟩ := p; rw [sorted_cons, above]; simp

theorem above_mono {n m : Nat} (t : Tbl α) (h : m ≤ n) (ha : above n t = true) : above m t = true := by
  cases t with
  | nil => rfl
  | cons p t => obtain ⟨i, x⟩ := p; simp [above] at *; exact ⟨by omega, ha.2⟩

theorem above_del (n k : Nat) (t : Tbl α) (h : above n t = true) : above n (del t k) = true := by
  induction t generalizing n with
  | nil => rfl
  | cons p t ih =>
    obtain ⟨i, x⟩ := p
    simp [above] at h
    by_cases e : i = k
    · simp only [del, e, if_true]; exact ih n (above_mono t (by omega) h.2)
    · simp [del, e, above, h.1, ih (i + 1) h.2]

theorem above_ins (n k : Nat) (v : α) (t : Tbl α) (hn : n ≤ k) (hk : find? t k = none) (h : above n t = true) : above n (ins t k v) = true := by
  induction t generalizing n with
  | nil => simp [ins, above, hn]
  | cons p t ih =>
    obtain ⟨i, x⟩ := p
    have hik : i ≠ k := by rintro rfl; simp [find?] at hk
    have ht : find? t k = none := by simpa [find?, hik] using hk
    simp [above] at h
    by_cases e : k < i
    · simp only [ins, e, if_true, above, Bool.and_eq_true, decide_eq_true_eq]
      exact ⟨hn, by omega, h.2⟩
    · simp only [ins, e, if_false, above, Bool.and_eq_true, decide_eq_true_eq]
      exact ⟨h.1, ih (i + 1) (by omega) ht h.2⟩

/-- Every change of a table keeps its canonical form. -/
theorem sorted_del (t : Tbl α) (k : Nat) (h : sorted t = true) : sorted (del t k) = true := by
  rw [sorted_eq_above] at *; exact above_del 0 k t h

theorem sorted_set (t : Tbl α) (k : Nat) (v : α) (h : sorted t = true) : sorted (set t k v) = true := by
  rw [sorted_eq_above] at *
  exact above_ins 0 k v _ (Nat.zero_le _) (by simp [find?_del]) (above_del 0 k t h)

theorem all_del (t : Tbl α) (k : Nat) (p : Nat × α → Bool) (h : t.all p = true) : (del t k).all p = true := by
  induction t with
  | nil => rfl
  | cons q t ih =>
    obtain ⟨i, x⟩ := q
    simp only [List.all_cons, Bool.and_eq_true] at h
    by_cases e : i = k
    · simpa [del, e] using ih h.2
    · simp only [del, e, if_false, List.all_cons, Bool.and_eq_true]; exact ⟨h.1, ih h.2⟩

theorem all_ins (t : Tbl α) (k : Nat) (v : α) (p : Nat × α → Bool) (hv : p (k, v) = true) (h : t.all p = true) : (ins t k v).all p = true := by
  induction t with
  | nil => simp [ins, hv]
  | cons q t ih =>
    obtain ⟨i, x⟩ := q
    simp only [List.all_cons, Bool.and_eq_true] at h
    by_cases e : k < i
    · simp only [ins, e, if_true, List.all_cons, Bool.and_eq_true]; exact ⟨hv, h.1, h.2⟩
    · simp only [ins, e, if_false, List.all_cons, Bool.and_eq_true]; exact ⟨h.1, ih h.2⟩

theorem all_set (t : Tbl α) (k : Nat) (v : α) (p : Nat × α → Bool) (hv : p (k, v) = true) (h : t.all p = true) : (set t k v).all p = true :=
  all_ins _ _ _ _ hv (all_del _ _ _ h)

end Sys2Proof.Machine.Tbl
end

