-- ==== Sys2Proof/Laws/State.lean ====
section
/-!
SUPPORT. The updates of the state, field by field, and what the accessors read after them.
-/

namespace Sys2Proof.Machine
namespace State

/-! ### setCore -/

@[simp] theorem setCore_g9140 (s : State) (c : Nat) (x : Core) : (s.setCore c x).g9140 = s.g9140 := rfl
@[simp] theorem setCore_stepping (s : State) (c : Nat) (x : Core) : (s.setCore c x).stepping = s.stepping := rfl
@[simp] theorem setCore_ticks (s : State) (c : Nat) (x : Core) : (s.setCore c x).ticks = s.ticks := rfl
@[simp] theorem setCore_dies (s : State) (c : Nat) (x : Core) : (s.setCore c x).dies = s.dies := rfl
@[simp] theorem setCore_clusters (s : State) (c : Nat) (x : Core) : (s.setCore c x).clusters = s.clusters := rfl
@[simp] theorem setCore_wgs (s : State) (c : Nat) (x : Core) : (s.setCore c x).wgs = s.wgs := rfl
@[simp] theorem setCore_subs (s : State) (c : Nat) (x : Core) : (s.setCore c x).subs = s.subs := rfl
@[simp] theorem setCore_cmds (s : State) (c : Nat) (x : Core) : (s.setCore c x).cmds = s.cmds := rfl
@[simp] theorem setCore_prefetches (s : State) (c : Nat) (x : Core) : (s.setCore c x).prefetches = s.prefetches := rfl
@[simp] theorem setCore_spilled (s : State) (c : Nat) (x : Core) : (s.setCore c x).spilled = s.spilled := rfl
@[simp] theorem setCore_opaques (s : State) (c : Nat) (x : Core) : (s.setCore c x).opaques = s.opaques := rfl
@[simp] theorem setCore_pk (s : State) (c : Nat) (x : Core) : (s.setCore c x).pk = s.pk := rfl
@[simp] theorem setCore_sy (s : State) (c : Nat) (x : Core) : (s.setCore c x).sy = s.sy := rfl
@[simp] theorem setCore_bad (s : State) (c : Nat) (x : Core) : (s.setCore c x).bad = s.bad := rfl
@[simp] theorem setCore_written (s : State) (c : Nat) (x : Core) : (s.setCore c x).written = s.written := rfl
@[simp] theorem setCore_errLog (s : State) (c : Nat) (x : Core) : (s.setCore c x).errLog = s.errLog := rfl
@[simp] theorem setCore_errSeq (s : State) (c : Nat) (x : Core) : (s.setCore c x).errSeq = s.errSeq := rfl
@[simp] theorem setCore_errLost (s : State) (c : Nat) (x : Core) : (s.setCore c x).errLost = s.errLost := rfl
@[simp] theorem setCore_errSeen (s : State) (c : Nat) (x : Core) : (s.setCore c x).errSeen = s.errSeen := rfl
@[simp] theorem setCore_fe (s : State) (c : Nat) (x : Core) : (s.setCore c x).fe = s.fe := rfl
@[simp] theorem setCore_link (s : State) (c : Nat) (x : Core) : (s.setCore c x).link = s.link := rfl
@[simp] theorem setCore_fabric (s : State) (c : Nat) (x : Core) : (s.setCore c x).fabric = s.fabric := rfl
@[simp] theorem setCore_dbgr (s : State) (c : Nat) (x : Core) : (s.setCore c x).dbgr = s.dbgr := rfl
@[simp] theorem setCore_xinv (s : State) (c : Nat) (x : Core) : (s.setCore c x).xinv = s.xinv := rfl
@[simp] theorem setCore_fwXinv (s : State) (c : Nat) (x : Core) : (s.setCore c x).fwXinv = s.fwXinv := rfl
@[simp] theorem setCore_parked (s : State) (c : Nat) (x : Core) : (s.setCore c x).parked = s.parked := rfl
@[simp] theorem setCore_fresh (s : State) (c : Nat) (x : Core) : (s.setCore c x).fresh = s.fresh := rfl
@[simp] theorem setCore_stamp (s : State) (c : Nat) (x : Core) : (s.setCore c x).stamp = s.stamp := rfl
@[simp] theorem setCore_unsent (s : State) (c : Nat) (x : Core) : (s.setCore c x).unsent = s.unsent := rfl
@[simp] theorem setCore_follows (s : State) (c : Nat) (x : Core) : (s.setCore c x).follows = s.follows := rfl
@[simp] theorem setCore_draw (s : State) (c : Nat) (x : Core) : (s.setCore c x).draw = s.draw := rfl
@[simp] theorem setCore_agenda (s : State) (c : Nat) (x : Core) : (s.setCore c x).agenda = s.agenda := rfl
@[simp] theorem setCore_turn (s : State) (c : Nat) (x : Core) : (s.setCore c x).turn = s.turn := rfl

/-! ### setCluster -/

@[simp] theorem setCluster_g9140 (s : State) (k : Nat) (x : Cluster) : (s.setCluster k x).g9140 = s.g9140 := rfl
@[simp] theorem setCluster_stepping (s : State) (k : Nat) (x : Cluster) : (s.setCluster k x).stepping = s.stepping := rfl
@[simp] theorem setCluster_ticks (s : State) (k : Nat) (x : Cluster) : (s.setCluster k x).ticks = s.ticks := rfl
@[simp] theorem setCluster_dies (s : State) (k : Nat) (x : Cluster) : (s.setCluster k x).dies = s.dies := rfl
@[simp] theorem setCluster_cores (s : State) (k : Nat) (x : Cluster) : (s.setCluster k x).cores = s.cores := rfl
@[simp] theorem setCluster_wgs (s : State) (k : Nat) (x : Cluster) : (s.setCluster k x).wgs = s.wgs := rfl
@[simp] theorem setCluster_subs (s : State) (k : Nat) (x : Cluster) : (s.setCluster k x).subs = s.subs := rfl
@[simp] theorem setCluster_cmds (s : State) (k : Nat) (x : Cluster) : (s.setCluster k x).cmds = s.cmds := rfl
@[simp] theorem setCluster_prefetches (s : State) (k : Nat) (x : Cluster) : (s.setCluster k x).prefetches = s.prefetches := rfl
@[simp] theorem setCluster_spilled (s : State) (k : Nat) (x : Cluster) : (s.setCluster k x).spilled = s.spilled := rfl
@[simp] theorem setCluster_opaques (s : State) (k : Nat) (x : Cluster) : (s.setCluster k x).opaques = s.opaques := rfl
@[simp] theorem setCluster_pk (s : State) (k : Nat) (x : Cluster) : (s.setCluster k x).pk = s.pk := rfl
@[simp] theorem setCluster_sy (s : State) (k : Nat) (x : Cluster) : (s.setCluster k x).sy = s.sy := rfl
@[simp] theorem setCluster_bad (s : State) (k : Nat) (x : Cluster) : (s.setCluster k x).bad = s.bad := rfl
@[simp] theorem setCluster_written (s : State) (k : Nat) (x : Cluster) : (s.setCluster k x).written = s.written := rfl
@[simp] theorem setCluster_errLog (s : State) (k : Nat) (x : Cluster) : (s.setCluster k x).errLog = s.errLog := rfl
@[simp] theorem setCluster_errSeq (s : State) (k : Nat) (x : Cluster) : (s.setCluster k x).errSeq = s.errSeq := rfl
@[simp] theorem setCluster_errLost (s : State) (k : Nat) (x : Cluster) : (s.setCluster k x).errLost = s.errLost := rfl
@[simp] theorem setCluster_errSeen (s : State) (k : Nat) (x : Cluster) : (s.setCluster k x).errSeen = s.errSeen := rfl
@[simp] theorem setCluster_fe (s : State) (k : Nat) (x : Cluster) : (s.setCluster k x).fe = s.fe := rfl
@[simp] theorem setCluster_link (s : State) (k : Nat) (x : Cluster) : (s.setCluster k x).link = s.link := rfl
@[simp] theorem setCluster_fabric (s : State) (k : Nat) (x : Cluster) : (s.setCluster k x).fabric = s.fabric := rfl
@[simp] theorem setCluster_dbgr (s : State) (k : Nat) (x : Cluster) : (s.setCluster k x).dbgr = s.dbgr := rfl
@[simp] theorem setCluster_xinv (s : State) (k : Nat) (x : Cluster) : (s.setCluster k x).xinv = s.xinv := rfl
@[simp] theorem setCluster_fwXinv (s : State) (k : Nat) (x : Cluster) : (s.setCluster k x).fwXinv = s.fwXinv := rfl
@[simp] theorem setCluster_parked (s : State) (k : Nat) (x : Cluster) : (s.setCluster k x).parked = s.parked := rfl
@[simp] theorem setCluster_fresh (s : State) (k : Nat) (x : Cluster) : (s.setCluster k x).fresh = s.fresh := rfl
@[simp] theorem setCluster_stamp (s : State) (k : Nat) (x : Cluster) : (s.setCluster k x).stamp = s.stamp := rfl
@[simp] theorem setCluster_unsent (s : State) (k : Nat) (x : Cluster) : (s.setCluster k x).unsent = s.unsent := rfl
@[simp] theorem setCluster_follows (s : State) (k : Nat) (x : Cluster) : (s.setCluster k x).follows = s.follows := rfl
@[simp] theorem setCluster_draw (s : State) (k : Nat) (x : Cluster) : (s.setCluster k x).draw = s.draw := rfl
@[simp] theorem setCluster_agenda (s : State) (k : Nat) (x : Cluster) : (s.setCluster k x).agenda = s.agenda := rfl
@[simp] theorem setCluster_turn (s : State) (k : Nat) (x : Cluster) : (s.setCluster k x).turn = s.turn := rfl

/-! ### setDie -/

@[simp] theorem setDie_g9140 (s : State) (d : Nat) (x : Die) : (s.setDie d x).g9140 = s.g9140 := rfl
@[simp] theorem setDie_stepping (s : State) (d : Nat) (x : Die) : (s.setDie d x).stepping = s.stepping := rfl
@[simp] theorem setDie_ticks (s : State) (d : Nat) (x : Die) : (s.setDie d x).ticks = s.ticks := rfl
@[simp] theorem setDie_clusters (s : State) (d : Nat) (x : Die) : (s.setDie d x).clusters = s.clusters := rfl
@[simp] theorem setDie_cores (s : State) (d : Nat) (x : Die) : (s.setDie d x).cores = s.cores := rfl
@[simp] theorem setDie_wgs (s : State) (d : Nat) (x : Die) : (s.setDie d x).wgs = s.wgs := rfl
@[simp] theorem setDie_subs (s : State) (d : Nat) (x : Die) : (s.setDie d x).subs = s.subs := rfl
@[simp] theorem setDie_cmds (s : State) (d : Nat) (x : Die) : (s.setDie d x).cmds = s.cmds := rfl
@[simp] theorem setDie_prefetches (s : State) (d : Nat) (x : Die) : (s.setDie d x).prefetches = s.prefetches := rfl
@[simp] theorem setDie_spilled (s : State) (d : Nat) (x : Die) : (s.setDie d x).spilled = s.spilled := rfl
@[simp] theorem setDie_opaques (s : State) (d : Nat) (x : Die) : (s.setDie d x).opaques = s.opaques := rfl
@[simp] theorem setDie_pk (s : State) (d : Nat) (x : Die) : (s.setDie d x).pk = s.pk := rfl
@[simp] theorem setDie_sy (s : State) (d : Nat) (x : Die) : (s.setDie d x).sy = s.sy := rfl
@[simp] theorem setDie_bad (s : State) (d : Nat) (x : Die) : (s.setDie d x).bad = s.bad := rfl
@[simp] theorem setDie_written (s : State) (d : Nat) (x : Die) : (s.setDie d x).written = s.written := rfl
@[simp] theorem setDie_errLog (s : State) (d : Nat) (x : Die) : (s.setDie d x).errLog = s.errLog := rfl
@[simp] theorem setDie_errSeq (s : State) (d : Nat) (x : Die) : (s.setDie d x).errSeq = s.errSeq := rfl
@[simp] theorem setDie_errLost (s : State) (d : Nat) (x : Die) : (s.setDie d x).errLost = s.errLost := rfl
@[simp] theorem setDie_errSeen (s : State) (d : Nat) (x : Die) : (s.setDie d x).errSeen = s.errSeen := rfl
@[simp] theorem setDie_fe (s : State) (d : Nat) (x : Die) : (s.setDie d x).fe = s.fe := rfl
@[simp] theorem setDie_link (s : State) (d : Nat) (x : Die) : (s.setDie d x).link = s.link := rfl
@[simp] theorem setDie_fabric (s : State) (d : Nat) (x : Die) : (s.setDie d x).fabric = s.fabric := rfl
@[simp] theorem setDie_dbgr (s : State) (d : Nat) (x : Die) : (s.setDie d x).dbgr = s.dbgr := rfl
@[simp] theorem setDie_xinv (s : State) (d : Nat) (x : Die) : (s.setDie d x).xinv = s.xinv := rfl
@[simp] theorem setDie_fwXinv (s : State) (d : Nat) (x : Die) : (s.setDie d x).fwXinv = s.fwXinv := rfl
@[simp] theorem setDie_parked (s : State) (d : Nat) (x : Die) : (s.setDie d x).parked = s.parked := rfl
@[simp] theorem setDie_fresh (s : State) (d : Nat) (x : Die) : (s.setDie d x).fresh = s.fresh := rfl
@[simp] theorem setDie_stamp (s : State) (d : Nat) (x : Die) : (s.setDie d x).stamp = s.stamp := rfl
@[simp] theorem setDie_unsent (s : State) (d : Nat) (x : Die) : (s.setDie d x).unsent = s.unsent := rfl
@[simp] theorem setDie_follows (s : State) (d : Nat) (x : Die) : (s.setDie d x).follows = s.follows := rfl
@[simp] theorem setDie_draw (s : State) (d : Nat) (x : Die) : (s.setDie d x).draw = s.draw := rfl
@[simp] theorem setDie_agenda (s : State) (d : Nat) (x : Die) : (s.setDie d x).agenda = s.agenda := rfl
@[simp] theorem setDie_turn (s : State) (d : Nat) (x : Die) : (s.setDie d x).turn = s.turn := rfl

/-! ### setSub -/

@[simp] theorem setSub_g9140 (s : State) (g : Nat) (x : Sub) : (s.setSub g x).g9140 = s.g9140 := rfl
@[simp] theorem setSub_stepping (s : State) (g : Nat) (x : Sub) : (s.setSub g x).stepping = s.stepping := rfl
@[simp] theorem setSub_ticks (s : State) (g : Nat) (x : Sub) : (s.setSub g x).ticks = s.ticks := rfl
@[simp] theorem setSub_dies (s : State) (g : Nat) (x : Sub) : (s.setSub g x).dies = s.dies := rfl
@[simp] theorem setSub_clusters (s : State) (g : Nat) (x : Sub) : (s.setSub g x).clusters = s.clusters := rfl
@[simp] theorem setSub_cores (s : State) (g : Nat) (x : Sub) : (s.setSub g x).cores = s.cores := rfl
@[simp] theorem setSub_wgs (s : State) (g : Nat) (x : Sub) : (s.setSub g x).wgs = s.wgs := rfl
@[simp] theorem setSub_cmds (s : State) (g : Nat) (x : Sub) : (s.setSub g x).cmds = s.cmds := rfl
@[simp] theorem setSub_prefetches (s : State) (g : Nat) (x : Sub) : (s.setSub g x).prefetches = s.prefetches := rfl
@[simp] theorem setSub_spilled (s : State) (g : Nat) (x : Sub) : (s.setSub g x).spilled = s.spilled := rfl
@[simp] theorem setSub_opaques (s : State) (g : Nat) (x : Sub) : (s.setSub g x).opaques = s.opaques := rfl
@[simp] theorem setSub_pk (s : State) (g : Nat) (x : Sub) : (s.setSub g x).pk = s.pk := rfl
@[simp] theorem setSub_sy (s : State) (g : Nat) (x : Sub) : (s.setSub g x).sy = s.sy := rfl
@[simp] theorem setSub_bad (s : State) (g : Nat) (x : Sub) : (s.setSub g x).bad = s.bad := rfl
@[simp] theorem setSub_written (s : State) (g : Nat) (x : Sub) : (s.setSub g x).written = s.written := rfl
@[simp] theorem setSub_errLog (s : State) (g : Nat) (x : Sub) : (s.setSub g x).errLog = s.errLog := rfl
@[simp] theorem setSub_errSeq (s : State) (g : Nat) (x : Sub) : (s.setSub g x).errSeq = s.errSeq := rfl
@[simp] theorem setSub_errLost (s : State) (g : Nat) (x : Sub) : (s.setSub g x).errLost = s.errLost := rfl
@[simp] theorem setSub_errSeen (s : State) (g : Nat) (x : Sub) : (s.setSub g x).errSeen = s.errSeen := rfl
@[simp] theorem setSub_fe (s : State) (g : Nat) (x : Sub) : (s.setSub g x).fe = s.fe := rfl
@[simp] theorem setSub_link (s : State) (g : Nat) (x : Sub) : (s.setSub g x).link = s.link := rfl
@[simp] theorem setSub_fabric (s : State) (g : Nat) (x : Sub) : (s.setSub g x).fabric = s.fabric := rfl
@[simp] theorem setSub_dbgr (s : State) (g : Nat) (x : Sub) : (s.setSub g x).dbgr = s.dbgr := rfl
@[simp] theorem setSub_xinv (s : State) (g : Nat) (x : Sub) : (s.setSub g x).xinv = s.xinv := rfl
@[simp] theorem setSub_fwXinv (s : State) (g : Nat) (x : Sub) : (s.setSub g x).fwXinv = s.fwXinv := rfl
@[simp] theorem setSub_parked (s : State) (g : Nat) (x : Sub) : (s.setSub g x).parked = s.parked := rfl
@[simp] theorem setSub_fresh (s : State) (g : Nat) (x : Sub) : (s.setSub g x).fresh = s.fresh := rfl
@[simp] theorem setSub_stamp (s : State) (g : Nat) (x : Sub) : (s.setSub g x).stamp = s.stamp := rfl
@[simp] theorem setSub_unsent (s : State) (g : Nat) (x : Sub) : (s.setSub g x).unsent = s.unsent := rfl
@[simp] theorem setSub_follows (s : State) (g : Nat) (x : Sub) : (s.setSub g x).follows = s.follows := rfl
@[simp] theorem setSub_draw (s : State) (g : Nat) (x : Sub) : (s.setSub g x).draw = s.draw := rfl
@[simp] theorem setSub_agenda (s : State) (g : Nat) (x : Sub) : (s.setSub g x).agenda = s.agenda := rfl
@[simp] theorem setSub_turn (s : State) (g : Nat) (x : Sub) : (s.setSub g x).turn = s.turn := rfl

/-! ### setWg -/

@[simp] theorem setWg_g9140 (s : State) (w : Nat) (x : Wg) : (s.setWg w x).g9140 = s.g9140 := rfl
@[simp] theorem setWg_stepping (s : State) (w : Nat) (x : Wg) : (s.setWg w x).stepping = s.stepping := rfl
@[simp] theorem setWg_ticks (s : State) (w : Nat) (x : Wg) : (s.setWg w x).ticks = s.ticks := rfl
@[simp] theorem setWg_dies (s : State) (w : Nat) (x : Wg) : (s.setWg w x).dies = s.dies := rfl
@[simp] theorem setWg_clusters (s : State) (w : Nat) (x : Wg) : (s.setWg w x).clusters = s.clusters := rfl
@[simp] theorem setWg_cores (s : State) (w : Nat) (x : Wg) : (s.setWg w x).cores = s.cores := rfl
@[simp] theorem setWg_subs (s : State) (w : Nat) (x : Wg) : (s.setWg w x).subs = s.subs := rfl
@[simp] theorem setWg_cmds (s : State) (w : Nat) (x : Wg) : (s.setWg w x).cmds = s.cmds := rfl
@[simp] theorem setWg_prefetches (s : State) (w : Nat) (x : Wg) : (s.setWg w x).prefetches = s.prefetches := rfl
@[simp] theorem setWg_spilled (s : State) (w : Nat) (x : Wg) : (s.setWg w x).spilled = s.spilled := rfl
@[simp] theorem setWg_opaques (s : State) (w : Nat) (x : Wg) : (s.setWg w x).opaques = s.opaques := rfl
@[simp] theorem setWg_pk (s : State) (w : Nat) (x : Wg) : (s.setWg w x).pk = s.pk := rfl
@[simp] theorem setWg_sy (s : State) (w : Nat) (x : Wg) : (s.setWg w x).sy = s.sy := rfl
@[simp] theorem setWg_bad (s : State) (w : Nat) (x : Wg) : (s.setWg w x).bad = s.bad := rfl
@[simp] theorem setWg_written (s : State) (w : Nat) (x : Wg) : (s.setWg w x).written = s.written := rfl
@[simp] theorem setWg_errLog (s : State) (w : Nat) (x : Wg) : (s.setWg w x).errLog = s.errLog := rfl
@[simp] theorem setWg_errSeq (s : State) (w : Nat) (x : Wg) : (s.setWg w x).errSeq = s.errSeq := rfl
@[simp] theorem setWg_errLost (s : State) (w : Nat) (x : Wg) : (s.setWg w x).errLost = s.errLost := rfl
@[simp] theorem setWg_errSeen (s : State) (w : Nat) (x : Wg) : (s.setWg w x).errSeen = s.errSeen := rfl
@[simp] theorem setWg_fe (s : State) (w : Nat) (x : Wg) : (s.setWg w x).fe = s.fe := rfl
@[simp] theorem setWg_link (s : State) (w : Nat) (x : Wg) : (s.setWg w x).link = s.link := rfl
@[simp] theorem setWg_fabric (s : State) (w : Nat) (x : Wg) : (s.setWg w x).fabric = s.fabric := rfl
@[simp] theorem setWg_dbgr (s : State) (w : Nat) (x : Wg) : (s.setWg w x).dbgr = s.dbgr := rfl
@[simp] theorem setWg_xinv (s : State) (w : Nat) (x : Wg) : (s.setWg w x).xinv = s.xinv := rfl
@[simp] theorem setWg_fwXinv (s : State) (w : Nat) (x : Wg) : (s.setWg w x).fwXinv = s.fwXinv := rfl
@[simp] theorem setWg_parked (s : State) (w : Nat) (x : Wg) : (s.setWg w x).parked = s.parked := rfl
@[simp] theorem setWg_fresh (s : State) (w : Nat) (x : Wg) : (s.setWg w x).fresh = s.fresh := rfl
@[simp] theorem setWg_stamp (s : State) (w : Nat) (x : Wg) : (s.setWg w x).stamp = s.stamp := rfl
@[simp] theorem setWg_unsent (s : State) (w : Nat) (x : Wg) : (s.setWg w x).unsent = s.unsent := rfl
@[simp] theorem setWg_follows (s : State) (w : Nat) (x : Wg) : (s.setWg w x).follows = s.follows := rfl
@[simp] theorem setWg_draw (s : State) (w : Nat) (x : Wg) : (s.setWg w x).draw = s.draw := rfl
@[simp] theorem setWg_agenda (s : State) (w : Nat) (x : Wg) : (s.setWg w x).agenda = s.agenda := rfl
@[simp] theorem setWg_turn (s : State) (w : Nat) (x : Wg) : (s.setWg w x).turn = s.turn := rfl

/-! ### setLaunch -/

@[simp] theorem setLaunch_g9140 (s : State) (l : Nat) (x : Launch) : (s.setLaunch l x).g9140 = s.g9140 := rfl
@[simp] theorem setLaunch_stepping (s : State) (l : Nat) (x : Launch) : (s.setLaunch l x).stepping = s.stepping := rfl
@[simp] theorem setLaunch_ticks (s : State) (l : Nat) (x : Launch) : (s.setLaunch l x).ticks = s.ticks := rfl
@[simp] theorem setLaunch_dies (s : State) (l : Nat) (x : Launch) : (s.setLaunch l x).dies = s.dies := rfl
@[simp] theorem setLaunch_clusters (s : State) (l : Nat) (x : Launch) : (s.setLaunch l x).clusters = s.clusters := rfl
@[simp] theorem setLaunch_cores (s : State) (l : Nat) (x : Launch) : (s.setLaunch l x).cores = s.cores := rfl
@[simp] theorem setLaunch_wgs (s : State) (l : Nat) (x : Launch) : (s.setLaunch l x).wgs = s.wgs := rfl
@[simp] theorem setLaunch_subs (s : State) (l : Nat) (x : Launch) : (s.setLaunch l x).subs = s.subs := rfl
@[simp] theorem setLaunch_cmds (s : State) (l : Nat) (x : Launch) : (s.setLaunch l x).cmds = s.cmds := rfl
@[simp] theorem setLaunch_prefetches (s : State) (l : Nat) (x : Launch) : (s.setLaunch l x).prefetches = s.prefetches := rfl
@[simp] theorem setLaunch_spilled (s : State) (l : Nat) (x : Launch) : (s.setLaunch l x).spilled = s.spilled := rfl
@[simp] theorem setLaunch_opaques (s : State) (l : Nat) (x : Launch) : (s.setLaunch l x).opaques = s.opaques := rfl
@[simp] theorem setLaunch_pk (s : State) (l : Nat) (x : Launch) : (s.setLaunch l x).pk = s.pk := rfl
@[simp] theorem setLaunch_sy (s : State) (l : Nat) (x : Launch) : (s.setLaunch l x).sy = s.sy := rfl
@[simp] theorem setLaunch_bad (s : State) (l : Nat) (x : Launch) : (s.setLaunch l x).bad = s.bad := rfl
@[simp] theorem setLaunch_written (s : State) (l : Nat) (x : Launch) : (s.setLaunch l x).written = s.written := rfl
@[simp] theorem setLaunch_errLog (s : State) (l : Nat) (x : Launch) : (s.setLaunch l x).errLog = s.errLog := rfl
@[simp] theorem setLaunch_errSeq (s : State) (l : Nat) (x : Launch) : (s.setLaunch l x).errSeq = s.errSeq := rfl
@[simp] theorem setLaunch_errLost (s : State) (l : Nat) (x : Launch) : (s.setLaunch l x).errLost = s.errLost := rfl
@[simp] theorem setLaunch_errSeen (s : State) (l : Nat) (x : Launch) : (s.setLaunch l x).errSeen = s.errSeen := rfl
@[simp] theorem setLaunch_link (s : State) (l : Nat) (x : Launch) : (s.setLaunch l x).link = s.link := rfl
@[simp] theorem setLaunch_fabric (s : State) (l : Nat) (x : Launch) : (s.setLaunch l x).fabric = s.fabric := rfl
@[simp] theorem setLaunch_dbgr (s : State) (l : Nat) (x : Launch) : (s.setLaunch l x).dbgr = s.dbgr := rfl
@[simp] theorem setLaunch_xinv (s : State) (l : Nat) (x : Launch) : (s.setLaunch l x).xinv = s.xinv := rfl
@[simp] theorem setLaunch_fwXinv (s : State) (l : Nat) (x : Launch) : (s.setLaunch l x).fwXinv = s.fwXinv := rfl
@[simp] theorem setLaunch_parked (s : State) (l : Nat) (x : Launch) : (s.setLaunch l x).parked = s.parked := rfl
@[simp] theorem setLaunch_fresh (s : State) (l : Nat) (x : Launch) : (s.setLaunch l x).fresh = s.fresh := rfl
@[simp] theorem setLaunch_stamp (s : State) (l : Nat) (x : Launch) : (s.setLaunch l x).stamp = s.stamp := rfl
@[simp] theorem setLaunch_unsent (s : State) (l : Nat) (x : Launch) : (s.setLaunch l x).unsent = s.unsent := rfl
@[simp] theorem setLaunch_follows (s : State) (l : Nat) (x : Launch) : (s.setLaunch l x).follows = s.follows := rfl
@[simp] theorem setLaunch_draw (s : State) (l : Nat) (x : Launch) : (s.setLaunch l x).draw = s.draw := rfl
@[simp] theorem setLaunch_agenda (s : State) (l : Nat) (x : Launch) : (s.setLaunch l x).agenda = s.agenda := rfl
@[simp] theorem setLaunch_turn (s : State) (l : Nat) (x : Launch) : (s.setLaunch l x).turn = s.turn := rfl

/-! ### post -/

@[simp] theorem post_g9140 (s : State) (es : List Event) : (s.post es).g9140 = s.g9140 := rfl
@[simp] theorem post_stepping (s : State) (es : List Event) : (s.post es).stepping = s.stepping := rfl
@[simp] theorem post_ticks (s : State) (es : List Event) : (s.post es).ticks = s.ticks := rfl
@[simp] theorem post_dies (s : State) (es : List Event) : (s.post es).dies = s.dies := rfl
@[simp] theorem post_clusters (s : State) (es : List Event) : (s.post es).clusters = s.clusters := rfl
@[simp] theorem post_cores (s : State) (es : List Event) : (s.post es).cores = s.cores := rfl
@[simp] theorem post_wgs (s : State) (es : List Event) : (s.post es).wgs = s.wgs := rfl
@[simp] theorem post_subs (s : State) (es : List Event) : (s.post es).subs = s.subs := rfl
@[simp] theorem post_cmds (s : State) (es : List Event) : (s.post es).cmds = s.cmds := rfl
@[simp] theorem post_prefetches (s : State) (es : List Event) : (s.post es).prefetches = s.prefetches := rfl
@[simp] theorem post_spilled (s : State) (es : List Event) : (s.post es).spilled = s.spilled := rfl
@[simp] theorem post_opaques (s : State) (es : List Event) : (s.post es).opaques = s.opaques := rfl
@[simp] theorem post_pk (s : State) (es : List Event) : (s.post es).pk = s.pk := rfl
@[simp] theorem post_sy (s : State) (es : List Event) : (s.post es).sy = s.sy := rfl
@[simp] theorem post_bad (s : State) (es : List Event) : (s.post es).bad = s.bad := rfl
@[simp] theorem post_written (s : State) (es : List Event) : (s.post es).written = s.written := rfl
@[simp] theorem post_errLog (s : State) (es : List Event) : (s.post es).errLog = s.errLog := rfl
@[simp] theorem post_errSeq (s : State) (es : List Event) : (s.post es).errSeq = s.errSeq := rfl
@[simp] theorem post_errLost (s : State) (es : List Event) : (s.post es).errLost = s.errLost := rfl
@[simp] theorem post_errSeen (s : State) (es : List Event) : (s.post es).errSeen = s.errSeen := rfl
@[simp] theorem post_fe (s : State) (es : List Event) : (s.post es).fe = s.fe := rfl
@[simp] theorem post_link (s : State) (es : List Event) : (s.post es).link = s.link := rfl
@[simp] theorem post_fabric (s : State) (es : List Event) : (s.post es).fabric = s.fabric := rfl
@[simp] theorem post_dbgr (s : State) (es : List Event) : (s.post es).dbgr = s.dbgr := rfl
@[simp] theorem post_xinv (s : State) (es : List Event) : (s.post es).xinv = s.xinv := rfl
@[simp] theorem post_fwXinv (s : State) (es : List Event) : (s.post es).fwXinv = s.fwXinv := rfl
@[simp] theorem post_parked (s : State) (es : List Event) : (s.post es).parked = s.parked := rfl
@[simp] theorem post_fresh (s : State) (es : List Event) : (s.post es).fresh = s.fresh := rfl
@[simp] theorem post_stamp (s : State) (es : List Event) : (s.post es).stamp = s.stamp := rfl
@[simp] theorem post_unsent (s : State) (es : List Event) : (s.post es).unsent = s.unsent := rfl
@[simp] theorem post_follows (s : State) (es : List Event) : (s.post es).follows = s.follows := rfl
@[simp] theorem post_draw (s : State) (es : List Event) : (s.post es).draw = s.draw := rfl
@[simp] theorem post_turn (s : State) (es : List Event) : (s.post es).turn = s.turn := rfl

/-! ### The changes in place are settings -/

theorem modCore_eq (s : State) (c : Nat) (f : Core → Core) : s.modCore c f = s.setCore c (f (s.core c)) := rfl
theorem modSub_eq (s : State) (g : Nat) (f : Sub → Sub) : s.modSub g f = s.setSub g (f (s.sub g)) := rfl
theorem modWg_eq (s : State) (w : Nat) (f : Wg → Wg) : s.modWg w f = s.setWg w (f (s.wg w)) := rfl
theorem modRow_eq (s : State) (c r : Nat) (f : Row → Row) : s.modRow c r f = s.setRow c r (f (s.row c r)) := rfl
theorem setRow_eq (s : State) (c r : Nat) (x : Row) : s.setRow c r x = s.setCore c { s.core c with rows := (s.core c).rows.set r x } := rfl

/-! ### What the accessors read after a setting -/

theorem sub_setSub (s : State) (g h : Nat) (x : Sub) : (s.setSub g x).sub h = if h = g then x else s.sub h := Tbl.get_set _ _ _ _ _
@[simp] theorem sub_setSub_self (s : State) (g : Nat) (x : Sub) : (s.setSub g x).sub g = x := by simp [sub_setSub]
theorem core_setCore (s : State) (c e : Nat) (x : Core) : (s.setCore c x).core e = if e = c then x else s.core e := Tbl.get_set _ _ _ _ _
@[simp] theorem core_setCore_self (s : State) (c : Nat) (x : Core) : (s.setCore c x).core c = x := by simp [core_setCore]
theorem wg_setWg (s : State) (w v : Nat) (x : Wg) : (s.setWg w x).wg v = if v = w then x else s.wg v := Tbl.get_set _ _ _ _ _
@[simp] theorem wg_setWg_self (s : State) (w : Nat) (x : Wg) : (s.setWg w x).wg w = x := by simp [wg_setWg]
theorem cluster_setCluster (s : State) (k j : Nat) (x : Cluster) : (s.setCluster k x).cluster j = if j = k then x else s.cluster j := Tbl.get_set _ _ _ _ _
theorem die_setDie (s : State) (d e : Nat) (x : Die) : (s.setDie d x).die e = if e = d then x else s.die e := Tbl.get_set _ _ _ _ _
theorem launch_setLaunch (s : State) (l k : Nat) (x : Launch) : (s.setLaunch l x).launch k = if k = l then x else s.launch k := Tbl.get_set _ _ _ _ _
@[simp] theorem core_setSub (s : State) (g c : Nat) (x : Sub) : (s.setSub g x).core c = s.core c := rfl
@[simp] theorem row_setSub (s : State) (g c r : Nat) (x : Sub) : (s.setSub g x).row c r = s.row c r := rfl
@[simp] theorem wg_setSub (s : State) (g w : Nat) (x : Sub) : (s.setSub g x).wg w = s.wg w := rfl
@[simp] theorem die_setSub (s : State) (g d : Nat) (x : Sub) : (s.setSub g x).die d = s.die d := rfl
@[simp] theorem cluster_setSub (s : State) (g k : Nat) (x : Sub) : (s.setSub g x).cluster k = s.cluster k := rfl
@[simp] theorem launch_setSub (s : State) (g l : Nat) (x : Sub) : (s.setSub g x).launch l = s.launch l := rfl
@[simp] theorem sub_setCore (s : State) (c g : Nat) (x : Core) : (s.setCore c x).sub g = s.sub g := rfl
@[simp] theorem wg_setCore (s : State) (c w : Nat) (x : Core) : (s.setCore c x).wg w = s.wg w := rfl
@[simp] theorem die_setCore (s : State) (c d : Nat) (x : Core) : (s.setCore c x).die d = s.die d := rfl
@[simp] theorem sub_setWg (s : State) (w g : Nat) (x : Wg) : (s.setWg w x).sub g = s.sub g := rfl
@[simp] theorem core_setWg (s : State) (w c : Nat) (x : Wg) : (s.setWg w x).core c = s.core c := rfl
theorem row_setRow (s : State) (c r e q : Nat) (x : Row) : (s.setRow c r x).row e q = if e = c ∧ q = r then x else s.row e q := by
  simp only [setRow, modCore, row, core_setCore]
  by_cases h : e = c
  · subst h; by_cases g : q = r <;> simp [g, Tbl.get_set]
  · simp [h]
@[simp] theorem setCore_setCore (s : State) (c : Nat) (x y : Core) : (s.setCore c x).setCore c y = s.setCore c y := by simp [setCore]
@[simp] theorem setRow_setRow (s : State) (c r : Nat) (x y : Row) : (s.setRow c r x).setRow c r y = s.setRow c r y := by simp [setRow_eq]
@[simp] theorem setSub_setSub (s : State) (g : Nat) (x y : Sub) : (s.setSub g x).setSub g y = s.setSub g y := by simp [setSub]
@[simp] theorem row_setRow_self (s : State) (c r : Nat) (x : Row) : (s.setRow c r x).row c r = x := by simp [row_setRow]
@[simp] theorem sub_setRow (s : State) (c r g : Nat) (x : Row) : (s.setRow c r x).sub g = s.sub g := rfl
@[simp] theorem wg_setRow (s : State) (c r w : Nat) (x : Row) : (s.setRow c r x).wg w = s.wg w := rfl
@[simp] theorem view_setRow (s : State) (c r e : Nat) (x : Row) : ((s.setRow c r x).core e).view = (s.core e).view := by
  simp only [setRow, modCore, core_setCore]; split <;> simp_all

end State

/-! ### A thread and a subgroup -/

theorem Thread.reg_setReg (t : Thread) (n i : Nat) (x : Word) : (t.setReg n x).reg i = if i = n then x else t.reg i := Tbl.get_set _ _ _ _ _
theorem Sub.sreg_setSreg (u : Sub) (n i : Nat) (x : Word) : (u.setSreg n x).sreg i = if i = n then x else u.sreg i := Tbl.get_set _ _ _ _ _
theorem Sub.thread_setThread (u : Sub) (l m : Nat) (t : Thread) : (u.setThread l t).thread m = if m = l then t else u.thread m := Tbl.get_set _ _ _ _ _
theorem Sub.thread_modThread (u : Sub) (l m : Nat) (f : Thread → Thread) : (u.modThread l f).thread m = if m = l then f (u.thread l) else u.thread m :=
  Tbl.get_set _ _ _ _ _
@[simp] theorem Sub.thread_setSreg (u : Sub) (n l : Nat) (x : Word) : (u.setSreg n x).thread l = u.thread l := rfl

/-- Members of a mask are below 64 and set in it. -/
theorem mem_lanesOf (m : Dword) (l : Nat) : l ∈ lanesOf m ↔ l < 64 ∧ m.getLsbD l = true := by simp [lanesOf]
theorem nodup_lanesOf (m : Dword) : (lanesOf m).Nodup := List.Nodup.filter _ List.nodup_range

end Sys2Proof.Machine
end

