-- ==== Sys2Proof/Laws/Issue.lean ====
section
/-!
SUPPORT. What the shared operations of issue do, once: the changes made member by member, the completion of a word, the checks of a word, and the
shapes of the V class and of the scalar ALU.
-/

namespace Sys2Proof.Machine

/-- A change made in turn for each of several members, that touches only that member's thread and latches, is a change of each of them from the start. -/
theorem foldl_members (ls : List Nat) (nd : ls.Nodup) (step : Sub → Nat → Sub) (g : Nat → Thread → Thread) (h : Nat → Latch → Latch)
    (hrest : ∀ u l, step u l = { u with threads := (step u l).threads, ring := (step u l).ring })
    (ht : ∀ u l m, (step u l).thread m = if m = l then g l (u.thread l) else u.thread m)
    (hr : ∀ u l m, (step u l).latch m = if m = l then h l (u.latch l) else u.latch m) (u : Sub) :
    ls.foldl step u = { u with threads := (ls.foldl step u).threads, ring := (ls.foldl step u).ring } ∧
    (∀ m, (ls.foldl step u).thread m = if m ∈ ls then g m (u.thread m) else u.thread m) ∧
    ∀ m, (ls.foldl step u).latch m = if m ∈ ls then h m (u.latch m) else u.latch m := by
  induction ls generalizing u with
  | nil => simp
  | cons l ls ih =>
    have nl : l ∉ ls := (List.nodup_cons.mp nd).1
    obtain ⟨a, b, c⟩ := ih (List.nodup_cons.mp nd).2 (step u l)
    rw [List.foldl_cons]
    refine ⟨?_, fun m => ?_, fun m => ?_⟩
    · rw [a, hrest u l]
    · rw [b m, ht]
      by_cases e : m = l
      · subst e; simp [nl]
      · simp [e]
    · rw [c m, hr]
      by_cases e : m = l
      · subst e; simp [nl]
      · simp [e]

theorem foldl_modThread (ls : List Nat) (nd : ls.Nodup) (f : Nat → Thread → Thread) (u : Sub) :
    ls.foldl (fun u l => u.modThread l (f l)) u = { u with threads := (ls.foldl (fun u l => u.modThread l (f l)) u).threads } ∧
    ∀ m, (ls.foldl (fun u l => u.modThread l (f l)) u).thread m = if m ∈ ls then f m (u.thread m) else u.thread m := by
  induction ls generalizing u with
  | nil => simp
  | cons l ls ih =>
    have nl : l ∉ ls := (List.nodup_cons.mp nd).1
    obtain ⟨a, b⟩ := ih (List.nodup_cons.mp nd).2 (u.modThread l (f l))
    rw [List.foldl_cons]
    refine ⟨by rw [a]; rfl, fun m => ?_⟩
    rw [b m, Sub.thread_modThread]
    by_cases e : m = l
    · subst e; simp [nl]
    · simp [e]

theorem Sub.latch_push (u : Sub) (l m : Nat) (v : Dword) : (u.push l v).latch m = if m = l then (u.latch l).push v else u.latch m := Tbl.get_set _ _ _ _ _

/-- The checks of a word: it goes on when none of them fails, and else raises ILL with the detail of the first that does (R55). -/
theorem checked_pass (s : State) (x : Cx) (cs : List (Bool × Nat)) (k : Out) (h : ∀ c ∈ cs, c.1 = false) : checked s x cs k = k := by
  induction cs with
  | nil => rfl
  | cons c cs ih =>
    obtain ⟨b, d⟩ := c
    have hb : b = false := h (b, d) (by simp)
    simp only [checked, hb]
    exact ih fun c hc => h c (by simp [hc])

theorem withGroup_eq (s : State) (x : Cx) (k : Cx → Out) (h : s.issuing = some x) : withGroup s k = k x := by simp [withGroup, h]

/-- A word outside the V class whose early checks pass goes on where no `xsel` stands before it (R55, R127). -/
theorem withWordAfter_eq (s : State) (x : Cx) (early : Cx → List (Bool × Nat)) (k : Cx → Out) (h : Stands s x) (he : ∀ c ∈ early x, c.1 = false) :
    withWordAfter s early k = k x := by
  simp [withWordAfter, withGroup_eq s x _ h.1, h.2, checked_pass _ _ _ _ he]

theorem withWord_eq (s : State) (x : Cx) (k : Cx → Out) (h : Stands s x) : withWord s k = k x := withWordAfter_eq s x _ k h (by simp)

theorem issuing_core (s : State) (x : Cx) (h : s.issuing = some x) : (s.row x.core x.row).issuing = some (x.sg, x.mask) ∧ x.mask ≠ 0 := by
  unfold State.issuing at h
  split at h
  · cases h
  · split at h
    · cases h
    · split at h
      · cases h
      · cases h; exact ⟨by assumption, by assumption⟩

/-! ### Completion of a word -/

theorem goTo_sub (s : State) (x : Cx) (ls : List Nat) (f : Nat → Dword) :
    (goTo s x ls f).sub x.sg = ls.foldl (fun u l => u.modThread l fun t => t.goTo (s.cycle x.core) ((s.row x.core x.row).issued + 1) (f l)) (s.sub x.sg) := by
  simp [goTo, State.modRow_eq, State.modSub_eq]

/-- What completing a word does to the members, `ls`, that complete it, and to the rest of their subgroup. -/
theorem goTo_spec (s : State) (x : Cx) (ls : List Nat) (nd : ls.Nodup) (f : Nat → Dword) :
    (goTo s x ls f).sub x.sg = { s.sub x.sg with threads := ((goTo s x ls f).sub x.sg).threads } ∧
    ∀ l, ((goTo s x ls f).sub x.sg).thread l =
      if l ∈ ls then ((s.sub x.sg).thread l).goTo (s.cycle x.core) ((s.row x.core x.row).issued + 1) (f l) else (s.sub x.sg).thread l := by
  rw [goTo_sub]
  exact foldl_modThread ls nd (fun l t => t.goTo _ _ (f l)) _

theorem advance_eq (s : State) (x : Cx) (ls : List Nat) :
    advance s x ls = (goTo s x ls fun _ => x.pc s + 4).setRow x.core x.row
      { s.row x.core x.row with issued := (s.row x.core x.row).issued + 1, xsel := none, atSwitch := (s.row x.core x.row).atSwitch || (s.row x.core x.row).xsel.isSome } := by
  have hr : (goTo s x ls fun _ => x.pc s + 4).row x.core x.row = { s.row x.core x.row with issued := (s.row x.core x.row).issued + 1 } := by
    simp [goTo, State.modRow_eq, State.modSub_eq]
  unfold advance dropXsel
  simp only [hr]
  cases h : (s.row x.core x.row).xsel with
  | none =>
    simp only [Option.isSome_none, Bool.or_false]
    simp only [goTo, State.modRow_eq, State.modSub_eq, State.setRow_setRow, State.row_setSub]
    rw [← h]
  | some p => simp only [State.modRow_eq, hr, Option.isSome_some, Bool.or_true]

/-- Going on, and a switch point after it, are what `WentOn` says. -/
theorem jumpTo_wentOn (s : State) (x : Cx) (ls : List Nat) (nd : ls.Nodup) (v : Sub) (f : Nat → Dword) (r : Row → Row)
    (sw : Bool) (hr : r { s.row x.core x.row with issued := (s.row x.core x.row).issued + 1 } = { s.row x.core x.row with issued := (s.row x.core x.row).issued + 1, xsel := none, atSwitch := sw || (s.row x.core x.row).atSwitch || (s.row x.core x.row).xsel.isSome }) :
    WentOn s ((goTo (s.setSub x.sg v) x ls f).modRow x.core x.row r) x ls f sw v := by
  have h0 : (goTo (s.setSub x.sg v) x ls f).row x.core x.row = { s.row x.core x.row with issued := (s.row x.core x.row).issued + 1 } := by
    simp [goTo, State.modRow_eq, State.modSub_eq]
  rw [State.modRow_eq, h0, hr]
  obtain ⟨a, b⟩ := goTo_spec (s.setSub x.sg v) x ls nd f
  simp only [State.sub_setSub_self] at a b
  refine ⟨?_, fun g hg => ?_, ?_, fun l hl => ?_, fun l hl => ?_, fun c => ?_, fun c r => ?_⟩
  · rfl
  · simp [goTo, State.modRow_eq, State.modSub_eq, State.sub_setSub, hg]
  · rw [State.sub_setRow]; exact a
  · rw [State.sub_setRow, b l, if_pos hl]; rfl
  · rw [State.sub_setRow, b l, if_neg hl]
  · simp only [goTo, State.modRow_eq, State.modSub_eq, State.setRow_eq, State.core_setCore, State.core_setSub]
    by_cases h : c = x.core
    · subst h; simp
    · simp [h]
  · simp only [State.row_setRow]
    by_cases h : c = x.core ∧ r = x.row
    · obtain ⟨rfl, rfl⟩ := h; simp
    · simp [h, goTo, State.modRow_eq, State.modSub_eq, State.row_setRow]

/-- Completing a word is what `WentOn` says. -/
theorem advance_wentOn (s : State) (x : Cx) (ls : List Nat) (nd : ls.Nodup) (v : Sub) (hv : (v.thread (lowest x.mask)).pc = x.pc s) :
    WentOn s (advance (s.setSub x.sg v) x ls) x ls (fun _ => x.pc s + 4) false v := by
  have hp : x.pc (s.setSub x.sg v) = x.pc s := by simpa [Cx.pc] using hv
  rw [advance_eq, hp]
  exact jumpTo_wentOn s x ls nd v (fun _ => x.pc s + 4) (fun _ =>
    { s.row x.core x.row with issued := (s.row x.core x.row).issued + 1, xsel := none, atSwitch := (s.row x.core x.row).atSwitch || (s.row x.core x.row).xsel.isSome }) false (by simp)

/-- Completing a word at a switch point is what `WentOn` says. -/
theorem done_wentOn (s : State) (x : Cx) (v : Sub) (hv : (v.thread (lowest x.mask)).pc = x.pc s) :
    WentOn s (done (s.setSub x.sg v) x) x x.lanes (fun _ => x.pc s + 4) true v := by
  have hp : x.pc (s.setSub x.sg v) = x.pc s := by simpa [Cx.pc] using hv
  unfold done switchPoint
  rw [advance_eq, hp, State.modRow_eq, State.row_setRow_self, State.setRow_setRow]
  exact jumpTo_wentOn s x x.lanes (nodup_lanesOf _) v (fun _ => x.pc s + 4) (fun _ =>
    { s.row x.core x.row with issued := (s.row x.core x.row).issued + 1, xsel := none, atSwitch := true }) true (by simp)

/-- Where only the group has gone on, every byte reads as before. -/
theorem WentOn.sameBytes {s t : State} {x : Cx} {ls : List Nat} {pc : Nat → Dword} {sw : Bool} {v : Sub} (h : WentOn s t x ls pc sw v) : SameBytes s t := by
  have hv : ∀ c, (t.core c).view = (s.core c).view := fun c => by rw [h.cores c]; split <;> rfl
  have hr := h.rest
  refine ⟨fun p => ?_, fun c p => ?_, fun w a => ?_⟩
  · rw [hr]; rfl
  · unfold State.seen; rw [hv c, hr]; rfl
  · rw [hr]; rfl

theorem completes_advance (s : State) (x : Cx) (P : Sub → Prop) (v : Sub) (hv : (v.thread (lowest x.mask)).pc = x.pc s) (h : P v) :
    Completes s x P (.next (advance (s.setSub x.sg v) x x.lanes)) :=
  have w := advance_wentOn s x x.lanes (nodup_lanesOf _) v hv
  ⟨v, _, rfl, h, w, w.sameBytes⟩

theorem switches_done (s : State) (x : Cx) (P : Sub → Prop) (v : Sub) (hv : (v.thread (lowest x.mask)).pc = x.pc s) (h : P v) :
    Switches s x P (.next (done (s.setSub x.sg v) x)) :=
  have w := done_wentOn s x v hv
  ⟨v, _, rfl, h, w, w.sameBytes⟩

/-- A jump outside an `xsel` is what `WentOn` says. -/
theorem goesTo_jumpTo (s : State) (x : Cx) (P : Sub → Prop) (v : Sub) (f : Nat → Dword) (hx : (s.row x.core x.row).xsel = none) (h : P v) :
    GoesTo s x f true P (.next (jumpTo (s.setSub x.sg v) x f)) :=
  have w := jumpTo_wentOn s x x.lanes (nodup_lanesOf _) v f (fun r => { r with atSwitch := true }) true (by simp [hx])
  ⟨v, _, rfl, h, w, w.sameBytes⟩

theorem Wrote.pc {s : State} {x : Cx} {sh : Shape} {w sb : Bool} {d a b : BitVec 7} {f : Nat → Word → Dword → Dword → Dword → LaneRes}
    {v : Sub}
    (h : Wrote s x sh w sb d a b f v) (l : Nat) : (v.thread l).pc = ((x.sub s).thread l).pc := by
  by_cases hl : l ∈ x.lanes
  · rw [(h.members l hl).1]
  · rw [(h.others l hl).1]

/-! ### The shapes -/

/-- The thread of a member after its result was written. -/
def writtenThread (f : Form) (w : Bool) (r : Nat) (wide stale : Bool) (v : LaneRes) (t : Thread) : Thread :=
  let t := { t with tstat := setStale (raiseFlags t.tstat v.flags) stale }
  if w && f == .d then t else if wide then t.setPair r v.val else t.setReg r (loOf v.val)

theorem writeLane_eq (u : Sub) (f : Form) (w push : Bool) (r : Nat) (wide stale : Bool) (l : Nat) (v : LaneRes) :
    writeLane u f w push r wide stale l v =
      if push && f == .d then (u.modThread l (writtenThread f w r wide stale v)).push l (if wide then v.val else v.val &&& 0xffffffff#64)
      else u.modThread l (writtenThread f w r wide stale v) := rfl

theorem writeLane_rest (u : Sub) (f : Form) (w push : Bool) (r : Nat) (wide stale : Bool) (l : Nat) (v : LaneRes) :
    writeLane u f w push r wide stale l v =
      { u with threads := (writeLane u f w push r wide stale l v).threads, ring := (writeLane u f w push r wide stale l v).ring } := by
  rw [writeLane_eq]; split <;> rfl

theorem writeLane_thread (u : Sub) (f : Form) (w push : Bool) (r : Nat) (wide stale : Bool) (l m : Nat) (v : LaneRes) :
    (writeLane u f w push r wide stale l v).thread m = if m = l then writtenThread f w r wide stale v (u.thread l) else u.thread m := by
  rw [writeLane_eq]; split <;> exact Sub.thread_modThread _ _ _ _

theorem writeLane_latch (u : Sub) (f : Form) (w push : Bool) (r : Nat) (wide stale : Bool) (l m : Nat) (v : LaneRes) :
    (writeLane u f w push r wide stale l v).latch m =
      if m = l then (if push && f == .d then (u.latch l).push (if wide then v.val else v.val &&& 0xffffffff#64) else u.latch l) else u.latch m := by
  rw [writeLane_eq]
  split
  · rw [Sub.latch_push]; rfl
  · by_cases e : m = l
    · subst e; rw [if_pos rfl]; rfl
    · rw [if_neg e]; rfl

theorem low_mask (v : Dword) : v &&& 0xffffffff#64 = (loOf v).setWidth 64 := by
  unfold loOf; ext i hi; by_cases h : i < 32 <;> simp [h] <;> (try interval_cases i <;> simp_all)

theorem writtenThread_reg (f : Form) (w : Bool) (r : Nat) (wide stale : Bool) (v : LaneRes) (t : Thread) (i : Nat) :
    (writtenThread f w r wide stale v t).reg i =
      if w = true ∧ f = .d then t.reg i else if i = r then loOf v.val else if wide = true ∧ i = r + 1 then hiOf v.val else t.reg i := by
  unfold writtenThread
  by_cases h : w = true ∧ f = .d
  · simp [h, Thread.reg]
  · have hb : (w && f == .d) = false := by
      cases w <;> cases f <;> simp_all
    simp only [hb, if_neg h]
    cases wide
    · simp only [Bool.false_eq_true, if_false, Thread.reg_setReg, false_and]; rfl
    · simp only [if_true, Thread.setPair, Thread.reg_setReg, Bool.false_eq_true, if_false]
      by_cases e : i = r
      · subst e; simp
      · by_cases e2 : i = r + 1
        · subst e2; simp
        · simp [e, e2, Thread.reg]

theorem writtenThread_rest (f : Form) (w : Bool) (r : Nat) (wide stale : Bool) (v : LaneRes) (t : Thread) :
    writtenThread f w r wide stale v t =
      { t with v := (writtenThread f w r wide stale v t).v, tstat := setStale (raiseFlags t.tstat v.flags) stale } := by
  unfold writtenThread
  split
  · rfl
  · split <;> rfl

theorem vChecks_pass (s : State) (x : Cx) (sh : Shape) (w sb : Bool) (d a b : BitVec 7) (h : Legal s x sh w sb d a b) :
    ∀ c ∈ vChecks s x sh w sb d.toNat a.toNat b.toNat, c.1 = false := by
  have hb : (w && x.form == Form.d) = true → ¬(w = true → x.form = .l) := by
    cases w <;> cases hf : x.form <;> simp
  intro c hc
  simp only [vChecks, List.mem_cons, List.not_mem_nil, or_false] at hc
  rcases hc with rfl | rfl | rfl | rfl | rfl
  · have := h.keepsD
    cases hr : sh.readsD <;> cases w <;> cases hf : x.form <;> simp_all
  · have := h.scalarB
    cases hu : sh.useB <;> cases sb <;> simp_all [sbBad]
  · have := h.dst
    cases w <;> cases hf : x.form <;> simp_all
  · simp [h.srcA]
  · have h1 := h.scalarB
    have h2 := h.srcB
    cases hu : sh.useB <;> cases sb <;> simp_all [bOk]
    intro h3 h4; rcases h1.2 with (h5 | h5) | h5 <;> simp_all

theorem maskOf_nil : maskOf [] = 0 := rfl

/-- What a legal V-class word performs: it writes every member and goes on. -/
theorem vPerform_spec (s : State) (x : Cx) (sh : Shape) (w sb : Bool) (d a b : BitVec 7) (f : Nat → Word → Dword → Dword → Dword → LaneRes)
    (h : Legal s x sh w sb d a b) : ∃ v, Wrote s x sh w sb d a b f v ∧
      vPerform s x sh w sb d.toNat a.toNat b.toNat f = advance (s.setSub x.sg v) x x.lanes := by
  unfold vPerform
  have hstale : staleTraps s x (maskOf (((x.lanes.map fun l => (l, operands s x sh sb d.toNat a.toNat b.toNat l)).filter fun p => p.2.2).map Prod.fst)) = false := by
    unfold staleTraps
    by_cases hm : x.mode s = 1
    · have : ((x.lanes.map fun l => (l, operands s x sh sb d.toNat a.toNat b.toNat l)).filter fun p => p.2.2) = [] := by
        rw [List.filter_eq_nil_iff]
        intro p hp
        obtain ⟨l, hl, rfl⟩ := List.mem_map.mp hp
        simp [h.fresh hm l hl]
      rw [this]; simp [maskOf_nil]
    · rw [beq_eq_false_iff_ne.mpr hm, Bool.false_and]
  simp only [hstale, Bool.false_eq_true, if_false, List.foldl_map]
  refine ⟨_, ?_, rfl⟩
  let r (l : Nat) : LaneRes := f l ((x.sub s).thread l).tstat (operands s x sh sb d.toNat a.toNat b.toNat l).1.1
    (operands s x sh sb d.toNat a.toNat b.toNat l).1.2.1 (operands s x sh sb d.toNat a.toNat b.toNat l).1.2.2
  obtain ⟨p, q, z⟩ := foldl_members x.lanes (nodup_lanesOf _)
    (fun v l => writeLane v x.form w true ((x.sub s).wbase.toNat + d.toNat) sh.wideD (operands s x sh sb d.toNat a.toNat b.toNat l).2 l (r l)) _
    (fun l o => if true && x.form == .d then o.push (if sh.wideD then (r l).val else (r l).val &&& 0xffffffff#64) else o)
    (fun u l => writeLane_rest _ _ _ _ _ _ _ _ _) (fun u l m => writeLane_thread _ _ _ _ _ _ _ _ _ _)
    (fun u l m => writeLane_latch _ _ _ _ _ _ _ _ _ _) (x.sub s)
  refine ⟨p, fun l hl => ⟨by rw [q l, if_neg hl], by rw [z l, if_neg hl]⟩, fun l hl => ?_⟩
  dsimp only
  refine ⟨?_, fun i => ?_, ?_⟩
  · rw [q l, if_pos hl]; exact writtenThread_rest _ _ _ _ _ _ _
  · rw [q l, if_pos hl]; exact writtenThread_reg _ _ _ _ _ _ _ _
  · rw [z l, if_pos hl]; cases hf : x.form <;> simp [low_mask, r]

/-- A legal V-class word writes every member and goes on. -/
theorem vOp_spec (s : State) (x : Cx) (sh : Shape) (w sb : Bool) (d a b : BitVec 7) (f : Word → Dword → Dword → Dword → LaneRes)
    (h : Legal s x sh w sb d a b) : Completes s x (Wrote s x sh w sb d a b fun _ => f) (vOp s sh w sb d a b f) := by
  rw [vOp, withGroup_eq s x _ h.issues, checked_pass _ _ _ _ (vChecks_pass s x sh w sb d a b h)]
  obtain ⟨v, hv, e⟩ := vPerform_spec s x sh w sb d a b (fun _ => f) h
  rw [e]
  exact completes_advance s x _ v (hv.pc _) hv

theorem foldl_push (ls : List Nat) (nd : ls.Nodup) (v : Dword) (u : Sub) :
    ls.foldl (fun u l => u.push l v) u = { u with ring := (ls.foldl (fun u l => u.push l v) u).ring } ∧
    ∀ m, (ls.foldl (fun u l => u.push l v) u).latch m = if m ∈ ls then (u.latch m).push v else u.latch m := by
  induction ls generalizing u with
  | nil => simp
  | cons l ls ih =>
    have nl : l ∉ ls := (List.nodup_cons.mp nd).1
    obtain ⟨a, b⟩ := ih (List.nodup_cons.mp nd).2 (u.push l v)
    rw [List.foldl_cons]
    refine ⟨by rw [a]; rfl, fun m => ?_⟩
    rw [b m, Sub.latch_push]
    by_cases e : m = l
    · subst e; simp [nl]
    · simp [e]

/-- A legal scalar ALU word writes its scalar once for the group and goes on. -/
theorem sOp_spec (s : State) (x : Cx) (w useB readsD : Bool) (d a b : BitVec 7) (f : Word → Word → Word → Word)
    (h : LegalScalar s x w useB readsD d a b) :
    let va := readScalar s x a.toNat
    let vb := if useB then readScalar s x b.toNat else (0, false)
    Completes s x (WroteScalar s x w d (va.2 || vb.2) (f va.1 vb.1 (if readsD then (x.sub s).sreg d.toNat else 0))) (sOp s w useB readsD d a b f) := by
  intro va vb
  have hform : (w && x.form == Form.d) = true ↔ (w = true ∧ x.form = .d) := by cases w <;> cases x.form <;> simp
  have hl : ¬(w = true ∧ x.form = .d) → (w = true → x.form = .l) := by cases w <;> cases x.form <;> simp
  have hpass : ∀ c ∈ [(readsD && w && x.form == .d, 4), (!(w && x.form == .d) && !(sDstOk d.toNat), 7), (!(sSrcOk x.form a.toNat), 7),
      (useB && !(sSrcOk x.form b.toNat), 7)], c.1 = false := by
    have h1 := h.keepsD
    have h2 := h.dst
    have h3 := h.srcA
    have h4 := h.srcB
    intro c hc
    simp only [List.mem_cons, List.not_mem_nil, or_false] at hc
    rcases hc with rfl | rfl | rfl | rfl
    · cases readsD <;> cases w <;> cases hf : x.form <;> simp_all
    · cases w <;> cases hf : x.form <;> simp_all
    · simp [h3]
    · cases useB <;> simp_all
  rw [sOp, withWordAfter_eq s x _ _ h.stands fun c hc => hpass c (by simp_all), checked_pass _ _ _ _ fun c hc => hpass c (List.mem_cons_of_mem _ hc)]
  unfold sPerform
  have hs : staleTraps s x (if (va.2 || vb.2) = true then x.mask else 0) = false := by
    unfold staleTraps
    by_cases hm : x.mode s = 1
    · have := h.fresh hm
      have e : (va.2 || vb.2) = false := by
        have h1 : va.2 = false := this.1
        have h2 : vb.2 = false := by
          simp only [vb]; cases hu : useB
          · rfl
          · exact this.2 hu
        simp [h1, h2]
      simp [e]
    · rw [beq_eq_false_iff_ne.mpr hm, Bool.false_and]
  simp only [va, vb] at hs
  simp only [hs, Bool.false_eq_true, if_false]
  generalize hval : f _ _ _ = val
  generalize hst : ((readScalar s x a.toNat).2 || (if useB = true then readScalar s x b.toNat else (0, false)).2) = stale
  let u1 := (x.sub s).modThread (lowest x.mask) fun t => { t with tstat := setStale t.tstat stale }
  let two (u : Sub) : Sub := if w && x.form == .d then u else u.setSreg d.toNat val
  let three (u : Sub) : Sub := if x.form == .d then pushAll u x (val.setWidth 64) else u
  have r2 : ∀ u, two u = { u with s := (two u).s } := by intro u; simp only [two]; split <;> rfl
  have r3 : ∀ u, three u = { u with ring := (three u).ring } := by
    intro u; simp only [three]; split
    · exact (foldl_push x.lanes (nodup_lanesOf _) _ u).1
    · rfl
  have t2 : ∀ u l, (two u).thread l = u.thread l := fun u l => by unfold Sub.thread; rw [r2]
  have t3 : ∀ u l, (three u).thread l = u.thread l := fun u l => by unfold Sub.thread; rw [r3]
  have s3 : ∀ u i, (three u).sreg i = u.sreg i := fun u l => by unfold Sub.sreg; rw [r3]
  have l2 : ∀ u l, (two u).latch l = u.latch l := fun u l => by unfold Sub.latch; rw [r2]
  have l3 : ∀ u l, (three u).latch l = if l ∈ x.lanes ∧ x.form = .d then (u.latch l).push (val.setWidth 64) else u.latch l := by
    intro u l; simp only [three]
    cases hf : x.form
    · simpa [pushAll] using (foldl_push x.lanes (nodup_lanesOf _) (val.setWidth 64) u).2 l
    · simp
  have t1 : ∀ l, u1.thread l = if l = lowest x.mask then { (x.sub s).thread (lowest x.mask) with tstat := setStale ((x.sub s).thread (lowest x.mask)).tstat stale }
      else (x.sub s).thread l := fun l => Sub.thread_modThread _ _ _ _
  have W : WroteScalar s x w d stale val (three (two u1)) := by
    refine ⟨?_, fun l h2 => ?_, ?_, fun i => ?_, fun l => ?_⟩
    · rw [r3, r2]; rfl
    · rw [t3, t2, t1, if_neg h2]
    · rw [t3, t2, t1, if_pos rfl]
    · rw [s3]
      by_cases e : w = true ∧ x.form = .d
      · simp only [two, e]; rfl
      · simp only [two, if_neg (fun k => e (hform.mp k)), Sub.sreg_setSreg, e, not_false_iff, true_and]; rfl
    · rw [l3, l2]; rfl
  refine completes_advance s x _ _ ?_ W
  rw [W.low]; rfl

end Sys2Proof.Machine
end

