-- ==== Sys2Proof/Laws/Memory.lean ====
section
/-!
SUPPORT. Memory: a read after a write, and that every operation keeps the canonical form.
-/

namespace Sys2Proof.Machine

namespace Mem

theorem read_write (m : Mem) (p q : Nat) (b : Byte) : read (write m p b) q = if q = p then b else read m q := by
  unfold read write
  by_cases hb : b = unlisted <;> by_cases h : q = p <;> simp_all [Tbl.get_del_ne, Tbl.get_set_ne]

@[simp] theorem read_write_self (m : Mem) (p : Nat) (b : Byte) : read (write m p b) p = b := by simp [read_write]

theorem read_write_ne (m : Mem) {p q : Nat} (b : Byte) (h : q ≠ p) : read (write m p b) q = read m q := by simp [read_write, h]

theorem wf_write (m : Mem) (p : Nat) (b : Byte) (h : wf m = true) : wf (write m p b) = true := by
  simp only [wf, Bool.and_eq_true] at *
  unfold write
  by_cases hb : b = unlisted
  · rw [if_pos hb]; exact ⟨Tbl.sorted_del _ _ h.1, Tbl.all_del _ _ _ h.2⟩
  · rw [if_neg hb]; exact ⟨Tbl.sorted_set _ _ _ h.1, Tbl.all_set _ _ _ _ (by simpa using hb) h.2⟩

end Mem

namespace VMem

@[simp] theorem wf_empty : wf {} = true := rfl

theorem wf_write (m : VMem) (p : Loc) (b : Byte) (t : Nat) (h : m.wf = true) : (m.write p b t).wf = true := by
  simp only [wf, Bool.and_eq_true] at *
  exact ⟨Mem.wf_write _ _ _ h.1, Tbl.sorted_set _ _ _ h.2⟩

theorem wf_take (src dst : VMem) (p : Loc) (h : dst.wf = true) : (take src dst p).wf = true := by
  unfold take; split
  · exact wf_write _ _ _ _ h
  · exact h

/-- Merging keeps the canonical form of the image merged into, whatever is merged. -/
theorem wf_merge (dst src : VMem) (h : dst.wf = true) : (merge dst src).wf = true := by
  unfold merge
  generalize src.stamps.keys = ks
  induction ks generalizing dst with
  | nil => exact h
  | cons k ks ih => exact ih _ (wf_take _ _ _ h)

theorem wf_restamp (m : VMem) (p : Loc) (f : Nat → Nat) (h : m.wf = true) : (m.restamp p f).wf = true := by
  unfold restamp; split
  · exact h
  · simp only [wf, Bool.and_eq_true] at *; exact ⟨h.1, Tbl.sorted_set _ _ _ h.2⟩

theorem read_write (m : VMem) (p q : Loc) (b : Byte) (t : Nat) : (m.write p b t).read q = if q = p then b else m.read q := Mem.read_write _ _ _ _

theorem stampAt_write (m : VMem) (p q : Loc) (b : Byte) (t : Nat) : (m.write p b t).stampAt q = if q = p then t else m.stampAt q :=
  Tbl.get_set _ _ _ _ _

end VMem

theorem reset_memOk : State.reset.memOk = true := rfl

end Sys2Proof.Machine
end

