-- ==== Sys2Proof/Laws/Order.lean ====
section
/-!
SUPPORT. What the shared operations on the order of stores and on the flits of ports may change, and what they leave.
-/

namespace Sys2Proof.Machine
namespace State

/-- What the order of stores may change: the model's own lists of it, and nothing else. -/
def SameButOrder (s t : State) : Prop := t = { s with unsent := t.unsent, follows := t.follows }

theorem SameButOrder.refl (s : State) : SameButOrder s s := rfl
theorem SameButOrder.trans {s t u : State} (h : SameButOrder s t) (g : SameButOrder t u) : SameButOrder s u := by
  unfold SameButOrder at *
  rw [g, h]

theorem enter_order (s : State) (xs : List (Loc × Nat)) : SameButOrder s (s.enter xs) := rfl
theorem ordered_order (s : State) (p : Loc) (a b : Nat) : SameButOrder s (s.ordered p a b) := by
  unfold ordered
  split
  · exact .refl s
  · split
    · rfl
    · exact enter_order s _
theorem moved_order (s : State) (old new : VMem) : SameButOrder s (s.moved old new) := by
  unfold moved
  generalize s.unsent.filter _ = xs
  induction xs generalizing s with
  | nil => exact .refl s
  | cons x xs ih => exact (ordered_order s _ _ _).trans (ih _)
theorem sent_order (s : State) (v : VMem) (S : Nat) : SameButOrder s (s.sent v S) := enter_order s _
/-- Moving a view forward changes that view and the order of stores alone (R177). -/
theorem viewMerge_order (s : State) (c : Nat) (m : VMem) : SameButOrder (s.modCore c fun k => { k with view := k.view.merge m }) (s.viewMerge c m) := moved_order _ _ _

/-- What sending may change: the ports. -/
def SameButPorts (s t : State) : Prop := t = { s with fabric := { s.fabric with ports := t.fabric.ports } }

theorem SameButPorts.refl (s : State) : SameButPorts s s := rfl
theorem SameButPorts.trans {s t u : State} (h : SameButPorts s t) (g : SameButPorts t u) : SameButPorts s u := by
  unfold SameButPorts at *
  rw [g, h]

theorem sendFlit_ports (s : State) (p : Nat) (f : Flit) : SameButPorts s (s.sendFlit p f) := by
  unfold sendFlit
  split
  · rfl
  · exact .refl s
theorem sendRequest_ports (s : State) (p : Loc) : SameButPorts s (s.sendRequest p) := by
  unfold sendRequest
  split
  · exact sendFlit_ports s _ _
  · exact .refl s
theorem sendRequests_ports (s : State) (ps : List Loc) : SameButPorts s (s.sendRequests ps) := by
  unfold sendRequests
  generalize (((ps.filter isRemote).map fun p => p / 128 * 128).eraseDups) = xs
  induction xs generalizing s with
  | nil => exact .refl s
  | cons x xs ih => exact (sendRequest_ports s x).trans (ih _)

end State
end Sys2Proof.Machine
end

