-- ==== Sys2Proof/WellFormed.lean ====
section
/-!
DEFINITION. Which terms of Instr name only what R41, R42, R46, R50 and R80 list: register codes that are read or written in some form, scopes, rounding
codes and table entries inside their limits, and units that a package has. What depends on the form, on REGS or on WBASE is checked when the word issues.
-/

namespace Sys2Proof

/-- A source code of the V and M classes: 116 to 119 and 127 name nothing (R41). -/
def srcCode (c : BitVec 7) : Bool := decide (c.toNat ≤ 115) || (decide (120 ≤ c.toNat) && decide (c.toNat ≤ 126))
/-- A destination code of the V and M classes, in the form that has the most (R42). -/
def dstCode (c : BitVec 7) : Bool := decide (c.toNat ≤ 115)
/-- The B field of an RR word (R41, R45). -/
def bCode (s : Bool) (c : BitVec 7) : Bool := if s then decide (c.toNat ≤ 111) || c == 120 else srcCode c
/-- A scalar register, a source of the S class, and a scalar pair (R22, R41, R42). -/
def sReg (c : BitVec 7) : Bool := decide (c.toNat ≤ 111)
def sSrc (c : BitVec 7) : Bool := decide (c.toNat ≤ 115) || c == 120
def sPair (c : BitVec 7) : Bool := decide (c.toNat ≤ 110) && c.toNat % 2 == 0
/-- A mask that can be written, and one that can be read (R29, R42). -/
def maskDst (c : BitVec 7) : Bool := decide (1 ≤ c.toNat) && decide (c.toNat ≤ 11)
def maskSrc (c : BitVec 7) : Bool := decide (c.toNat ≤ 11)
/-- A window base of some form (R21). -/
def wbaseVal (i : BitVec 16) : Bool := (i.toNat % 16 == 0 && decide (i.toNat ≤ 144)) || i.toNat == 140
/-- A core that the larger grade has, in the numbering of the model (R1, R228). -/
def coreNumber (c : Nat) : Bool := if c % 2 = 0 then decide (c / 2 < 384) else decide (c / 2 < 128)
/-- The size of a single access, in bytes (R368). -/
def accessSize (n : Nat) : Bool := n == 1 || n == 2 || n == 4 || n == 8
/-- A host write carries at most one line of 64 bytes. -/
def lineSize (n : Nat) : Bool := decide (1 ≤ n) && decide (n ≤ 64)

/-- A well-formed instruction. -/
def Instr.wf : Instr → Bool
  | .addI32 _ s d a b => dstCode d && srcCode a && bCode s b
  | .subI32 _ s d a b => dstCode d && srcCode a && bCode s b
  | .mulI32 _ s d a b => dstCode d && srcCode a && bCode s b
  | .mulhiI32 _ s d a b => dstCode d && srcCode a && bCode s b
  | .mulhiN32 _ s d a b => dstCode d && srcCode a && bCode s b
  | .madI32 _ s d a b => dstCode d && srcCode a && bCode s b
  | .addI64 _ s d a b => dstCode d && srcCode a && bCode s b
  | .subI64 _ s d a b => dstCode d && srcCode a && bCode s b
  | .andB32 _ s d a b => dstCode d && srcCode a && bCode s b
  | .orB32 _ s d a b => dstCode d && srcCode a && bCode s b
  | .xorB32 _ s d a b => dstCode d && srcCode a && bCode s b
  | .andnB32 _ s d a b => dstCode d && srcCode a && bCode s b
  | .shlB32 _ s d a b => dstCode d && srcCode a && bCode s b
  | .shrN32 _ s d a b => dstCode d && srcCode a && bCode s b
  | .shrI32 _ s d a b => dstCode d && srcCode a && bCode s b
  | .rotB32 _ s d a b => dstCode d && srcCode a && bCode s b
  | .minI32 _ s d a b => dstCode d && srcCode a && bCode s b
  | .maxI32 _ s d a b => dstCode d && srcCode a && bCode s b
  | .minN32 _ s d a b => dstCode d && srcCode a && bCode s b
  | .maxN32 _ s d a b => dstCode d && srcCode a && bCode s b
  | .seqB32 _ s d a b => dstCode d && srcCode a && bCode s b
  | .sneB32 _ s d a b => dstCode d && srcCode a && bCode s b
  | .sltI32 _ s d a b => dstCode d && srcCode a && bCode s b
  | .sleI32 _ s d a b => dstCode d && srcCode a && bCode s b
  | .sltN32 _ s d a b => dstCode d && srcCode a && bCode s b
  | .sleN32 _ s d a b => dstCode d && srcCode a && bCode s b
  | .sel _ s d a b => dstCode d && srcCode a && bCode s b
  | .popcB32 _ d a => dstCode d && srcCode a
  | .clzB32 _ d a => dstCode d && srcCode a
  | .bfeN32 _ s d a b => dstCode d && srcCode a && bCode s b
  | .bfiB32 _ s d a b => dstCode d && srcCode a && bCode s b
  | .brevB32 _ d a => dstCode d && srcCode a
  | .addiI32 _ d a _ => dstCode d && srcCode a
  | .andi _ d a _ => dstCode d && srcCode a
  | .ori _ d a _ => dstCode d && srcCode a
  | .xori _ d a _ => dstCode d && srcCode a
  | .shli _ d a _ => dstCode d && srcCode a
  | .shriN32 _ d a _ => dstCode d && srcCode a
  | .shriI32 _ d a _ => dstCode d && srcCode a
  | .muliI32 _ d a _ => dstCode d && srcCode a
  | .dp4I8 _ s d a b => dstCode d && srcCode a && bCode s b
  | .dp4N8 _ s d a b => dstCode d && srcCode a && bCode s b
  | .mov _ d a => dstCode d && srcCode a
  | .leaX4 _ s d a b => dstCode d && srcCode a && bCode s b
  | .leaX8 _ s d a b => dstCode d && srcCode a && bCode s b
  | .faddF32 _ s d a b => dstCode d && srcCode a && bCode s b
  | .fsubF32 _ s d a b => dstCode d && srcCode a && bCode s b
  | .fmulF32 _ s d a b => dstCode d && srcCode a && bCode s b
  | .ffmaF32 _ s d a b => dstCode d && srcCode a && bCode s b
  | .fminF32 _ s d a b => dstCode d && srcCode a && bCode s b
  | .fmaxF32 _ s d a b => dstCode d && srcCode a && bCode s b
  | .fminnmF32 _ s d a b => dstCode d && srcCode a && bCode s b
  | .fmaxnmF32 _ s d a b => dstCode d && srcCode a && bCode s b
  | .fseqF32 _ s d a b => dstCode d && srcCode a && bCode s b
  | .fsltF32 _ s d a b => dstCode d && srcCode a && bCode s b
  | .fsleF32 _ s d a b => dstCode d && srcCode a && bCode s b
  | .fsunF32 _ s d a b => dstCode d && srcCode a && bCode s b
  | .fnegF32 _ d a => dstCode d && srcCode a
  | .fabsF32 _ d a => dstCode d && srcCode a
  | .frcpF32 _ d a => dstCode d && srcCode a
  | .frsqF32 _ d a => dstCode d && srcCode a
  | .fsqrtF32 _ d a => dstCode d && srcCode a
  | .fdivF32 _ s d a b => dstCode d && srcCode a && bCode s b
  | .fex2F32 _ d a => dstCode d && srcCode a
  | .flg2F32 _ d a => dstCode d && srcCode a
  | .fsinF32 _ d a => dstCode d && srcCode a
  | .fcosF32 _ d a => dstCode d && srcCode a
  | .hadd2F16 _ s d a b => dstCode d && srcCode a && bCode s b
  | .hmul2F16 _ s d a b => dstCode d && srcCode a && bCode s b
  | .hfma2F16 _ s d a b => dstCode d && srcCode a && bCode s b
  | .badd2Bf16 _ s d a b => dstCode d && srcCode a && bCode s b
  | .bmul2Bf16 _ s d a b => dstCode d && srcCode a && bCode s b
  | .bfma2Bf16 _ s d a b => dstCode d && srcCode a && bCode s b
  | .daddF64 _ s d a b => dstCode d && srcCode a && bCode s b
  | .dmulF64 _ s d a b => dstCode d && srcCode a && bCode s b
  | .dfmaF64 _ s d a b => dstCode d && srcCode a && bCode s b
  | .dsltF64 _ s d a b => dstCode d && srcCode a && bCode s b
  | .cvt _ d a r x => dstCode d && srcCode a && decide (x.toNat < 28) && r != 7
  | .fscaleF32 _ s d a b => dstCode d && srcCode a && bCode s b
  | .frndF32 _ d a r => dstCode d && srcCode a && r != 5 && r != 7
  | .fclassF32 _ d a => dstCode d && srcCode a
  | .fdot2Bf16 _ s d a b => dstCode d && srcCode a && bCode s b
  | .dseqF64 _ s d a b => dstCode d && srcCode a && bCode s b
  | .mad24I32 s d a b => dstCode d && srcCode a && bCode s b
  | .fmulLg s d a b => dstCode d && srcCode a && bCode s b
  | .vote32Ballot _ d a => dstCode d && srcCode a
  | .shfl32 s d a b => dstCode d && srcCode a && bCode s b
  | .ldI8 d a _ _ => dstCode d && srcCode a
  | .ldN8 d a _ _ => dstCode d && srcCode a
  | .ldI16 d a _ _ => dstCode d && srcCode a
  | .ldN16 d a _ _ => dstCode d && srcCode a
  | .ldB32 d a _ _ => dstCode d && srcCode a
  | .ldB64 d a _ _ => dstCode d && srcCode a
  | .ldB128 d a _ _ => dstCode d && srcCode a
  | .stB8 d a _ _ => srcCode d && srcCode a
  | .stB16 d a _ _ => srcCode d && srcCode a
  | .stB32 d a _ _ => srcCode d && srcCode a
  | .stB64 d a _ _ => srcCode d && srcCode a
  | .stB128 d a _ _ => srcCode d && srcCode a
  | .ldAcqB32 d a c _ => dstCode d && srcCode a && c != 7
  | .ldAcqB64 d a c _ => dstCode d && srcCode a && c != 7
  | .stRelB32 d a c _ => srcCode d && srcCode a && c != 7
  | .stRelB64 d a c _ => srcCode d && srcCode a && c != 7
  | .stMcB64 d a _ _ => srcCode d && srcCode a
  | .atomAddI32 _ c _ d a => srcCode d && srcCode a && c != 7
  | .atomAddF32 _ c _ d a => srcCode d && srcCode a && c != 7
  | .atomMinI32 _ c _ d a => srcCode d && srcCode a && c != 7
  | .atomMaxI32 _ c _ d a => srcCode d && srcCode a && c != 7
  | .atomMinN32 _ c _ d a => srcCode d && srcCode a && c != 7
  | .atomMaxN32 _ c _ d a => srcCode d && srcCode a && c != 7
  | .atomAndB32 _ c _ d a => srcCode d && srcCode a && c != 7
  | .atomOrB32 _ c _ d a => srcCode d && srcCode a && c != 7
  | .atomXorB32 _ c _ d a => srcCode d && srcCode a && c != 7
  | .atomExchB32 _ c _ d a => srcCode d && srcCode a && c != 7
  | .atomCasB32 _ c _ d a => srcCode d && srcCode a && c != 7
  | .atomAddI64 _ c _ d a => srcCode d && srcCode a && c != 7
  | .atomExchB64 _ c _ d a => srcCode d && srcCode a && c != 7
  | .atomCasB64 _ c _ d a => srcCode d && srcCode a && c != 7
  | .atomAdd2Bf16 _ c _ d a => srcCode d && srcCode a && c != 7
  | .pollB32 _ d a c _ => srcCode d && srcCode a && c != 7
  | .pollB64 _ d a c _ => srcCode d && srcCode a && c != 7
  | .phaseAcq c => c != 7
  | .phaseRel c => c != 7
  | .phaseAr c => c != 7
  | .fenceSg => true
  | .icinv s a b => srcCode a && bCode s b
  | .pfrange s d a b => sReg d && srcCode a && bCode s b
  | .stmap s d a b => dstCode d && srcCode a && bCode s b
  | .stunmap a => srcCode a
  | .shfl s d a b => dstCode d && srcCode a && bCode s b
  | .shflUp d a _ => dstCode d && srcCode a
  | .shflDn d a _ => dstCode d && srcCode a
  | .shflX d a _ => dstCode d && srcCode a
  | .voteAny d a => sReg d && srcCode a
  | .voteAll d a => sReg d && srcCode a
  | .voteBallot d a => sPair d && srcCode a
  | .voteEq d a => sReg d && srcCode a
  | .reduxAddI32 d a => dstCode d && srcCode a
  | .reduxMaxI32 d a => dstCode d && srcCode a
  | .reduxAddF32 d a => dstCode d && srcCode a
  | .scanAddI32 d a => dstCode d && srcCode a
  | .xsel a => srcCode a
  | .sample d a b => sReg d && srcCode a && bCode true b
  | .rngB32 d => dstCode d
  | .rngctlNext => true
  | .rngctlSetStream a => sPair a
  | .rngctlSetKey a => sPair a
  | .rngctlReadCounter d => sPair d
  | .join d => maskDst d
  | .leave a => maskDst a
  | .waitk a => maskSrc a
  | .kmov d a => maskDst d && maskSrc a
  | .kmovFromScalar d a => maskDst d && sPair a
  | .kmovToScalar d a => sPair d && maskSrc a
  | .kop d a _ => maskDst d && maskSrc a
  | .boff d _ _ => dstCode d
  | .pickup d a _ _ => dstCode d && srcCode a
  | .estat d => dstCode d
  | .exit => true
  | .ldTex2 _ => true
  | .stShared32 _ => true
  | .saddI32 _ d a b => sReg d && sSrc a && sSrc b
  | .ssubI32 _ d a b => sReg d && sSrc a && sSrc b
  | .smulI32 _ d a b => sReg d && sSrc a && sSrc b
  | .sandB32 _ d a b => sReg d && sSrc a && sSrc b
  | .sorB32 _ d a b => sReg d && sSrc a && sSrc b
  | .sxorB32 _ d a b => sReg d && sSrc a && sSrc b
  | .sshlB32 _ d a b => sReg d && sSrc a && sSrc b
  | .sshrN32 _ d a b => sReg d && sSrc a && sSrc b
  | .sshrI32 _ d a b => sReg d && sSrc a && sSrc b
  | .sminI32 _ d a b => sReg d && sSrc a && sSrc b
  | .smaxI32 _ d a b => sReg d && sSrc a && sSrc b
  | .sminN32 _ d a b => sReg d && sSrc a && sSrc b
  | .smaxN32 _ d a b => sReg d && sSrc a && sSrc b
  | .sseqB32 _ d a b => sReg d && sSrc a && sSrc b
  | .ssltI32 _ d a b => sReg d && sSrc a && sSrc b
  | .ssltN32 _ d a b => sReg d && sSrc a && sSrc b
  | .ssel _ d a b => sReg d && sSrc a && sSrc b
  | .smov _ d a => sReg d && sSrc a
  | .sli d _ => sReg d
  | .slih d _ => sReg d
  | .saddi d _ => sReg d
  | .vli d _ => dstCode d
  | .vlih d _ => dstCode d
  | .sldB32 d a _ _ => sReg d && sSrc a
  | .sldB64 d a _ _ => sPair d && sSrc a
  | .sstB32 d a _ _ => sSrc d && sSrc a
  | .sstB64 d a _ _ => sSrc d && sSrc a
  | .srd d _ => sReg d
  | .swr d _ => sSrc d
  | .wbase i => wbaseVal i
  | .bnz a _ => srcCode a
  | .bz a _ => srcCode a
  | .bra _ => true
  | .bnzs a _ => sSrc a
  | .call a _ => dstCode a
  | .ret a => dstCode a
  | .jmp a => dstCode a
  | .yield => true
  | .migr _ => true
  | .sbar32 _ => true
  | .sjoin32 _ => true
  | .trap _ => true
  | .rft => true
  | .tfence => true
  | .halt => true
  | .sleep a => sPair a
  | .sleepc _ => true
  | .barWg => true
  | .barCl i => decide (i.toNat < 32)
  | .barcInit a b => sReg a && sReg b
  | .barcArrive a => sReg a
  | .barcWait a => sReg a
  | .macq => true
  | .mrel => true
  | .mldw a b => sReg a && sReg b
  | .mldwTable a b => sReg a && sReg b
  | .mswap => true
  | .mswapFl => true
  | .mstr d a b => sReg d && sReg a && sReg b
  | .mrd d a b => sReg d && sReg a && sReg b
  | .mzero _ => true
  | .mstat d => sReg d
  | .ttpost d a => sReg d && sReg a
  | .npost d a => sPair d && decide (a.toNat ≤ 104)
  | .nctlRetry a b => sReg a && sReg b
  | .nctlSkip a b => sReg a && sReg b
  | .nctlAbort a b => sReg a && sReg b
  | .nctlExtend a b => sReg a && sReg b
  | .bseal d => sReg d
  | .bwait a => sReg a
  | .cwait a b => sReg a && sPair b
  | .oscan a b => sReg a && sReg b
  | .ocomp a b => sReg a && sReg b
  | .olegal a b => sReg a && sReg b
  | .oapply a b => sReg a && sReg b
  | .ostat d => sReg d
  | .j _ => true
  | .jl _ => true
  | .retiredXGroup _ _ => true
  | .nAdd _ _ _ => true
  | .nSub _ _ _ => true
  | .nMul _ _ _ => true
  | .nAnd _ _ _ => true
  | .nOr _ _ _ => true
  | .nXor _ _ _ => true
  | .nShl _ _ _ => true
  | .nShr _ _ _ => true
  | .nMin _ _ _ => true
  | .nMax _ _ _ => true
  | .nAddi _ _ _ => true
  | .nLi _ _ => true
  | .nLih _ _ => true
  | .nBz _ _ => true
  | .nBnz _ _ => true
  | .nBlt _ _ _ => true
  | .nLoop _ _ => true
  | .nLdB32 _ _ _ => true
  | .nLdB64 _ _ _ => true
  | .nStB64 _ _ _ => true
  | .nTag _ _ => true
  | .nStep _ _ => true
  | .nCopy _ _ _ => true
  | .nGather _ _ _ => true
  | .nScat _ _ _ => true
  | .nChunk _ _ => true
  | .nArrive _ => true
  | .nWait _ => true
  | .nPromise _ => true
  | .nEnd => true
  | .nTrap _ => true
  | .loadDataArrival _ => true
  | .releaseComplete _ => true
  | .pageWalkComplete core => coreNumber core
  | .pollReread core _ => coreNumber core
  | .fairTExpiry core _ => coreNumber core
  | .sleepExpiry _ => true
  | .sleepcExpiry _ => true
  | .trapEntry _ => true
  | .asyncTrapEntry _ => true
  | .faultServiceResolved _ => true
  | .faultServiceUnresolvable _ => true
  | .continuationEntry _ => true
  | .accclaim core => coreNumber core
  | .promiseExpiry _ slot => decide (slot < 64)
  | .needleTakeEntry core _ => coreNumber core
  | .matrixCommandComplete core => coreNumber core
  | .tileTaskStart cluster => decide (cluster < 64)
  | .tileTaskComplete cluster => decide (cluster < 64)
  | .orreryCommandPerform cluster => decide (cluster < 64)
  | .pfrangeComplete _ => true
  | .qrsvRead _ => true
  | .qctlEnable _ _ => true
  | .qctlDrain _ => true
  | .queueDrainEnd _ => true
  | .queueWake _ => true
  | .queueRescan => true
  | .entryConsume _ => true
  | .nop _ => true
  | .launch _ => true
  | .launchAdmission _ => true
  | .graph _ => true
  | .graphNodeStart _ _ => true
  | .loopIteration _ _ => true
  | .signal _ => true
  | .wait _ => true
  | .waitSatisfied _ => true
  | .releaseEstates _ => true
  | .regionUpdate _ => true
  | .regionCreate _ => true
  | .regionDestroy _ => true
  | .regionCheckpoint _ => true
  | .workgroupPlacement _ => true
  | .estateMoveComplete core _ _ => coreNumber core
  | .estateArrival _ => true
  | .workgroupBirth _ => true
  | .workgroupFree _ => true
  | .preemptDecision core => coreNumber core
  | .preemptDeadline core => coreNumber core
  | .preemptionSwap core _ => coreNumber core
  | .shadowSpillFill core _ => coreNumber core
  | .scratchpadPageExchange _ _ => true
  | .dvfsStep die _ _ => decide (die < 4)
  | .relockEnd die _ => decide (die < 4)
  | .debugResume _ _ => true
  | .pcSample core => coreNumber core
  | .patrolScrub _ _ => true
  | .xinvCtlGo => true
  | .invalidationComplete => true
  | .devCtlResume => true
  | .dbgCtlGo => true
  | .jridxWrite _ => true
  | .cntCtlFreeze _ => true
  | .cntCtlClear => true
  | .expCtlOpen win _ => decide (win < 16)
  | .expCtlClose win => decide (win < 16)
  | .exportCloseComplete win => decide (win < 16)
  | .registerWrite _ size _ => accessSize size
  | .bar2Read _ size => accessSize size
  | .bar2Write _ size _ => lineSize size
  | .hostAtomicop _ _ _ _ _ => true
  | .sidebandRead _ size => accessSize size
  | .pldmSensorRead _ => true
  | .powerCapEffecter _ => true
  | .resetEffecter => true
  | .coldResetEffecter => true
  | .firmwareUpdate _ => true
  | .functionLevelReset => true
  | .flrComplete => true
  | .surpriseLinkLoss => true
  | .quiesceComplete => true
  | .linkRetrain => true
  | .powerOn _ => true
  | .perstDeassert => true
  | .bringupReady => true
  | .thermalThrottle die => decide (die < 4)
  | .thermalTrip => true
  | .flitReceive port _ _ _ => decide (port < 128)
  | .ackTimeout port => decide (port < 128)
  | .portRetrainComplete port _ _ => decide (port < 128)
  | .remoteRequest id _ _ _ size _ => decide (id.1 < 128) && decide (1 ≤ size) && decide (size ≤ 128)
  | .remoteTimeout _ _ => true
  | .responseRetentionExpiry _ => true
  | .ptpMessage _ _ => true
  | .reservedOpcode _ => true
  | .fetchBufferFill core _ => coreNumber core
  | .pickupComplete _ => true
  | .clockCycle die _ => decide (die < 4)
  | .softError _ _ _ => true
  | .cxlMemRequest write _ size _ => if write then lineSize size else accessSize size
  | .resizableBarResize _ => true

end Sys2Proof
end

