-- ==== Sys2Proof/Tests/Slice0.lean ====
section
/-!
SUPPORT. Tests on single words and single steps, with expected results from the tables and the worked examples of spec/, and witnesses that the premises of the
statements can be met together.
-/

set_option Elab.async false

namespace Sys2Proof

open Machine Claim

/-! ### One word for each encoding row, its fields filled with values that differ (R49 to R54) -/

theorem test_decode_v_rows_1 :
    decode 0x004b68f5 = .ok (.addI32 true false 0x2d 0x51 0x75) ∧
    decode 0x00cb68f5 = .ok (.subI32 true false 0x2d 0x51 0x75) ∧
    decode 0x014b68f5 = .ok (.mulI32 true false 0x2d 0x51 0x75) ∧
    decode 0x01cb68f5 = .ok (.mulhiI32 true false 0x2d 0x51 0x75) ∧
    decode 0x024b68f5 = .ok (.mulhiN32 true false 0x2d 0x51 0x75) ∧
    decode 0x02cb68f5 = .ok (.madI32 true false 0x2d 0x51 0x75) ∧
    decode 0x034b68f5 = .ok (.addI64 true false 0x2d 0x51 0x75) ∧
    decode 0x03cb68f5 = .ok (.subI64 true false 0x2d 0x51 0x75) ∧
    decode 0x044b68f5 = .ok (.andB32 true false 0x2d 0x51 0x75) ∧
    decode 0x04cb68f5 = .ok (.orB32 true false 0x2d 0x51 0x75) := by
  repeat' apply And.intro
  all_goals rfl

theorem test_decode_v_rows_2 :
    decode 0x054b68f5 = .ok (.xorB32 true false 0x2d 0x51 0x75) ∧
    decode 0x05cb68f5 = .ok (.andnB32 true false 0x2d 0x51 0x75) ∧
    decode 0x064b68f5 = .ok (.shlB32 true false 0x2d 0x51 0x75) ∧
    decode 0x06cb68f5 = .ok (.shrN32 true false 0x2d 0x51 0x75) ∧
    decode 0x074b68f5 = .ok (.shrI32 true false 0x2d 0x51 0x75) ∧
    decode 0x07cb68f5 = .ok (.rotB32 true false 0x2d 0x51 0x75) ∧
    decode 0x084b68f5 = .ok (.minI32 true false 0x2d 0x51 0x75) ∧
    decode 0x08cb68f5 = .ok (.maxI32 true false 0x2d 0x51 0x75) ∧
    decode 0x094b68f5 = .ok (.minN32 true false 0x2d 0x51 0x75) ∧
    decode 0x09cb68f5 = .ok (.maxN32 true false 0x2d 0x51 0x75) := by
  repeat' apply And.intro
  all_goals rfl

theorem test_decode_v_rows_3 :
    decode 0x0a4b68f5 = .ok (.seqB32 true false 0x2d 0x51 0x75) ∧
    decode 0x0acb68f5 = .ok (.sneB32 true false 0x2d 0x51 0x75) ∧
    decode 0x0b4b68f5 = .ok (.sltI32 true false 0x2d 0x51 0x75) ∧
    decode 0x0bcb68f5 = .ok (.sleI32 true false 0x2d 0x51 0x75) ∧
    decode 0x0c4b68f5 = .ok (.sltN32 true false 0x2d 0x51 0x75) ∧
    decode 0x0ccb68f5 = .ok (.sleN32 true false 0x2d 0x51 0x75) ∧
    decode 0x0d4b68f5 = .ok (.sel true false 0x2d 0x51 0x75) ∧
    decode 0x0dc25680 = .ok (.popcB32 true 0x9 0x2d) ∧
    decode 0x0e425680 = .ok (.clzB32 true 0x9 0x2d) ∧
    decode 0x0ecb68f5 = .ok (.bfeN32 true false 0x2d 0x51 0x75) := by
  repeat' apply And.intro
  all_goals rfl

theorem test_decode_v_rows_4 :
    decode 0x0f4b68f5 = .ok (.bfiB32 true false 0x2d 0x51 0x75) ∧
    decode 0x0fc25680 = .ok (.brevB32 true 0x9 0x2d) ∧
    decode 0x1044ad11 = .ok (.addiI32 true 0x9 0x2d 0x11) ∧
    decode 0x10c4ad11 = .ok (.andi true 0x9 0x2d 0x11) ∧
    decode 0x1144ad11 = .ok (.ori true 0x9 0x2d 0x11) ∧
    decode 0x11c4ad11 = .ok (.xori true 0x9 0x2d 0x11) ∧
    decode 0x1244ad01 = .ok (.shli true 0x9 0x2d 0x1) ∧
    decode 0x12c4ad01 = .ok (.shriN32 true 0x9 0x2d 0x1) ∧
    decode 0x1344ad01 = .ok (.shriI32 true 0x9 0x2d 0x1) ∧
    decode 0x13c4ad11 = .ok (.muliI32 true 0x9 0x2d 0x11) := by
  repeat' apply And.intro
  all_goals rfl

theorem test_decode_v_rows_5 :
    decode 0x144b68f5 = .ok (.dp4I8 true false 0x2d 0x51 0x75) ∧
    decode 0x14cb68f5 = .ok (.dp4N8 true false 0x2d 0x51 0x75) ∧
    decode 0x15425680 = .ok (.mov true 0x9 0x2d) ∧
    decode 0x164b68f5 = .ok (.leaX4 true false 0x2d 0x51 0x75) ∧
    decode 0x16cb68f5 = .ok (.leaX8 true false 0x2d 0x51 0x75) ∧
    decode 0x184b68f5 = .ok (.faddF32 true false 0x2d 0x51 0x75) ∧
    decode 0x18cb68f5 = .ok (.fsubF32 true false 0x2d 0x51 0x75) ∧
    decode 0x194b68f5 = .ok (.fmulF32 true false 0x2d 0x51 0x75) ∧
    decode 0x19cb68f5 = .ok (.ffmaF32 true false 0x2d 0x51 0x75) ∧
    decode 0x1a4b68f5 = .ok (.fminF32 true false 0x2d 0x51 0x75) := by
  repeat' apply And.intro
  all_goals rfl

theorem test_decode_v_rows_6 :
    decode 0x1acb68f5 = .ok (.fmaxF32 true false 0x2d 0x51 0x75) ∧
    decode 0x1b4b68f5 = .ok (.fminnmF32 true false 0x2d 0x51 0x75) ∧
    decode 0x1bcb68f5 = .ok (.fmaxnmF32 true false 0x2d 0x51 0x75) ∧
    decode 0x1c4b68f5 = .ok (.fseqF32 true false 0x2d 0x51 0x75) ∧
    decode 0x1ccb68f5 = .ok (.fsltF32 true false 0x2d 0x51 0x75) ∧
    decode 0x1d4b68f5 = .ok (.fsleF32 true false 0x2d 0x51 0x75) ∧
    decode 0x1dcb68f5 = .ok (.fsunF32 true false 0x2d 0x51 0x75) ∧
    decode 0x1e425680 = .ok (.fnegF32 true 0x9 0x2d) ∧
    decode 0x1ec25680 = .ok (.fabsF32 true 0x9 0x2d) ∧
    decode 0x1f425680 = .ok (.frcpF32 true 0x9 0x2d) := by
  repeat' apply And.intro
  all_goals rfl

theorem test_decode_v_rows_7 :
    decode 0x1fc25680 = .ok (.frsqF32 true 0x9 0x2d) ∧
    decode 0x20425680 = .ok (.fsqrtF32 true 0x9 0x2d) ∧
    decode 0x20cb68f5 = .ok (.fdivF32 true false 0x2d 0x51 0x75) ∧
    decode 0x21425680 = .ok (.fex2F32 true 0x9 0x2d) ∧
    decode 0x21c25680 = .ok (.flg2F32 true 0x9 0x2d) ∧
    decode 0x22425680 = .ok (.fsinF32 true 0x9 0x2d) ∧
    decode 0x22c25680 = .ok (.fcosF32 true 0x9 0x2d) ∧
    decode 0x234b68f5 = .ok (.hadd2F16 true false 0x2d 0x51 0x75) ∧
    decode 0x23cb68f5 = .ok (.hmul2F16 true false 0x2d 0x51 0x75) ∧
    decode 0x244b68f5 = .ok (.hfma2F16 true false 0x2d 0x51 0x75) := by
  repeat' apply And.intro
  all_goals rfl

theorem test_decode_v_rows_8 :
    decode 0x24cb68f5 = .ok (.badd2Bf16 true false 0x2d 0x51 0x75) ∧
    decode 0x254b68f5 = .ok (.bmul2Bf16 true false 0x2d 0x51 0x75) ∧
    decode 0x25cb68f5 = .ok (.bfma2Bf16 true false 0x2d 0x51 0x75) ∧
    decode 0x264b68f5 = .ok (.daddF64 true false 0x2d 0x51 0x75) ∧
    decode 0x26cb68f5 = .ok (.dmulF64 true false 0x2d 0x51 0x75) ∧
    decode 0x274b68f5 = .ok (.dfmaF64 true false 0x2d 0x51 0x75) ∧
    decode 0x27cb68f5 = .ok (.dsltF64 true false 0x2d 0x51 0x75) ∧
    decode 0x2844ad85 = .ok (.cvt true 0x9 0x2d 0x4 0x5) ∧
    decode 0x28cb68f5 = .ok (.fscaleF32 true false 0x2d 0x51 0x75) ∧
    decode 0x2944ad80 = .ok (.frndF32 true 0x9 0x2d 0x4) := by
  repeat' apply And.intro
  all_goals rfl

theorem test_decode_v_rows_9 :
    decode 0x29c25680 = .ok (.fclassF32 true 0x9 0x2d) ∧
    decode 0x2a4b68f5 = .ok (.fdot2Bf16 true false 0x2d 0x51 0x75) ∧
    decode 0x2acb68f5 = .ok (.dseqF64 true false 0x2d 0x51 0x75) ∧
    decode 0x302256d1 = .ok (.mad24I32 true 0x9 0x2d 0x51) ∧
    decode 0x30a256d1 = .ok (.fmulLg true 0x9 0x2d 0x51) ∧
    decode 0x31225680 = .ok (.vote32Ballot true 0x9 0x2d) ∧
    decode 0x31a256d1 = .ok (.shfl32 true 0x9 0x2d 0x51) := by
  repeat' apply And.intro
  all_goals rfl

theorem test_decode_m_rows_1 :
    decode 0x403289b1 = .ok (.ldI8 0x65 0x9 0x2 0x31) ∧
    decode 0x40b289b1 = .ok (.ldN8 0x65 0x9 0x2 0x31) ∧
    decode 0x413289b1 = .ok (.ldI16 0x65 0x9 0x2 0x31) ∧
    decode 0x41b289b1 = .ok (.ldN16 0x65 0x9 0x2 0x31) ∧
    decode 0x423289b1 = .ok (.ldB32 0x65 0x9 0x2 0x31) ∧
    decode 0x42b289b1 = .ok (.ldB64 0x65 0x9 0x2 0x31) ∧
    decode 0x433289b1 = .ok (.ldB128 0x65 0x9 0x2 0x31) ∧
    decode 0x443289b1 = .ok (.stB8 0x65 0x9 0x2 0x31) ∧
    decode 0x44b289b1 = .ok (.stB16 0x65 0x9 0x2 0x31) ∧
    decode 0x453289b1 = .ok (.stB32 0x65 0x9 0x2 0x31) := by
  repeat' apply And.intro
  all_goals rfl

theorem test_decode_m_rows_2 :
    decode 0x45b289b1 = .ok (.stB64 0x65 0x9 0x2 0x31) ∧
    decode 0x463289b1 = .ok (.stB128 0x65 0x9 0x2 0x31) ∧
    decode 0x47328970 = .ok (.ldAcqB32 0x65 0x9 0x3 0x2) ∧
    decode 0x47b28970 = .ok (.ldAcqB64 0x65 0x9 0x3 0x2) ∧
    decode 0x48328970 = .ok (.stRelB32 0x65 0x9 0x3 0x2) ∧
    decode 0x48b28970 = .ok (.stRelB64 0x65 0x9 0x3 0x2) ∧
    decode 0x493289b1 = .ok (.stMcB64 0x65 0x9 0x2 0x31) ∧
    decode 0x506428f5 = .ok (.atomAddI32 true 0x4 0x2 0x51 0x75) ∧
    decode 0x50e428f5 = .ok (.atomAddF32 true 0x4 0x2 0x51 0x75) ∧
    decode 0x516428f5 = .ok (.atomMinI32 true 0x4 0x2 0x51 0x75) := by
  repeat' apply And.intro
  all_goals rfl

theorem test_decode_m_rows_3 :
    decode 0x51e428f5 = .ok (.atomMaxI32 true 0x4 0x2 0x51 0x75) ∧
    decode 0x526428f5 = .ok (.atomMinN32 true 0x4 0x2 0x51 0x75) ∧
    decode 0x52e428f5 = .ok (.atomMaxN32 true 0x4 0x2 0x51 0x75) ∧
    decode 0x536428f5 = .ok (.atomAndB32 true 0x4 0x2 0x51 0x75) ∧
    decode 0x53e428f5 = .ok (.atomOrB32 true 0x4 0x2 0x51 0x75) ∧
    decode 0x546428f5 = .ok (.atomXorB32 true 0x4 0x2 0x51 0x75) ∧
    decode 0x54e428f5 = .ok (.atomExchB32 true 0x4 0x2 0x51 0x75) ∧
    decode 0x556428f5 = .ok (.atomCasB32 true 0x4 0x2 0x51 0x75) ∧
    decode 0x55e428f5 = .ok (.atomAddI64 true 0x4 0x2 0x51 0x75) ∧
    decode 0x566428f5 = .ok (.atomExchB64 true 0x4 0x2 0x51 0x75) := by
  repeat' apply And.intro
  all_goals rfl

theorem test_decode_m_rows_4 :
    decode 0x56e428f5 = .ok (.atomCasB64 true 0x4 0x2 0x51 0x75) ∧
    decode 0x576428f5 = .ok (.atomAdd2Bf16 true 0x4 0x2 0x51 0x75) ∧
    decode 0x5844ad90 = .ok (.pollB32 true 0x9 0x2d 0x4 0x2) ∧
    decode 0x58c4ad90 = .ok (.pollB64 true 0x9 0x2d 0x4 0x2) ∧
    decode 0x5c1a0000 = .ok (.phaseAcq 0x3) ∧
    decode 0x5c1c0000 = .ok (.phaseRel 0x3) ∧
    decode 0x5c1e0000 = .ok (.phaseAr 0x3) ∧
    decode 0x5c800000 = .ok (.fenceSg) ∧
    decode 0x5d2004ad = .ok (.icinv true 0x9 0x2d) ∧
    decode 0x5da256d1 = .ok (.pfrange true 0x9 0x2d 0x51) := by
  repeat' apply And.intro
  all_goals rfl

theorem test_decode_m_rows_5 :
    decode 0x5e2256d1 = .ok (.stmap true 0x9 0x2d 0x51) ∧
    decode 0x5e803280 = .ok (.stunmap 0x65) ∧
    decode 0x602256d1 = .ok (.shfl true 0x9 0x2d 0x51) ∧
    decode 0x60b2896d = .ok (.shflUp 0x65 0x9 0x6d) ∧
    decode 0x6132896d = .ok (.shflDn 0x65 0x9 0x6d) ∧
    decode 0x61b2896d = .ok (.shflX 0x65 0x9 0x6d) ∧
    decode 0x62194480 = .ok (.voteAny 0x65 0x9) ∧
    decode 0x62994480 = .ok (.voteAll 0x65 0x9) ∧
    decode 0x63194480 = .ok (.voteBallot 0x65 0x9) ∧
    decode 0x63994480 = .ok (.voteEq 0x65 0x9) := by
  repeat' apply And.intro
  all_goals rfl

theorem test_decode_m_rows_6 :
    decode 0x64194480 = .ok (.reduxAddI32 0x65 0x9) ∧
    decode 0x64994480 = .ok (.reduxMaxI32 0x65 0x9) ∧
    decode 0x65194480 = .ok (.reduxAddF32 0x65 0x9) ∧
    decode 0x65994480 = .ok (.scanAddI32 0x65 0x9) ∧
    decode 0x66003280 = .ok (.xsel 0x65) ∧
    decode 0x66b944ad = .ok (.sample 0x65 0x9 0x2d) ∧
    decode 0x67194000 = .ok (.rngB32 0x65) ∧
    decode 0x67800000 = .ok (.rngctlNext) ∧
    decode 0x67806501 = .ok (.rngctlSetStream 0x65) ∧
    decode 0x67806502 = .ok (.rngctlSetKey 0x65) := by
  repeat' apply And.intro
  all_goals rfl

theorem test_decode_m_rows_7 :
    decode 0x67b28003 = .ok (.rngctlReadCounter 0x65) ∧
    decode 0x6c194000 = .ok (.join 0x65) ∧
    decode 0x6c803280 = .ok (.leave 0x65) ∧
    decode 0x6d003280 = .ok (.waitk 0x65) ∧
    decode 0x6d994480 = .ok (.kmov 0x65 0x9) ∧
    decode 0x6d994481 = .ok (.kmovFromScalar 0x65 0x9) ∧
    decode 0x6d994482 = .ok (.kmovToScalar 0x65 0x9) ∧
    decode 0x6e328905 = .ok (.kop 0x65 0x9 0x5) ∧
    decode 0x7032809d = .ok (.boff 0x65 0x4 0x1d) ∧
    decode 0x70b28961 = .ok (.pickup 0x65 0x9 0x3 0x1) := by
  repeat' apply And.intro
  all_goals rfl

theorem test_decode_m_rows_8 :
    decode 0x71194000 = .ok (.estat 0x65) ∧
    decode 0x71800000 = .ok (.exit) ∧
    decode 0x787d77a5 = .ok (.ldTex2 0x7d77a5) ∧
    decode 0x78fd77a5 = .ok (.stShared32 0x7d77a5) := by
  repeat' apply And.intro
  all_goals rfl

theorem test_decode_s_rows_1 :
    decode 0x804256d1 = .ok (.saddI32 true 0x9 0x2d 0x51) ∧
    decode 0x80c256d1 = .ok (.ssubI32 true 0x9 0x2d 0x51) ∧
    decode 0x814256d1 = .ok (.smulI32 true 0x9 0x2d 0x51) ∧
    decode 0x81c256d1 = .ok (.sandB32 true 0x9 0x2d 0x51) ∧
    decode 0x824256d1 = .ok (.sorB32 true 0x9 0x2d 0x51) ∧
    decode 0x82c256d1 = .ok (.sxorB32 true 0x9 0x2d 0x51) ∧
    decode 0x834256d1 = .ok (.sshlB32 true 0x9 0x2d 0x51) ∧
    decode 0x83c256d1 = .ok (.sshrN32 true 0x9 0x2d 0x51) ∧
    decode 0x844256d1 = .ok (.sshrI32 true 0x9 0x2d 0x51) ∧
    decode 0x84c256d1 = .ok (.sminI32 true 0x9 0x2d 0x51) := by
  repeat' apply And.intro
  all_goals rfl

theorem test_decode_s_rows_2 :
    decode 0x854256d1 = .ok (.smaxI32 true 0x9 0x2d 0x51) ∧
    decode 0x85c256d1 = .ok (.sminN32 true 0x9 0x2d 0x51) ∧
    decode 0x864256d1 = .ok (.smaxN32 true 0x9 0x2d 0x51) ∧
    decode 0x86c256d1 = .ok (.sseqB32 true 0x9 0x2d 0x51) ∧
    decode 0x874256d1 = .ok (.ssltI32 true 0x9 0x2d 0x51) ∧
    decode 0x87c256d1 = .ok (.ssltN32 true 0x9 0x2d 0x51) ∧
    decode 0x884256d1 = .ok (.ssel true 0x9 0x2d 0x51) ∧
    decode 0x88c25680 = .ok (.smov true 0x9 0x2d) ∧
    decode 0x90656f49 = .ok (.sli 0x65 0x6f49) ∧
    decode 0x90e56f49 = .ok (.slih 0x65 0x6f49) := by
  repeat' apply And.intro
  all_goals rfl

theorem test_decode_s_rows_3 :
    decode 0x91656f49 = .ok (.saddi 0x65 0x6f49) ∧
    decode 0x91e56f49 = .ok (.vli 0x65 0x6f49) ∧
    decode 0x92656f49 = .ok (.vlih 0x65 0x6f49) ∧
    decode 0x943289b1 = .ok (.sldB32 0x65 0x9 0x2 0x31) ∧
    decode 0x94b289b1 = .ok (.sldB64 0x65 0x9 0x2 0x31) ∧
    decode 0x953289b1 = .ok (.sstB32 0x65 0x9 0x2 0x31) ∧
    decode 0x95b289b1 = .ok (.sstB64 0x65 0x9 0x2 0x31) ∧
    decode 0x98656f49 = .ok (.srd 0x65 0x6f49) ∧
    decode 0x98e56f49 = .ok (.swr 0x65 0x6f49) ∧
    decode 0x9900f7a5 = .ok (.wbase 0xf7a5) := by
  repeat' apply And.intro
  all_goals rfl

theorem test_decode_s_rows_4 :
    decode 0xa0656f49 = .ok (.bnz 0x65 0x6f49) ∧
    decode 0xa0e56f49 = .ok (.bz 0x65 0x6f49) ∧
    decode 0xa100f7a5 = .ok (.bra 0xf7a5) ∧
    decode 0xa1e56f49 = .ok (.bnzs 0x65 0x6f49) ∧
    decode 0xa2656f49 = .ok (.call 0x65 0x6f49) ∧
    decode 0xa2e50000 = .ok (.ret 0x65) ∧
    decode 0xa3650000 = .ok (.jmp 0x65) ∧
    decode 0xa3800000 = .ok (.yield) ∧
    decode 0xa480f7a5 = .ok (.migr 0xf7a5) ∧
    decode 0xb07d77a5 = .ok (.sbar32 0x7d77a5) := by
  repeat' apply And.intro
  all_goals rfl

theorem test_decode_s_rows_5 :
    decode 0xb0fd77a5 = .ok (.sjoin32 0x7d77a5) := by
  rfl

theorem test_decode_x_rows_1 :
    decode 0xc00d77a5 = .ok (.trap 0xd77a5) ∧
    decode 0xc0200000 = .ok (.rft) ∧
    decode 0xc0400000 = .ok (.tfence) ∧
    decode 0xc0600000 = .ok (.halt) ∧
    decode 0xc0803280 = .ok (.sleep 0x65) ∧
    decode 0xc0ad77a5 = .ok (.sleepc 0xd77a5) ∧
    decode 0xc2000000 = .ok (.barWg) ∧
    decode 0xc22d77a5 = .ok (.barCl 0xd77a5) ∧
    decode 0xc2403289 = .ok (.barcInit 0x65 0x9) ∧
    decode 0xc2603280 = .ok (.barcArrive 0x65) := by
  repeat' apply And.intro
  all_goals rfl

theorem test_decode_x_rows_2 :
    decode 0xc2803280 = .ok (.barcWait 0x65) ∧
    decode 0xc4000000 = .ok (.macq) ∧
    decode 0xc4200000 = .ok (.mrel) ∧
    decode 0xc4403289 = .ok (.mldw 0x65 0x9) ∧
    decode 0xc4600000 = .ok (.mswap) ∧
    decode 0xc4600001 = .ok (.mswapFl) ∧
    decode 0xc49944ad = .ok (.mstr 0x65 0x9 0x2d) ∧
    decode 0xc4b944ad = .ok (.mrd 0x65 0x9 0x2d) ∧
    decode 0xc4c00003 = .ok (.mzero 0x3) ∧
    decode 0xc4f94000 = .ok (.mstat 0x65) := by
  repeat' apply And.intro
  all_goals rfl

theorem test_decode_x_rows_3 :
    decode 0xc5194480 = .ok (.ttpost 0x65 0x9) ∧
    decode 0xc6194480 = .ok (.npost 0x65 0x9) ∧
    decode 0xc6203289 = .ok (.nctlRetry 0x65 0x9) ∧
    decode 0xc6594000 = .ok (.bseal 0x65) ∧
    decode 0xc6603280 = .ok (.bwait 0x65) ∧
    decode 0xc6803289 = .ok (.cwait 0x65 0x9) ∧
    decode 0xc8003289 = .ok (.oscan 0x65 0x9) ∧
    decode 0xc8203289 = .ok (.ocomp 0x65 0x9) ∧
    decode 0xc8403289 = .ok (.olegal 0x65 0x9) ∧
    decode 0xc8603289 = .ok (.oapply 0x65 0x9) := by
  repeat' apply And.intro
  all_goals rfl

theorem test_decode_x_rows_4 :
    decode 0xc8994000 = .ok (.ostat 0x65) ∧
    decode 0xcabd77a5 = .ok (.j 0xbd77a5) ∧
    decode 0xcbbd77a5 = .ok (.jl 0xbd77a5) ∧
    decode 0xfb7aef49 = .ok (.retiredXGroup 0x1 0x17aef49) := by
  repeat' apply And.intro
  all_goals rfl

theorem test_decode_n_rows_1 :
    decode 0xcc0d1500 = .ok (.nAdd 0xd 0x1 0x5) ∧
    decode 0xcc1d1500 = .ok (.nSub 0xd 0x1 0x5) ∧
    decode 0xcc2d1500 = .ok (.nMul 0xd 0x1 0x5) ∧
    decode 0xcc3d1500 = .ok (.nAnd 0xd 0x1 0x5) ∧
    decode 0xcc4d1500 = .ok (.nOr 0xd 0x1 0x5) ∧
    decode 0xcc5d1500 = .ok (.nXor 0xd 0x1 0x5) ∧
    decode 0xcc6d1500 = .ok (.nShl 0xd 0x1 0x5) ∧
    decode 0xcc7d1500 = .ok (.nShr 0xd 0x1 0x5) ∧
    decode 0xcc8d1500 = .ok (.nMin 0xd 0x1 0x5) ∧
    decode 0xcc9d1500 = .ok (.nMax 0xd 0x1 0x5) := by
  repeat' apply And.intro
  all_goals rfl

theorem test_decode_n_rows_2 :
    decode 0xccad106d = .ok (.nAddi 0xd 0x1 0x6d) ∧
    decode 0xccbd6f49 = .ok (.nLi 0xd 0x6f49) ∧
    decode 0xcccd6f49 = .ok (.nLih 0xd 0x6f49) ∧
    decode 0xccdd6f49 = .ok (.nBz 0xd 0x6f49) ∧
    decode 0xcced6f49 = .ok (.nBnz 0xd 0x6f49) ∧
    decode 0xccf0d16d = .ok (.nBlt 0xd 0x1 0x6d) ∧
    decode 0xcd0d6f49 = .ok (.nLoop 0xd 0x6f49) ∧
    decode 0xcd1d106d = .ok (.nLdB32 0xd 0x1 0x6d) ∧
    decode 0xcd2d106d = .ok (.nLdB64 0xd 0x1 0x6d) ∧
    decode 0xcd3d106d = .ok (.nStB64 0xd 0x1 0x6d) := by
  repeat' apply And.intro
  all_goals rfl

theorem test_decode_n_rows_3 :
    decode 0xcd421000 = .ok (.nTag 0x2 0x1) ∧
    decode 0xcd5200c9 = .ok (.nStep 0x2 0xc9) ∧
    decode 0xcd622500 = .ok (.nCopy 0x2 0x2 0x5) ∧
    decode 0xcd722500 = .ok (.nGather 0x2 0x2 0x5) ∧
    decode 0xcd822500 = .ok (.nScat 0x2 0x2 0x5) ∧
    decode 0xcd90d100 = .ok (.nChunk 0xd 0x1) ∧
    decode 0xcda0d000 = .ok (.nArrive 0xd) ∧
    decode 0xcdb0d000 = .ok (.nWait 0xd) ∧
    decode 0xcdc0d000 = .ok (.nPromise 0xd) ∧
    decode 0xcdd00000 = .ok (.nEnd) := by
  repeat' apply And.intro
  all_goals rfl

theorem test_decode_n_rows_4 :
    decode 0xcde0f7a5 = .ok (.nTrap 0xf7a5) := by
  rfl

/-! ### Words that spec/ writes out, with what they stand for -/

/-- R39 to R54, the tables of the assembly language. -/
theorem test_decode_words_of_the_assembly_chapter :
    decode 0x00004103 = .ok (.addI32 false false 1 2 3) ∧
    decode 0x01013805 = .ok (.mulI32 false false 4 112 5) ∧
    decode 0x00400103 = .ok (.addI32 true false 0 2 3) ∧
    decode 0x18220484 = .ok (.faddF32 false true 8 9 4) ∧
    decode 0x100307fd = .ok (.addiI32 false 6 7 0xfd) ∧
    decode 0x42030a42 = .ok (.ldB32 6 10 1 2) ∧
    decode 0x502e0194 = .ok (.atomAddI32 false 5 3 3 20) ∧
    decode 0x5c1c0000 = .ok (.phaseRel 3) ∧
    decode 0x90031234 = .ok (.sli 3 0x1234) ∧
    decode 0xa005fffd = .ok (.bnz 5 0xfffd) ∧
    decode 0xc2200007 = .ok (.barCl 7) ∧
    decode 0xcb001000 = .ok (.jl 0x1000) ∧
    decode 0xcc056700 = .ok (.nAdd 5 6 7) := by
  repeat' apply And.intro
  all_goals rfl

/-- R86 to R96. -/
theorem test_decode_integer_words :
    decode 0x0620c209 = .ok (.shlB32 false true 3 4 9) ∧
    decode 0x0b01c478 = .ok (.sltI32 false false 7 8 120) ∧
    decode 0x00c00103 = .ok (.subI32 true false 0 2 3) ∧
    decode 0x108307f0 = .ok (.andi false 6 7 0xf0) ∧
    decode 0x1301021f = .ok (.shriI32 false 2 2 31) ∧
    decode 0x15017c80 = .ok (.mov false 5 121) ∧
    decode 0x1402048a = .ok (.dp4I8 false false 8 9 10) ∧
    decode 0x0302867c = .ok (.addI64 false false 10 12 124) ∧
    decode 0x16850b18 = .ok (.leaX8 false false 20 22 24) ∧
    decode 0x80010286 = .ok (.saddI32 false 4 5 6) ∧
    decode 0x8802048a = .ok (.ssel false 8 9 10) ∧
    decode 0x8880b800 = .ok (.smov false 2 112) ∧
    decode 0x9189fffe = .ok (.vli 9 0xfffe) ∧
    decode 0x92094000 = .ok (.vlih 9 0x4000) ∧
    decode 0x94850042 = .ok (.sldB64 10 0 1 2) ∧
    decode 0x95028a3f = .ok (.sstB32 5 10 0 63) ∧
    decode 0x98070001 = .ok (.srd 7 1) ∧
    decode 0x988c0011 = .ok (.swr 12 0x11) ∧
    decode 0x99000010 = .ok (.wbase 16) := by
  repeat' apply And.intro
  all_goals rfl

/-- R98 to R115. -/
theorem test_decode_floating_words :
    decode 0x19a10286 = .ok (.ffmaF32 false true 4 5 6) ∧
    decode 0x19400103 = .ok (.fmulF32 true false 0 2 3) ∧
    decode 0x20024500 = .ok (.fsqrtF32 false 9 10) ∧
    decode 0x26008206 = .ok (.daddF64 false false 2 4 6) ∧
    decode 0x29008220 = .ok (.frndF32 false 1 2 1) ∧
    decode 0x280286a1 = .ok (.cvt false 5 6 5 1) ∧
    decode 0x1a004103 = .ok (.fminF32 false false 1 2 3) ∧
    decode 0x1b804103 = .ok (.fmaxnmF32 false false 1 2 3) ∧
    decode 0x1f804100 = .ok (.frsqF32 false 1 2) ∧
    decode 0x21804100 = .ok (.flg2F32 false 1 2) := by
  repeat' apply And.intro
  all_goals rfl

/-- R119 to R135. -/
theorem test_decode_divergence_and_cross_lane_words :
    decode 0xa0870005 = .ok (.bz 7 5) ∧
    decode 0xa189fffc = .ok (.bnzs 9 0xfffc) ∧
    decode 0xa1000002 = .ok (.bra 2) ∧
    decode 0xa21e0010 = .ok (.call 30 16) ∧
    decode 0xa29e0000 = .ok (.ret 30) ∧
    decode 0xa31e0000 = .ok (.jmp 30) ∧
    decode 0xa3800000 = .ok (.yield) ∧
    decode 0xcafffff8 = .ok (.j 0xfffff8) ∧
    decode 0x6c004000 = .ok (.join 1) ∧
    decode 0x6c800080 = .ok (.leave 1) ∧
    decode 0x6d000080 = .ok (.waitk 1) ∧
    decode 0x6d808080 = .ok (.kmov 2 1) ∧
    decode 0x6d80c601 = .ok (.kmovFromScalar 3 12) ∧
    decode 0x6d828082 = .ok (.kmovToScalar 10 1) ∧
    decode 0x6e010108 = .ok (.kop 2 1 8) ∧
    decode 0x61028610 = .ok (.shflDn 5 6 16) ∧
    decode 0x63008180 = .ok (.voteBallot 2 3) ∧
    decode 0x66a50286 = .ok (.sample 20 5 6) ∧
    decode 0x67024000 = .ok (.rngB32 9) ∧
    decode 0x67800e01 = .ok (.rngctlSetStream 14) ∧
    decode 0x67801002 = .ok (.rngctlSetKey 16) ∧
    decode 0x67860003 = .ok (.rngctlReadCounter 12) ∧
    decode 0x71800000 = .ok (.exit) := by
  repeat' apply And.intro
  all_goals rfl

/-- R138 to R185. -/
theorem test_decode_memory_words :
    decode 0x410286be = .ok (.ldI16 5 6 2 62) ∧
    decode 0x43040c42 = .ok (.ldB128 8 12 1 2) ∧
    decode 0x44018adf = .ok (.stB8 3 10 3 31) ∧
    decode 0x47030868 = .ok (.ldAcqB32 6 8 3 1) ∧
    decode 0x48820aa0 = .ok (.stRelB64 4 10 5 0) ∧
    decode 0x49020841 = .ok (.stMcB64 4 8 1 1) ∧
    decode 0x506c0194 = .ok (.atomAddI32 true 5 2 3 20) ∧
    decode 0x551a030a = .ok (.atomCasB32 false 3 1 6 10) ∧
    decode 0x584288a8 = .ok (.pollB32 true 5 8 5 1) ∧
    decode 0x58820860 = .ok (.pollB64 false 4 8 3 0) ∧
    decode 0x5e210308 = .ok (.stmap true 4 6 8) ∧
    decode 0x5e800200 = .ok (.stunmap 4) ∧
    decode 0x5d000206 = .ok (.icinv false 4 6) ∧
    decode 0x5da50206 = .ok (.pfrange true 20 4 6) := by
  repeat' apply And.intro
  all_goals rfl

/-- R170 to R196, R264 to R274, R301. -/
theorem test_decode_barrier_estate_and_trap_words :
    decode 0xc2000000 = .ok (.barWg) ∧
    decode 0xc2400206 = .ok (.barcInit 4 6) ∧
    decode 0xc2600200 = .ok (.barcArrive 4) ∧
    decode 0xc2800200 = .ok (.barcWait 4) ∧
    decode 0x70020000 = .ok (.boff 4 0 0) ∧
    decode 0x70080047 = .ok (.boff 16 2 7) ∧
    decode 0x70840223 = .ok (.pickup 8 2 1 3) ∧
    decode 0x7100c000 = .ok (.estat 3) ∧
    decode 0xc0200000 = .ok (.rft) ∧
    decode 0xc0000005 = .ok (.trap 5) ∧
    decode 0xc0400000 = .ok (.tfence) ∧
    decode 0xc0600000 = .ok (.halt) ∧
    decode 0xc0800400 = .ok (.sleep 8) ∧
    decode 0xc0a003e8 = .ok (.sleepc 1000) ∧
    decode 0xa4800003 = .ok (.migr 3) := by
  repeat' apply And.intro
  all_goals rfl

/-- R211 to R254, R295, R310. -/
theorem test_decode_matrix_needle_and_orrery_words :
    decode 0xc4000000 = .ok (.macq) ∧
    decode 0xc440050c = .ok (.mldw 10 12) ∧
    decode 0xc4600001 = .ok (.mswapFl) ∧
    decode 0xc481050c = .ok (.mstr 4 10 12) ∧
    decode 0xc4a10710 = .ok (.mrd 4 14 16) ∧
    decode 0xc4c00003 = .ok (.mzero 3) ∧
    decode 0xc4e50000 = .ok (.mstat 20) ∧
    decode 0xc5078e00 = .ok (.ttpost 30 28) ∧
    decode 0xc6070a00 = .ok (.npost 28 20) ∧
    decode 0xc6200308 = .ok (.nctlRetry 6 8) ∧
    decode 0xc6458000 = .ok (.bseal 22) ∧
    decode 0xc6600b00 = .ok (.bwait 22) ∧
    decode 0xc6800c0c = .ok (.cwait 24 12) ∧
    decode 0xc800050c = .ok (.oscan 10 12) ∧
    decode 0xc860050c = .ok (.oapply 10 12) ∧
    decode 0xc8850000 = .ok (.ostat 20) := by
  repeat' apply And.intro
  all_goals rfl

/-- R241 to R249. -/
theorem test_decode_needle_words :
    decode 0xcd404000 = .ok (.nTag 0 4) ∧
    decode 0xccb50001 = .ok (.nLi 5 1) ∧
    decode 0xcd161002 = .ok (.nLdB32 6 1 2) ∧
    decode 0xccd50007 = .ok (.nBz 5 7) ∧
    decode 0xcca11008 = .ok (.nAddi 1 1 8) ∧
    decode 0xcd05fffb = .ok (.nLoop 5 0xfffb) ∧
    decode 0xcd212001 = .ok (.nLdB64 1 2 1) ∧
    decode 0xcd3120ff = .ok (.nStB64 1 2 0xff) ∧
    decode 0xcd510002 = .ok (.nStep 1 2) ∧
    decode 0xcd902700 = .ok (.nChunk 2 7) ∧
    decode 0xcdb03000 = .ok (.nWait 3) ∧
    decode 0xcdd00000 = .ok (.nEnd) := by
  repeat' apply And.intro
  all_goals rfl

/-- R54, R55: words that are no instructions, each under the check that it breaks. -/
theorem test_decode_refuses :
    decode 0x15800000 = .error .reserved ∧ decode 0x43800000 = .error .reserved ∧ decode 0xa5000000 = .error .reserved ∧ decode 0xce000000 = .error .reserved ∧
    decode 0xcdf00000 = .error .reserved ∧ decode 0xc0c00000 = .error .reserved ∧ decode 0x42400000 = .error .bit22 ∧ decode 0x6c204000 = .error .sb ∧
    decode 0x66850286 = .error .sb ∧ decode 0x13010220 = .error .field ∧ decode 0xc2600201 = .error .field ∧ decode 0x5c180000 = .error .limit ∧
    decode 0x6d808083 = .error .limit ∧ decodeBytes [0x03, 0x41, 0x00] = .error .short ∧ decodeBytes [0x03, 0x41, 0x00, 0x00] = .ok (.addI32 false false 1 2 3) ∧
    decodeTableWord 32 0x00004103 = some (.addI32 false false 1 2 3) ∧ decodeTableWord 32 0xce000000 = none := by
  repeat' apply And.intro
  all_goals rfl

/-- The two words of the D-form and the L-form that differ in bit 22 alone (R44), and the encoder on the words of the tables. -/
theorem test_encode_words :
    encode (.addI32 true false 1 2 3) = some 0x00404103 ∧ encode (.addI32 false false 1 2 3) = some 0x00004103 ∧ encode (.sample 20 5 6) = some 0x66a50286 ∧
    encode (.migr 3) = some 0xa4800003 ∧ encode (.nctlAbort 6 8) = some 0xc6200308 ∧ encode (.nBlt 1 2 3) = some 0xccf01203 ∧ encode (.nop 0) = none := by
  repeat' apply And.intro
  all_goals rfl

/-! ### WellFormed refuses a term for each of its checks -/

theorem test_wf_refuses :
    (Instr.addI32 false false 116 0 0).wf = false ∧ (Instr.addI32 false false 0 116 0).wf = false ∧ (Instr.addI32 false false 0 0 127).wf = false ∧
    (Instr.addI32 false true 0 0 112).wf = false ∧ (Instr.sli 112 0).wf = false ∧ (Instr.smov false 0 119).wf = false ∧ (Instr.npost 29 20).wf = false ∧
    (Instr.join 0).wf = false ∧ (Instr.join 12).wf = false ∧ (Instr.waitk 12).wf = false ∧ (Instr.wbase 8).wf = false ∧ (Instr.wbase 160).wf = false ∧
    (Instr.accclaim 257).wf = false ∧ (Instr.accclaim 768).wf = false ∧ (Instr.bar2Read 0 3).wf = false ∧ (Instr.promiseExpiry 0 64).wf = false ∧
    (Instr.clockCycle 4 false).wf = false ∧ (Instr.tileTaskStart 64).wf = false ∧ (Instr.expCtlClose 16).wf = false ∧ (Instr.ackTimeout 128).wf = false := by
  decide

theorem test_wf_admits :
    (Instr.addI32 false false 115 126 120).wf = true ∧ (Instr.addI32 false true 0 0 120).wf = true ∧ (Instr.wbase 140).wf = true ∧ (Instr.join 11).wf = true ∧
    (Instr.accclaim 255).wf = true ∧ (Instr.accclaim 766).wf = true ∧ (Instr.bar2Read 0 8).wf = true := by
  decide
/-! ### A small state -/

/-- A subgroup with the live members of `live` on row 0 of core `c`, of which those of `m` issue; member `l` holds the registers `v l`, and the subgroup the scalars `s`. -/
def grp (c : Nat) (live m : Dword) (v : Nat → Tbl Word) (s : Tbl Word) : State :=
  let q := placeWord State.reset 0
  let u : Sub := { wg := 1, core := c, k := [(0, live)], s := s
                   threads := (lanesOf live).map fun l => (l, { pc := 0x1000, v := v l, images := [0x10000], twin := 0x2000, lid := BitVec.ofNat 32 l, wid := BitVec.ofNat 64 l }) }
  let k : Core := { mode := 0, ctx := some 1, rows := [(0, { issuing := some (1, m), atSwitch := false, mode := 0 })] }
  { q with
    cores := [(c, k)]
    subs := [(1, u)]
    wgs := [(1, { ctx := 1, launch := 0, home := c, cluster := clusterOf c, size := 4096 })]
    turn := .row c 0 }

/-- What a next state shows. -/
def shows {α : Type} (f : State → α) : Out → Option α
  | .next t => some (f t)
  | _ => none
/-- A register of a member of the subgroup, a scalar, TSTAT, a PC. -/
def regOf (l n : Nat) (t : State) : Word := ((t.sub 1).thread l).reg n
def scalarOf (n : Nat) (t : State) : Word := (t.sub 1).sreg n
def tstatOf (l : Nat) (t : State) : Word := ((t.sub 1).thread l).tstat
def pcOf (l : Nat) (t : State) : Dword := ((t.sub 1).thread l).pc
def trapOf1 (t : State) : Option (BitVec 8 × BitVec 8) := (t.sub 1).traps.head?.map fun x => (x.cause, x.detail)

/-- R88: the worked examples of `bfe.n32` and `bfi.b32`. -/
theorem test_bfe : shows (regOf 0 1) (exec (.bfeN32 false false 1 2 3) (grp 0 1 1 (fun _ => [(2, 0xdeadbeef), (3, 0xc14)]) [])) = some 0xdea := by decide +kernel
theorem test_fma : shows (fun t => (regOf 0 3 t, tstatOf 0 t)) (exec (.ffmaF32 false false 3 1 2) (grp 0 1 1 (fun _ => [(1, 0x3f800800), (2, 0x3f800800), (3, 0xbf801000)]) []))
    = some (0x33800000, 0) := by decide +kernel

theorem test_bfi : shows (regOf 0 1) (exec (.bfiB32 false false 1 2 3) (grp 0 1 1 (fun _ => [(2, 0xdeadbeef), (3, 0xc14)]) [])) = some 0xeef00000 := by decide +kernel
/-- R87: the worked example of `dp4.i8`. -/
theorem test_dp4 : shows (regOf 0 8) (exec (.dp4I8 false false 8 9 10) (grp 0 1 1 (fun _ => [(8, 10), (9, 0xff020304), (10, 0x01010102)]) [])) = some 22 := by decide +kernel
/-- R91: an index of 0xFFFF_FFFF steps back one 4-byte element, across the word boundary of the pair. -/
theorem test_lea_steps_back : shows (fun t => (regOf 0 4 t, regOf 0 5 t)) (exec (.leaX4 false false 4 6 8) (grp 0 1 1 (fun _ => [(7, 1), (8, 0xffffffff)]) []))
    = some (0xfffffffc, 0) := by decide +kernel
/-- R44: bit 22 discards the result in the D-form, where the latch ring keeps it; and is CP in the L-form, where the register takes it. -/
theorem test_add_ws_and_cp :
    shows (fun t => (regOf 0 0 t, ((t.sub 1).latch 0).p0)) (exec (.addI32 true false 0 2 3) (grp 0 1 1 (fun _ => [(2, 5), (3, 0xffffffff)]) [])) = some (0, some 4) ∧
    shows (fun t => (regOf 0 0 t, ((t.sub 1).latch 0).p0)) (exec (.addI32 true false 0 2 3) (grp 1 1 1 (fun _ => [(2, 5), (3, 0xffffffff)]) [])) = some (4, none) := by
  decide +kernel
/-- R55, R84: a source code that names nothing raises ILL with detail 0x07, a forbidden WS with 0x04. -/
theorem test_add_illegal :
    shows trapOf1 (exec (.addI32 false false 1 116 3) (grp 0 1 1 (fun _ => []) [])) = some (some (1, 7)) ∧
    shows trapOf1 (exec (.madI32 true false 1 2 3) (grp 0 1 1 (fun _ => []) [])) = some (some (1, 4)) := by decide +kernel
/-- R92, R97: a scalar word once for the group; WBASE moves the window. -/
theorem test_scalar_add : shows (scalarOf 4) (exec (.saddI32 false 4 5 6) (grp 0 3 3 (fun _ => []) [(5, 7), (6, 0xfffffff9)])) = some 0 := by decide +kernel
theorem test_wbase : shows (fun t => (t.sub 1).wbase) (exec (.wbase 16) (grp 0 1 1 (fun _ => []) [])) = some 16 := by decide +kernel

/-- The worked example of the unfused product: NX, and then an exact difference that raises no flag. -/
theorem test_fmul_rounds_a_tie : shows (fun t => (regOf 0 4 t, tstatOf 0 t)) (exec (.fmulF32 false false 4 1 2) (grp 0 1 1 (fun _ => [(1, 0x3f800800), (2, 0x3f800800)]) []))
    = some (0x3f801000, 1) := by decide +kernel
/-- R101: x − x is +0. -/
theorem test_fadd_cancels : shows (fun t => (regOf 0 5 t, tstatOf 0 t)) (exec (.faddF32 false false 5 4 6) (grp 0 1 1 (fun _ => [(4, 0x3f801000), (6, 0xbf801000)]) []))
    = some (0, 0) := by decide +kernel
/-- R109: the worked example of `fdot2.bf16`. -/
theorem test_fdot2 : shows (fun t => (regOf 0 1 t, tstatOf 0 t)) (exec (.fdot2Bf16 false false 1 2 3) (grp 0 1 1 (fun _ => [(1, 0x3f800000), (2, 0x3b803f80), (3, 0x3f803f80)]) []))
    = some (0x40004000, 0) := by decide +kernel
/-- R112: −2.5 under rne, and under rna from TSTAT. -/
theorem test_frnd : shows (fun t => (regOf 0 1 t, tstatOf 0 t)) (exec (.frndF32 false 1 2 0) (grp 0 1 1 (fun _ => [(2, 0xc0200000)]) [])) = some (0xc0000000, 1) ∧
    shows (regOf 0 1) (exec (.frndF32 false 1 2 4) (grp 0 1 1 (fun _ => [(2, 0xc0200000)]) [])) = some 0xc0400000 := by decide +kernel
/-- R76, R80: 65520 to f16 under rne and rtz, 500.0 to e4m3 with and without saturation, 1.00390625 to bf16 under rne. -/
theorem test_cvt :
    shows (fun t => (regOf 0 1 t, tstatOf 0 t)) (exec (.cvt false 1 2 0 0) (grp 0 1 1 (fun _ => [(2, 0x477ff000)]) [])) = some (0x7c00, 5) ∧
    shows (regOf 0 1) (exec (.cvt false 1 2 1 0) (grp 0 1 1 (fun _ => [(2, 0x477ff000)]) [])) = some 0x7bff ∧
    shows (fun t => (regOf 0 1 t, tstatOf 0 t)) (exec (.cvt false 1 2 0 12) (grp 0 1 1 (fun _ => [(2, 0x43fa0000)]) [])) = some (0x7e, 5) ∧
    shows (regOf 0 1) (exec (.cvt false 1 2 0 13) (grp 0 1 1 (fun _ => [(2, 0x43fa0000)]) [])) = some 0x7f ∧
    shows (fun t => (regOf 0 5 t, tstatOf 0 t)) (exec (.cvt false 5 6 0 1) (grp 0 1 1 (fun _ => [(6, 0x3f808000)]) [])) = some (0x3f80, 1) := by decide +kernel
/-- R102: minimum with a quiet NaN, and minimumNumber. -/
theorem test_fmin_nan : shows (regOf 0 1) (exec (.fminF32 false false 1 2 3) (grp 0 1 1 (fun _ => [(2, 0x7fc00001), (3, 0x3f800000)]) [])) = some 0x7fc00000 ∧
    shows (regOf 0 1) (exec (.fminnmF32 false false 1 2 3) (grp 0 1 1 (fun _ => [(2, 0x7fc00001), (3, 0x3f800000)]) [])) = some 0x3f800000 := by decide +kernel

/-- R120, R121: `bnz` sends each member its own way, `jl` writes s110:s111. -/
theorem test_bnz : shows (fun t => (pcOf 0 t, pcOf 1 t)) (exec (.bnz 5 0xfffd) (grp 0 3 3 (fun l => [(5, BitVec.ofNat 32 l)]) [])) = some (0x1004, 0xff4) := by decide +kernel
theorem test_jl : shows (fun t => (pcOf 0 t, scalarOf 110 t)) (exec (.jl 0x1000) (grp 0 1 1 (fun _ => []) [])) = some (0x5000, 0x1004) := by decide +kernel
/-- R125: truth table 0b1000 is AND. -/
theorem test_kop : shows (fun t => (t.sub 1).kreg 2) (exec (.kop 2 1 8) ((grp 0 3 3 (fun _ => []) []).modSub 1 fun u => { u with k := [(0, 3), (1, 0xc), (2, 0xa)] })) = some 8 := by
  decide +kernel
/-- R124: the last member to reach the knot releases both. -/
theorem test_waitk : shows (fun t => (pcOf 0 t, pcOf 1 t)) (exec (.waitk 1) (((grp 0 3 2 (fun _ => []) []).modSub 1 fun u => { u with k := [(0, 3), (1, 3)] }).modThreads 1 [0]
    fun x => { x with wait := .knot 1 })) = some (0x1004, 0x1004) := by decide +kernel
/-- R129: the members outside the group take no part in a ballot. -/
theorem test_ballot : shows (scalarOf 2) (exec (.voteBallot 2 3) (grp 0 7 3 (fun l => [(3, BitVec.ofNat 32 l)]) [])) = some 2 := by decide +kernel
/-- R128: `shfl.up` by one; member 0 has no lower neighbour. -/
theorem test_shfl_up : shows (fun t => (regOf 0 5 t, regOf 1 5 t)) (exec (.shflUp 5 6 1) (grp 0 3 3 (fun l => [(6, BitVec.ofNat 32 (l + 7))]) [])) = some (0, 7) := by decide +kernel
/-- R131: the worked example, with u = 0.625, and with every weight zero. -/
theorem test_sample :
    let w (l : Nat) : Word := if l = 0 then 0x3f800000 else if l = 1 then 0x40000000 else if l < 4 then 0x3f000000 else 0
    shows (fun t => (scalarOf 20 t, scalarOf 21 t)) (exec (.sample 20 5 6) (grp 0 0xf 0xf (fun l => [(5, w l)]) [(6, 0x3f200000)])) = some (1, 0x3fc00000) ∧
    shows (fun t => (scalarOf 20 t, scalarOf 21 t)) (exec (.sample 20 5 6) (grp 0 0xf 0xf (fun l => [(5, w l)]) [(6, 0x3e000000)])) = some (0, 0x3f000000) ∧
    shows (fun t => (scalarOf 20 t, scalarOf 21 t, ((t.sub 1).sstat).getLsbD 0)) (exec (.sample 20 5 6) (grp 0 0xf 0xf (fun _ => []) [(6, 0x3f200000)])) = some (64, 0, true) := by
  decide +kernel
/-- R132, R133: the first word of Philox4x32-10 with every input zero, by the rule's own pseudocode. -/
theorem test_rng : shows (fun t => (regOf 0 9 t, (t.sub 1).rngDraw)) (exec (.rngB32 9) (grp 0 1 1 (fun _ => []) [])) = some (0x6627e8d5, 1) := by decide +kernel

/-- R139, R140: a load of one byte extends its sign; a store writes its own bytes. -/
theorem test_ld_i8 : shows (regOf 0 5) (exec (.ldI8 5 6 2 1) ((grp 0 1 1 (fun _ => [(6, 3)]) []).modWg 1 fun g => { g with mem := [(4, 0x80)] })) = some 0xffffff80 := by decide +kernel
theorem test_st_b16 : shows (fun t => (t.wg 1).mem) (exec (.stB16 5 6 2 0) (grp 0 1 1 (fun _ => [(5, 0xabcd1234), (6, 8)]) [])) = some [(8, 0x34), (9, 0x12)] := by decide +kernel
/-- R146, R149: members take their turns in ascending order. -/
theorem test_atom_add : shows (fun t => ((t.wg 1).mem, regOf 0 3 t, regOf 1 3 t)) (exec (.atomAddI32 false 2 0 3 20)
    (grp 0 3 3 (fun l => [(3, BitVec.ofNat 32 (l + 1)), (20, 0x10), (21, 0xff000000)]) [])) = some ([(16, 3)], 0, 1) := by decide +kernel
/-- R142, R155: an atomic at an address that is not a multiple of its size raises ALIGN, detail 1, and the other members go on. -/
theorem test_atom_align : shows (fun t => (trapOf1 t, (t.sub 1).traps.map Trap.mask, pcOf 0 t, pcOf 1 t)) (exec (.atomAddI32 true 2 0 3 20)
    (grp 0 3 3 (fun l => [(20, BitVec.ofNat 32 (2 * l)), (21, 0xff000000)]) [])) = some (some (3, 1), [2], 0x1004, 0x1000) := by decide +kernel

/-- R171: the arrival that meets EXPECTED turns SENSE and clears ARRIVED. -/
theorem test_barc_arrive : shows (fun t => (t.wg 1).mem) (exec (.barcArrive 4) ((grp 0 1 1 (fun _ => []) [(4, 0x20), (5, 0xff000000)]).modWg 1 fun g =>
    { g with mem := [(0x20, 2), (0x24, 1)] })) = some [(0x20, 2), (0x27, 0x80)] := by decide +kernel
/-- R266: `trap` raises TRAP with its immediate, KIND 1. -/
theorem test_trap : shows (fun t => (t.sub 1).traps.map fun x => (x.cause, x.aux, x.kind)) (exec (.trap 5) (grp 0 1 1 (fun _ => []) [])) = some [(0x0d, 5, 1)] := by decide +kernel
/-- R82: `tfence` with an enabled flag that is set. -/
theorem test_tfence : shows trapOf1 (exec .tfence ((grp 0 1 1 (fun _ => []) []).modSub 1 fun u =>
    { u with fen := 1, threads := [(0, { pc := 0x1000, tstat := 1 })] })) = some (some (8, 0)) := by decide +kernel
/-- R135: the last thread to retire takes its subgroup with it. -/
theorem test_exit : shows (fun t => (t.subs.find? 1).isNone) (exec .exit (grp 0 1 1 (fun _ => []) [])) = some true := by decide +kernel

/-- R211, R222: `macq` makes the subgroup the owner of a free engine. -/
theorem test_macq : shows (fun t => (t.core 0).engine.owner) (exec .macq (grp 0 1 1 (fun _ => []) [])) = some (some 1) := by decide +kernel

/-- A needle at the first of two words, on core 0. -/
def ndl (n : Tbl Dword) (w : Word) : State :=
  let q := placeWord State.reset w
  q.setNeedle 0 0 { q.needle 0 0 with n := n }
/-- R241: a shift by 64 gives 0; `n.loop` counts down and falls through at zero. -/
theorem test_needle_shift : shows (fun t => ((t.needle 0 0).reg 1, (t.needle 0 0).pc)) (exec (.nShl 1 2 3) (ndl [(2, 5), (3, 64)] 0xcc612300)) = some (0, 4) := by decide +kernel
theorem test_needle_loop : shows (fun t => ((t.needle 0 0).reg 5, (t.needle 0 0).pc)) (exec (.nLoop 5 0) (ndl [(5, 1)] 0xcd050000)) = some (0, 4) := by decide +kernel
/-- R248, R251: a branch out of the code stops the needle with NPC. -/
theorem test_needle_npc : shows (fun t => (t.needle 0 0).stopped) (exec (.nBz 5 100) (ndl [] 0xccd50064)) = some (some 0x0a) := by decide +kernel

/-- A device whose link is up. -/
def up : State := { State.reset with link := { bringUp := .ready, config := true } }
/-- R186: a BAR 2 write is seen by a BAR 2 read. -/
theorem test_bar2 : shows (fun t => shows (fun u => u.link.reads) (exec (.bar2Read 0x10 4) t)) (exec (.bar2Write 0x10 4 0x11223344) up) = some (some [.data 0x11223344]) := by decide +kernel
/-- R349: a reservation of a queue of 64 slots. -/
theorem test_qrsv : shows (fun t => (t.link.reads, (t.queue 3).reserved)) (exec (.qrsvRead 3) { up with fe := { queues := [(3, { log := 6, enable := true })] } })
    = some ([.data 0], 1) := by decide +kernel
/-- R318, R319: one D-domain edge at code 6 counts one cycle and adds 65536 to SCYC. -/
theorem test_clock : shows (fun t => ((t.die 0).cyc, (t.die 0).scyc)) (exec (.clockCycle 0 false) up) = some (1, 65536) := by decide +kernel
/-- R322: a step at a cycle boundary logs the old and the new code. -/
theorem test_dvfs : shows (fun t => ((t.die 1).dsteps, ((t.die 1).log.get 0 {}).codes)) (exec (.dvfsStep 1 true 4) (up.modDie 1 fun d => { d with edgeL := up.ticks + period true d.lcode })) = some (1, 0x149) := by decide +kernel
/-- R353, R362: a NOP entry completes. -/
theorem test_nop : shows (fun t => (t.fe.entries.find? 5).isNone) (exec (.nop 5) { up with fe := { entries := [(5, { op := 0, state := 1 })] } }) = some true := by decide +kernel
/-- R308: in a composition the first map is applied first. -/
theorem test_compose : composeMaps [1, 0, 2] [2, 1, 0] = [1, 2, 0] := by decide
/-- R345: an error takes the slot that its SEQ names. -/
theorem test_error_log : shows (fun t => (t.errSeq, (t.errLog.find? 0).map (fieldAt · 0x12 1))) (exec (.softError 0 5 false) up) = some (1, some 1) := by decide +kernel

/-! ### Witnesses: states and operands that meet the premises of the statements -/

/-- Two members issue on core `c`: v4:v5 and s4:s5 hold scratchpad addresses, v6:v7 an aligned and v8:v9 a misaligned code address. -/
def two (c : Nat) : State :=
  grp c 3 3 (fun l => [(2, 5), (3, BitVec.ofNat 32 l), (4, BitVec.ofNat 32 (0x20 + 16 * l)), (5, 0xff000000), (6, 0x2000), (8, 0x2002)])
    [(4, 0x20), (5, 0xff000000), (6, 3), (8, 0x40)]
def xof (c : Nat) (m : Dword) : Cx := ⟨c, 0, 1, m⟩

theorem wit_stands : Stands (two 0) (xof 0 3) ∧ Stands (two 1) (xof 1 3) ∧ Issues (two 0) (xof 0 3) ∧ NoHandler (two 0) (xof 0 3) := by
  refine ⟨⟨?_, ?_⟩, ⟨?_, ?_⟩, ⟨?_, ?_, ?_⟩, ⟨?_, ?_⟩⟩ <;> decide +kernel

theorem wit_vector_words_are_legal :
    Legal (two 0) (xof 0 3) {} false false 1 2 3 ∧ Legal (two 0) (xof 0 3) {} true true 0 120 111 ∧ Legal (two 1) (xof 1 3) { readsD := true } true false 1 2 3 ∧
    Legal (two 0) (xof 0 3) { readsD := true } false true 111 111 120 ∧ Legal (two 0) (xof 0 3) { wideD := true, wideA := true, wideB := true } false false 110 124 2 ∧
    Legal (two 0) (xof 0 3) { wideD := true, wideA := true } false false 4 6 121 ∧ Legal (two 0) (xof 0 3) { wideA := true, wideB := true } false false 1 2 4 ∧
    Legal (two 1) (xof 1 3) { wideD := true, wideA := true, wideB := true, readsD := true } true false 2 4 6 ∧
    Legal (two 0) (xof 0 3) { useB := false } false false 1 112 0 ∧ Legal (two 0) (xof 0 3) { useB := false } true false 0 2 0 := by
  repeat' apply And.intro
  all_goals constructor <;> decide +kernel

theorem wit_scalar_words_are_legal :
    LegalScalar (two 0) (xof 0 3) false true false 4 5 6 ∧ LegalScalar (two 0) (xof 0 3) true true false 0 112 120 ∧ LegalScalar (two 1) (xof 1 3) true true true 111 5 6 ∧
    LegalScalar (two 0) (xof 0 3) false false false 111 115 0 := by
  repeat' apply And.intro
  all_goals constructor <;> first | decide +kernel | exact ⟨by decide +kernel, by decide +kernel⟩

theorem wit_constant_words :
    (111#7).toNat ≤ 111 ∧ dstOk (two 0) (xof 0 3) 111 1 = true ∧ dstOk (two 1) (xof 1 3) 115 1 = true ∧ (xof 0 3).form = .d ∧ (144#16).toNat % 16 = 0 ∧ (xof 1 3).form = .l ∧
    (140#16).toNat = 140 ∧ (128#16).toNat ≤ 128 := by decide +kernel

theorem wit_rounding_fields :
    Legal (two 0) (xof 0 3) (cvtShape 0) false false 1 2 0 ∧ Legal (two 0) (xof 0 3) (cvtShape 10) false false 2 4 0 ∧
    ((∃ e, cvtEntry 0 = some e ∧ e.permits 5 = true ∧ e.permits 0 = true) ∧ drawSat ((xof 0 3).sub (two 0)) = false) ∧
    (∃ e, cvtEntry 2 = some e ∧ e.permits 5 = false) ∧ cvtEntry 28 = none ∧ roundTo .rne false 3 0 1 false = (2, true) ∧ roundTo .rup true 5 (-1) 0 false = (2, true) := by
  refine ⟨by constructor <;> decide +kernel, by constructor <;> decide +kernel, ⟨⟨_, rfl, by decide, by decide⟩, by decide +kernel⟩, ⟨_, rfl, by decide⟩, rfl, ?_, ?_⟩ <;> decide +kernel

theorem wit_control_flow :
    srcOk (two 0) (xof 0 3) 3 false = true ∧ sSrcOk .d 111 = true ∧ linkOk (two 0) (xof 0 3) 6 = true ∧ linkOk (two 0) (xof 0 3) 110 = true ∧
    (∀ l ∈ (xof 0 3).lanes, ((readSrc (two 0) (xof 0 3) l 6 true).1).toNat % 4 = 0) ∧
    (xof 0 3).lanes.filter (fun l => (readSrc (two 0) (xof 0 3) l 8 true).1.toNat % 4 ≠ 0) = [0, 1] ∧ Calm (two 0) (xof 0 3) (staleA (two 0) (xof 0 3) 3) := by
  refine ⟨?_, ?_, ?_, ?_, ?_, ?_, ?_⟩
  · decide +kernel
  · decide +kernel
  · decide +kernel
  · decide +kernel
  · decide +kernel
  · decide +kernel
  · unfold Calm; decide +kernel

/-- Two members at a knot, one at another that it does not meet. -/
def knots : State := ((grp 0 7 4 (fun _ => []) []).modSub 1 fun u => { u with k := [(0, 7), (1, 3), (2, 4)] }).modThreads 1 [0, 1] fun t => { t with wait := .knot 1 }
theorem wit_knots : (knots.sub 1).handler = none ∧ ((knots.sub 1).thread 0).wait = .knot 1 ∧ ((knots.sub 1).kreg 1) = 3 ∧ ((knots.sub 1).thread 2).wait = .none ∧
    Stands knots (xof 0 4) := by
  refine ⟨?_, ?_, ?_, ?_, ?_, ?_⟩ <;> decide +kernel

theorem wit_cross_lane :
    dstOk (two 0) (xof 0 3) 111 1 = true ∧ srcOk (two 0) (xof 0 3) 121 false = true ∧ sbOk 111 = true ∧ bOk (two 0) (xof 0 3) true 111 false = true ∧
    bOk (two 0) (xof 0 3) false 3 false = true ∧ ((xof 0 3).sub (two 0)).width ≤ 64 ∧ ((xof 0 3).sub (two 0)).live.getLsbD 2 = false ∧
    Calm (two 0) (xof 0 3) (fun l => staleA (two 0) (xof 0 3) 3 l) := by
  refine ⟨?_, ?_, ?_, ?_, ?_, ?_, ?_, ?_⟩
  all_goals first | decide +kernel | (unfold Calm; decide +kernel)

theorem wit_generator :
    (drawSat ((xof 0 3).sub (two 0)) = false) ∧ ((xof 0 3).sub (two 0)).rngPos ≠ 0xffffffffff ∧
    (let s := (two 0).modSub 1 fun u => { u with rngDraw := 0xffffff, rngPos := 0xffffffffff, sstat := 4 }
     drawSat ((xof 0 3).sub s) = true ∧ ((xof 0 3).sub s).rsten = true ∧ ((xof 0 3).sub s).rngPos = 0xffffffffff) := by decide +kernel

/-- An access of each member to its own scratchpad bytes. -/
def spots (n : Nat) (l : Nat) : List Spot := (List.range n).map fun i => .scr 1 (0x20 + 16 * l + i)
theorem wit_access :
    (Access (two 0) (xof 0 3) 0 8 false .load (addrA (two 0) (xof 0 3) 4 0) (two 0) (spots 8)) ∧
    (∀ l ∈ (xof 0 3).lanes, correctable (two 0) (addrA (two 0) (xof 0 3) 4 0 l) (spots 8 l) [] = none) ∧
    Correctable (two 0) (xof 0 3) 8 (addrA (two 0) (xof 0 3) 4 0) (spots 8) ∧
    Access (two 0) (xof 0 3) 0 8 true .store (addrA (two 0) (xof 0 3) 4 0) (two 0) (spots 8) := by
  refine ⟨⟨?_⟩, ?_, ?_, ⟨?_⟩⟩
  · rfl
  · decide +kernel
  · unfold Correctable; decide +kernel
  · rfl

/-- One member whose v4:v5 and s4:s5 name the first byte of its scratchpad, which holds NUM of the needle ring. -/
def one : State := grp 0 1 1 (fun _ => [(2, 5), (5, 0xff000000)]) [(5, 0xff000000), (6, 3)]
/-- The first gibibyte of the context's virtual addresses mapped. -/
def mapped (s : State) : State :=
  let m : VMem := { bytes := [(0x100000, 0x01), (0x100002, 0x20), (0x200000, 0x05), (0x200003, 0x40)] }
  { s with pk := m, sy := m, fe := { s.fe with contexts := [(1, { ptroot := 0x100000 })] } }

theorem wit_release_stores :
    (release (two 0) ((xof 0 3).party (two 0)) 5).2 = none ∧ relocked (two 0) 0 5 = false ∧ (0 : BitVec 3) ≠ 7 ∧ ringOf (two 0) 1 = some 0 ∧
    (∀ l ∈ (xof 0 3).lanes, (spots 4 l).head? ≠ some (.scr 1 0)) ∧
    ((xof 0 1).lanes = [0] ∧ ringOf one 1 = some 0 ∧
      locate one ((xof 0 1).party one) 0 (addrA one (xof 0 1) 4 0 0) 4 true .store =
        (one, .ok ((List.range 4).map fun i => .scr 1 i)) ∧ (release one ((xof 0 1).party one) 2).2 = none) := by
  refine ⟨?_, ?_, ?_, ?_, ?_, ?_, ?_, ?_, ?_⟩
  all_goals decide +kernel

theorem wit_atomics_and_polls :
    dstOk (two 0) (xof 0 3) 2 1 = true ∧ srcOk (two 0) (xof 0 3) 112 false = true ∧ quadSrcOk (two 0) (xof 0 3) 108 = true ∧ quadSrcOk (two 0) (xof 0 3) 120 = true ∧
    (two 0).stamp = 1 ∧ number ((spots 4 0).map (readPublished (two 0) 0 1 1 5)) ≠ ((((xof 0 3).sub (two 0)).thread 0).reg (destReg (two 0) (xof 0 3) 2)).toNat ∧
    number ((spots 4 0).map (readPublished (two 0) 0 1 1 5)) = ((((xof 0 3).sub (two 0)).thread 0).reg (destReg (two 0) (xof 0 3) 1)).toNat := by decide +kernel

theorem wit_multicast_stores :
    ∀ l ∈ (xof 0 3).lanes, correctable (two 0) (addrA (two 0) (xof 0 3) 4 0 l) ((spots 8 l).flatMap (replicas (two 0) 0)) ((spots 8 l).flatMap (replicas (two 0) 0)) = none := by
  decide +kernel

theorem wit_scalar_accesses :
    spairOk 110 = true ∧ sDstOk 111 = true ∧ sBaseOk .d 112 = true ∧ sBaseOk .l 120 = true ∧ sDataOk .d 110 true = true ∧ sDataOk .l 111 false = true ∧
    correctable (two 0) 0xff00000000000020 ((List.range 8).map fun i => .scr 1 (0x20 + i)) [] = none ∧
    locate (two 0) ((xof 0 3).party (two 0)) 0
      ((readScalarWide (two 0) (xof 0 3) 4 true).1 + BitVec.ofInt 64 0) 8 false .load = (two 0, .ok ((List.range 8).map fun i => .scr 1 (0x20 + i))) := by
  refine ⟨?_, ?_, ?_, ?_, ?_, ?_, ?_, ?_⟩
  all_goals decide +kernel

/-- A second workgroup of the cluster that has been switched out, under handle 1. -/
def apart : State := let q := two 0; { q with wgs := q.wgs.set 2 { ctx := 1, launch := 0, home := 0, size := 4096, handle := 1, resident := false } }
theorem wit_access_checks :
    decodeAddr (two 0) 0 1 1 0 0x0100000000000000 = none ∧ decodeAddr (two 0) 0 1 1 0 0x00ffffffffffffff = some (.glob 0xffffffffffffff) ∧
    (decodeAddr (two 0) 0 1 1 0 0xff00000000000002 = some (.scr 1 2) ∧ (0xff00000000000002 : Dword).toNat % 4 ≠ 0) ∧
    (decodeAddr apart 0 1 1 0 0xfe00000001000000 = some (.scr 2 0) ∧ (apart.wg 2).resident = false) ∧
    tlbFind ((two 0).core 0).tlb 1 0x1234 = none ∧ walk (two 0) 1 0x1234 = .error (4, 2) ∧ walk (mapped (two 0)) 1 0x1234 = .ok (0x40000005, 30) ∧
    denied 0x40000005 .store = none ∧ denied 0x4000000d .store = some 3 ∧ isRemote (leafLoc (mapped (two 0)) 0x40000005 30 0x1234 0) = false ∧
    (mapped (two 0)).reachable (leafLoc (mapped (two 0)) 0x40000005 30 0x1234 0) = true := by
  refine ⟨?_, ?_, ⟨?_, ?_⟩, ⟨?_, ?_⟩, ?_, ?_, ?_, ?_, ?_, ?_, ?_⟩
  all_goals decide +kernel

/-- A die in relock. -/
def relocking (s : State) : State := s.modDie 0 fun d => { d with relockD := some { until_ := 2000, code := 3 } }
theorem wit_phases : relocked (two 0) 0 4 = false ∧ (release (two 0) ((xof 0 3).party (two 0)) 4).2 = none ∧ relocked (relocking (two 0)) 0 3 = true ∧
    relocked (relocking (two 0)) 0 6 = true ∧ (6 : BitVec 3) ≠ 7 := by decide +kernel

theorem wit_icinv : srcOk (two 0) (xof 0 3) 4 true = true ∧ bOk (two 0) (xof 0 3) false 2 false = true ∧ sbOk 6 = true ∧ (readB (two 0) (xof 0 3) false 0 2 false).1.toNat ≠ 0 ∧
    (readB (two 0) (xof 0 3) true 0 120 false).1.toNat = 0 := by decide +kernel

theorem wit_pfrange :
    (readB (two 0) (xof 0 3) true 0 6 false).1.getLsbD 31 = false ∧ (readB (grp 0 1 1 (fun _ => []) [(6, 0x80000000)]) (xof 0 1) true 0 6 false).1.getLsbD 31 = true ∧ spairOk 4 = true ∧
    barrierAt { two 0 with fresh := (two 0).fresh + 1 } ((xof 0 3).party (two 0)) (((xof 0 3).sub (two 0)).spair 4) = ({ two 0 with fresh := (two 0).fresh + 1 }, .ok (1, 0x20)) ∧
    (let s : State := { two 0 with prefetches := [(2, { cmd := some 2, wg := 1 }), (3, { barrier := some (1, 0x20), wg := 1 })] }
     s.prefetches.find? 2 = some { cmd := some 2, wg := 1 } ∧ (∃ p, s.prefetches.find? 3 = some p ∧ p.barrier = some (1, 0x20)) ∧
     s.wgs.find? 1 ≠ none ∧ s.badScr 1 0x20 = false ∧ (s.wg 1).resident = true ∧ s.wgs.find? 2 = none ∧ (apart.wg 2).resident = false ∧ apart.wgs.find? 2 ≠ none ∧ apart.badScr 2 0x20 = false) := by
  refine ⟨?_, ?_, ?_, ?_, ?_, ⟨_, rfl, rfl⟩, ?_⟩
  all_goals decide +kernel

/-- The operands of a mapping: v2 the offset, v4:v5 the base, s6 the length. -/
def stash (off base len : Word) (m : List Stash) : State :=
  (grp 0 1 1 (fun _ => [(2, off), (4, base)]) [(6, len)]).modWg 1 fun g => { g with stash := m }
theorem wit_stash :
    srcOk (stash 0x80 0x1000 0x80 []) (xof 0 1) 2 false = true ∧
    (0x80 % 128 = 0 ∧ 0x80 + 0x80 ≤ ((stash 0x80 0x1000 0x80 []).wg 1).size ∧ ((stash 0x80 0x1000 0x80 []).wg 1).stash.length < 8) ∧
    ((readSrc (stash 0x80 0x1000 0x80 []) (xof 0 1) 0 2 false).1.toNat = 0x80 ∧ (readSrc (stash 0x80 0x1000 0x80 []) (xof 0 1) 0 4 true).1.toNat = 0x1000 ∧
      (readB (stash 0x80 0x1000 0x80 []) (xof 0 1) true 0 6 false).1.toNat = 0x80) ∧
    (readSrc (stash 0x81 0x1000 0x80 []) (xof 0 1) 0 2 false).1.toNat % 128 ≠ 0 ∧ (readB (stash 0x80 0 0x1000 []) (xof 0 1) true 0 6 false).1.toNat + 0x80 > 4096 ∧
    (let s := stash 0x80 0x1000 0x80 [{ off := 0x80, base := 0x1000, len := 0x80 }]
     (s.wg 1).stash.find? (fun t => t.off == 0x80) = some { off := 0x80, base := 0x1000, len := 0x80 } ∧
     writeBack s ((xof 0 1).party s) 1 { off := 0x80, base := 0x1000, len := 0x80 } [] = (s, none)) ∧
    (((stash 0x80 0x1000 0x80 []).wg 1).stash.find? fun t => t.off == 0x80) = none := by
  refine ⟨?_, ?_, ?_, ?_, ?_, ⟨?_, ?_⟩, ?_⟩
  all_goals decide +kernel

/-- An estate of work-item 0 in the store. -/
def estate : Estate := { ctx := 1, region := 0, key := 0, tag := 0, seq := 0, regs := [7], launch := 9, eligible := true, place := .inPlace 0 0 0 5 }
theorem wit_estates :
    spanOk (two 0) (xof 0 3) 0 1 ∧ spanOk (two 0) (xof 0 3) 80 32 ∧ (∃ e ∈ ((xof 0 3).launch (two 0)).lpb.bequest, e.tag = 0 ∧ e.base = destReg (two 0) (xof 0 3) 0 ∧ e.count = 0 + 1) ∧
    ((xof 0 3).sub (two 0)).live &&& ~~~(xof 0 3).mask = 0 ∧ ((xof 0 1).sub (two 0)).live &&& ~~~(xof 0 1).mask ≠ 0 ∧ (∀ k ∈ List.range 16, traced (two 0) k = false) ∧
    met [estate] ((xof 0 3).launch (two 0)) 0 0 = some estate ∧ estate.bad = false ∧ met [] ((xof 0 3).launch (two 0)) 0 0 = none ∧ (∀ b, let e := { estate with bad := b, place := .holder 0 }; let s : State := { one with fe := { one.fe with estates := [e] } }
      met s.fe.estates ((xof 0 1).launch s) 0 0 = some e ∧ (xof 0 1).lanes = [0] ∧ (bringEstate s 0 e).2 = b ∧ (takeEstate (bringEstate s 0 e).1 e).subs.find? 1 ≠ none) ∧ ((two 0).subs.find? 1).isSome = true := by
  refine ⟨⟨?_, ?_⟩, ⟨?_, ?_⟩, ⟨⟨0, 0, 1⟩, ?_, ?_, ?_, ?_⟩, ?_, ?_, ?_, ?_, ?_, ?_, ?_, ?_⟩
  all_goals decide +kernel

/-- The subgroup in a handler for all its members, whose frame is at the scratchpad offset 0x400. -/
def handling : State := (two 0).modSub 1 fun u => { u with sstat := 0x40, handler := some { mask := 3, frame := 0xff00000000000400, cause := 0x0d } }
theorem wit_control_registers : supervisor ((xof 0 3).sub handling) = true ∧ supervisor ((xof 0 3).sub (two 0)) = false ∧ Stands handling (xof 0 3) ∧ (111#7).toNat ≤ 111 ∧
    (0x7f#16).toNat ∉ [1, 2, 3, 0x10, 0x11, 0x12, 0x20] ∧ 0x80 ≤ (0x80#16).toNat := by
  refine ⟨?_, ?_, ⟨?_, ?_⟩, ?_, ?_, ?_⟩ <;> decide +kernel

theorem wit_migr :
    (xof 0 3).mask = ((xof 0 3).sub (two 0)).live ∧ ((xof 0 3).launch (two 0)).image.lform = true ∧ ((xof 0 3).launch (two 0)).image.transit[0]? = some ⟨0, 0, 0, 0, []⟩ ∧
    (xof 0 3).pc (two 0) = transitPc ((xof 0 3).launch (two 0)).image ⟨0, 0, 0, 0, []⟩ .d ∧ migrTarget (two 0) 0 1 0 = some (1, 0, 0) ∧ isL 1 = !(isL 0) ∧
    relocked (two 0) 0 3 = false ∧ (release (two 0) ((xof 0 3).party (two 0)) 3).2 = none ∧
    migrTarget ((two 0).modDie 0 fun d => { d with relockL := some { until_ := 2000, code := 3 } }) 0 1 0 = none := by decide +kernel

theorem wit_illegal_words :
    sbOk 112 = false ∧ srcOk (two 0) (xof 0 3) 116 false = false ∧ dstOk (two 0) (xof 0 3) 120 1 = false ∧ bOk (two 0) (xof 0 3) false 127 false = false ∧
    dstOk (two 0) (xof 0 3) 111 2 = false ∧ (two 0).turn = .row 0 0 ∧ (0xce000000 : Word).extractLsb' 25 7 ≠ 0x62 ∧ refusedWord 0xce000000 = some .reserved ∧
    (0xce000000 : Word).extractLsb' 21 11 ≠ 0x601 ∧ (0xce000000 : Word).extractLsb' 25 7 ≠ 0x66 := by decide +kernel

theorem wit_needle_word : (ndl [] 0).turn = .row 0 0 ∧ Turns (ndl [] 0xcdd00000) 0 0 1 0 ∧ ((ndl [] 0xcdd00000).needle 0 0).pc < codeSize (ndl [] 0xcdd00000) 1 ∧
    (ndl [] 0xcdd00000).subsOf 1 ≠ [] ∧ Inside (ndl [] 0xcdd00000) 1 4 ∧ Inside (ndl [] 0xcdd00000) 1 0 := by
  refine ⟨?_, ⟨?_, ?_⟩, ?_, ?_, ⟨?_, ?_, ?_⟩, ⟨?_, ?_, ?_⟩⟩ <;> decide +kernel

theorem wit_system_words :
    (∀ l ∈ (xof 0 3).lanes, ((((xof 0 3).sub (two 0)).thread l).tstat &&& ((xof 0 3).sub (two 0)).fen &&& 0x1f != 0) = false) ∧
    (let s := (two 0).modSub 1 fun u => { u with fen := 1, threads := u.threads.map fun p => (p.1, { p.2 with tstat := 1 }) }
     ∀ l < 64, (3 : Dword).getLsbD l = ((xof 0 3).mask.getLsbD l && ((((xof 0 3).sub s).thread l).tstat &&& ((xof 0 3).sub s).fen &&& 0x1f != 0))) ∧
    (((xof 0 3).sub (two 0)).spair 10).toNat ≤ (two 0).etime.toNat ∧ (two 0).etime.toNat < (((xof 0 3).sub (two 0)).spair 4).toNat ∧
    (match ((((xof 0 3).sub (two 0)).thread 0).slept) with
      | some (p, n) => if p = (xof 0 3).pc (two 0) then n else 0
      | none => 0) = 0 := by decide +kernel

/-! ### Witnesses for traps -/

/-- A premise that an operation succeeds, with what holds of its answer. -/
theorem meets {α β ε : Type} {p : α × Except ε β} {Q : α → β → Prop} [∀ r y, Decidable (Q r y)]
    (h : (match p with
      | (r, .ok y) => decide (Q r y)
      | _ => false) = true) : ∃ r y, p = (r, .ok y) ∧ Q r y := by
  obtain ⟨r, e | y⟩ := p
  · simp at h
  · exact ⟨r, y, rfl, by simpa using h⟩
theorem gets {α ε : Type} {p : Except ε α} {Q : α → Prop} [∀ y, Decidable (Q y)]
    (h : (match p with
      | .ok y => decide (Q y)
      | _ => false) = true) : ∃ y, p = .ok y ∧ Q y := by
  obtain e | y := p
  · simp at h
  · exact ⟨y, rfl, by simpa using h⟩
/-- Whether an operation succeeds. -/
def isOk {α ε : Type} : Except ε α → Bool
  | .ok _ => true
  | .error _ => false

/-- The scratchpad of workgroup 1 with the bytes of `m`. -/
def pad (s : State) (m : Mem) : State := s.modWg 1 fun g => { g with mem := m }
/-- A launch with a vector record at scratchpad offset 0x200 and frames from 0x400; its two threads wait. -/
def armed (w : Wait) (f : Sub → Sub) : State :=
  let s := two 0
  let l := s.launch 0
  let s : State := { s with fe := { s.fe with launches := [(0, { l with vector := 0xff00000000000200, lpb := { l.lpb with trapframe := 0xff00000000000400 } })] } }
  ((pad (s.modRow 0 0 fun r => { r with atSwitch := true }) [(0x201, 0x30), (0x209, 0x40), (0x211, 0x50), (0x219, 0x60), (0x220, 0x80)]).modThreads 1 [0, 1] fun t =>
    { t with wait := w }).modSub 1 f
def divTrap : Trap := { cause := 8, pc := 0x1000, mask := 3 }
def dbgTrap : Trap := { cause := 0x0e, kind := 2 }
def pageTrap : Trap := { cause := 4, detail := 2, pc := 0x1000, mask := 3, addr := 0x5000 }

theorem wit_trap_entry :
    (let s := armed .trapped fun u => { u with traps := [divTrap] }
     (s.sub 1).traps = [divTrap] ∧ (s.sub 1).inHandler = false ∧ (s.sub 1).halted = false ∧ noneReady s 1 = true ∧
     ∃ r bs, vectorRecord (s.setSub 1 { s.sub 1 with traps := [] }) 1 = (r, .ok bs) ∧ dwordAt bs 0 = 0x3000 ∧
       isOk (writeFrame r ⟨(r.sub 1).core, (r.wg (r.sub 1).wg).ctx, (r.sub 1).wg⟩ (frameAddr r 1) 80 (frameBytes r 1 divTrap false)) = true) ∧
    (let s := armed .none fun u => { u with asyncs := [dbgTrap] }
     asyncTakeable s 1 = some dbgTrap ∧ atSwitchPoint s 1 = true ∧
     ∃ r bs, vectorRecord (s.setSub 1 { s.sub 1 with asyncs := (s.sub 1).asyncs.erase dbgTrap, traps := [], service := [] }) 1 = (r, .ok bs) ∧ dwordAt bs 0 = 0x3000 ∧
       isOk (writeFrame r ⟨(r.sub 1).core, (r.wg (r.sub 1).wg).ctx, (r.sub 1).wg⟩ (frameAddr r 1) 80
         (frameBytes r 1 { dbgTrap with mask := (s.sub 1).live } false)) = true) ∧
    (let s := armed .service fun u => { u with service := [pageTrap] }
     (s.sub 1).service = [pageTrap] ∧ (s.sub 1).traps = [] ∧ (s.sub 1).inHandler = false ∧ (s.sub 1).halted = false ∧ noneReady s 1 = true ∧
     continuationOf s 1 = some (0x5000, 0x80) ∧
     isOk (writeFrame s ⟨(s.sub 1).core, (s.wg (s.sub 1).wg).ctx, (s.sub 1).wg⟩ (frameAddr s 1) 80 (frameBytes s 1 pageTrap true)) = true) ∧
    firstAsync [{ dbgTrap with cause := 0x13 }, dbgTrap] = some dbgTrap := by
  refine ⟨⟨?_, ?_, ?_, ?_, meets ?_⟩, ⟨?_, ?_, meets ?_⟩, ⟨?_, ?_, ?_, ?_, ?_, ?_, ?_⟩, ?_⟩
  all_goals decide +kernel

theorem wit_rft :
    Stands handling (xof 0 3) ∧ ((xof 0 3).sub handling).inHandler = true ∧ (∃ h, ((xof 0 3).sub handling).handler = some h ∧
      (xof 0 3).mask = ((xof 0 3).sub handling).live &&& h.mask ∧ h.cont = false) ∧
    ∃ r bs, loadBytes (switchPoint handling (xof 0 3)) ⟨((xof 0 3).sub handling).core, (handling.wg ((xof 0 3).wg handling)).ctx, (xof 0 3).wg handling⟩ 0xff00000000000400 640 =
      (r, .ok bs) ∧ bs.length = 640 := by
  refine ⟨⟨?_, ?_⟩, ?_, ⟨_, rfl, ?_, ?_⟩, meets ?_⟩
  all_goals decide +kernel

theorem wit_fault_service : let s := armed .service fun u => { u with service := [pageTrap] }
    (s.sub 1).service = [pageTrap] ∧ (s.sub 1).handler = none ∧ (s.sub 1).inHandler = false ∧ (s.subs.find? 1).isSome = true := by decide +kernel

/-- A cycle count of 5000 on die 0. -/
def lateIn (s : State) : State := s.modDie 0 fun d => { d with cyc := 5000 }
theorem wit_waits :
    (∃ u, (two 0).subs.find? 1 = some u ∧ u = (two 0).sub 1) ∧ ((armed (.sleep 0) id).sub 1).threads.find? 0 = some (((armed (.sleep 0) id).sub 1).thread 0) ∧
    (((armed (.sleep 0) id).sub 1).thread 0).wait = .sleep 0 ∧ (0 : Dword).toNat ≤ (armed (.sleep 0) id).etime.toNat ∧
    (armed (.sleep 9) id).etime.toNat < (9 : Dword).toNat ∧ relocked (two 0) 0 6 = false ∧ relocked (relocking (two 0)) 0 3 = true ∧
    (let s := lateIn (grp 0 3 1 (fun _ => []) [])
     (s.row 0 0).issuing = some (1, 1) ∧ max 256 (s.core 0).fairT.toNat ≤ s.cycle 0 - (s.row 0 0).runAt ∧ threadReady s 1 1 = true ∧ (1 : Dword).getLsbD 1 = false) ∧
    (((two 0).modCore 0 fun k => { k with walks := 1 }).core 0).walks ≠ 0 := by
  refine ⟨⟨_, rfl, rfl⟩, ?_, ?_, ?_, ?_, ?_, ?_, ?_, ?_⟩
  all_goals decide +kernel

/-- A buffered `poll` word, in a state whose first gibibyte is mapped for execution too. -/
def polling : State :=
  let s := mapped (two 0)
  let m : VMem := { bytes := [(0x100000, 0x01), (0x100002, 0x20), (0x200000, 0x35), (0x200003, 0x40)] }
  { s with pk := m, sy := m, cores := s.cores.modify 0 fun k => { k with lines := [(0x1000, List.replicate 16 0x584288a8)] } }
theorem wit_rereads :
    ((xof 0 3).sub polling).live &&& (xof 0 3).mask ≠ 0 ∧ (fetchWord { polling with turn := .row 0 0 } (xof 0 3)).2 = some 0x584288a8 ∧
    { polling with turn := .row 0 0 }.issuing = some (xof 0 3) ∧
    (match pollWord 0x584288a8 with
      | some p => (pollChecks (fetchWord { polling with turn := .row 0 0 } (xof 0 3)).1 (xof 0 3) p).all fun k => !k.1
      | none => false) = true ∧
    (polling.core 0).ctx = some 1 ∧ (0x1008 : Dword).toNat % 4 = 0 ∧ (0x1008 : Dword).toNat < 2 ^ 56 ∧
    ∃ q y, translate polling 0 1 ((0x1008 : Dword).toNat / 64 * 64) (.fetch (formOf 0)) = (q, .ok y) ∧ q.remoteFault 1 y.loc 0x1008 = none ∧ q.badAt y.loc 64 = false := by
  refine ⟨?_, ?_, ?_, ?_, ?_, ?_, ?_, meets ?_⟩
  all_goals decide +kernel

/-! ### Witnesses for needles -/

/-- A needle whose n2 and n3 hold `a` and `b`, over a scratchpad. -/
def pin (a b : Dword) (m : Mem) : State := pad (ndl [(2, a), (3, b)] 0xcdd00000) m
theorem wit_needle_accesses : let s := pin 0xff00000000000800 5 []
    let at_ (n : Nat) (need : Need) : Prop := ∃ r xs, locate s (needleParty s 0 1) 0 0xff00000000000800 n true need = (r, .ok xs) ∧ correctable r 0xff00000000000800 xs [] = none
    Turns s 0 0 1 0 ∧ Inside s 1 4 ∧ (s.needle 0 0).pc + 4 = 4 ∧ (s.needle 0 0).reg 2 + BitVec.ofInt 64 ((0#8).toInt * 8) = 0xff00000000000800 ∧ at_ 4 .load ∧ at_ 8 .load ∧ at_ 8 .store := by
  refine ⟨⟨?_, ?_⟩, ⟨?_, ?_, ?_⟩, ?_, ?_, meets ?_, meets ?_, meets ?_⟩
  all_goals decide +kernel

/-- A generator over rows of four words. -/
def gen4 (b : Dword) : Gen := { bound := true, handle := 0x8020, base := b, ext := [4, 3, 1, 1, 1, 1], str := [4, 16, 0, 0, 0, 0], fmt := 2, swz := 0, c := [0, 2, 0, 0, 0, 0] }
theorem wit_generators :
    ((gen4 0).c.length = 6 ∧ ∀ i < 6, 0 < (gen4 0).ext.getD i 1 ∧ (gen4 0).c.getD i 0 < (gen4 0).ext.getD i 1) ∧
    ([3, 2, 0, 0, 0, 0].length = 6 ∧ (gen4 0x1000).str.length = 6 ∧ ((0x1000 : Dword) + 44).toNat < 2 ^ 56) ∧ ((0xff00000000000c00 : Dword) + 44).toNat / 2 ^ 24 = 0xff00000000 := by
  decide +kernel

/-- A needle with its first two generators bound to scratchpad words at 0x800 and 0xc00. -/
def pins : State := (pin 0x8020 0 [(0x801, 0x0c), (0x807, 0xff), (0x808, 4), (0x80c, 3), (0x810, 1), (0x814, 1), (0x818, 1), (0x81c, 1), (0x820, 4), (0x838, 2)]).modNeedle 0 0 fun x =>
  { x with gens := [(0, gen4 0xff00000000000900), (1, gen4 0xff00000000000c00)] }
theorem wit_copy_words :
    (∃ r y, bindGen pins 0 1 3 (((pins.needle 0 0).reg 2).toNat % 2 ^ 16) = (r, .ok y) ∧ y.bound = true) ∧ ((pins.needle 0 0).gen 0).bound = true ∧ (5#8).toNat ≤ 5 ∧
    Turns pins 0 0 1 0 ∧ elemSize ((pins.needle 0 0).gen 0).fmt = elemSize ((pins.needle 0 0).gen 1).fmt ∧
    ∀ kind < 3, (match copyCoords kind ((pins.needle 0 0).gen 0) ((pins.needle 0 0).gen 1) 0 1 ((pins.needle 0 0).reg 3).toNat with
      | .error _ => false
      | .ok ks =>
        let P := needleParty pins 0 1
        match locateParts pins P .load 1 (ks.flatMap fun k => ((pins.needle 0 0).gen 1).parts k.1) with
        | (r1, [], xs) => match locateParts r1 P .store 0 (ks.flatMap fun k => ((pins.needle 0 0).gen 0).parts k.2) with
          | (r2, [], ys) => xs.all (fun p => correctable r2 p.1 [p.2] [] == none) && ys.all fun p => correctable r2 p.1 [p.2] (ys.map Prod.snd) == none
          | _ => false
        | _ => false) = true := by
  refine ⟨meets ?_, ?_, ?_, ⟨?_, ?_⟩, ?_, ?_⟩
  all_goals decide +kernel

theorem wit_needle_synchronization : let s := pin 0xff00000000000800 0 [(0x800, 1)]
    let p : Posted := { sg := 1 }
    (∃ r y, barrierAt s (needleParty s 0 1) ((s.needle 0 0).reg 2 + BitVec.ofNat 64 (8 * (((s.needle 0 0).reg 3).toNat / 64))) = (r, .ok y) ∧ y = (1, 0x800) ∧
      relocked r 0 (barrierScope 0xff00000000000800) = false ∧ (barrierWord r 1 0x800).getLsbD 63 = false) ∧
    (∃ r y, barrierAt (relocking (pin 0xfe00000000000800 0 [])) (needleParty s 0 1) 0xfe00000000000800 = (r, .ok y) ∧ relocked r 0 (barrierScope 0xfe00000000000800) = true) ∧
    (0xff00000000000800 : Dword).toNat / 2 % 4 = 0 ∧ (0xff00000000000801 : Dword).toNat / 2 % 4 = 0 ∧ (0xff00000000000801 : Dword).getLsbD 0 = true ∧
    (0 = (s.wg 1).home ∧ 0 < needlesOf 0 ∧ ((s.modWg 1 fun g => { g with posted := [(0, p)] }).wg 1).posted.find? 0 = some p ∧ ringOf s 1 = some 0 ∧
      (∀ k ∈ List.range 16, traced s k = false)) ∧
    s.subsOf 1 ≠ [] ∧ scrRead s 1 (0 + recordOff 0 + 1) 1 % 2 = 0 := by
  refine ⟨meets ?_, meets ?_, ?_, ?_, ?_, ?_, ?_, ?_⟩
  all_goals decide +kernel

/-- Two threads whose workgroup has an entry in slot 0 of its ring. -/
def postedOne (p : Posted) : State := (two 0).modWg 1 fun g => { g with posted := [(0, p)] }
theorem wit_npost :
    spairOk 110 = true ∧ (104#7).toNat ≤ 104 ∧ ringOf (two 0) ((xof 0 3).wg (two 0)) = some 0 ∧ ((postedOne {}).wg 1).posted.find? (scrRead (postedOne {}) 1 0 4 % 64) ≠ none ∧
    ((two 0).wg 1).posted.find? (scrRead (two 0) 1 0 4 % 64) = none ∧ (release (two 0) ((xof 0 3).party (two 0)) 2).2 = none ∧
    (let s := postedOne { sg := 1 }
     (s.needle 0 0).cmd = none ∧ 0 < needlesOf 0 ∧ nextEntry s 0 0 = some (1, 0, { sg := 1 }) ∧ ringOf s 1 = some 0 ∧ scrRead s 1 (0xc0 + 4) 1 < 4 ∧ scrRead s 1 0xc0 4 % 4 = 0 ∧
       scrRead s 1 0xc0 4 < codeSize s 1 ∧ (∀ i < 32, s.badScr 1 (0xc0 + i) = false) ∧ (s.wg 1).stash = []) := by decide +kernel

/-- A needle that `n.trap` has stopped, with its record. -/
def stuck : State := (pad (two 0) [(0x40, 0x0c), (0x41, 0x01)]).setNeedle 0 0 { cmd := some (1, 0), stopped := some 0x0c }
theorem wit_nctl :
    (7#7).toNat ≤ 111 ∧ spairOk 110 = true ∧ (((xof 0 3).sub stuck).sreg 7).toNat < 2 ^ 11 ∧ (((xof 0 3).sub stuck).sreg 7).toNat % 16 ≤ 3 ∧ stoppedAt stuck 1 0 0 = true ∧
    stoppedAt (two 0) 1 0 0 = false ∧ (stuck.needle 0 0).stopped ≠ some 0x0b ∧ (Inside stuck 1 ((stuck.needle 0 0).pc + 4) ∧ Inside stuck 1 (stuck.needle 0 0).pc ∧ (stuck.needle 0 0).stopped ≠ some 4) ∧ Stands stuck (xof 0 3) ∧
    (stuck.wg 1).posted.find? 0 = none ∧ ((postedOne {}).wg 1).posted.find? 0 = some {} ∧ (0xff3 : Nat) < 2 ^ 12 ∧ 0xff3 % 16 ≤ 3 := by
  refine ⟨?_, ?_, ?_, ?_, ?_, ?_, ?_, ⟨⟨?_, ?_, ?_⟩, ⟨?_, ?_, ?_⟩, ?_⟩, ⟨?_, ?_⟩, ?_, ?_, ?_, ?_⟩
  all_goals decide +kernel

theorem wit_batches : let s : State := { two 0 with cmds := [(4, { joins := [((1, 0), 0)] })] }
    (∀ l ∈ (xof 0 3).lanes, (((xof 0 3).sub s).thread l).wait = .none) ∧ batchDone s 1 0 0 = false ∧ batchDone s 1 1 0 = true ∧ batchDone s 1 0 0xffff = true ∧
    (∀ l ∈ (xof 0 3).lanes, batchDone (two 0) 1 l 0 = true) ∧ spairOk 4 = true ∧ spairOk 6 = true ∧
    ∃ r m, barrierAt s ((xof 0 3).party s) (((xof 0 3).sub s).spair 4) = (r, .ok m) ∧
      chunksDone r ((xof 0 3).party r) (((xof 0 3).sub s).spair 4) (((xof 0 3).sub s).spair 6) = false ∧
      chunksDone r ((xof 0 3).party r) (((xof 0 3).sub s).spair 4) (((xof 0 3).sub s).spair 10) = true := by
  refine ⟨?_, ?_, ?_, ?_, ?_, ?_, ?_, meets ?_⟩
  all_goals decide +kernel

theorem wit_promise : let p : Posted := { sg := 1, watch := true }
    ((postedOne p).wg 1).posted.find? 0 = some p ∧ ((postedOne p).subs.find? 1).isSome = true ∧ p.promise.toNat ≤ (postedOne p).etime.toNat ∧ ((postedOne p).wg 1).stopped = [] ∧
    (∀ n < needlesOf ((postedOne p).wg 1).home, ((postedOne p).needle ((postedOne p).wg 1).home n).cmd = some (1, 0) →
      ((postedOne p).needle ((postedOne p).wg 1).home n).stopped = none) ∧ (postedOne p).etime.toNat < (1 : Dword).toNat := by decide +kernel

/-! ### Witnesses for the matrix engine, tile tasks and the Orrery -/

/-- Two members with scalars `r` beside those of `two 0`, over an engine. -/
def duo (r : Tbl Word) (m : Mem) (e : Engine) : State := (pad (grp 0 3 3 (fun _ => []) ([(4, 0x40), (5, 0xff000000)] ++ r)) m).modCore 0 fun k => { k with engine := e }
def mine : Engine := { owner := some 1, actx := 1, wctx := 1 }
theorem wit_matrix_ownership :
    Uniform (duo [] [] mine) (xof 0 3) ∧ ((duo [] [] mine).core 0).engine.owner = some 1 ∧ ((duo [] [] mine).core 0).ctx = some (((duo [] [] mine).wg 1)).ctx ∧
    engineWanted (duo [] [] mine) 0 = none ∧ ((duo [] [] mine).core 0).engine.queue = [] ∧
    (let e := ((duo [] [] {}).core 0).engine; e.owner = none ∧ e.queue = [] ∧ e.task = none ∧ e.owner ≠ some 1) ∧
    (let s := duo [] [] { mine with queue := [2] }
     (s.core 0).engine.queue = [2] ∧ 2 ≠ (xof 0 3).sg ∧ (s.sub 2).handler = none ∧ engineWanted s 0 = none) ∧
    (let e := ((duo [] [] { owner := some 2 }).core 0).engine; e.owner ≠ some 1 ∧ e.owner ≠ none) ∧ Issues (duo [] [] { owner := some 2 }) (xof 0 3) ∧ (3#3).toNat < 4 := by
  refine ⟨⟨⟨?_, ?_⟩, ?_⟩, ?_, ?_, ?_, ?_, ?_, ?_, ?_, ⟨?_, ?_, ?_⟩, ?_⟩
  all_goals decide +kernel

theorem wit_weight_loads : let s := duo [(10, 0x10)] [] mine
    OwnsEngine s (xof 0 3) false true ∧ OwnsEngine s (xof 0 3) true true ∧ spairOk 4 = true ∧ Load.bad 0 (((xof 0 3).sub s).sreg 7) = false ∧ (((xof 0 3).sub s).sreg 10).toNat = 0x10 ∧
    (∃ o, operandAt s ((xof 0 3).party s) (((xof 0 3).sub s).spair 4) 16 0 0 = .ok o ∧ stashed s o = false ∧ o.bad s 0 16 = false) ∧ mine.shadow.lc2Bad = false ∧
    (∃ o, operandAt s ((xof 0 3).party s) (((xof 0 3).sub s).spair 4) 512 0 0 = .ok o ∧ stashed s o = false ∧ o.bad s 0 512 = false) := by
  refine ⟨⟨?_, ?_, ?_⟩, ⟨?_, ?_, ?_⟩, ?_, ?_, ?_, gets ?_, ?_, gets ?_⟩
  all_goals decide +kernel

theorem wit_mswap : mine.shadow.failed = false ∧ (mine.shadow.valid = true → goodMeta mine.shadow = true) ∧
    (goodMeta { valid := true, spar := 1, kr := 2, nc := 1, pos := [(1, 127)] } = true) ∧ OwnsEngine (duo [] [] { mine with shadow := { failed := true } }) (xof 0 3) false true := by
  refine ⟨?_, ?_, ?_, ⟨?_, ?_, ?_⟩⟩
  all_goals decide +kernel

theorem wit_matrix_values :
    exactOf 320 (unpack f32 false (0x00000001 : Word).toNat) = .fin (2 ^ 171) ∧ ([[Exact.fin 1]] : List (List Exact)).length ≤ 64 ∧ ([[Exact.fin 1]] : List (List Exact))[0]? = some [Exact.fin 1] ∧
    (0 : Nat) < 128 ∧ ({} : Tile).cpos + 127 < 128 ∧ ({} : Tile).cpos + 128 = 128 := by decide +kernel

theorem wit_streams : let s := duo [(10, 16)] [] { mine with active := { valid := true, kr := 1, nc := 1 } }
    OwnsEngine s (xof 0 3) true true ∧ OwnsEngine s (xof 0 3) true false ∧ streamBad 0 (((xof 0 3).sub s).sreg 7) = false ∧ readBad 0 (((xof 0 3).sub s).sreg 7) = false ∧
    ((s.core 0).engine.active.valid = true ∧ packedBytes 0 (s.core 0).engine.active.kl ≤ (((xof 0 3).sub s).sreg 10).toNat ∧ 1 * 4 ≤ (((xof 0 3).sub s).sreg 10).toNat) ∧
    (∃ o, operandAt s ((xof 0 3).party s) (((xof 0 3).sub s).spair 4) 2 16 0 = .ok o ∧ stashed s o = false ∧ ∀ r < 1, o.bad s (r * 16) 2 = false) ∧
    (∃ o, operandAt s ((xof 0 3).party s) (((xof 0 3).sub s).spair 4) 4 16 0 = .ok o ∧ stashed s o = false ∧ (s.wg o.wg).bad = []) ∧ (isL 1 = true → (3#3).toNat ≤ 3) ∧
    ((s.core 0).engine.running = [] ∧ (s.core 0).engine.actx = (s.wg ((xof 0 3).wg s)).ctx ∧ (s.core 0).engine.wctx = (s.wg ((xof 0 3).wg s)).ctx) := by
  refine ⟨⟨?_, ?_, ?_⟩, ⟨?_, ?_, ?_⟩, ?_, ?_, ?_, gets ?_, gets ?_, ?_, ?_⟩
  all_goals decide +kernel

/-- Two members at an `mzero` that waits for the firmware. -/
def claiming : State := (((duo [] [] { owner := some 1 }).modThreads 1 [0, 1] fun t => { t with wait := .firmware }).modCore 0 fun k => { k with lines := [(0x1000, [0xc4a00000])] })
theorem wit_matrix_events :
    ((duo [] [] { running := [5, 6] }).core 0).engine.running = [5, 6] ∧ 5 ∉ [6] ∧ claimant claiming 0 = some (1, 0x1000) ∧ (claiming.core 0).engine.running = [] ∧
    buffered (claiming.core 0) 0x1000 = some 0xc4a00000 ∧ touches 0xc4a00000 = (true, false) ∧ (claim claiming 0 1 true false).2 = true ∧
    ((claim claiming 0 1 true false).1.subs.find? 1).isSome = true := by decide +kernel

/-- A legal tile record at scratchpad offset 0x40. -/
def tiled (ts : List TileTask) : State :=
  let s := duo [] [(0x68, 64), (0x6c, 7)] {}
  s.modCluster 0 fun k => { k with tasks := ts }
def tileRecord : List Byte := List.replicate 40 0 ++ [64, 0, 0, 0, 7] ++ List.replicate 19 0
def oneTask : TileTask := { num := 1, ctx := 1, wg := 1, sg := 1, core := 0, cmd := 1, addr := 0xff00000000000040, taskid := 7, deps := [], record := tileRecord }
theorem wit_tile_tasks :
    Uniform (tiled []) (xof 0 3) ∧
    (∃ r bs, commandRead (tiled []) ((xof 0 3).party (tiled [])) (((xof 0 3).sub (tiled [])).spair 4) 64 true = (r, .ok bs) ∧ bs = tileRecord ∧
      isOk (storeAt r ((xof 0 3).party r) 0 ((((xof 0 3).sub (tiled [])).spair 4) + 0x38) (bytesOf 4 1) true).2 = true) ∧ tileBad tileRecord = false ∧ tileBad (List.replicate 64 0) = true ∧
    fieldAt tileRecord 0x2c 2 = 7 ∧ (∃ t ∈ ((tiled [oneTask]).cluster 0).tasks, t.ctx = 1 ∧ t.taskid = 7) ∧ ((tiled []).cluster 0).tasks = [] ∧
    (let s := tiled [oneTask]
     (s.cluster 0).tasks.find? (fun t => taskReady s t && t.doomed) = none ∧ nextTask s 0 = some oneTask ∧ taskFits s 0 oneTask none = true ∧
     ∀ c ∈ oneTask.gang 0, (s.core c).engine.actx = 0 ∧ (s.core c).engine.wctx = 0) ∧
    (((tiled [{ oneTask with doomed := true }]).cluster 0).tasks.find? fun t => taskReady (tiled [{ oneTask with doomed := true }]) t && t.doomed) = some { oneTask with doomed := true } ∧
    postOf (tiled []) (xof 0 3) = none ∧
    ((tiled [{ oneTask with started := true }]).cluster 0).tasks.find? (fun t => t.started) = some { oneTask with started := true } := by
  refine ⟨⟨⟨?_, ?_⟩, ?_⟩, meets ?_, ?_, ?_, ?_, ⟨oneTask, ?_, ?_⟩, ?_, ?_, ?_, ?_, ?_⟩
  all_goals decide +kernel

/-- An Orrery command of workgroup 1. -/
def oneCmd : OCmd := { op := 0, desc := 0xff00000000000040, record := List.replicate 64 0, count := 0, sg := 1, wg := 1, core := 0, cmd := 4 }
theorem wit_orrery :
    (1 ≤ 256 ∧ ([1, 0] : List Nat).length = 2 ∧ (∀ v ∈ ([1, 0] : List Nat), v < 2) ∧ ([1, 0] : List Nat)[0]? = some 1) ∧
    (∃ r bs, commandRead (duo [] [] {}) ((xof 0 3).party (duo [] [] {})) (((xof 0 3).sub (duo [] [] {})).spair 4) 64 true = (r, .ok bs) ∧
      isOk (storeAt r ((xof 0 3).party (duo [] [] {})) 0 (0xff00000000000040 + 0x38) (bytesOf 4 1) true).2 = true) ∧
    ((duo [] [] {}).cluster 0).orrery.length < 64 ∧
    (∀ l ∈ (xof 0 3).lanes, (((xof 0 3).sub (duo [] [] {})).thread l).posts.find? ((xof 0 3).pc (duo [] [] {})).toNat = none) ∧
    (let s := (duo [] [] {}).modCluster 0 fun k => { k with orrery := [oneCmd] }
     (s.cluster 0).orrery.find? (fun c => (s.wg c.wg).resident) = some oneCmd) ∧ (descOf (List.replicate 64 0)).nst = 0 ∧ 256 < (257 : Nat) := by
  refine ⟨?_, meets ?_, ?_, ?_, ?_, ?_, ?_⟩
  all_goals decide +kernel

/-! ### Witnesses for the front end and the barriers -/

/-- Bytes at the virtual addresses of the mapped gibibyte of context 1, from `a` on; zeros are not listed. -/
def bytesAt (a : Nat) (bs : List Byte) : Mem := bs.zipIdx.filterMap fun p => if p.1 = 0 then none else some (0x40000000 + a + p.2, p.1)
/-- A device that serves a host queue, with context 1 mapped and the bytes `m` in its memory. -/
def served1 (m : Mem) (f : FrontEnd) : State :=
  let v : VMem := { bytes := [(0x100000, 0x01), (0x100002, 0x20), (0x200000, 0x05), (0x200003, 0x40)] ++ m }
  { up with pk := v, sy := v, fe := { f with contexts := [(1, { ptroot := 0x100000, root := 0x40001000 })] } }
/-- An entry of context 1. -/
def ent (op : BitVec 8) (bs : List Byte) : Entry := { op := op, ctx := 1, state := 1, bytes := bs }
/-- A body whose ADDR is `a`, with `r` after it. -/
def body (a : Dword) (r : List Byte) : List Byte := List.replicate 16 0 ++ bytesOf 8 a ++ r ++ List.replicate (40 - r.length) 0

theorem wit_queue_registers :
    let full : Queue := { log := 6, enable := true, reserved := 64 }
    let open_ : Queue := { log := 6, enable := true, base := 0x8000000000000000 }
    hostUp up = true ∧ 255 < 256 ∧ full.waiting = full.slots ∧ open_.waiting ≠ open_.slots ∧ open_.enable = true ∧
    (let x : Queue := { log := 6, base := 0x8000000000000000 }; x.enable = false ∧ 6 ≤ x.log.toNat ∧ x.log.toNat ≤ 16 ∧ (x.rcb = 0 → x.host = true)) ∧
    (let x : Queue := { log := 16, rcb := 0x100 }; x.enable = false ∧ 6 ≤ x.log.toNat ∧ x.log.toNat ≤ 16 ∧ (x.rcb = 0 → x.host = true)) ∧
    (let x : Queue := { log := 17 }; ¬ (6 ≤ x.log.toNat ∧ x.log.toNat ≤ 16 ∧ (x.rcb = 0 → x.host = true))) ∧ queueBusy up 255 = false := by decide +kernel

/-- A host queue with one committed slot that holds `bs`. -/
def hosted (bs : List Byte) : State × Queue :=
  let q : Queue := { base := 0x8000000000002000, log := 6, enable := true, map := 0x1000, reserved := 1 }
  let m : Mem := (2 * 2 ^ 56 + 0x1000, 1) :: bs.zipIdx.filterMap fun p => if p.1 = 0 then none else some (2 * 2 ^ 56 + 0x2000 + p.2, p.1)
  ({ up with pk := { bytes := m }, fe := { queues := [(3, q)], jset := true } }, q)
def createEntry : List Byte := [6] ++ List.replicate 31 0 ++ [1] ++ List.replicate 31 0
theorem wit_entry_consume : ∀ bs ∈ [createEntry, List.replicate 64 (0 : Byte)], let s := (hosted bs).1; let x := (hosted bs).2
    s.queue 3 = x ∧ takes s x = true ∧ queueRead s x (x.base + BitVec.ofNat 64 (64 * x.slot)) 64 = some bs ∧ (queueRead s x x.mapWord 8).isSome = true ∧
    s.fe.entries.find? s.fe.jseq.toNat = none ∧ entryOk x bs = decide (bs = createEntry) := by decide +kernel

theorem wit_starts :
    (let s := served1 [] { entries := [(5, ent 0 [])] }; Starts s 5 0 (ent 0 [])) ∧
    (let e := ent 3 (body 0 []); let s := served1 [] { entries := [(5, e)] }; Starts s 5 3 e ∧ wordPlace s e.ctx (dwordAt e.bytes 0x10) .store = .ok 0x40000000 ∧ 0 < s.stamp ∧
      Apart s 5 0x40000000 8) ∧
    (let e := ent 4 (body 8 []); let s := served1 [] { entries := [(5, e)] }; Starts s 5 4 e ∧ wordPlace s e.ctx (dwordAt e.bytes 0x10) .load = .ok 0x40000008) ∧
    (let e : Entry := { ent 4 (body 8 (List.replicate 8 0 ++ [2])) with state := 2 }; let s := served1 [] { entries := [(5, e)] }
     s.fe.entries.find? 5 = some e ∧ e.op = 4 ∧ e.state = 2 ∧ e.graph = none ∧ fieldAt e.bytes 0x20 1 = 2 ∧ (dwordAt e.bytes 0x18).toNat = 0 ∧ s.homeByte 0x40000008 = 0) ∧
    (let e := ent 5 (body 0x1000 [0xff]); let s := served1 (bytesAt 0x100c [1]) { entries := [(5, e)] }
     Starts s 5 5 e ∧ (readRcb s e.ctx (dwordAt e.bytes 0x10)).isSome = true) := by
  refine ⟨⟨?_, ?_, ?_, ?_⟩, ⟨⟨?_, ?_, ?_, ?_⟩, ?_, ?_, ?_⟩, ⟨⟨?_, ?_, ?_, ?_⟩, ?_⟩, ?_, ⟨⟨?_, ?_, ?_, ?_⟩, ?_⟩⟩
  all_goals first | decide +kernel | (left; decide +kernel)

/-- A SIGNAL node, and a loop over the next node with LIMIT 2 and COND at 0. -/
def signalNode : List Byte := [3] ++ List.replicate 63 0
def loopNode : List Byte := [7] ++ List.replicate 23 0 ++ [1, 0, 1, 0, 2] ++ List.replicate 35 0
def graphBody (n : Byte) : List Byte := body 0x2000 [n]
/-- A graph that runs a loop, whose node entry is 6. -/
def looping (cond : Byte) : State × Entry :=
  let e : Entry := { ent 2 (graphBody 2 ++ loopNode ++ signalNode) with state := 2, nodes := [(0, 1)] }
  (served1 (bytesAt 0 [cond]) { entries := [(5, e), (6, { ent 7 loopNode with state := 2, graph := some 5, node := 0 })], jseq := 7 }, e)
theorem wit_graphs :
    (let e := ent 2 (graphBody 1); let s := served1 (bytesAt 0x2000 signalNode) { entries := [(5, e)] }; let f : Entry := { e with bytes := e.bytes ++ signalNode }
     Starts s 5 2 e ∧ readHome s e.ctx (dwordAt e.bytes 0x10) (64 * fieldAt e.bytes 0x18 2) = .ok signalNode ∧ (∀ i < 1, nodeOk f i = true) ∧ bodiesApart f = true ∧ f.ncount = 1) ∧
    (let e : Entry := { ent 2 (graphBody 1 ++ signalNode) with state := 2 }; let s := served1 [] { entries := [(5, e)] }
     s.fe.entries.find? 5 = some e ∧ nodeReady e 0 = true ∧ 5 ≠ s.fe.jseq.toNat ∧ (∀ p ∈ predsOf (e.nodeBytes 0), e.node? p ≠ 3)) ∧
    ∀ c ∈ [(0 : Byte), 1], let s := (looping c).1; let e := (looping c).2
      s.fe.entries.find? 5 = some e ∧ nodeEntry s 5 0 = some 6 ∧ (s.fe.entries.find? 6).isSome = true ∧ loopReady e 0 = true ∧ e.iters.get 0 0 % 2 = 0 ∧
      readHome s e.ctx (dwordAt (e.nodeBytes 0) 0x10) 4 = .ok [c, 0, 0, 0] ∧ (e.iters.get 0 0 + 1) / 2 ≠ fieldAt (e.nodeBytes 0) 0x1c 4 := by
  refine ⟨⟨⟨?_, ?_, ?_, ?_⟩, ?_, ?_, ?_, ?_⟩, ⟨?_, ?_, ?_, ?_⟩, ?_⟩
  all_goals decide +kernel

theorem wit_barriers :
    ¬ AllWait (grp 0 3 1 (fun _ => []) []) (xof 0 1) .barWg ((grp 0 3 1 (fun _ => []) []).subsOf 1) ∧ AllWait (two 0) (xof 0 3) .barWg ((two 0).subsOf 1) ∧
    (∀ g ∈ (two 0).subsOf 1, ((two 0).sub g).handler = none) ∧ (31#21).toNat < 32 ∧ ((xof 0 3).launch (two 0)).lpb.clbar.getLsbD 31 = true ∧ relocked (two 0) 0 3 = false ∧
    relocked (relocking (two 0)) 0 3 = true ∧ (release (two 0) ((xof 0 3).party (two 0)) 3).2 = none ∧ ((two 0).wgs.find? 1).isSome = true ∧
    (∀ w ∈ participants (two 0) 0 0, ((two 0).wg w).born = true) ∧ AllWait (two 0) (xof 0 3) (.barCl 31) ((participants (two 0) 0 0).flatMap (two 0).subsOf) := by
  refine ⟨?_, ?_, ?_, ?_, ?_, ?_, ?_, ?_, ?_, ?_, ?_⟩
  all_goals first | decide +kernel | (unfold AllWait; decide +kernel)

/-- A subgroup whose s4:s5 name the object at 0x20 through the cluster window. -/
def windowed : State := grp 0 3 3 (fun _ => []) [(4, 0x20), (5, 0xfe000000), (6, 0x7fffffff)]
theorem wit_counted_barriers : let a : Dword := 0xff00000000000020
    ((xof 0 3).sub (two 0)).spair 4 = a ∧ barrierAt (two 0) ((xof 0 3).party (two 0)) a = (two 0, .ok (1, 0x20)) ∧
    barrierAt (relocking windowed) ((xof 0 3).party windowed) (((xof 0 3).sub windowed).spair 4) = (relocking windowed, .ok (1, 0x20)) ∧ relocked (relocking windowed) 0 3 = true ∧
    ((((xof 0 3).sub windowed).sreg 6).toNat ≠ 0 ∧ (((xof 0 3).sub windowed).sreg 6).toNat < 2 ^ 31) ∧ relocked (two 0) 0 2 = false ∧
    (release (two 0) ((xof 0 3).party (two 0)) 2).2 = none ∧ (barrierWord (two 0) 1 0x20).getLsbD 63 = false ∧ (((xof 0 3).sub (two 0)).thread 0).arrival = none ∧
    ∀ b : Bool, let s := (two 0).modThreads 1 [0, 1] fun t => { t with arrival := some (a, b) }
      (∀ l ∈ (xof 0 3).lanes, (((xof 0 3).sub s).thread l).arrival = some (a, b)) ∧ (barrierAt s ((xof 0 3).party s) a).2.isOk = true := by
  refine ⟨?_, ?_, ?_, ?_, ?_, ?_, ?_, ?_, ?_, ?_⟩
  all_goals decide +kernel

/-! ### Witnesses for launches and regions -/

/-- A field of `n` bytes at an address. -/
def put (a n v : Nat) : Mem := bytesAt a (bytesOf n (BitVec.ofNat 64 v))
/-- The RCB of the root of context 1 at 0x1000, with budgets of `cores` cores. -/
def rcbMem (cores : Nat) : Mem := put 0x100c 2 1 ++ put 0x1018 4 cores ++ put 0x1020 8 4096 ++ put 0x1028 8 4096 ++ put 0x1038 8 0x8000 ++ put 0x1040 8 4096
/-- An image at 0x3000, FRESH or SAVED, whose LPB names one thread, and a code image at 0x4000 with one section. -/
def imageHead (saved : Bool) : List Byte :=
  bytesOf 4 0x00504b43 ++ (if saved then [1, 0] ++ List.replicate 10 0 ++ bytesOf 4 0x920040c0 ++ bytesOf 4 2 ++ bytesOf 8 0x140 else List.replicate 28 0) ++ List.replicate 32 0
  ++ bytesOf 8 0x4000 ++ bytesOf 4 0 ++ bytesOf 4 2 ++ bytesOf 4 1 ++ bytesOf 4 1 ++ bytesOf 4 1 ++ [1, 0, 1, 0, 1, 0, 16, 0] ++ List.replicate 12 0 ++ bytesOf 8 0x1000
  ++ List.replicate 24 0 ++ bytesOf 8 0x5000 ++ List.replicate 12 0 ++ bytesOf 4 0xffffffff ++ List.replicate 152 0
def codeHead : List Byte :=
  bytesOf 4 0x00494353 ++ [1, 0, 6, 0, 0, 0, 0, 0, 1, 0, 0, 0] ++ bytesOf 8 0x40 ++ List.replicate 8 0 ++ bytesOf 8 0x80 ++ List.replicate 24 0
def codeDesc : List Byte := bytesOf 8 1 ++ bytesOf 8 0x200 ++ bytesOf 8 4
def inheritOne : List Byte := [0x80, 0, 1] ++ List.replicate 189 0
/-- The sections of a SAVED image: the number 9 of the state it saves, and the record of an estate of one register. -/
def savedDesc : List Byte := bytesOf 8 2 ++ bytesOf 8 0x180 ++ bytesOf 8 16 ++ bytesOf 8 1 ++ bytesOf 8 0x1a0 ++ bytesOf 8 48
def savedRecord : List Byte := bytesOf 8 0 ++ bytesOf 8 7 ++ [0, 1] ++ List.replicate 14 0 ++ bytesOf 4 5 ++ List.replicate 12 0
def launchEnt (a : Dword) : Entry := ent 1 (body a [])
def launching (a : Dword) (cores : Nat) (saved : Bool) (f : FrontEnd → FrontEnd) : State :=
  served1 (rcbMem cores ++ bytesAt 0x3000 (imageHead saved) ++ bytesAt 0x3140 savedDesc ++ bytesAt 0x3180 [9] ++ bytesAt 0x31a0 savedRecord ++ bytesAt 0x4000 codeHead ++ bytesAt 0x4040 codeDesc
    ++ bytesAt 0x5000 inheritOne) (f { entries := [(5, launchEnt a)] })

/-- The tables of context 1 map the first gibibyte to 0x40000000 of HBM (R336, R337). -/
structure Maps (s : State) : Prop where
  root : s.rootOf 1 = some 0x100000
  table : s.homeRead 0x100000 8 = 0x200001
  leaf : s.homeRead 0x200000 8 = 0x40000005
  bad : s.bad = []
  part : s.g9140 = false

theorem Maps.walk {s : State} (h : Maps s) (va : Nat) (k : va < 2 ^ 30) : walk s 1 va = .ok (0x40000005, 30) := by
  have i1 : vaIndex va 1 = 0 := by simp only [vaIndex, if_true]; omega
  have i2 : vaIndex va 2 = 0 := by simp only [vaIndex, if_true]; rw [if_neg (by decide)]; omega
  have b (p n : Nat) : s.badAt p n = false := by simp [State.badAt, h.bad]
  have lt : badTable s 1 0x200001 = false := by simp only [badTable, State.tierSize, State.region, h.part]; decide +kernel
  have ll : badLeaf s 2 0x40000005 = false := by simp only [badLeaf, State.tierSize, State.region, h.part]; decide +kernel
  have br : badRoot s 0x100000 = false := by simp only [badRoot, State.tierSize, State.region, h.part]; decide +kernel
  have p2 : locOf (pteTier 0x200001) (pteAddr 0x200001) = 0x200000 := by decide +kernel
  have v1 : pteV 0x200001 = true ∧ pteLeaf 0x200001 = false ∧ pteV 0x40000005 = true ∧ pteLeaf 0x40000005 = true ∧ leafLog 2 (pteCont 0x40000005) = 30 := by decide +kernel
  simp only [Machine.walk, h.root, br, walkFrom, i1, i2, b, h.table, lt, p2, h.leaf, ll, Nat.mul_zero, Nat.add_zero, v1, Nat.reduceAdd]
  rfl

theorem Maps.translate {s : State} (h : Maps s) (va : Nat) (k : va < 2 ^ 30) (need : Need) (d : denied 0x40000005 need = none) :
    translateHome s 1 va need = .ok ⟨0x40000000 + va, 0x40000005⟩ := by
  have e : leafLoc s 0x40000005 30 va 0 = 0x40000000 + va := by
    have a : pteAddr 0x40000005 = 0x40000000 := by decide +kernel
    have r : pteRemote 0x40000005 = false := by decide +kernel
    have q : pteRep 0x40000005 = false := by decide +kernel
    have z : pteTier 0x40000005 = 0 := by decide +kernel
    simp only [leafLoc, a, r, q, z, locOf, Bool.false_and]
    rw [Nat.mod_eq_of_lt k]
    simp
  rw [translateHome, if_neg (by omega), h.walk va k]
  simp only [d, e]

/-- The mapped gibibyte is device memory of the package, which is reached without the fabric. -/
theorem near (s : State) (va : Nat) (k : va < 2 ^ 30) (a : Dword) (w : Bool) : s.remoteFault 1 (0x40000000 + va) a w = none := by
  have m : isRemote (0x40000000 + va) = false := by unfold isRemote; exact decide_eq_false (show ¬ (2 ^ 58 ≤ (0x40000000 + va : Nat)) by omega)
  have e : tierOf (0x40000000 + va) = 0 := by unfold tierOf; omega
  simp [State.remoteFault, State.mayReach, State.reachable, State.refusedAt, m, e]

/-- A read of a record in the mapped gibibyte gives the bytes at its home. -/
theorem Maps.readFrom {s : State} (h : Maps s) : ∀ n va, va + n ≤ 2 ^ 30 → readHomeFrom s 1 va n = .ok (s.homeBytes (0x40000000 + va) n)
  | 0, _, _ => rfl
  | n + 1, va, k => by
    have t := h.translate va (by omega) .load rfl
    have f := near s va (by omega) (BitVec.ofNat 64 va) false
    have ih := h.readFrom n (va + 1) (by omega)
    have c : s.homeBytes (0x40000000 + va) (n + 1) = s.homeByte (0x40000000 + va) :: s.homeBytes (0x40000000 + (va + 1)) n := by
      simp only [State.homeBytes, List.range_succ_eq_map, List.map_cons, List.map_map, Nat.add_zero]
      congr 1
      apply List.map_congr_left
      intro i _
      exact congrArg s.homeByte (show (0x40000000 + va + (i + 1) : Nat) = 0x40000000 + (va + 1) + i by omega)
    rw [readHomeFrom, t]
    simp only [f, State.badAt, h.bad, List.any_nil, ih, c]
    rfl

/-- A record in the mapped gibibyte can be stored to. -/
theorem Maps.places {s : State} (h : Maps s) : ∀ n va, va + n ≤ 2 ^ 30 → ∃ ps, storePlaces s 1 va n = .ok ps
  | 0, _, _ => ⟨[], rfl⟩
  | n + 1, va, k => by
    obtain ⟨ps, e⟩ := h.places n (va + 1) (by omega)
    rw [storePlaces, h.translate va (by omega) .store rfl]
    simp only [near s va (by omega), e]
    exact ⟨_, rfl⟩
theorem Maps.write {s : State} (h : Maps s) (a : Dword) (bs : List Byte) (k : a.toNat + bs.length ≤ 2 ^ 30) : ∃ r, writeHome s 1 a bs = .ok r := by
  obtain ⟨ps, e⟩ := h.places bs.length a.toNat k
  unfold writeHome storeChecked
  simp only [e, h.bad, List.contains_nil, Bool.false_and, List.find?_eq_none.mpr fun _ _ => Bool.false_ne_true]
  exact ⟨_, rfl⟩

/-- What a state's memory holds, for a launch. -/
structure Imaged (s : State) (saved : Bool) (rcb : List Byte) : Prop where
  maps : Maps s
  stepping : s.stepping = 0
  head : s.homeBytes 0x40003000 320 = imageHead saved
  code : s.homeBytes 0x40004000 64 = codeHead
  desc : s.homeBytes 0x40004040 24 = codeDesc
  kernel : s.homeBytes 0x40004080 256 = List.replicate 256 0
  text : s.homeBytes 0x40004200 4 = [0, 0, 0, 0]
  inherit : s.homeBytes 0x40005000 192 = inheritOne
  rcb : readRcb s 1 0x1000 = some (0x40001000, rcb)
  top : isRoot s 1 0x40001000 = true
  images : s.fe.images = []
  sdesc : s.homeBytes 0x40003140 48 = savedDesc
  number : s.homeBytes 0x40003180 16 = 9 :: List.replicate 15 0
  record : s.homeBytes 0x400031a0 48 = savedRecord

def oneSci : Sci := { flags := 6, sections := [⟨1, 0x200, 4⟩], transitOff := 0, kernel := List.replicate 256 0 }
def oneLaunch (s : State) (saved : Bool) (rcb : List Byte) : Launch :=
  let p := (imageHead saved).drop 64
  { ctx := 1, regions := [0x40001000], prio := effField [(0x40001000, rcb)] 0 0x0e 1, fdom := BitVec.ofNat 32 (effField [(0x40001000, rcb)] 1 0x10 4)
    dbg := effField [(0x40001000, rcb)] 3 0x16 1 == 1, vector := BitVec.ofNat 64 (effField [(0x40001000, rcb)] 7 0x30 8)
    lpb := lpbOf p oneSci (defaultsOf p oneSci) [] [{ tag := 0, dst := 0, count := 1, m := [0, 0, 0], o := [0, 0, 0], ext := [0, 0, 0] }], raw := p
    image := imageOf s 1 0x4000 oneSci [], todo := [0], store := (storeOf [(0x40001000, rcb)]).1 }

theorem Imaged.read {s : State} {saved : Bool} {rcb : List Byte} (h : Imaged s saved rcb) (a : Dword) (n : Nat) (k : a.toNat + n ≤ 2 ^ 30) :
    readHome s 1 a n = .ok (s.homeBytes (0x40000000 + a.toNat) n) :=
  h.maps.readFrom n a.toNat k

theorem Imaged.image {s : State} {saved : Bool} {rcb : List Byte} (h : Imaged s saved rcb) : readImage s 1 0x3000 = .ok (imageHead saved) := by
  have e : readHome s 1 0x3000 320 = .ok (imageHead saved) := (h.read _ _ (by decide)).trans (congrArg _ h.head)
  have g : idGrade s = 0x920040c0 := by simp only [idGrade, partOf, State.nClusters, State.perDie, h.maps.part, h.stepping]; decide
  unfold readImage
  rw [if_neg (by decide), e]
  simp only [g]
  cases saved <;> decide +kernel

theorem Imaged.sci {s : State} {saved : Bool} {rcb : List Byte} (h : Imaged s saved rcb) : readSci s 1 0x4000 0 = .ok oneSci := by
  have e1 : readHome s 1 0x4000 64 = .ok codeHead := (h.read _ _ (by decide)).trans (congrArg _ h.code)
  have e2 : readHome s 1 (0x4000 + dwordAt codeHead 0x10) (24 * fieldAt codeHead 0x0c 4) = .ok codeDesc := by
    have a : (0x4000 : Dword) + dwordAt codeHead 0x10 = 0x4040 := by decide +kernel
    have b : 24 * fieldAt codeHead 0x0c 4 = 24 := by decide +kernel
    rw [a, b]; exact (h.read _ _ (by decide)).trans (congrArg _ h.desc)
  have e3 : readHome s 1 (0x4000 + dwordAt codeHead 0x20 + BitVec.ofNat 64 (256 * 0)) 256 = .ok (List.replicate 256 0) := by
    have a : (0x4000 : Dword) + dwordAt codeHead 0x20 + BitVec.ofNat 64 (256 * 0) = 0x4080 := by decide +kernel
    rw [a]; exact (h.read _ _ (by decide)).trans (congrArg _ h.kernel)
  have i : fieldAt codeHead 6 2 = 6 ∧ sectionsOf codeDesc (fieldAt codeHead 0x0c 4) = [⟨1, 0x200, 4⟩] ∧ fieldAt codeHead 0x18 8 = 0 := by decide +kernel
  have c : codeReadable s 1 0x4000 [⟨1, 0x200, 4⟩] = true := by
    have e4 : readHome s 1 (0x4000 + BitVec.ofNat 64 0x200) 4 = .ok [0, 0, 0, 0] := (h.read _ _ (by decide)).trans (congrArg _ h.text)
    simp only [codeReadable, List.all_cons, e4]
    rfl
  have g : sciSigOk s codeHead = true := by
    have : s.nClusters = 64 := by simp only [State.nClusters, State.perDie, h.maps.part]; decide
    simp only [sciSigOk, partOf, this, h.maps.part, h.stepping]; decide +kernel
  have k1 : sciHeaderOk codeHead = true := by decide +kernel
  have k2 : sciSectionsOk (0x4000 : Dword).toNat { flags := 6, sections := [⟨1, 0x200, 4⟩], transitOff := 0, kernel := List.replicate 256 0 } = true := by decide +kernel
  unfold readSci
  rw [e1]
  simp only [k1, e2, e3, i, c, g, k2, Bool.not_true, Bool.false_eq_true, if_false, if_true]
  rfl

/-- The state that the SAVED image names, and the records that it holds. -/
theorem Imaged.readSaved {s : State} {saved : Bool} {rcb : List Byte} (h : Imaged s saved rcb) :
    Machine.readSaved s 1 0x3000 (imageHead true) = (match s.fe.saved.find? 9 with
      | none => .error 2
      | some v => if v.tag = 0 then .ok v else .error 2) ∧ savedRecords s 1 0x3000 (imageHead true) = savedRecord := by
  have e1 : readHome s 1 (0x3000 + dwordAt (imageHead true) 0x18) (24 * fieldAt (imageHead true) 0x14 4) = .ok savedDesc := by
    have a : (0x3000 : Dword) + dwordAt (imageHead true) 0x18 = 0x3140 ∧ 24 * fieldAt (imageHead true) 0x14 4 = 48 := by decide +kernel
    rw [a.1, a.2]; exact (h.read _ _ (by decide)).trans (congrArg _ h.sdesc)
  have e2 : readHome s 1 (0x3000 + BitVec.ofNat 64 0x180) 16 = .ok (9 :: List.replicate 15 0) := (h.read _ _ (by decide)).trans (congrArg _ h.number)
  have e3 : readHome s 1 (0x3000 + BitVec.ofNat 64 0x1a0) 48 = .ok savedRecord := (h.read _ _ (by decide)).trans (congrArg _ h.record)
  have x : sectionsOf savedDesc (fieldAt (imageHead true) 0x14 4) = [⟨2, 0x180, 16⟩, ⟨1, 0x1a0, 48⟩] ∧
      ((List.range (fieldAt (imageHead true) 0x14 4)).any fun i => fieldAt savedDesc (24 * i + 4) 4 != 0) = false := by decide +kernel
  have c : codeReadable s 1 0x3000 [⟨2, 0x180, 16⟩, ⟨1, 0x1a0, 48⟩] = true := by simp only [codeReadable, List.all_cons, e2, e3]; rfl
  have n : (dwordAt (9 :: List.replicate 15 (0 : Byte)) 0).toNat = 9 ∧ dwordAt (9 :: List.replicate 15 (0 : Byte)) 8 = 0 := by decide +kernel
  constructor
  · unfold Machine.readSaved
    simp only [e1, x, c]
    simp only [List.any_cons, List.any_nil, Nat.reduceBEq, Nat.reduceLT, decide_false, Bool.or_false, Bool.not_true, Bool.false_eq_true, if_false, List.find?_cons, e2, n]
    all_goals rfl
  · unfold savedRecords
    simp only [e1, x]
    simp only [List.filter_cons, List.filter_nil, Nat.reduceBEq, Bool.false_eq_true, if_false, if_true, List.flatMap_cons, List.flatMap_nil, e3, List.append_nil]

theorem Imaged.launch {s : State} {saved : Bool} {rcb : List Byte} (h : Imaged s saved rcb) (z : dwordAt rcb 0 = 0)
    (k : saved = true → ∃ v, s.fe.saved.find? 9 = some v ∧ v.tag = 0) :
    readLaunch s (launchEnt 0x3000) = .ok (oneLaunch s saved rcb, [(0x40001000, rcb)], true, imageHead saved) := by
  have a : dwordAt (launchEnt 0x3000).bytes 0x10 = 0x3000 := by decide +kernel
  have b : ∀ v, dwordAt ((imageHead v).drop 64) 0 = 0x4000 ∧ fieldAt ((imageHead v).drop 64) 8 4 = 0 ∧ dwordAt ((imageHead v).drop 64) 0x30 = 0x1000 ∧
      dwordAt ((imageHead v).drop 64) 0x50 = 0x5000 ∧ lpbStatus ((imageHead v).drop 64) oneSci (defaultsOf ((imageHead v).drop 64) oneSci) = none ∧
      defl ((imageHead v).drop 64) = false ∧ parseBequest (defaultsOf ((imageHead v).drop 64) oneSci).bequest (defaultsOf ((imageHead v).drop 64) oneSci).regs = some [] ∧
      parseInherit inheritOne (defaultsOf ((imageHead v).drop 64) oneSci).regs = some [{ tag := 0, dst := 0, count := 1, m := [0, 0, 0], o := [0, 0, 0], ext := [0, 0, 0] }] ∧
      traversal (lpbOf ((imageHead v).drop 64) oneSci (defaultsOf ((imageHead v).drop 64) oneSci) [] [{ tag := 0, dst := 0, count := 1, m := [0, 0, 0], o := [0, 0, 0], ext := [0, 0, 0] }]) =
        [0] ∧
      (lpbOf ((imageHead v).drop 64) oneSci (defaultsOf ((imageHead v).drop 64) oneSci) [] [{ tag := 0, dst := 0, count := 1, m := [0, 0, 0], o := [0, 0, 0], ext := [0, 0, 0] }]).nring =
        none ∧
      { lpbOf ((imageHead v).drop 64) oneSci (defaultsOf ((imageHead v).drop 64) oneSci) [] [{ tag := 0, dst := 0, count := 1, m := [0, 0, 0], o := [0, 0, 0], ext := [0, 0, 0] }] with code := 0x4000 } = lpbOf ((imageHead v).drop 64) oneSci (defaultsOf ((imageHead v).drop 64) oneSci) [] [{ tag := 0, dst := 0, count := 1, m := [0, 0, 0], o := [0, 0, 0], ext := [0, 0, 0] }] := by decide +kernel
  have t : ∀ r, readTransit s 1 0x4000 oneSci r = .ok [] := fun r => by unfold readTransit; rw [if_pos (by decide)]
  have c : chainOf s 1 8 0x1000 = .ok [(0x40001000, rcb)] := by unfold chainOf; rw [h.rcb]; simp only [z, h.top, if_true]
  have i : inheritBytes s 1 ((imageHead saved).drop 64) oneSci = some inheritOne := by
    have e : readHome s 1 0x5000 192 = .ok inheritOne := (h.read _ _ (by decide)).trans (congrArg _ h.inherit)
    obtain ⟨-, -, -, b4, -, b6, -⟩ := b saved
    unfold inheritBytes
    simp only [b6, b4, e, Bool.false_eq_true, if_false]
    rw [if_neg (by decide)]
  have n : needleSize oneSci = 0 := by decide
  obtain ⟨b1, b2, b3, -, b5, -, b7, b8, b9, b10, b11⟩ := b saved
  have x : (launchEnt 0x3000).ctx = 1 := rfl
  have y : (Except.ok (imageHead saved)).bind (fun h => if fieldAt h 4 2 = 0 then (.ok h : Except Status (List Byte)) else (Machine.readSaved s 1 0x3000 h).map fun _ => h) = .ok (imageHead saved) := by
    cases saved
    · rfl
    · obtain ⟨v, k1, k2⟩ := k rfl
      have f : fieldAt (imageHead true) 4 2 = 1 := by decide +kernel
      simp only [Except.bind, f, h.readSaved.1, k1, k2, if_true]
      rfl
  have cc : currentCode s 1 64 0x4000 = 0x4000 := by simp only [currentCode, h.images]; rfl
  dsimp only at b11
  unfold readLaunch
  simp only [a, x, h.image, y, cc, b1, b2, h.sci, t, b5, b3, c, i, b7, b8, b11, n, Option.bind_some, Option.getD_some]
  simp only [b9, b10]
  rfl

def rootRcb : List Byte := List.replicate 12 0 ++ [1] ++ List.replicate 11 0 ++ [1] ++ List.replicate 8 0 ++ [16] ++ List.replicate 7 0 ++ [16] ++ List.replicate 15 0 ++ [0x80] ++ List.replicate 7 0
  ++ [16] ++ List.replicate 190 0
theorem launching_imaged : ∀ saved, Imaged (launching 0x3000 1 saved id) saved rootRcb := by
  intro v
  cases v <;> refine ⟨⟨?_, ?_, ?_, ?_, ?_⟩, ?_, ?_, ?_, ?_, ?_, ?_, ?_, ?_, ?_, ?_, ?_, ?_, ?_⟩ <;> decide +kernel
/-- What the front end holds beside its contexts is nothing to the memory. -/
theorem launching_any (v : Bool) (f : FrontEnd → FrontEnd) (i : (launching 0x3000 1 v f).fe.images = []) : Imaged (launching 0x3000 1 v f) v rootRcb :=
  let h := launching_imaged v
  ⟨⟨h.maps.root, h.maps.table, h.maps.leaf, h.maps.bad, h.maps.part⟩, h.stepping, h.head, h.code, h.desc, h.kernel, h.text, h.inherit, h.rcb, h.top, i, h.sdesc, h.number, h.record⟩

theorem wit_launches :
    (let s := launching 0x3008 1 false id; Starts s 5 1 (launchEnt 0x3008) ∧ s.fe.launches.find? 5 = none ∧ (dwordAt (launchEnt 0x3008).bytes 0x10).toNat % 64 ≠ 0 ∧
      readLaunch s (launchEnt 0x3008) = .error 5) ∧
    (let s := launching 0x3000 1 false id; Starts s 5 1 (launchEnt 0x3000) ∧ s.fe.launches.find? 5 = none ∧ ∃ l rs legal h, readLaunch s (launchEnt 0x3000) = .ok (l, rs, legal, h) ∧
      heldByOrder s 5 l = false ∧ fieldAt h 4 2 = 0 ∧ fitStatus s l rs legal 0 = none) ∧
    (let s := launching 0x3000 1 false fun f => { f with regions := [(0x40001000, { reserved := 4097 })] }; ∃ l rs legal h, readLaunch s (launchEnt 0x3000) = .ok (l, rs, legal, h) ∧
      heldByOrder s 5 l = false ∧ fieldAt h 4 2 = 0 ∧ fitStatus s l rs legal 0 = some 0x0d) ∧
    (let s := launching 0x3000 1 false fun f =>
      { f with entries := (4, ent 1 []) :: f.entries, launches := [(4, { ctx := 1, regions := [0x40001000], lpb := { bequest := [⟨0, 0, 1⟩] } })] }
     Starts s 5 1 (launchEnt 0x3000) ∧ s.fe.launches.find? 5 = none ∧ ∃ l rs legal h, readLaunch s (launchEnt 0x3000) = .ok (l, rs, legal, h) ∧ heldByOrder s 5 l = true) := by
  have z : dwordAt rootRcb 0 = 0 := by decide +kernel
  have r (f i) := (launching_any false f i).launch z nofun
  refine ⟨⟨⟨?_, ?_, ?_, ?_⟩, ?_, ?_, ?_⟩, ⟨⟨?_, ?_, ?_, ?_⟩, ?_, _, _, _, _, r _ rfl, ?_, ?_, ?_⟩, ⟨_, _, _, _, r _ rfl, ?_, ?_, ?_⟩, ⟨⟨?_, ?_, ?_, ?_⟩, ?_, _, _, _, _, r _ rfl, ?_⟩⟩
  all_goals decide +kernel

/-- A SAVED image whose state the machine holds, with the marks `es` of its estates. -/
def resuming (es : List (Dword × Bool × Dword × Nat)) : State := launching 0x3000 1 true fun f => { f with saved := [(9, { estates := es })] }
/-- The estate that the image's record gives. -/
def restoredOne : Estate :=
  { ctx := 1, region := 0x40001000, fdom := 0, store := 0x40001000, key := 0, tag := 0, seq := 7, regs := [5], launch := 3, eligible := true, place := .store 0 }
theorem wit_saved_launches :
    (∀ es ∈ [[], [(0x1000, true, 7, 3)]], let s := resuming es; Starts s 5 1 (launchEnt 0x3000) ∧ s.fe.launches.find? 5 = none ∧
      ∃ l rs legal h, readLaunch s (launchEnt 0x3000) = .ok (l, rs, legal, h) ∧ heldByOrder s 5 l = false ∧ fieldAt h 4 2 ≠ 0 ∧
        Machine.readSaved s 1 0x3000 h = .ok { estates := es } ∧ restoredEstates s l { estates := es } (savedRecords s 1 0x3000 h) = (if es = [] then [] else [restoredOne]) ∧
        restoredOne.store = l.store ∧ fitStatus s l rs legal 48 = none ∧ fitStatus s l rs legal 0 = none ∧
        storeGap (storeRange s restoredOne).2 48 (storedRecords s restoredOne) = some 0 ∧ ∃ q, writeHome s 1 ((storeRange s restoredOne).1 + BitVec.ofNat 64 0) (estateBytes restoredOne) = .ok q) ∧
    (let s := launching 0x3000 1 true id; Starts s 5 1 (launchEnt 0x3000) ∧ readImage s 1 0x3000 = .ok (imageHead true) ∧ fieldAt (imageHead true) 4 2 = 1 ∧
      Machine.readSaved s 1 0x3000 (imageHead true) = .error 2) := by
  have z : dwordAt rootRcb 0 = 0 := by decide +kernel
  constructor
  · intro es he
    have i : Imaged (resuming es) true rootRcb := launching_any true _ rfl
    have f : (resuming es).fe.saved.find? 9 = some { estates := es } := rfl
    have c : chainOf (resuming es) 1 8 0x1000 = .ok [(0x40001000, rootRcb)] := by unfold chainOf; rw [i.rcb]; simp only [z, i.top, if_true]
    refine ⟨⟨?_, rfl, rfl, ?_⟩, rfl, _, _, _, _, i.launch z fun _ => ⟨_, f, rfl⟩, ?_, ?_, ?_, ?_, ?_, ?_, ?_, ?_, i.maps.write _ _ ?_⟩
    · rfl
    · rcases he with _ | ⟨_, _ | ⟨_, ⟨⟩⟩⟩ <;> decide +kernel
    · rcases he with _ | ⟨_, _ | ⟨_, ⟨⟩⟩⟩ <;> decide +kernel
    · decide +kernel
    · rw [i.readSaved.1, f]; rfl
    · rw [i.readSaved.2]
      have d : cutRecords savedRecord.length savedRecord = [(0, 7, 0, [5])] := by decide +kernel
      simp only [restoredEstates, d]
      rcases he with _ | ⟨_, _ | ⟨_, ⟨⟩⟩⟩
      · rfl
      · simp only [estatesFrom, regionNow]
        have c' : chainOf (resuming [(0x1000, true, 7, 3)]) (oneLaunch (resuming [(0x1000, true, 7, 3)]) true rootRcb).ctx 8 0x1000 = .ok [(0x40001000, rootRcb)] := c
        simp only [List.find?_cons, beq_self_eq_true, c']
        decide +kernel
    · rcases he with _ | ⟨_, _ | ⟨_, ⟨⟩⟩⟩ <;> decide +kernel
    · rcases he with _ | ⟨_, _ | ⟨_, ⟨⟩⟩⟩ <;> decide +kernel
    · rcases he with _ | ⟨_, _ | ⟨_, ⟨⟩⟩⟩ <;> decide +kernel
    · rcases he with _ | ⟨_, _ | ⟨_, ⟨⟩⟩⟩ <;> decide +kernel
    · rcases he with _ | ⟨_, _ | ⟨_, ⟨⟩⟩⟩ <;> decide +kernel
  · have i : Imaged (launching 0x3000 1 true id) true rootRcb := launching_any true id rfl
    refine ⟨⟨?_, ?_, ?_, ?_⟩, i.image, ?_, ?_⟩
    · decide +kernel
    · decide +kernel
    · decide +kernel
    · decide +kernel
    · decide +kernel
    · rw [i.readSaved.1]; rfl

/-- A REGION_UPDATE of context 1, and a state that holds it, with bytes `m` in memory. -/
def upd (a src area rcb : Dword) : Entry :=
  { ent 6 (List.replicate 16 0 ++ bytesOf 8 a ++ bytesOf 8 src ++ List.replicate 8 0 ++ bytesOf 8 area ++ List.replicate 16 0) with rcb := rcb }
def updating (m : Mem) (e : Entry) (f : FrontEnd → FrontEnd) : State := served1 (rcbMem 1 ++ put 0x1058 8 0x100000 ++ m) (f { entries := [(5, e)] })
def hostAt (a : Nat) (b : Byte) : Mem := [(2 * 2 ^ 56 + a, b)]
/-- A chain of children of the root, each with the one before it as its parent. -/
def chainMem : Mem := (List.range 7).flatMap fun i => put (0x1100 + 0x100 * i) 8 (0x1000 + 0x100 * i) ++ put (0x110c + 0x100 * i) 2 1
theorem Maps.home {s : State} (h : Maps s) (a : Dword) (n : Nat) (k : a.toNat + n ≤ 2 ^ 30) : readHome s 1 a n = .ok (s.homeBytes (0x40000000 + a.toNat) n) :=
  h.readFrom n a.toNat k
/-- SRC of an update of the context's own queue. -/
theorem Maps.src {s : State} (h : Maps s) (e : Entry) (c : e.ctx = 1) (r : e.rcb ≠ 0) (k : (dwordAt e.bytes 0x18).toNat + 256 ≤ 2 ^ 30) :
    srcBytes s e = (some (s.homeBytes (0x40000000 + (dwordAt e.bytes 0x18).toNat) 256)).filter rcbBitsOk := by
  simp only [srcBytes, c, if_neg r, h.home _ _ k]

theorem wit_regions :
    (let e := upd 0x2000 0 0 0; let s := updating [] e id; Starts s 5 6 e ∧ readRcb s e.ctx (dwordAt e.bytes 0x10) = none ∧ dwordAt e.bytes 0x18 = 0) ∧
    (let e := upd 0x1000 0 0 0; let s := updating [] e id; (readRcb s e.ctx (dwordAt e.bytes 0x10)).isSome = true) ∧
    (let e := upd 0x1000 0x1000 0 0; let s := updating (hostAt 0x100f 1) e id; Starts s 5 6 e ∧ dwordAt e.bytes 0x18 ≠ 0 ∧ srcBytes s e = none ∧
      (readRcb s e.ctx (dwordAt e.bytes 0x10)).isSome = true) ∧
    (let e := upd 0x1100 0x2000 0 0; let s := updating (hostAt 0x205a 0x10) e id; let bs := List.replicate 0x5a 0 ++ [0x10] ++ List.replicate 165 0
     Starts s 5 6 e ∧ dwordAt e.bytes 0x18 ≠ 0 ∧ srcBytes s e = some bs ∧ dwordAt bs 0 = 0 ∧ freeContext s = some 2 ∧
       newRcbPlace { s with fe := { s.fe with contexts := s.fe.contexts.set 2 (contextOf 0 bs) } } 2 0x1100 = some 0x40001100 ∧ bs.length = 256 ∧ Apart s 5 0x40001100 256) ∧
    (let e := upd 0x1100 0x3000 0 0; let s := updating (hostAt 0x3001 0x10) e id; let bs := [0, 0x10] ++ List.replicate 254 0
     Starts s 5 6 e ∧ srcBytes s e = some bs ∧ dwordAt bs 0 ≠ 0 ∧ e.rcb = 0) ∧
    (let e := upd 0x1100 0x6000 0 0x1000; let s := updating (put 0x6000 8 0x1000) e id; let bs := [0, 0x10] ++ List.replicate 254 0
     Starts s 5 6 e ∧ e.rcb ≠ 0 ∧ srcBytes s e = some bs ∧ dwordAt bs 0 ≠ 0 ∧ (∃ rs, chainOf s e.ctx 8 (dwordAt bs 0) = .ok rs ∧ rs.length < 8) ∧
       newRcbPlace s e.ctx 0x1100 = some 0x40001100 ∧ bs.length = 256) ∧
    (let e := upd 0x1800 0x6000 0 0x1000; let s := updating (put 0x6000 8 0x1700 ++ chainMem) e id; let bs := [0, 0x17] ++ List.replicate 254 0
     Starts s 5 6 e ∧ e.rcb ≠ 0 ∧ srcBytes s e = some bs ∧ (∃ rs, chainOf s e.ctx 8 (dwordAt bs 0) = .ok rs ∧ rs.length = 8)) := by
  refine ⟨⟨⟨?_, ?_, ?_, ?_⟩, ?_, ?_⟩, ?_, ⟨⟨?_, ?_, ?_, ?_⟩, ?_, ?_, ?_⟩, ⟨⟨?_, ?_, ?_, ?_⟩, ?_, ?_, ?_, ?_, ?_, ?_, .inl ?_⟩, ⟨⟨?_, ?_, ?_, ?_⟩, ?_, ?_, ?_⟩,
    ⟨⟨?_, ?_, ?_, ?_⟩, ?_, ?src1, ?_, gets ?_, ?_, ?_⟩, ⟨⟨?_, ?_, ?_, ?_⟩, ?_, ?src2, gets ?_⟩⟩
  case src1 => rw [Maps.src ⟨rfl, by decide +kernel, by decide +kernel, rfl, rfl⟩ _ rfl (by decide +kernel) (by decide +kernel)]; decide +kernel
  case src2 => rw [Maps.src ⟨rfl, by decide +kernel, by decide +kernel, rfl, rfl⟩ _ rfl (by decide +kernel) (by decide +kernel)]; decide +kernel
  all_goals decide +kernel

/-- A launch of the root region of context 1. -/
def lone : Launch := { ctx := 1, regions := [0x40001000], raw := List.replicate 256 0 }
/-- The state that a plain update leaves. -/
def updated (s : State) (e : Entry) : State := match plainUpdate s e with
  | .ok q => q
  | .error _ => s
theorem updated_eq {s : State} {e : Entry} (h : (plainUpdate s e).isOk = true) : plainUpdate s e = .ok (updated s e) := by
  rw [updated]
  cases e' : plainUpdate s e with
  | ok q => rfl
  | error st => rw [e'] at h; cases h
theorem wit_destroy_and_checkpoint :
    (let e := upd 0x1000 0 0x8000 0; let s := updating [] e fun f => { f with launches := [(3, lone)] }; let q := updated s e; let l := q.launch 3
     Starts s 5 6 e ∧ plainUpdate s e = .ok q ∧ (∃ p bs, readRcb q e.ctx (dwordAt e.bytes 0x10) = some (p, bs) ∧ p = 0x40001000 ∧ isRoot q e.ctx p = true) ∧
       q.fe.launches = [(3, l)] ∧ l.ctx = e.ctx ∧ 0x40001000 ∈ l.regions ∧
       (let v := spillContext (startEntry q 5) e.ctx; let u := quietLaunch v 3; let y := readEstates u (carried v 3 l (idleRegions v e.ctx 0x40001000 [3]))
        v.fe.launches = q.fe.launches ∧ u.fe.launches = q.fe.launches ∧ y.1.fe.launches = q.fe.launches ∧ ∃ r, writeHome y.1 l.ctx (dwordAt e.bytes 0x28) (saving y.1 3 y.2).2 = .ok r)) ∧
    (let e := upd 0x1100 0 0 0; let s := updating chainMem e id; let q := updated s e
     Starts s 5 6 e ∧ plainUpdate s e = .ok q ∧ ∃ p bs, readRcb q e.ctx (dwordAt e.bytes 0x10) = some (p, bs) ∧ isRoot q e.ctx p = false) := by
  refine ⟨⟨⟨?_, ?_, ?_, ?_⟩, updated_eq ?_, ⟨_, _, Option.eq_some_of_isSome (by decide +kernel), ?_, ?_⟩, ?_, ?_, ?_, ?_, ?_, ?_, ?w⟩, ⟨?_, ?_, ?_, ?_⟩, updated_eq ?_, _, _, Option.eq_some_of_isSome (by decide +kernel), ?_⟩
  case w => exact Maps.write ⟨by decide +kernel, by decide +kernel, by decide +kernel, by decide +kernel, by decide +kernel⟩ _ _ (by decide +kernel)
  all_goals decide +kernel

/-! ### Witnesses for placement, birth, time, pre-emption, debug and errors -/

/-- A launch of L-cores whose one thread waits for a place; `scratch` bytes of scratchpad. -/
def waiting (scratch : Nat) (coop : Bool) : Launch := { ctx := 1, lpb := { kind := 2, clbar := 0, rcb := 1, scratch := scratch, coop := coop }, image := { lform := true }, todo := [0] }
def withLaunch (l : Launch) (ws : Tbl Wg) : State := { up with wgs := ws, fe := { launches := [(3, l)], contexts := [(1, {})] } }
theorem wit_placement :
    (∀ b, (waiting b false).lpb.coop = false ∧ (waiting b false).stopped = [] ∧ (waiting b false).todo = 0 :: []) ∧ (withLaunch (waiting 0 false) []).fe.launches.find? 3 = some (waiting 0 false) ∧
    chooseRoom (withLaunch (waiting 262145 false) []) 3 (waiting 262145 false) 0 = none ∧ (chooseRoom (withLaunch (waiting 262144 false) []) 3 (waiting 262144 false) 0).isSome = true ∧
    (waiting 0 true).lpb.coop = true ∧ (waiting 0 true).todo ≠ [] ∧ (placeAll (withLaunch (waiting 262145 true) []) 3 1).isNone = true ∧
    (placeAll (withLaunch (waiting 0 true) []) 3 1).isSome = true ∧
    (let s := withLaunch (waiting 0 false) [(1, { ctx := 1, launch := 3, born := false, arrived := false })]
     ∃ g, s.wgs.find? 1 = some g ∧ g.born = false ∧ g.arrived = false) ∧
    (∃ e : Estate, e.place ≠ .holder 0 ∧ e.place ≠ .inPlace 0 0 0 0) := by
  refine ⟨?_, ?_, ?_, ?_, ?_, ?_, ?_, ?_, ⟨_, rfl, rfl, rfl⟩, ⟨estate, ?_, ?_⟩⟩
  · exact fun b => ⟨rfl, rfl, rfl⟩
  all_goals decide +kernel

theorem wit_birth :
    (let s : State := { withLaunch { waiting 0 false with todo := [] } [(1, { ctx := 1, launch := 3, born := false, home := 1 })] with
        cores := [(1, { ctx := some 1 })], subs := [(2, { wg := 1, core := 1 })] }
     birthMay s 1 = true ∧ 0 < (s.launch (s.wg 1).launch).nsub ∧ (s.subsOf 1).find? (fun g => (s.sub g).index == 0) = some 2 ∧ (s.launch (s.wg 1).launch).lpb.inherit = []) ∧
    (let la : Launch := { ctx := 1, regions := [0] }
     findEstate (two 0) la 0 0 = none ∧ (∀ b, let s : State := { two 0 with fe := { (two 0).fe with estates := [{ estate with bad := b }] } }
       findEstate s la 0 0 = some { estate with bad := b })) := by decide +kernel

theorem wit_free :
    (let s := withLaunch { waiting 0 false with todo := [] } [(1, { ctx := 1, launch := 3 })]
     freeMay s 1 = true ∧ relocked s (s.wg 1).home 6 = false ∧ (writeBackAll s ⟨(s.wg 1).home, (s.wg 1).ctx, 1⟩ 1 (s.wg 1).stash).2 = none ∧
       s.fe.launches.find? (s.wg 1).launch = some { waiting 0 false with todo := [] } ∧ (∀ k ∈ s.wgs, k.1 ≠ 1 → k.2.launch ≠ 3) ∧ relocked (relocking s) 0 6 = true) ∧
    (waiting 0 false).todo ≠ [] := by decide +kernel

theorem wit_clocks :
    (let x := up.die 3; 3 < 4 ∧ (12#4).toNat ≤ 12 ∧ (10#4).toNat ≤ 10 ∧ x.relockL = none ∧ x.relockD = none ∧ x.freeL = none) ∧ ¬ ((13#4).toNat ≤ 12) ∧ ¬ ((11#4).toNat ≤ 10) ∧
    (let r : Relock := { until_ := 2000, code := 3 }; ((relocking up).die 0).relockD = some r ∧ (relocking up).etime.toNat < r.until_.toNat) ∧
    (let r : Relock := { until_ := 0, code := 3 }; (up.modDie 0 fun d => { d with relockD := some r }).etime.toNat = 0 ∧ r.until_.toNat ≤ 0) ∧
    up.link.bringUp ≠ .off ∧ ((relocking up).die 0).relockD ≠ none ∧ (up.die 3).relockL = none ∧ up.dbgr.freeze = false := by decide +kernel

/-- A core whose shadow bank holds another context, between the notice and the swap. -/
def swapping (p : Option Dword) (noticed : Bool) : State :=
  ((two 0).modCore 0 fun k => { k with shadow := some 2, preempt := p }).modSub 1 fun u => { u with noticed := noticed }
theorem wit_preemption :
    ((swapping none false).core 0).ctx = some 1 ∧ ((swapping none false).core 0).shadow = some 2 ∧ ((swapping none false).core 0).preempt = none ∧ holdsState (swapping none false) 0 1 = true ∧
    holdsState { swapping none false with subs := [] } 0 1 = false ∧ 1 ∈ subsOn (swapping none false) 0 1 ∧
    (let s := armed .none id; graceOf (pad s ((s.wg 1).mem ++ [(0x224, 0x85)])) 1 = some 5) ∧ ((swapping (some 0) false).core 0).preempt = some 0 ∧
    (0 : Dword).toNat ≤ (swapping (some 0) false).etime.toNat ∧ rowsApart (swapping (some 0) false) 0 = true ∧ clocked (two 0) (.row 0 0) = true ∧ clocked (two 0) (.needle 0 0) = true ∧
    (swapping (some 9) true).etime.toNat < (9 : Dword).toNat ∧ (∃ g ∈ subsOn (swapping (some 9) true) 0 1, ((swapping (some 9) true).sub g).noticed = true) ∧
    (∀ g ∈ subsOn (swapping (some 9) false) 0 1, ((swapping (some 9) false).sub g).noticed = false) ∧
    ((two 0).core 0).shadow = none ∧ ((two 0).core 0).ctx ≠ some 2 ∧ ({ two 0 with fe := { (two 0).fe with contexts := [(2, {})] } }.fe.contexts.find? 2).isSome = true ∧
    (two 0).hasCore 0 = true := by
  refine ⟨?_, ?_, ?_, ?_, ?_, ?_, ?_, ?_, ?_, ?_, ?_, ?_, ?_, ⟨1, ?_, ?_⟩, ?_, ?_, ?_, ?_, ?_⟩
  all_goals decide +kernel

/-- A device whose debug registers name a workgroup of a launch with the debug right. -/
def debugging (ss : Tbl Sub) : State :=
  { withLaunch { waiting 0 false with dbg := true } [(1, { ctx := 1, launch := 3 })] with subs := ss, dbgr := { ctx := 1, seq := 3 } }
theorem wit_debug :
    hostUp up = true ∧ up.dbgr.busy = false ∧ debugTarget up = none ∧ debugTarget (debugging []) = some 1 ∧ (debugging []).subsOf 1 = [] ∧
    (∃ g ∈ (debugging [(2, { wg := 1 })]).subsOf 1, ((debugging [(2, { wg := 1 })]).sub g).wg = 1) ∧ nextSample (up.core 0).sampled (liveOn up 0) = none ∧
    (nextSample ((two 0).core 0).sampled (liveOn (two 0) 0)).isSome = true ∧ traced (two 0) 9 = false ∧
    (let d : Debug := { trcWr := 256, trcLog := 8 }; (d.trcWr - d.trcRd).toNat = 2 ^ (d.trcLog.toNat % 32)) ∧ ((up.dbgr.trcWr - up.dbgr.trcRd).toNat ≠ 2 ^ (up.dbgr.trcLog.toNat % 32)) := by
  refine ⟨?_, ?_, ?_, ?_, ?_, ⟨2, ?_, ?_⟩, ?_, ?_, ?_, ?_, ?_⟩
  all_goals decide +kernel
theorem wit_resume : ∃ bs, readHome (served1 [] {}) 1 (0x100 + 8) 8 = .ok bs := ⟨_, Maps.home ⟨rfl, by decide +kernel, by decide +kernel, rfl, rfl⟩ _ _ (by decide +kernel)⟩

theorem wit_errors :
    (1 < 2 ∧ 2 ^ 51 - 1 < 2 ^ 51) ∧ (2 ^ 60 ≤ 2 ^ 60 + 5 ∧ (2 : Nat) = 2) ∧ ((two 0).wgs.find? ((2 ^ 16 + 7) / 2 ^ 16)).isSome = true ∧ 255 < 256 ∧
    ((({ used := true } : Tile)).used = true) ∧ tierOf (32 * 5) < 2 ∧ 5 ∉ up.bad ∧ 5 ∈ ({ up with bad := [5] } : State).bad := by decide +kernel

theorem wit_invalidation :
    hostUp up = true ∧ up.xinv.busy = false ∧ (let x : Xinv := { ctx := 65535, va := 0xfffffffffff000 }; x.ctx.toNat < 2 ^ 16 ∧ x.va.toNat < 2 ^ 56 ∧ x.va.toNat % 4096 = 0) ∧
    (let x : Xinv := { va := 1 }; ¬ (x.ctx.toNat < 2 ^ 16 ∧ x.va.toNat < 2 ^ 56 ∧ x.va.toNat % 4096 = 0)) ∧ ({ up with xinv := { busy := true } } : State).xinv.busy = true := by decide +kernel

/-! ### Witnesses for the host link, the fabric and whole steps -/

theorem wit_register_writes :
    hostUp State.reset = false ∧ hostUp up = true ∧ up.xinv.busy = false ∧ ({ up with xinv := { busy := true } } : State).xinv.busy = true ∧ up.dbgr.busy = false ∧
    (∀ q ∈ up.fe.queues, q.2.enable = false) ∧ ((0x4000000000004000 : Dword).toNat / 2 ^ 62 ≤ 1 ∧ (0x4000000000004000 : Dword).toNat % 2 ^ 52 % (64 * 2 ^ up.fe.jlog.toNat) = 0) ∧
    (let s : State := { up with fe := { queues := [(255, { enable := true })] } }; (∃ q ∈ s.fe.queues, q.2.enable = true) ∧ (s.queue 255).enable = true ∧ (s.queue 0).enable = false) ∧
    (up.window 15).opened = false ∧ (up.window 15).busy = false ∧ up.link.linkState ≠ 3 ∧ hostUp { up with link := { up.link with linkState := 3 } } = true := by
  refine ⟨?_, ?_, ?_, ?_, ?_, ?_, ?_, ⟨⟨(255, { enable := true }), ?_, ?_⟩, ?_, ?_⟩, ?_, ?_, ?_, ?_⟩
  all_goals decide +kernel

theorem wit_host_accesses :
    (let a := up.link.bar2Base.toNat + 0x10; 0x10 + 8 ≤ 2 ^ up.link.bar2Log ∧ a + 8 ≤ up.tierSize 0 ∧ up.badAt a 8 = false ∧ 0x10 % 8 = 0) ∧ ¬ (2 ^ 30 - 1 + 4 ≤ 2 ^ up.link.bar2Log) ∧
    ({ up with bad := [0] } : State).badAt 0x10 8 = true ∧ (30 ≤ 40 ∧ 29 < 30 ∧ 40 < 41) ∧
    (let p := 2 * 2 ^ 56 + 0x1000; isRemote p = false ∧ tierOf p = 2 ∧ tierAddr p + 8 ≤ up.tierSize (tierOf p) ∧ up.badAt p 8 = false) ∧
    (∀ i < 4, sideReadable up (0x10 + i) = true ∨ 2 ^ 24 ≤ 0x10 + i) ∧ (∃ i < 4, sideReadable up (0x20 + i) = false ∧ 0x20 + i < 2 ^ 24) := by decide +kernel

/-- A device with a window on the first 64 KiB of its memory, open or not. -/
def exporting (o b : Bool) : State :=
  { up with fabric := { up.fabric with exports := [(0, { size := 0x10000, opened := o, busy := b })] } }
theorem wit_fabric :
    15 < 16 ∧ hostUp up = true ∧ ((exporting true false).window 0).opened = true ∧ (up.window 0).opened = false ∧ ((exporting false true).window 0).busy = true ∧
    up.fabric.kept.find? 5 = none ∧ admits up 0 true 0 8 = false ∧ admits (exporting true false) 0 true 0 8 = true ∧ isRemote 0 = false ∧ up.badAt 0 8 = false ∧
    ({ up.fabric with kept := [(5, (some [1], 0))] } : Fabric).kept.find? 5 = some (some [1], 0) ∧ (0#64).toNat + 1000000 ≤ (1000000#64).toNat ∧ ((two 0).subs.find? 1).isSome = true ∧
    (127 < 128 ∧ 127 ≠ up.fabric.id % 64 ∧ (up.port 127).state.toNat < 2) ∧
    (let s : State := { up with fabric := { ports := [(127, { state := 2 })] } }; 2 ≤ (s.port 127).state.toNat ∧ (s.port 127).replays + 1 < 16 ∧ 1 ≠ (s.port 127).rxSeq) ∧
    (let s : State := { up with fabric := { ports := [(127, { state := 3, replays := 15 })] } }; 2 ≤ (s.port 127).state.toNat ∧ 16 ≤ (s.port 127).replays + 1) := by decide +kernel

theorem wit_management :
    (3#3).toNat < 4 ∧ (1200 ≤ 1200 ∧ 1200 ≤ 3600) ∧ (3600 < 3601) ∧ 3 < 4 ∧ up.link.bringUp ≠ .off ∧ ({ up with link := { up.link with flr := true } } : State).link.flr = true ∧
    State.reset.link.bringUp = .off ∧ (let l : Link := { bringUp := .training, config := true }; l.bringUp = .training ∧ l.config = true) ∧ up.link.linkState.toNat % 3 = 0 ∧
    (3#2).toNat % 3 = 0 ∧ (let l : Link := { linkState := 1 }; l.linkState ≠ 0 ∧ l.linkState = 1) ∧ (let l : Link := { linkState := 2 }; l.linkState = 2) := by decide +kernel

theorem wit_mzero : Uniform (duo [] [] mine) (xof 0 3) ∧ OwnsEngine (duo [] [] mine) (xof 0 3) true false ∧ (isL 0 = true → (7#3).toNat ≤ 3) := by
  refine ⟨⟨⟨?_, ?_⟩, ?_⟩, ⟨?_, ?_, ?_⟩, ?_⟩
  all_goals decide +kernel

theorem wit_needle_words_only :
    Turns (ndl [] 0xcdd00000) 0 0 1 0 ∧ (0xcdd00000 : Word).extractLsb' 25 7 = 0x66 ∧ decode 0xcdd00000 = .ok .nEnd ∧ (0x00004103 : Word).extractLsb' 25 7 ≠ 0x66 ∧
    ((ndl [] 0xcdd00000).needle 0 0).pc < codeSize (ndl [] 0xcdd00000) 1 ∧ (ndl [] 0xcdd00000).subsOf 1 ≠ [] := by
  refine ⟨⟨?_, ?_⟩, ?_, ?_, ?_, ?_, ?_⟩
  all_goals decide +kernel

theorem wit_encodings : (encode (.addI32 true false 1 2 3)).isSome = true ∧ (Instr.addI32 true false 1 2 3).sharesWord = false ∧ (encode (.mldwTable 4 5)).isSome = true ∧
    (encode (.nctlSkip 6 12)).isSome = true ∧ (encode (.nctlAbort 6 12)).isSome = true ∧ (encode (.nctlExtend 6 12)).isSome = true := by decide +kernel

/-- A state whose next unit is the row with `add.i32 v1, v2, v3` in its line, and one whose next unit is a needle. -/
def rowNextState : State := { placeWord State.reset 0x00004103 with link := { up.link with bringUp := .ready } }
def needleNextState : State := placeWord State.reset 0xcdd00000
theorem wit_steps :
    rowNextState.agenda = [] ∧ nextUnit rowNextState = some (.row 0 0) ∧ midRun { rowNextState with turn := .row 0 0 } 0 0 = true ∧
    { rowNextState with turn := .row 0 0 }.issuing = some (xof 0 1) ∧ (fetchWord { rowNextState with turn := .row 0 0 } (xof 0 1)).2 = some 0x00004103 ∧
    decode 0x00004103 = .ok (.addI32 false false 1 2 3) ∧ decode 0xce000000 = .error .reserved ∧ ((xof 0 1).pc rowNextState).toNat % 4 = 0 ∧
    buffered (rowNextState.core 0) ((xof 0 1).pc rowNextState) = some 0x00004103 ∧
    (needleNextState.agenda = [] ∧ nextUnit needleNextState = some (.needle 0 0) ∧ needleActive needleNextState 0 0 = true ∧ needleWord needleNextState 0 0 = some 0xcdd00000) ∧
    (up.agenda = [] ∧ nextUnit up = none ∧ up.link.bringUp ≠ .off ∧ nextUnit State.reset = none ∧ State.reset.link.bringUp = .off) ∧
    ({ up with agenda := [.event .queueRescan] } : State).agenda = .event .queueRescan :: [] := by
  refine ⟨?_, ?_, ?_, ?_, ?_, ?_, ?_, ?_, ?_, ?_, ?_, ?_⟩
  all_goals decide +kernel

theorem wit_memory_invariant : up.memOk = true ∧ ∃ t, step { up with agenda := [.event .queueRescan] } = .next t :=
  ⟨by decide +kernel, _, rfl⟩

/-! ### Witnesses for what the review added -/

theorem wit_region_trees :
    (let e := upd 0x1000 0x6000 0 0x1000; let s := updating [] e id; let bs : List Byte := List.replicate 256 0
     Starts s 5 6 e ∧ srcBytes s e = some bs ∧ treeStatus s (s.homeWrite 0x40001000 (withCtx bs e.ctx)) e.ctx 0x1000 0x40001000 = none ∧ knownRcbs s e.ctx = [] ∧
       ∃ old, readRcb s e.ctx (dwordAt e.bytes 0x10) = some (0x40001000, old)) ∧
    (let e := upd 0x1000 0x6000 0 0x1000; let s := updating (put 0x6000 8 0x2000) e id; let bs : List Byte := [0, 0x20] ++ List.replicate 254 0
     Starts s 5 6 e ∧ srcBytes s e = some bs ∧ treeStatus s (s.homeWrite 0x40001000 (withCtx bs e.ctx)) e.ctx 0x1000 0x40001000 = some 7 ∧
       ∃ old, readRcb s e.ctx (dwordAt e.bytes 0x10) = some (0x40001000, old)) ∧
    (let e := upd 0x1000 0 0x8000 0; let s := updating [] e fun f => { f with launches := [(3, lone)] }
     readRcb (startEntry s 5) e.ctx (dwordAt e.bytes 0x10) = readRcb s e.ctx (dwordAt e.bytes 0x10)) ∧
    (let e := upd 0x1100 0 0 0; let s := updating chainMem e id; readRcb (startEntry s 5) e.ctx (dwordAt e.bytes 0x10) = readRcb s e.ctx (dwordAt e.bytes 0x10)) := by
  refine ⟨⟨⟨?_, ?_, ?_, ?_⟩, ?src1, ?_, ?_, ⟨rootRcb.set 0x5a 0x10, ?_⟩⟩, ⟨⟨?_, ?_, ?_, ?_⟩, ?src2, ?_, ⟨rootRcb.set 0x5a 0x10, ?_⟩⟩, ?_, ?_⟩
  case src1 => rw [Maps.src ⟨rfl, by decide +kernel, by decide +kernel, rfl, rfl⟩ _ rfl (by decide +kernel) (by decide +kernel)]; decide +kernel
  case src2 => rw [Maps.src ⟨rfl, by decide +kernel, by decide +kernel, rfl, rfl⟩ _ rfl (by decide +kernel) (by decide +kernel)]; decide +kernel
  all_goals decide +kernel

/-- An unborn workgroup on L-core 1, whose position an earlier estate stands in. -/
def crowded : State :=
  let s := withLaunch (waiting 0 false) [(1, { ctx := 1, launch := 3, home := 1, born := false, arrived := false })]
  { s with subs := [(2, { wg := 1, core := 1 })], fe := { s.fe with estates := [{ estate with place := .inPlace 1 0 0 0 }] } }
theorem wit_holder_room :
    HolderRoom crowded 0 ((crowded.subsOf 1).flatMap fun k => estatesAt crowded (crowded.sub k).core (crowded.sub k).row (crowded.sub k).slot) ∧
    estatesAt crowded 1 0 0 ≠ [] ∧ HolderRoom crowded (clusterOf 1) (estatesAt crowded 1 0 0) := by
  refine ⟨⟨?_, ?_⟩, ?_, ⟨?_, ?_⟩⟩
  all_goals decide +kernel

/-- A launch with one entry of inheritance. -/
def heir : Launch := { waiting 0 false with todo := [], lpb := { (waiting 0 false).lpb with inherit := [{ tag := 0, dst := 0, count := 2, m := [0, 0, 0], o := [0, 0, 0], ext := [0, 0, 0] }] } }
theorem wit_claims :
    (let s : State := { withLaunch heir [(1, { ctx := 1, launch := 3, born := false, home := 1 })] with cores := [(1, { ctx := some 1 })], subs := [(2, { wg := 1, core := 1 })] }
     birthMay s 1 = true ∧ (s.launch (s.wg 1).launch).lpb.inherit ≠ [] ∧ traced s 7 = false ∧ claimsAll s (s.launch (s.wg 1).launch) 0 = [] ∧
       ∀ k, HolderRoom s k (s.fe.estates.filter fun e => e.place matches .inPlace _ _ _ _)) ∧
    ∀ b, ∀ p ∈ [Place.inPlace 0 0 0 0, .holder 0], let e := { estate with bad := b, place := p }; let s : State := { two 0 with fe := { (two 0).fe with estates := [e] } }
      let h : Inherit := { tag := 0, dst := 0, count := 2, m := [0, 0, 0], o := [0, 0, 0], ext := [0, 0, 0] }
      findEstate s { ctx := 1, regions := [0] } 0 h.tag = some e ∧ h.copy = false ∧ (bringClaim s (s.sub 1) 0 h e).2 = b ∧ ((bringClaim s (s.sub 1) 0 h e).1.subs.find? 1).isSome = true := by
  refine ⟨⟨?_, ?_, ?_, ?_, fun k => ⟨?_, ?_⟩⟩, ?_⟩
  · decide +kernel
  · decide +kernel
  · decide +kernel
  · decide +kernel
  · exact List.Pairwise.nil
  · exact Nat.zero_le _
  · intro b p hp
    rcases hp with _ | ⟨_, _ | ⟨_, ⟨⟩⟩⟩ <;> cases b <;> decide +kernel

theorem wit_step_boundaries :
    (let x := (up.modDie 3 fun d => { d with edgeL := up.ticks + period true d.lcode }).die 3; x.edgeL = up.ticks + 10 * tickNs / (12 + x.lcode.toNat)) ∧
    (let x := up.die 3; x.edgeL ≠ up.ticks + 10 * tickNs / (12 + x.lcode.toNat)) ∧ heldReleases up = [] ∧ up.parked = [] ∧
    relocked (two 0) (dCore ((two 0).wg 1).cluster 0) 3 = false := by decide +kernel

theorem wit_swap_slots : isL 0 = false ∧ holdsState (swapping (some 0) false) 0 1 = true ∧ ((swapping (some 0) false).row 0 0).spent = none ∧
    relocked (swapping (some 0) false) 0 5 = false ∧ (((swapping (some 0) false).setRow 0 0 { spent := some 1 }).row 0 0).spent ≠ none := by decide +kernel

theorem wit_error_units :
    (let s : State := { up with written := [0] }; (32 * 5) / 4096 ∈ s.written) ∧ (32 * 5) / 4096 ∉ up.written ∧
    (let s : State := { up with fe := { estates := [{ estate with place := .holder 0 }] } }
     (s.fe.estates.filter fun e => e.place == .holder (0 / 2 ^ 20))[0 % 2 ^ 20]? = some { estate with place := .holder 0 }) ∧
    ({} : Engine).actx = ({} : Engine).wctx ∧ ({ actx := 1 } : Engine).actx ≠ ({ actx := 1 } : Engine).wctx ∧ 1 < 2 ^ 16 ∧
    (let s := up.modCore 0 fun k => { k with tlb := [{ ctx := 1, va := 0, log := 12, leaf := 5 }] }; (s.core 0).tlb[0]? = some { ctx := 1, va := 0, log := 12, leaf := 5 }) := by
  decide +kernel

theorem wit_firmware_invalidation : let s : State := { up with fwXinv := { busy := true } }; s.xinv.busy = false ∧ s.fwXinv.busy = true := by decide

theorem wit_host_atomics : let a := up.link.bar2Base.toNat + 0x10
    up.badAt (a / 128 * 128) 128 = false ∧ ({ up with bad := [1] } : State).badAt (a / 128 * 128) 128 = true ∧ 0x10 % 8 = 0 ∧ (2#2) ≠ 3 ∧
    (let p := 2 * 2 ^ 56 + 2 ^ 52 - 4; isRemote p = false ∧ tierOf p = 2 ∧ up.tierSize (tierOf p) < tierAddr p + 8) ∧ isRemote 0 = false ∧ tierOf 0 = 0 := by decide +kernel

def zeroCrc : Word := Config.flitCrc (List.replicate 60 0)
theorem emptyFlit_good (c : Word) : flitGood 0 0 c = (zeroCrc == c) := by rw [flitGood, show flitBytes 0 0 = List.replicate 60 0 by decide +kernel]; rfl

/-- A device with port 127 trained, holding `n` credits of VC0 and `w` requests that wait. -/
def trained (n w : Nat) (sent : List Flit) : State :=
  { exporting true false with fabric := { (exporting true false).fabric with ports := [(127, { state := 2, credits := [(0, n)], waiting := [(0, w)], sent := sent })] } }
theorem wit_flits :
    Carries (trained 1 0 []) 127 ∧ flitGood 0 0 zeroCrc = true ∧ flitGood 0 0 (zeroCrc + 1) = false ∧ flitSeq 0 = ((trained 1 0 []).port 127).rxSeq ∧
    flitChannel 0 = 0 ∧ ((trained 1 0 []).port 127).credits.get 0 0 ≠ 0 ∧ ((trained 0 0 []).port 127).credits.get 0 0 = 0 ∧ ((trained 1 0 []).port 127).replays < 16 ∧
    16 ≤ ({ replays := 16 } : Port).replays ∧ ¬ Carries up 127 := by
  refine ⟨⟨?_, ?_, ?_⟩, ?_, ?_, ?_, ?_, ?_, ?_, ?_, ?_, fun h => absurd h.2.2 ?_⟩
  · decide +kernel
  · decide +kernel
  · decide +kernel
  · rw [emptyFlit_good]; exact beq_self_eq_true _
  · rw [emptyFlit_good]; exact beq_eq_false_iff_ne.mpr fun h => by
      have := congrArg BitVec.toNat h
      simp only [BitVec.toNat_add, BitVec.ofNat_eq_ofNat, BitVec.toNat_ofNat] at this
      omega
  all_goals decide +kernel

theorem wit_remote_requests : let s := trained 0 1 []
    (s.port 127).waiting.get 0 0 ≠ 0 ∧ (up.port 127).waiting.get 0 0 = 0 ∧ isRemote 0 = false ∧ remoteSize 0 8 = 8 ∧ remoteSize 1 8 = 8 ∧ remoteSize 2 8 ≤ 8 ∧ s.fabric.kept.find? 5 = none ∧
    (∀ op ∈ [(0 : BitVec 5), 1, 2, 16], admits s 0 (op != 0) 0 (remoteSize op 8) = true ∧ remoteBad s op 0 (remoteSize op 8) = false ∧ 0 + remoteSize op 8 ≤ 2 ^ 58) ∧
    (atomics[0]?).isSome = true ∧ (atomics[14]?).isSome = true ∧ admits up 0 true 0 8 = false := by
  refine ⟨?_, ?_, ?_, ?_, ?_, ?_, ?_, ?_, ?_, ?_, ?_⟩
  all_goals decide +kernel

theorem wit_ports :
    (let s : State := { trained 0 0 [{}] with ticks := 10000 * tickNs }; Carries s 127 ∧ (s.port 127).sent ≠ [] ∧ (s.port 127).ackAt.toNat + 10000 ≤ s.etime.toNat) ∧ ((trained 0 0 []).port 127).sent = [] ∧
    (3 < 128 ∧ 3 ≠ up.fabric.id % 64 ∧ 3 = (if 3 < 64 then up.fabric.id / 64 * 64 + 3 else 3 - 64) ∧ 127 < 128) ∧ ¬ (3 = (if 65 < 64 then up.fabric.id / 64 * 64 + 65 else 65 - 64)) := by
  refine ⟨⟨⟨?_, ?_, ?_⟩, ?_, ?_⟩, ?_, ?_, ?_⟩
  all_goals decide +kernel

theorem wit_host_lines :
    (let s : State := { up with link := { up.link with lines := [(5, { owners := [1], was := List.replicate 64 0 })] } }
     s.link.bringUp ≠ .off ∧ s.link.linkState.toNat % 3 = 0 ∧ s.link.lines = [(5, { owners := [1], was := List.replicate 64 0 })] ∧ (List.replicate 64 (0 : Byte)).length = 64) ∧
    up.link.lines = [] ∧ (let s : State := { State.reset with link := { bringUp := .training } }; s.fabric.timed = false ∧ s.link.bringUp = .training) ∧ up.link.bringUp ≠ .training := by
  decide +kernel

theorem wit_windows : ((exporting true false).window 0).opened = true ∧ (up.window 0).opened = false ∧ ((exporting false true).window 0).busy = true ∧ (up.window 0).busy = false ∧ 0 < 16 ∧
    (let x : Export := { size := 0x10000, key := 5 }; exportOk up x = true) ∧ exportOk up {} = false := by decide +kernel

/-- The row of two threads, of which each step takes the kind of turn that the state asks for. -/
theorem wit_turns :
    heldEvent (relocking up) (.tileTaskStart 0) = true ∧ heldEvent up (.tileTaskStart 0) = false ∧ ({ up with agenda := [.aside (.trainPort 3)] } : State).agenda = .aside (.trainPort 3) :: [] ∧
    (let s := armed .trapped fun u => { u with traps := [divTrap] }
     s.agenda = [] ∧ nextUnit s = some (.row 0 0) ∧ (rowNext { s with turn := .row 0 0 } 0 0).2 = .trap 1) ∧
    (let s := armed .none fun u => { u with asyncs := [dbgTrap] }
     s.agenda = [] ∧ nextUnit s = some (.row 0 0) ∧ (rowNext { s with turn := .row 0 0 } 0 0).2 = .async 1) ∧
    (let s := armed .service fun u => { u with service := [pageTrap] }
     s.agenda = [] ∧ nextUnit s = some (.row 0 0) ∧ (rowNext { s with turn := .row 0 0 } 0 0).2 = .continuation 1) ∧
    (let s := armed (.poll 0xff00000000000020) id
     s.agenda = [] ∧ nextUnit s = some (.row 0 0) ∧ (rowNext { s with turn := .row 0 0 } 0 0).2 = .reread) ∧
    (let s := rowNextState.modCore 0 fun k => { k with lines := [] }
     s.agenda = [] ∧ nextUnit s = some (.row 0 0) ∧ (rowNext { s with turn := .row 0 0 } 0 0).2 = .issue ∧ (fetchWord { s with turn := .row 0 0 } (xof 0 1)).2 = none) := by
  refine ⟨?_, ?_, ?_, ⟨?_, ?_, ?_⟩, ⟨?_, ?_, ?_⟩, ⟨?_, ?_, ?_⟩, ⟨?_, ?_, ?_⟩, ?_, ?_, ?_, ?_⟩
  all_goals decide +kernel

/-! ### Witnesses for Orrery commands, ports and the rest of what the review added -/

/-- An Orrery command whose descriptor lies at 0x40 and whose operands at 0x200, 0x300, 0x400 and, with prefixes, 0x500, over maps of three states. -/
def orrCmd (op : BitVec 2) (n pfx vocab stride : Nat) : OCmd :=
  { op := op, desc := own 0x40, count := BitVec.ofNat 32 n, sg := 1, wg := 1, core := 0, cmd := 4
    record := bytesOf 8 (own 0x200) ++ bytesOf 8 (own 0x300) ++ bytesOf 8 (own 0x400) ++ bytesOf 8 (if pfx = 0 then 0 else own pfx) ++
      bytesOf 4 3 ++ bytesOf 4 (BitVec.ofNat 64 vocab) ++ bytesOf 4 (BitVec.ofNat 64 stride) ++ List.replicate 20 0 }
def orrState (c : OCmd) : State :=
  (pad (two 0) [(0x200, 0x01), (0x201, 2), (0x208, 0x12), (0x304, 1), (0x308, 0x20)]).modCluster 0 fun k => { k with orrery := [c] }
theorem wit_orrery_operations : ∀ c ∈ [orrCmd 0 2 0x500 2 0, orrCmd 0 2 0 1 0, orrCmd 1 1 0 0 0, orrCmd 2 1 0 8 8, orrCmd 3 2 0 0 0], let s := orrState c; let d := descOf c.record
    PerformsNext s 0 c 0x40 ∧ d.src0 = own 0x200 ∧ d.src1 = own 0x300 ∧ d.dst = own 0x400 ∧ (d.pfx = 0 ∨ d.pfx = own 0x500) ∧
    Fits s 1 0x40 [(0x400, List.replicate 8 0), (0x500, List.replicate 16 0)] := by
  intro c hc
  rcases hc with _ | ⟨_, _ | ⟨_, _ | ⟨_, _ | ⟨_, _ | ⟨_, ⟨⟩⟩⟩⟩⟩⟩
  all_goals
    refine ⟨⟨?_, ?_, ?_, ?_⟩, ?_, ?_, ?_, ?_, ?_, ?_⟩
    all_goals first | decide +kernel | (unfold NoOverlap; decide +kernel)
/-- R308, R314: the prefixes of two token maps, the first applied first. -/
theorem test_oscan : shows (fun t => (Claim.bytesAt t 1 0x400 2, Claim.bytesAt t 1 0x500 2, Claim.bytesAt t 1 0x508 2, scrRead t 1 0x74 4, scrRead t 1 0x78 4, scrRead t 1 0x7c 4))
    (exec (.orreryCommandPerform 0) (orrState (orrCmd 0 2 0x500 2 0))) = some ([0x21, 0], [0x01, 2], [0x21, 0], 1, 0, 0xffffffff) := by decide +kernel
theorem wit_oscan_prefixes : let s := orrState (orrCmd 0 2 0x500 2 0)
    (∀ j ≤ 1, scrRead s 1 (0x300 + 4 * j) 4 < 2 ∧ 0x200 + scrRead s 1 (0x300 + 4 * j) 4 * 8 + 8 ≤ (s.wg 1).size) ∧ mapAt s 1 3 0x200 ≠ [2, 2, 2] ∧
    composeMaps (mapAt s 1 3 0x200) (mapAt s 1 3 0x208) ≠ [2, 2, 2] ∧ 2 ≤ scrRead (orrState (orrCmd 0 2 0 1 0)) 1 0x304 4 + 1 := by decide +kernel

theorem two_waits : ∀ l ∈ (xof 0 3).lanes, (((xof 0 3).sub (two 0)).thread l).wait = .none := by decide +kernel
theorem wit_answers : Answered (two 0) (two 0) (xof 0 3) (spots 8) ∧ (∀ l ∈ (xof 0 3).lanes, staleA2 (two 0) (xof 0 3) 4 l = false) ∧ isRemote (4 * 2 ^ 58 : Nat) = true ∧
    ∀ p e, isRemote p = true → Config.remoteAnswers (pkgOf p) (two 0).ticks = false → spotAnswers (two 0) (.glob ⟨p, e⟩) = false := by
  refine ⟨⟨fun l hl p h => ?_, ?_⟩, ?_, ?_, fun p e r h => by simp [spotAnswers, r, h]⟩
  · rw [two_waits l hl] at h; cases h
  all_goals decide +kernel

theorem two_stash (w : Nat) : ((two 0).wg w).stash = [] := by
  simp only [two, grp, State.wg, Tbl.get, Tbl.find?]
  split <;> rfl
theorem wit_tidy : Tidy (two 0) ∧ ∀ p, (((xof 0 3).sub (two 0)).thread (lowest (xof 0 3).mask)).wait ≠ .late p := by
  refine ⟨fun w => .inl fun t ht => ?_, fun p h => ?_⟩
  · rw [two_stash] at ht; cases ht
  · rw [show (((xof 0 3).sub (two 0)).thread (lowest (xof 0 3).mask)).wait = .none by decide +kernel] at h; cases h
/-- An atomic on a unit of global memory whose line has no error. -/
theorem wit_global_atomics : let s := mapped (grp 0 1 1 (fun _ => [(4, 0x1000)]) [])
    (∃ r xs, locate s ((xof 0 1).party s) 0 0x1000 4 true .store = (r, .ok xs) ∧
      (xs.all fun y => match y with
        | .glob q => q.loc ≠ 0 && r.badAt (q.loc / 128 * 128) 128 == false && spotAnswers r y
        | .scr _ _ => false) = true) ∧ addrA s (xof 0 1) 4 0 0 = 0x1000 := ⟨meets (by decide +kernel), by decide +kernel⟩

/-- An estate on a D-core of a die whose D-domain is in relock, which an L-core of the die asks for, and one on the own core. -/
def reaching (p : Place) : State := let s := relocking (two 1); { s with fe := { s.fe with estates := [{ estate with place := p }] } }
theorem wit_pickups_in_relock : ∀ p ∈ [Place.inPlace 0 0 0 0, .inPlace 1 0 0 0], let s := reaching p; let x := xof 1 3
    Stands s x ∧ s.subs.find? x.sg ≠ none ∧ spanOk s x 0 1 ∧ srcOk s x 120 true = true ∧ (∀ l ∈ x.lanes, staleA2 s x 120 l = false) ∧
    (∀ l ∈ x.lanes, (readSrc s x l 120 true).1 = 0) ∧ met s.fe.estates (x.launch s) 0 0 = some { estate with place := p } ∧
    estateHeld s 1 { estate with place := p } = if p = .inPlace 0 0 0 0 then some 0 else none := by
  intro p hp
  rcases hp with _ | ⟨_, _ | ⟨_, ⟨⟩⟩⟩
  all_goals
    refine ⟨⟨?_, ?_⟩, ?_, ⟨?_, ?_⟩, ?_, ?_, ?_, ?_, ?_⟩
    all_goals decide +kernel

theorem wit_needle_steps : (5 < (6#8).toNat) ∧ ¬ (5 < (5#8).toNat) ∧ (ndl [] 0xcd510006).turn = .needle 0 0 ∧ ((ndl [] 0xcd510006).needle 0 0).cmd = some (1, 0) ∧
    (ndl [] 0xcd510006).subsOf 1 ≠ [] ∧ decode 0xcd510006 = .ok (.nStep 1 6) := by decide +kernel
theorem test_needle_step_stops : shows (fun t => ((t.needle 0 0).stopped, (t.needle 0 0).pc)) (exec (.nStep 1 6) (ndl [] 0xcd510006)) = some (some 9, 0) := by decide +kernel
theorem wit_units_without_error :
    (let s := armed .service fun u => { u with service := [pageTrap] }; continuationOf s 1 = some (0x5000, 0x80) ∧ s.badScr (s.sub 1).wg (0x80 + 8 * (s.sub 1).index) = false) ∧
    (∀ i < 16, (two 0).badScr 1 (0 + i) = false) ∧ (let x := (hosted []).2; ∀ i < 2 ^ x.log.toNat / 8, (hosted []).1.badAt (hostPlace x.map + i) 1 = false) ∧
    (let ws := participants (two 0) ((two 0).wg 1).launch ((two 0).wg 1).cluster
     (writeBackEach (blockAt (two 0) (xof 0 3) (xof 0 3).lanes (.barCl 31)) (.barCl 31) ws).2 = true ∧ relocked (two 0) (dCore ((two 0).wg 1).cluster 0) 3 = false) := by decide +kernel

theorem wit_creates :
    (let e := upd 0x1000 0x2000 0 0; let s := updating (hostAt 0x205a 0x10) e id; let bs := List.replicate 0x5a 0 ++ [0x10] ++ List.replicate 165 0
     let u : State := { s with fe := { s.fe with contexts := s.fe.contexts.set 2 (contextOf 0 bs) } }
     Starts s 5 6 e ∧ srcBytes s e = some bs ∧ freeContext s = some 2 ∧ newRcbPlace u 2 0x1000 = some 0x40001000 ∧ foreignRcb u 2 0x40001000 = true ∧ foreignRcb u 2 0x40001100 = false) ∧
    (∀ a ∈ [(0x1100 : Dword), 0x1000], let e := upd a 0x6000 0 0x1000; let s := updating (put 0x6000 8 0x1000) e id; let bs : List Byte := [0, 0x10] ++ List.replicate 254 0
     let p : Nat := 0x40000000 + a.toNat
     Starts s 5 6 e ∧ e.rcb ≠ 0 ∧ srcBytes s e = some bs ∧ (∃ rs, chainOf s e.ctx 8 (dwordAt bs 0) = .ok rs ∧ rs.length < 8) ∧ newRcbPlace s e.ctx a = some p ∧ foreignRcb s e.ctx p = false ∧
       (treeStatus s (s.homeWrite p (withCtx bs e.ctx)) e.ctx a p).isSome = decide (a = 0x1000)) ∧
    (let e := upd 0x1100 0x6000 0 0x1000; let s := updating (put 0x6000 8 0x1000) e fun f => { f with regions := [(0x40001100, { ctx := 2 })] }
     newRcbPlace s e.ctx 0x1100 = some 0x40001100 ∧ foreignRcb s e.ctx 0x40001100 = true) ∧
    (let e := upd 0x1100 0x6000 0 0x1000; let s := updating (put 0x6000 8 0x2000) e id; let bs : List Byte := [0, 0x20] ++ List.replicate 254 0
     Starts s 5 6 e ∧ e.rcb ≠ 0 ∧ srcBytes s e = some bs ∧ dwordAt bs 0 ≠ 0 ∧ ∃ st, chainOf s e.ctx 8 (dwordAt bs 0) = .error st ∧ st = 7) := by
  refine ⟨⟨⟨?_, ?_, ?_, ?_⟩, ?_, ?_, ?_, ?_, ?_⟩, fun a ha => ?_, ?_, ⟨⟨?_, ?_, ?_, ?_⟩, ?_, ?src, ?_, _, ?_, rfl⟩⟩
  case src => rw [Maps.src ⟨rfl, by decide +kernel, by decide +kernel, rfl, rfl⟩ _ rfl (by decide +kernel) (by decide +kernel)]; decide +kernel
  case refine_10 =>
    rcases ha with _ | ⟨_, _ | ⟨_, ⟨⟩⟩⟩
    all_goals
      refine ⟨⟨?_, ?_, ?_, ?_⟩, ?_, ?src, gets ?_, ?_, ?_, ?_⟩
      case src => rw [Maps.src ⟨rfl, by decide +kernel, by decide +kernel, rfl, rfl⟩ _ rfl (by decide +kernel) (by decide +kernel)]; decide +kernel
      all_goals decide +kernel
  all_goals decide +kernel

theorem wit_frees_and_swaps :
    (let s := withLaunch (waiting 0 false) [(1, { ctx := 1, launch := 3 }), (2, { ctx := 1, launch := 3, stash := [{ off := 0x80, base := 0x1000, len := 0x80 }] })]
     freeMay s 1 = true ∧ ∀ k ∈ s.wgs, k.1 ≠ 1 → k.2.launch = 3 → ∀ y ∈ k.2.stash, y.dirty = []) ∧
    (let l : Launch := { heir with todo := [] }; sweeps l { estate with place := .holder 0 } = true) ∧
    (let s := (two 0).modCore 0 fun k => { k with ctx := none, shadow := some 2 }; (s.core 0).ctx = none ∧ (s.core 0).shadow = some 2 ∧ (s.core 0).preempt = none) ∧
    (∀ sh ∈ [none, some 2], let s := (two 0).modCore 0 fun k => { k with ctx := none, shadow := sh, preempt := some 0 }
     (s.core 0).ctx = none ∧ (s.core 0).shadow = sh ∧ (s.core 0).preempt = some 0 ∧ (0 : Dword).toNat ≤ s.etime.toNat ∧ rowsApart s 0 = true ∧ clocked s (.row 0 0) = true ∧
       clocked s (.needle 0 0) = true ∧ relocked s 0 5 = false) ∧ ((two 0).core 0).preempt = none ∧
    (let s := relocking up; s.fabric.slew = 0 ∧ (((max s.ticks (s.die 0).edgeD : Nat) : Int) + s.fabric.skew).toNat / tickNs < 2 ^ 64 ∧
       ∃ r, (s.die 0).relockD = some r ∧ ¬ r.until_.toNat ≤ ({ s with ticks := max s.ticks (s.die 0).edgeD } : State).etime.toNat) ∧
    (∀ w ∈ (relocking (two 0)).wgs, ∀ y ∈ w.2.stash, y.dirty = []) ∧ ((relocking (two 0)).die 0).relockD.isSome = true := by
  refine ⟨⟨?_, ?_⟩, ?_, ?_, ?_, ?_, ⟨?_, ?_, _, rfl, ?_⟩, ?_, ?_⟩
  all_goals decide +kernel

theorem wit_journal_errors : let s : State := { up with fe := { jset := true }, bad := [0] }
    journalBad s ((List.range 4).map fun i => 2 ^ 24 + i) = some 0 ∧ journalBad s ((List.range 4).map fun i => 0x10 + i) = none ∧ journalBad up ((List.range 4).map fun i => 2 ^ 24 + i) = none ∧
    (∀ i < 4, sideReadable s (2 ^ 24 + i) = true ∨ 2 ^ 24 ≤ 2 ^ 24 + i) ∧ (0x0c : Nat) < 64 ∧ (0x08 : Nat) ≠ 0x0c := by decide +kernel

/-- A device whose port 3 is as `x`. -/
def porting (x : Port) : State := { up with fabric := { up.fabric with ports := [(3, x)] } }
/-- A flit whose CRC is right. -/
theorem flit_good (h : Word) (p : BitVec 448) : flitGood h p (Config.flitCrc (flitBytes h p)) = true := beq_self_eq_true _
theorem wit_flit_types : let s := porting { state := 2, credits := [(0, 1), (2, 1)], asks := 16 }
    Carries s 3 ∧ flitSeq 0x0102 = (s.port 3).rxSeq ∧ flitSeq 0x0002 = (s.port 3).rxSeq ∧ flitChannel 0x0102 = 2 ∧ flitChannel 0x0002 = 2 ∧ (s.port 3).credits.get 2 0 ≠ 0 ∧
    flitType 0x0102 = 1 ∧ flitType 0x0002 = 0 ∧ flitType 0x0202 ≠ 0 ∧ flitType 0x0202 ≠ 1 ∧ flitChannel 0x0100 ≠ 2 ∧ (s.port 3).asks < 17 ∧
    (s.port 3).asked = 0 ∧ (s.port 3).asks + 1 = 17 := by
  refine ⟨⟨?_, ?_, ?_⟩, ?_⟩
  all_goals decide +kernel
/-- A request to the package's neighbour 5 in the pod, which one port carries and another can take. -/
def request : Flit := { to_ := some (5, 0) }
theorem wit_ports_down_and_up :
    (let x : Port := { state := 2, sent := [request] }; x.sent ++ x.queue = [request] ∧ request.to_ = some (5, 0) ∧ (porting x).route 5 0 = none ∧
      ({ porting x with fabric := { ports := [(3, x), (5, { state := 2 })] } } : State).route 5 0 = some 5) ∧
    (∀ f ∈ ({ sent := [{}] } : Port).sent ++ ({} : Port).queue, f.to_ = none) ∧
    (let x : Port := { state := 2, txCredits := [(0, 1)], queue := [{ vc := 1 }] }; x.txCredits.get 0 0 ≠ 0 ∧ x.txCredits.get 2 0 = 0 ∧ (∀ g ∈ x.queue, g.vc ≠ 0) ∧ (∃ g ∈ x.queue, g.vc = 1) ∧
      x.sent.length < 512) ∧
    (let s := porting { state := 1 }; 3 < 128 ∧ 3 ≠ s.fabric.id % 64 ∧ (s.port 3).state = 1 ∧ 3 = s.fabric.id / 64 * 64 + 3 ∧ 0 = s.fabric.id % 64 ∧ heldFlits s = []) ∧
    (let s := porting { state := 1, queue := [request] }; heldFlits s = [(3, request)]) ∧ up.fabric.ports.keys.Nodup ∧ (porting {}).fabric.ports.keys.Nodup := by decide +kernel

theorem wit_carried_stores : let s : State := { exporting true false with fabric := { (exporting true false).fabric with ports := [(3, { state := 2, waiting := [(0, 1)] })], carried := [(7, 0, 1)] } }
    (s.port 3).waiting.get 0 0 ≠ 0 ∧ remoteSize 17 8 = 8 ∧ remoteSize 18 8 = 8 ∧ remoteSize 1 128 = 128 ∧ s.fabric.kept.find? (7 * 2 ^ 32 + 1) = none ∧
    (∀ op ∈ [(17 : BitVec 5), 18], admits s 0 (op != 0) 0 (remoteSize op 8) = true ∧ remoteBad s op 0 (remoteSize op 8) = false ∧ op.toNat ≤ 18) ∧
    remoteBad { s with bad := [0] } 17 0 8 = true ∧ (∃ y ∈ s.fabric.carried, y.1 = (7 * 2 ^ 32 + 1) / 2 ^ 32 ∧ 0 ≤ y.2.1 ∧ y.2.1 < 0 + 8) ∧ (s.fabric.carried.map fun y => (y.1, y.2.1)).Nodup := by
  decide +kernel

/-- Two threads that wait for another package since ETIME 0, at ETIME `e` ns. -/
def late (store : Bool) (e : Nat) : State := let s := (two 0).modThreads 1 [0, 1] fun t => { t with wait := .answer store 5 0 0 }; { s with ticks := e * tickNs }
theorem wit_remote_timeouts :
    (∀ e ∈ [9999999, 10000000], ∀ b, ((late b e).subs.find? 1).isSome = true ∧ ((late b e).sub 1).threads.keys.Nodup ∧ (((late b e).sub 1).thread 0).wait = .answer b 5 0 0 ∧
      (late b e).etime.toNat = e) ∧ (0 : Dword).toNat + 10000000 ≤ 10000000 ∧ LateStore (late true 10000000) 1 (((late true 10000000).sub 1).thread 0) ∧
    ∀ l th, ((late true 9999999).sub 1).threads.find? l = some th → ¬ LateStore (late true 9999999) 1 th := by
  refine ⟨?_, ?_, .inl ⟨5, 0, 0, ?_, ?_⟩, ?_⟩
  · decide +kernel
  · decide
  · decide +kernel
  · decide +kernel
  · intro l th h
    have w : th.wait = .answer true 5 0 0 := by
      have k : ∀ p ∈ ((late true 9999999).sub 1).threads, p.2.wait = .answer true 5 0 0 := by decide +kernel
      exact k (l, th) (Tbl.mem_of_find? h)
    rintro (⟨k, a, d, e, f⟩ | ⟨S, d, e, -⟩)
    · rw [w] at e; cases e; revert f; decide +kernel
    · rw [w] at e; cases e

/-- A device that has lost its link, with one launch and `z` bytes for its image. -/
def quiescing (z : Dword) : State := { up with link := { up.link with linkState := 1, llSize := z }, fe := { launches := [(3, lone)], entries := [(3, ent 1 [])] } }
theorem wit_quiesces : ∀ z ∈ [(0 : Dword), 0x10000], let s := quiescing z; let r := quietLaunch s 3; let e := readEstates r (carried r 3 lone (spareRegions r 1)); let b := (saving e.1 3 e.2).2
    s.link.linkState = 1 ∧ s.fe.launches.find? 3 = some lone ∧ ((r.fe.launches.find? 3).isNone || (e.1.fe.launches.find? 3).isNone) = false ∧
    (e.1.link.llSize.toNat < 0 + b.length ↔ z = 0) ∧ isOk (writePlace e.1 (tierPlace e.1.link.llArea + 0) b) = true ∧
    (e.1.fe.entries.find? 3).map Entry.graph = some none ∧ Apart e.1 3 (tierPlace e.1.link.llArea + 0) b.length := by
  intro z hz
  rcases hz with _ | ⟨_, _ | ⟨_, ⟨⟩⟩⟩
  all_goals
    refine ⟨?_, ?_, ?_, ?_, ?_, ?_, ?_⟩
    all_goals first | decide +kernel | (left; decide +kernel)
end Sys2Proof
end

section
/-!
SUPPORT. Numbers and their little-endian bytes (R4).
-/

namespace Sys2Proof.Machine
open Claim

theorem length_bytesOf (n : Nat) (x : Dword) : (bytesOf n x).length = n := by simp [bytesOf]

/-- Little-endian bytes as a 64-bit value are their number, modulo 2^64. -/
theorem ofBytes_eq_number (bs : List Byte) : ofBytes bs = BitVec.ofNat 64 (number bs) := by
  induction bs with
  | nil => rfl
  | cons b bs ih =>
    have hb : b.toNat < 2 ^ 8 := b.isLt
    have hor : number bs % 2 ^ 64 * 2 ^ 8 % 2 ^ 64 ||| b.toNat = number bs % 2 ^ 56 * 2 ^ 8 + b.toNat := by
      rw [show number bs % 2 ^ 64 * 2 ^ 8 % 2 ^ 64 = number bs % 2 ^ 56 * 2 ^ 8 by omega, ← Nat.shiftLeft_eq, Nat.shiftLeft_add_eq_or_of_lt hb]
    apply BitVec.eq_of_toNat_eq
    rw [ofBytes, ih, BitVec.toNat_or, BitVec.toNat_shiftLeft, Nat.shiftLeft_eq, BitVec.toNat_setWidth, Nat.mod_eq_of_lt (a := b.toNat) (by omega), BitVec.toNat_ofNat,
      BitVec.toNat_ofNat, hor]
    show _ = (b.toNat + 256 * number bs) % 2 ^ 64
    omega

/-- The number of the bytes at digits 0 to n - 1 of `V` is `V` cut to n bytes. -/
theorem number_digits (f : Nat → Byte) (V n : Nat) (h : ∀ i < n, (f i).toNat = V / 256 ^ i % 256) : number ((List.range n).map f) = V % 256 ^ n := by
  induction n generalizing f V with
  | zero => simp [number, Nat.mod_one]
  | succ n ih =>
    have h0 : (f 0).toNat = V % 256 := by simpa using h 0 (by omega)
    have hs : ∀ i < n, (f (i + 1)).toNat = V / 256 / 256 ^ i % 256 := fun i hi => by
      rw [h (i + 1) (by omega), Nat.div_div_eq_div_mul, ← Nat.pow_succ']
    have ht : number ((List.range n).map fun i => f (i + 1)) = V / 256 % 256 ^ n := ih (fun i => f (i + 1)) (V / 256) hs
    rw [List.range_succ_eq_map, List.map_cons, List.map_map]
    show (f 0).toNat + 256 * number ((List.range n).map fun i => f (i + 1)) = _
    rw [ht, h0, Nat.pow_succ', Nat.mod_mul]

/-- Byte `i` of a value of any width. -/
theorem toNat_byte {w : Nat} (x : BitVec w) (i : Nat) : ((x >>> (8 * i)).setWidth 8 : Byte).toNat = x.toNat / 256 ^ i % 256 := by
  rw [BitVec.toNat_setWidth, BitVec.toNat_ushiftRight, Nat.shiftRight_eq_div_pow, Nat.pow_mul]

theorem number_bytesOf (n : Nat) (x : Dword) : number (bytesOf n x) = x.toNat % 256 ^ n := number_digits _ _ _ fun i _ => toNat_byte x i

@[simp] theorem ofBytes_bytesOf_eight (x : Dword) : ofBytes (bytesOf 8 x) = x := by
  rw [ofBytes_eq_number, number_bytesOf]
  apply BitVec.eq_of_toNat_eq
  simp only [BitVec.toNat_ofNat]
  have : x.toNat < 2 ^ 64 := x.isLt
  omega

theorem number_lt (bs : List Byte) : number bs < 256 ^ bs.length := by
  induction bs with
  | nil => simp [number]
  | cons b bs ih =>
    have hb : b.toNat < 256 := b.isLt
    simp only [number, List.foldr_cons, List.length_cons, Nat.pow_succ] at ih ⊢
    omega

theorem toNat_ofBytes (bs : List Byte) (h : bs.length ≤ 8) : (ofBytes bs).toNat = number bs := by
  have hp : 256 ^ bs.length ≤ 256 ^ 8 := Nat.pow_le_pow_right (by omega) h
  rw [ofBytes_eq_number, BitVec.toNat_ofNat, Nat.mod_eq_of_lt (lt_of_lt_of_le (number_lt bs) (by omega))]

end Sys2Proof.Machine
end

section
/-!
SUPPORT. The error log: what a record says, and what writing it leaves (R345).
-/

namespace Sys2Proof.Machine
open Claim

theorem length_errorBytes (s : State) (addr : Dword) (unit sev ctx : Nat) : (errorBytes s addr unit sev ctx).length = 32 := rfl

/-- The fields of a record read back. -/
theorem errorBytes_fields (s : State) (addr : Dword) (unit sev ctx : Nat) : let bs := errorBytes s addr unit sev ctx
    dwordAt bs 0 = s.etime ∧ dwordAt bs 8 = addr ∧ fieldAt bs 0x10 2 = unit % 2 ^ 16 ∧ fieldAt bs 0x12 1 = sev % 256 ∧ fieldAt bs 0x14 4 = ctx % 2 ^ 32 ∧
      dwordAt bs 0x18 = s.errSeq := by
  have cut : ∀ n x, n ≤ 8 → (ofBytes (bytesOf n (BitVec.ofNat 64 x))).toNat = x % 256 ^ n := fun n x h => by
    have hd : 256 ^ n ∣ 2 ^ 64 := Nat.pow_dvd_pow 256 h
    rw [toNat_ofBytes _ (by rw [length_bytesOf]; exact h), number_bytesOf, BitVec.toNat_ofNat, Nat.mod_mod_of_dvd _ hd]
  refine ⟨ofBytes_bytesOf_eight s.etime, ofBytes_bytesOf_eight addr, cut 2 unit (by omega), ?_, cut 4 ctx (by omega), ofBytes_bytesOf_eight s.errSeq⟩
  show (ofBytes [BitVec.ofNat 8 sev]).toNat = sev % 256
  rw [toNat_ofBytes _ (by simp)]
  simp [number]

/-- What `logError` writes is a record of the error, and nothing else changes. -/
theorem logError_logged (s : State) (addr : Dword) (unit sev ctx : Nat) : Logged s (logError s addr unit sev ctx) addr unit sev ctx where
  rest := rfl
  record := ⟨errorBytes s addr unit sev ctx, by simp [logError, Tbl.find?_set], length_errorBytes s addr unit sev ctx, errorBytes_fields s addr unit sev ctx⟩
  others i h := by simp [logError, Tbl.find?_set, h]
  lost := by
    have hmax : s.errLost ≠ 0xffffffff → (s.errLost + 1).toNat = s.errLost.toNat + 1 := fun h => by bv_omega
    simp only [logError]
    by_cases h : (s.errLog.find? (s.errSeq.toNat % 256)).isSome = true ∧ s.errSeq.toNat % 256 ∉ s.errSeen ∧ s.errLost ≠ 0xffffffff
    · obtain ⟨h1, h2, h3⟩ := h
      rw [if_pos (by simp [h1, h2]; exact h3), if_pos ⟨h1, h2, h3⟩, hmax h3]
    · rw [if_neg h, if_neg fun g => h (by simpa [and_assoc] using g)]

end Sys2Proof.Machine
end

section
/-!
SUPPORT. Stores at the home of a line: what they change, and the bytes that stand there afterwards (R149, R186, R343, R346, R372).
-/

namespace Sys2Proof.Machine
open Claim

/-- What no step of a fold changes, the fold leaves as it was. -/
theorem foldl_keeps {σ α β : Type} (g : σ → β) (f : σ → α → σ) (h : ∀ s x, g (f s x) = g s) (xs : List α) (s : σ) : g (xs.foldl f s) = g s := by
  induction xs generalizing s with
  | nil => rfl
  | cons x xs ih => rw [List.foldl_cons, ih, h]

namespace State

/-! ### What they change -/

/-- What stores at home may change: memory as published, which units fault, which granules were reached, and which lines of host memory are held. -/
def SameButHome (s t : State) : Prop :=
  t = { s with pk := t.pk, sy := t.sy, stamp := t.stamp, bad := t.bad, written := t.written, link := { s.link with lines := t.link.lines } }

theorem SameButHome.refl (s : State) : SameButHome s s := rfl
theorem SameButHome.trans {s t u : State} (h : SameButHome s t) (g : SameButHome t u) : SameButHome s u := by
  unfold SameButHome at *
  rw [g, h]
theorem SameButHome.foldl {α : Type} {f : State → α → State} (h : ∀ s x, SameButHome s (f s x)) (xs : List α) (s : State) : SameButHome s (xs.foldl f s) := by
  induction xs generalizing s with
  | nil => exact .refl s
  | cons x xs ih => exact (h s x).trans (ih (f s x))
theorem SameButHome.fe {s t : State} (h : SameButHome s t) : t.fe = s.fe := by rw [h]
theorem SameButHome.cores {s t : State} (h : SameButHome s t) : t.cores = s.cores := by rw [h]
theorem SameButHome.subs {s t : State} (h : SameButHome s t) : t.subs = s.subs := by rw [h]
theorem SameButHome.reads {s t : State} (h : SameButHome s t) : t.link.reads = s.link.reads := by rw [h]

theorem homeWrite1_home (s : State) (p : Loc) (b : Byte) : SameButHome s (s.homeWrite1 p b) := rfl
theorem cleanLines_home (s : State) (ps : List Loc) : SameButHome s (s.cleanLines ps) := by unfold cleanLines; split <;> rfl
theorem healUnits_home (s : State) (ps : List Loc) : SameButHome s (s.healUnits ps) := rfl
theorem touch_home (s : State) (ps : List Loc) : SameButHome s (s.touch ps) := SameButHome.foldl (fun s p => by split <;> rfl) ps s
theorem healIfBad_home (s : State) (ps : List Loc) : SameButHome s (if s.bad = [] then s else s.healUnits ps) := by
  split
  · exact .refl s
  · exact healUnits_home s ps
theorem homeWrite_home (s : State) (p : Loc) (bs : List Byte) : SameButHome s (s.homeWrite p bs) :=
  ((((SameButHome.foldl (fun s _ => homeWrite1_home s _ _) _ s).trans (cleanLines_home _ _)).trans (healIfBad_home _ _)).trans (touch_home _ _))

end State
open State

theorem storeHome_home (s : State) (ps : List Loc) (bs : List Byte) : SameButHome s (storeHome s ps bs) :=
  ((((SameButHome.foldl (fun s _ => homeWrite1_home s _ _) _ s).trans (cleanLines_home _ _)).trans (healIfBad_home _ _)).trans (touch_home _ _))
theorem storeChecked_home {s t : State} {a : Dword} {ps : List Loc} {bs : List Byte} (h : storeChecked s a ps bs = .ok t) : SameButHome s t := by
  unfold storeChecked at h
  extract_lets at h
  split at h
  · cases h
  · cases h; exact storeHome_home s ps bs
theorem writeHome_home {s t : State} {ctx : Nat} {a : Dword} {bs : List Byte} (h : writeHome s ctx a bs = .ok t) : SameButHome s t := by
  unfold writeHome at h
  split at h
  · cases h
  · exact storeChecked_home h

/-! ### The bytes afterwards -/

theorem lastTo_append {κ : Type} [DecidableEq κ] (L M : List (κ × Byte)) (k : κ) : lastTo (L ++ M) k = (lastTo M k).or (lastTo L k) := by
  simp [lastTo, List.filter_append, List.getLast?_append, Option.map_or]
theorem lastTo_cons {κ : Type} [DecidableEq κ] (x : κ × Byte) (L : List (κ × Byte)) (k : κ) :
    lastTo (x :: L) k = (lastTo L k).or (if x.1 = k then some x.2 else none) := by
  rw [← List.singleton_append, lastTo_append]
  by_cases h : x.1 = k <;> simp [lastTo, h]
/-- Bytes paired with places that follow each other. -/
theorem lastTo_span (p n : Nat) (f : Nat → Byte) (q : Nat) :
    lastTo ((List.range n).map fun i => (p + i, f i)) q = if p ≤ q ∧ q < p + n then some (f (q - p)) else none := by
  induction n with
  | zero => rw [if_neg (by omega)]; rfl
  | succ n ih =>
    rw [List.range_succ, List.map_append, lastTo_append, ih, List.map_singleton, lastTo_cons]
    by_cases h : p + n = q
    · subst h; simp [lastTo]
    · rw [if_neg (by simpa using h)]
      by_cases g : p ≤ q ∧ q < p + n
      · rw [if_pos g, if_pos (by omega)]; rfl
      · rw [if_neg g, if_neg (by omega)]; rfl

/-- The places from `p` on with the bytes that go there, in the two forms in which the model pairs them. -/
theorem zipIdx_span (p : Nat) (bs : List Byte) : bs.zipIdx.map (fun x => (p + x.2, x.1)) = (List.range bs.length).map fun i => (p + i, bs.getD i 0) :=
  List.ext_getElem (by simp) fun i h _ => by
    have hi : i < bs.length := by simpa using h
    simp [hi]
theorem zip_span (p : Nat) (bs : List Byte) : ((List.range bs.length).map fun i => p + i).zip bs = (List.range bs.length).map fun i => (p + i, bs.getD i 0) :=
  List.ext_getElem (by simp) fun i h _ => by
    have hi : i < bs.length := by simpa using h
    simp [hi]

/-- Where both images of one machine read as those of another, or hold the same store, so do the home bytes. -/
theorem homeByte_of_reads {s t : State} (ht : t.ticks = s.ticks) (q : Loc) (h : isRemote q = true → t.sy.read q = s.sy.read q ∧ t.sy.stampAt q = s.sy.stampAt q)
    (hl : isRemote q = false → t.pk.read q = s.pk.read q) : t.homeByte q = s.homeByte q := by
  cases hr : isRemote q with
  | true => simp [homeByte, imageByte, hr, h hr, ht]
  | false => simp [homeByte, imageByte, hr, hl hr]
theorem homeByte_local (s : State) (q : Loc) (h : isRemote q = false) : s.homeByte q = s.pk.read q := by simp [homeByte, imageByte, h]

/-- One image after stores to some places, all with one stamp. -/
theorem read_foldl_write (L : List (Loc × Byte)) (t : Nat) (m : VMem) (q : Loc) :
    (L.foldl (fun m x => m.write x.1 x.2 t) m).read q = (lastTo L q).getD (m.read q) := by
  induction L generalizing m with
  | nil => rfl
  | cons x L ih =>
    rw [List.foldl_cons, ih, lastTo_cons, VMem.read_write]
    by_cases h : x.1 = q
    · subst h; cases lastTo L x.1 <;> simp
    · cases lastTo L q <;> simp [h, Ne.symm h]
theorem stampAt_foldl_write (L : List (Loc × Byte)) (t : Nat) (m : VMem) (q : Loc) (h : ∀ x ∈ L, x.1 ≠ q) :
    (L.foldl (fun m x => m.write x.1 x.2 t) m).stampAt q = m.stampAt q := by
  induction L generalizing m with
  | nil => rfl
  | cons x L ih =>
    rw [List.foldl_cons, ih _ fun y hy => h y (.tail _ hy), VMem.stampAt_write, if_neg fun e => h x (.head _) e.symm]

/-- A store of one byte of this package or the host stands at its home. -/
theorem homeByte_homeWrite1 (s : State) (p : Loc) (b : Byte) (hp : isRemote p = false) (q : Loc) : (s.homeWrite1 p b).homeByte q = if q = p then b else s.homeByte q := by
  by_cases h : q = p
  · subst h
    rw [if_pos rfl, homeByte_local _ _ hp]
    exact (VMem.read_write ..).trans (if_pos rfl)
  · rw [if_neg h]
    exact homeByte_of_reads (s := s) (t := s.homeWrite1 p b) rfl q (fun _ => ⟨(VMem.read_write ..).trans (if_neg h), (VMem.stampAt_write ..).trans (if_neg h)⟩)
      fun _ => (VMem.read_write ..).trans (if_neg h)
/-- So do several; the last to a place counts. -/
theorem homeByte_foldl_homeWrite1 (L : List (Loc × Byte)) (s : State) (hL : ∀ x ∈ L, isRemote x.1 = false) (q : Loc) :
    (L.foldl (fun s x => s.homeWrite1 x.1 x.2) s).homeByte q = (lastTo L q).getD (s.homeByte q) := by
  induction L generalizing s with
  | nil => rfl
  | cons x L ih =>
    rw [List.foldl_cons, ih _ fun y hy => hL y (.tail _ hy), lastTo_cons, homeByte_homeWrite1 _ _ _ (hL x (.head _))]
    by_cases h : x.1 = q
    · subst h; cases lastTo L x.1 <;> simp
    · cases lastTo L q <;> simp [h, Ne.symm h]

theorem homeByte_cleanLines (s : State) (ps : List Loc) (q : Loc) : (s.cleanLines ps).homeByte q = s.homeByte q := by unfold cleanLines; split <;> rfl
theorem homeByte_touch (s : State) (ps : List Loc) (q : Loc) : (s.touch ps).homeByte q = s.homeByte q :=
  foldl_keeps (fun s : State => s.homeByte q) _ (fun s p => by split <;> rfl) ps s

/-- Bytes stored at places of this package or the host stand at their home. -/
theorem homeByte_homeWrite (s : State) (p : Nat) (bs : List Byte) (hl : ∀ i < bs.length, isRemote (p + i) = false) (q : Nat) :
    (s.homeWrite p bs).homeByte q = if p ≤ q ∧ q < p + bs.length then bs.getD (q - p) 0 else s.homeByte q := by
  have hheal : ∀ (t : State) ps, (if t.bad = [] then t else t.healUnits ps).homeByte q = t.homeByte q := fun t ps => by split <;> rfl
  have hfold : bs.zipIdx.foldl (fun s (b, i) => s.homeWrite1 (p + i) b) s = ((List.range bs.length).map fun i => (p + i, bs.getD i 0)).foldl (fun s x => s.homeWrite1 x.1 x.2) s := by
    rw [← zipIdx_span, List.foldl_map]
  unfold homeWrite
  extract_lets s1 s2 s3
  rw [homeByte_touch]
  unfold s3
  rw [hheal]
  unfold s2
  rw [homeByte_cleanLines]
  unfold s1
  rw [hfold, homeByte_foldl_homeWrite1, lastTo_span]
  · split <;> rfl
  · intro x hx
    obtain ⟨i, hi, rfl⟩ := List.mem_map.mp hx
    exact hl i (List.mem_range.mp hi)

/-! ### Atomics at home (R149) -/

theorem restampAll_pk (s : State) (ps : List Loc) : (s.restampAll ps).pk = s.pk := by unfold restampAll; extract_lets; split <;> rfl
theorem restampAll_sy (s : State) (ps : List Loc) : (s.restampAll ps).sy = s.sy := by unfold restampAll; extract_lets; split <;> rfl
theorem restampAll_ticks (s : State) (ps : List Loc) : (s.restampAll ps).ticks = s.ticks := by unfold restampAll; extract_lets; split <;> rfl
theorem restampAll_link (s : State) (ps : List Loc) : (s.restampAll ps).link = s.link := by unfold restampAll; extract_lets; split <;> rfl

theorem homeByte_atomicPut (s : State) (p : Nat) (bs : List Byte) (hl : ∀ i < bs.length, isRemote (p + i) = false) (q : Nat) :
    (s.atomicPut p bs).homeByte q = if p ≤ q ∧ q < p + bs.length then bs.getD (q - p) 0 else s.homeByte q := by
  unfold atomicPut
  extract_lets ps put r
  rw [homeByte_touch]
  have hput : ∀ m : VMem, put m = ((List.range bs.length).map fun i => (p + i, bs.getD i 0)).foldl (fun m x => m.write x.1 x.2 s.stamp) m := fun m => by
    unfold put ps; rw [zip_span]
  have hread : ∀ m : VMem, (put m).read q = if p ≤ q ∧ q < p + bs.length then bs.getD (q - p) 0 else m.read q := fun m => by
    rw [hput, read_foldl_write, lastTo_span]
    split <;> rfl
  by_cases h : p ≤ q ∧ q < p + bs.length
  · have hq : isRemote q = false := by have := hl (q - p) (by omega); rwa [Nat.add_sub_cancel' h.1] at this
    rw [homeByte_local _ _ hq, if_pos h]
    exact (hread _).trans (if_pos h)
  · have hs : ∀ m : VMem, (put m).stampAt q = m.stampAt q := fun m => by
      rw [hput, stampAt_foldl_write]
      intro x hx e
      obtain ⟨i, hi, rfl⟩ := List.mem_map.mp hx
      have := List.mem_range.mp hi
      have e' : p + i = q := e
      exact h (by omega)
    rw [if_neg h]
    refine homeByte_of_reads (s := s) (t := { r with pk := put r.pk, sy := put r.sy }) (restampAll_ticks s ps) q (fun _ => ⟨?_, ?_⟩) fun _ => ?_
    · exact ((hread _).trans (if_neg h)).trans (by rw [restampAll_sy])
    · exact (hs _).trans (by rw [restampAll_sy])
    · exact ((hread _).trans (if_neg h)).trans (by rw [restampAll_pk])

/-- An atomic of the front end or the host. -/
theorem homeByte_homeAtomic (s : State) (p : Nat) (bs : List Byte) (hl : ∀ i < bs.length, isRemote (p + i) = false) (q : Nat) :
    (homeAtomic s p bs).homeByte q = if p ≤ q ∧ q < p + bs.length then bs.getD (q - p) 0 else s.homeByte q :=
  (homeByte_cleanLines _ _ q).trans (homeByte_atomicPut s p bs hl q)
theorem homeAtomic_reads (s : State) (p : Loc) (bs : List Byte) : (homeAtomic s p bs).link.reads = s.link.reads := by
  refine ((cleanLines_home _ _).reads).trans ?_
  unfold atomicPut
  extract_lets ps put r
  exact ((touch_home _ _).reads).trans (by show r.link.reads = _; unfold r; rw [restampAll_link])

end Sys2Proof.Machine
end

section
/-!
SUPPORT. The end of a fault domain (R275): what it leaves of the launches. The shared operations that it calls change nothing in the front end's state but its entries,
estates and regions.
-/

namespace Sys2Proof.Machine

namespace State

/-! ### Views and requests -/

theorem viewMerge_fe (s : State) (c : Nat) (m : VMem) : (s.viewMerge c m).fe = s.fe := by rw [viewMerge_order s c m]; rfl
theorem viewPut_fe (s : State) (c : Nat) (p : Loc) (b : Byte) : (s.viewPut c p b).fe = s.fe := by
  unfold viewPut
  rw [ordered_order]
  rfl
theorem sendRequests_fe (s : State) (ps : List Loc) : (s.sendRequests ps).fe = s.fe := by rw [sendRequests_ports s ps]
theorem nameFar_fe (s : State) (p : Loc) (va : Nat) : (s.nameFar p va).fe = s.fe := by unfold nameFar; split <;> rfl
theorem remoteAccess_fe (s : State) (need : Need) (a : Dword) (spots : List Spot) : (s.remoteAccess need a spots).fe = s.fe := by
  unfold remoteAccess
  dsimp only
  split
  · exact sendRequests_fe s _
  · exact foldl_keeps State.fe _ (fun s q => nameFar_fe s _ _) _ s
theorem usePages_fe (s : State) (w off n : Nat) : (s.usePages w off n).fe = s.fe := by unfold usePages; dsimp only; split <;> rfl
theorem validPages_fe (s : State) (spots : List Spot) : (s.validPages spots).fe = s.fe :=
  foldl_keeps State.fe _ (fun s x => by cases x with | glob _ => rfl | scr w off => exact usePages_fe s w off 1) spots s

end State
open State

/-! ### Accesses (R154) -/

theorem translate_fe (s : State) (c ctx va : Nat) (need : Need) : (translate s c ctx va need).1.fe = s.fe := by
  unfold translate
  dsimp only
  split
  · rfl
  · split
    · rfl
    · split
      · rfl
      · split <;> rfl
theorem translateAll_fe (s : State) (P : Party) (need : Need) (ns : List Named) : (translateAll s P need ns).1.fe = s.fe := by
  induction ns generalizing s with
  | nil => rfl
  | cons n ns ih =>
    cases n with
    | scr w off =>
      have h := ih s
      unfold translateAll
      split <;> simp_all
    | glob va =>
      have ht := translate_fe s P.core P.ctx va need
      unfold translateAll
      split
      · simp_all
      · rename_i t x e
        have h := ih t
        split <;> simp_all
theorem placeLines_fe (s : State) (P : Party) (ys : List Unfilled) : (placeLines s P ys).1.fe = s.fe := by
  induction ys generalizing s with
  | nil => rfl
  | cons y ys ih =>
    have ht := translate_fe s P.core P.ctx (y.range.base + 128 * y.line) .load
    unfold placeLines
    split
    · simp_all
    · rename_i t x e
      have h := ih t
      split <;> simp_all
theorem fillLine_fe (s : State) (P : Party) (y : Unfilled) (p : Loc) : (fillLine s P y p).fe = s.fe := rfl
theorem fillAll_fe (s : State) (P : Party) (a : Dword) (spots : List Spot) : (fillAll s P a spots).1.fe = s.fe := by
  have hp := placeLines_fe s P (unfilled s a spots)
  unfold fillAll
  split
  · simp_all
  · rename_i t xs e
    have ht : t.fe = s.fe := by simp_all
    split
    · exact ht
    · exact ht
    · exact ht
    · exact ht
    · rw [← ht]
      exact foldl_keeps State.fe _ (fun s x => fillLine_fe s P x.1 x.2) xs t
theorem locate_fe (s : State) (P : Party) (sp : BitVec 2) (a : Dword) (n : Nat) (natural : Bool) (need : Need) : (locate s P sp a n natural need).1.fe = s.fe := by
  unfold locate
  split
  · rfl
  · rename_i names _
    have ht := translateAll_fe s P need names
    split
    · rfl
    · split
      · rfl
      · split
        · simp_all
        · rename_i t spots e
          have hf := fillAll_fe t P a spots
          split
          · simp_all
          · split
            · simp_all
            · rename_i u e'
              have hu : u.fe = s.fe := by simp_all
              dsimp only
              rw [validPages_fe]
              split
              · rw [remoteAccess_fe, hu]
              · exact hu
theorem writeSpot_fe (s : State) (c : Nat) (b : Byte) (x : Spot) : (writeSpot s c b x).fe = s.fe := by
  cases x with
  | glob x => exact viewPut_fe s c x.loc b
  | scr w off => rfl
theorem writeParts_fe (s : State) (c n : Nat) (xs : List Spot) (bs : List Byte) : (writeParts s c n xs bs).fe = s.fe := by
  induction xs generalizing s bs with
  | nil => rfl
  | cons x xs ih =>
    cases bs with
    | nil => rfl
    | cons b bs =>
      unfold writeParts
      dsimp only
      rw [ih]
      split
      · exact writeSpot_fe s c b x
      · exact writeSpot_fe s c b x
theorem heal_fe (s : State) (covered : List Spot) : (heal s covered).fe = s.fe := by
  unfold heal
  dsimp only
  split <;> rfl
theorem storeAt_fe (s : State) (P : Party) (sp : BitVec 2) (a : Dword) (bs : List Byte) (natural : Bool) : (storeAt s P sp a bs natural).1.fe = s.fe := by
  have hl := locate_fe s P sp a bs.length natural .store
  unfold storeAt
  split
  · simp_all
  · split
    · simp_all
    · rename_i t spots e _ _
      dsimp only
      rw [heal_fe, writeSpots, writeParts_fe]
      simp_all

/-! ### Commands, subgroups and workgroups that go -/

theorem finishCmd_fe (s : State) (n : Nat) (w : VMem) : (finishCmd s n w).fe = s.fe := by
  unfold finishCmd
  split
  · rfl
  · exact foldl_keeps State.fe _ (fun s c => viewMerge_fe s c w) _ s
theorem endCmd_fe (s : State) (P : Party) (a : Dword) (v n : Nat) (w : VMem) : (endCmd s P a v n w).fe = s.fe := by
  have hs := storeAt_fe s P 0 a (bytesOf 4 (BitVec.ofNat 64 v)) true
  unfold endCmd storeStatus
  dsimp only
  rw [finishCmd_fe]
  split <;> simp_all
theorem setOwnership_fe (s : State) (c ctx : Nat) (o : Option Nat) (q : List Nat) : (s.setOwnership c ctx o q).fe = s.fe := by unfold setOwnership; split <;> rfl
theorem passOwner_fe (s : State) (c ctx : Nat) : (passOwner s c ctx).fe = s.fe := by
  unfold passOwner
  dsimp only
  split
  · rw [post_fe, setOwnership_fe]
  · split
    · exact setOwnership_fe s c ctx _ _
    · rw [modSub_eq, setSub_fe, setOwnership_fe]
theorem leaveEngine_fe (s : State) (c g : Nat) : (leaveEngine s c g).fe = s.fe := by
  unfold leaveEngine
  dsimp only
  split
  · exact passOwner_fe s c _
  · split
    · exact setOwnership_fe s c _ _ _
    · rfl
theorem discardSub_fe (s : State) (g : Nat) : (discardSub s g).fe = s.fe :=
  foldl_keeps State.fe _ (fun s n => finishCmd_fe s n {}) _ s
theorem dropSub_fe (s : State) (g : Nat) : (dropSub s g).fe = s.fe := (discardSub_fe _ g).trans (leaveEngine_fe s _ g)
theorem writeSlotDir_fe (s : State) (w : Nat) (valid : Bool) : (writeSlotDir s w valid).fe = s.fe := by
  unfold writeSlotDir
  dsimp only
  split
  · rfl
  · split
    · rename_i h; exact (writeHome_home h).fe
    · rfl
theorem dropWg_fe (s : State) (w : Nat) : (dropWg s w).fe = s.fe :=
  (writeSlotDir_fe _ w false).trans (foldl_keeps State.fe _ dropSub_fe _ s)
theorem freeGang_fe (s : State) (num : Nat) : (freeGang s num).fe = s.fe := by
  unfold freeGang
  extract_lets cs r
  have hr : r.fe = s.fe := foldl_keeps State.fe _ (fun _ _ => by rfl) cs s
  refine (foldl_keeps State.fe _ (fun t c => ?_) cs r).trans hr
  split
  · split
    · exact passOwner_fe t c _
    · rfl
  · rfl
theorem abortCommands_fe (s : State) (w : Nat) : (abortCommands s w).fe = s.fe := by
  unfold abortCommands
  extract_lets g mine s1 s2 k s3 s4 waits s5
  have h1 : s1.fe = s.fe := foldl_keeps State.fe _ (fun _ _ => by split <;> rfl) _ s
  have h2 : s2.fe = s1.fe := foldl_keeps State.fe _ (fun s _ => finishCmd_fe s _ {}) _ s1
  have h3 : s3.fe = s2.fe := foldl_keeps State.fe _ (fun s _ => endCmd_fe s _ _ _ _ _) _ s2
  have h4 : s4.fe = s3.fe := foldl_keeps State.fe _ (fun s t => by rw [freeGang_fe, endCmd_fe]) _ s3
  have h5 : s5.fe = s4.fe := by unfold s5; split <;> rfl
  rw [← h1, ← h2, ← h3, ← h4, ← h5]
  rfl

/-! ### Entries that end, and room given back (R203, R362) -/

theorem giveRoom_launches (s : State) (store : Loc) (n : Nat) : (giveRoom s store n).fe.launches = s.fe.launches := rfl
theorem removeEstates_launches (s : State) (p : Estate → Bool) : (removeEstates s p).fe.launches = s.fe.launches :=
  foldl_keeps (fun s : State => s.fe.launches) _ (fun s _ => giveRoom_launches s _ _) _ _
theorem closeEntry_launches (s : State) (seq : Nat) (e : Entry) (st : BitVec 8) (status : Nat) (cause : BitVec 8) (fpc : Dword) :
    (closeEntry s seq e st status cause fpc).fe.launches = s.fe.launches := by
  have hj : (journal s seq e st s.etime fpc cause status).fe = s.fe := by
    unfold journal
    split
    · exact (homeWrite_home s _ _).fe
    · rfl
  show (journal s seq e st s.etime fpc cause status).fe.launches = _
  rw [hj]
theorem finishEntry_launches (s : State) (seq : Nat) (st : BitVec 8) (status : Nat) (cause : BitVec 8) (fpc : Dword) :
    (finishEntry s seq st status cause fpc).fe.launches = s.fe.launches := by
  unfold finishEntry
  split
  · rfl
  · rename_i e _
    extract_lets r
    have hr : r.fe.launches = s.fe.launches := closeEntry_launches s seq e st status cause fpc
    split
    · exact hr
    · rename_i q _
      extract_lets m
      have hm : m.fe.launches = s.fe.launches := hr
      split
      · exact hm
      · split
        · exact (closeEntry_launches m q _ _ _ _ _).trans hm
        · exact hm

/-! ### The end of a domain and of a context -/

/-- The end of a fault domain takes its launches, and changes no other (R275). -/
theorem endDomain_launches (s : State) (ctx : Nat) (fdom : Word) (cause : BitVec 8) (pc : Dword) :
    (endDomain s ctx fdom cause pc).fe.launches =
      s.fe.launches.filter fun p => !(((s.fe.launches.filter fun p => p.2.ctx == ctx && p.2.fdom == fdom).map Prod.fst).contains p.1) := by
  unfold endDomain
  extract_lets ends ls ws s1 s2 s3 s4 front s5
  have h1 : s1.fe = s.fe := foldl_keeps State.fe _ abortCommands_fe ws s
  have h2 : s2.fe = s1.fe := foldl_keeps State.fe _ dropWg_fe ws s1
  have h3 : s3.fe.launches = s2.fe.launches := removeEstates_launches s2 _
  have h4 : s4.fe.launches = s3.fe.launches := foldl_keeps (fun s : State => s.fe.launches) _ (fun s _ => giveRoom_launches s _ _) ls s3
  have h5 : s5.fe.launches = s.fe.launches.filter fun p => !(ls.contains p.1) := by
    show s4.fe.launches.filter _ = _
    rw [h4, h3, h2, h1]
  exact (foldl_keeps (fun s : State => s.fe.launches) _ (fun s _ => finishEntry_launches s _ 4 0 cause pc) ends s5).trans h5

/-- After the end of a fault domain of a context, what launches are left were there before and are not of the domain. -/
theorem mem_launches_endDomain {s : State} {ctx : Nat} {fdom : Word} {cause : BitVec 8} {pc : Dword} {l : Nat × Launch}
    (h : l ∈ (endDomain s ctx fdom cause pc).fe.launches) : l ∈ s.fe.launches ∧ ¬ (l.2.ctx = ctx ∧ l.2.fdom = fdom) := by
  rw [endDomain_launches, List.mem_filter] at h
  obtain ⟨hl, hk⟩ := h
  refine ⟨hl, fun hd => ?_⟩
  have : l.1 ∈ (s.fe.launches.filter fun p => p.2.ctx == ctx && p.2.fdom == fdom).map Prod.fst :=
    List.mem_map.mpr ⟨l, List.mem_filter.mpr ⟨hl, by simp [hd]⟩, rfl⟩
  rw [List.contains_iff_mem.mpr this] at hk
  cases hk

/-- The same after the end of several. -/
theorem mem_launches_endDomains {ctx : Nat} {cause : BitVec 8} {l : Nat × Launch} (ds : List Word) (s : State)
    (h : l ∈ (ds.foldl (fun s d => endDomain s ctx d cause 0) s).fe.launches) : l ∈ s.fe.launches ∧ ¬ (l.2.ctx = ctx ∧ l.2.fdom ∈ ds) := by
  induction ds generalizing s with
  | nil => exact ⟨h, by simp⟩
  | cons d ds ih =>
    obtain ⟨h1, h2⟩ := ih (endDomain s ctx d cause 0) h
    obtain ⟨h3, h4⟩ := mem_launches_endDomain h1
    refine ⟨h3, fun ⟨hc, hd⟩ => ?_⟩
    rcases List.mem_cons.mp hd with e | e
    · exact h4 ⟨hc, e⟩
    · exact h2 ⟨hc, e⟩

/-- The end of a context leaves none of its launches (R343, R344). -/
theorem endContext_launches (s : State) (ctx : Nat) (cause : BitVec 8) : ∀ l ∈ (endContext s ctx cause).fe.launches, l.2.ctx ≠ ctx := by
  intro l h hc
  obtain ⟨h1, h2⟩ := mem_launches_endDomains _ s h
  exact h2 ⟨hc, List.mem_eraseDups.mpr (List.mem_map.mpr ⟨l, List.mem_filter.mpr ⟨h1, by simp [hc]⟩, rfl⟩)⟩

end Sys2Proof.Machine
end

section
/-!
SUPPORT. Soft errors and the patrol scrubber, one lemma for each kind of unit (R202, R225, R305, R334, R343 to R345).
-/

namespace Sys2Proof.Machine
open State Claim

theorem logUnit_logged (s : State) (kind u sev ctx : Nat) : Logged s (logUnit s kind u sev ctx) (errorPlace s kind u).1 (errorPlace s kind u).2 sev ctx :=
  logError_logged s _ _ sev ctx

/-! ### Units that fault (R8, R343, R372) -/

theorem markBad_eq (s : State) (u : Nat) :
    markBad s u = if u ∈ s.bad ∨ (tierOf (32 * u) ≤ 1 ∧ 32 * u / 4096 ∉ s.written) then s else { s with bad := u :: s.bad } := if_congr (by simp) rfl rfl
theorem markBad_rest (s : State) (u : Nat) : markBad s u = { s with bad := (markBad s u).bad } := by unfold markBad; split <;> rfl
/-- A unit is marked where a store has reached its granule, or it lies in no granule of the device. -/
theorem mem_markBad (s : State) (u v : Nat) : v ∈ (markBad s u).bad ↔ (v = u ∧ (tierOf (32 * u) ≤ 1 → 32 * u / 4096 ∈ s.written)) ∨ v ∈ s.bad := by
  rw [markBad_eq]
  split
  · rename_i h
    refine ⟨.inr, ?_⟩
    rintro (⟨rfl, hw⟩ | hv)
    · exact h.resolve_right fun g => g.2 (hw g.1)
    · exact hv
  · rename_i h
    have hw : tierOf (32 * u) ≤ 1 → 32 * u / 4096 ∈ s.written := fun ht => not_not.mp fun hn => h (.inr ⟨ht, hn⟩)
    rw [List.mem_cons]
    exact or_congr_left ⟨fun e => ⟨e, hw⟩, And.left⟩
/-- A unit of the device that does not fault yet does so if a store has reached its granule. -/
theorem markBad_device (s : State) (u : Nat) (hb : u ∉ s.bad) (ht : tierOf (32 * u) < 2) :
    markBad s u = { s with bad := if 32 * u / 4096 ∈ s.written then u :: s.bad else s.bad } := by
  have h1 : tierOf (32 * u) ≤ 1 := by omega
  by_cases hw : 32 * u / 4096 ∈ s.written <;> simp [markBad_eq, hb, hw, h1]

theorem touch_bad (s : State) (ps : List Loc) : (s.touch ps).bad = s.bad := foldl_keeps State.bad _ (fun s p => by split <;> rfl) ps s
theorem mem_touch_written (s : State) (p : Loc) : p / 4096 ∈ (s.touch [p]).written := by
  simp only [touch, List.foldl_cons, List.foldl_nil]
  split
  · rename_i h; exact List.contains_iff_mem.mp h
  · simp
theorem mem_markWritten (s : State) (u v : Nat) : v ∈ (markWritten s u).bad ↔ v = u ∨ v ∈ s.bad := by
  rw [markWritten, mem_markBad, touch_bad]
  have := mem_touch_written s (32 * u)
  tauto
/-- Several units marked one after the other. -/
theorem mem_foldl_markWritten (f : Nat → Nat) (is : List Nat) (s : State) (v : Nat) :
    v ∈ (is.foldl (fun s i => markWritten s (f i)) s).bad ↔ (∃ i ∈ is, v = f i) ∨ v ∈ s.bad := by
  induction is generalizing s with
  | nil => simp
  | cons i is ih =>
    rw [List.foldl_cons, ih, mem_markWritten]
    simp only [List.mem_cons, exists_eq_or_imp]
    rw [← or_assoc, or_comm (a := ∃ i ∈ is, v = f i)]

/-! ### Memory and the lines of the caches (kinds 0 to 3, 7) -/

theorem tierOf_locOf (tier a : Nat) (ht : tier < 4) (ha : a < 2 ^ 56) : tierOf (locOf tier a) = tier := by unfold tierOf locOf; omega

theorem softError_corrected (s : State) (kind : BitVec 4) (u : Nat) : exec (.softError kind u true) s = .next (logUnit s kind.toNat u 0 0) := rfl

/-- A unit of HBM4E or of the LPDDR 6 tier: it is logged, and it faults from now on if a store has reached it. -/
theorem softError_memory (s : State) (tier u : Nat) (ht : tier < 2) (hu : u < 2 ^ 51) : let p := tier * 2 ^ 56 + 32 * u
    ∃ t q, exec (.softError (BitVec.ofNat 4 tier) u false) s = .next t ∧ Logged s q (tierWord p) (memUnit s p) 1 0 ∧ t = { q with bad := t.bad } ∧
      ∀ v, v ∈ t.bad ↔ (v = p / 32 ∧ p / 4096 ∈ s.written) ∨ v ∈ s.bad := by
  intro p
  have hk : (BitVec.ofNat 4 tier).toNat = tier := by
    rw [BitVec.toNat_ofNat]
    exact Nat.mod_eq_of_lt (by omega)
  have he : exec (.softError (BitVec.ofNat 4 tier) u false) s = .next (memoryError s tier u) := by
    show execSoftError _ _ _ _ = _
    simp [execSoftError, hk, show tier ≤ 1 by omega]
  have hplace : errorPlace s tier u = (tierWord p, memUnit s p) := by simp [errorPlace, show tier ≤ 1 by omega, p, locOf]
  have hlog := logUnit_logged s tier u 1 0
  rw [hplace] at hlog
  have hp : 32 * (p / 32) = p := Nat.mul_div_cancel' (by unfold p; omega)
  have htier : tierOf p ≤ 1 := by rw [show p = locOf tier (32 * u) from rfl, tierOf_locOf _ _ (by omega) (by omega)]; omega
  refine ⟨_, logUnit s tier u 1 0, he, hlog, markBad_rest _ _, fun v => ?_⟩
  show v ∈ (markBad (logUnit s tier u 1 0) (p / 32)).bad ↔ _
  rw [mem_markBad, hp]
  exact or_congr_left (and_congr_right fun _ => ⟨fun h => h htier, fun h _ => h⟩)

theorem softError_line (s : State) (kind : BitVec 4) (u : Nat) (hk : kind = 2 ∨ kind = 3) : exec (.softError kind u false) s = .next (lineError s kind.toNat u) := by
  rcases hk with rfl | rfl <;> rfl

/-- A clean line is logged and fetched again: nothing else changes (R343). -/
theorem lineError_clean (s : State) (kind u : Nat) (h : u / 2 ^ 60 % 2 ^ 16 = 0) : lineError s kind u = logUnit s kind u 0 0 := by unfold lineError; rw [h]; rfl

/-- The places of the lines of the LLC and of an L2 (R345). -/
theorem errorPlace_llc (s : State) (u : Nat) : let line := 8 * (u % 2 ^ 60)
    errorPlace s 2 u = (tierWord line, homeDie s line * 2 ^ 12 + 2 * 2 ^ 8) := by
  simp only [errorPlace, unitWord, Nat.reduceLeDiff, if_false, if_true, Nat.zero_mod, Nat.add_zero]
theorem errorPlace_l2 (s : State) (u : Nat) : let k := u / 2 ^ 76
    errorPlace s 3 u = (tierWord (8 * (u % 2 ^ 60)), s.dieOf k * 2 ^ 12 + 3 * 2 ^ 8 + k % 256) := by
  simp only [errorPlace, unitWord, Nat.reduceLeDiff, Nat.reduceEqDiff, if_false, if_true]

theorem softError_cleanLlc (s : State) (u : Nat) (hu : u < 2 ^ 60) :
    ∃ t, exec (.softError 2 u false) s = .next t ∧ Logged s t (tierWord (8 * u)) (homeDie s (8 * u) * 2 ^ 12 + 2 * 2 ^ 8) 0 0 := by
  refine ⟨_, softError_line s 2 u (.inl rfl), ?_⟩
  rw [lineError_clean _ _ _ (by omega)]
  have hlog := logUnit_logged s 2 u 0 0
  rwa [errorPlace_llc, Nat.mod_eq_of_lt hu] at hlog

theorem softError_cleanL2 (s : State) (u k : Nat) (hu : u < 2 ^ 60) (hk : k < 256) :
    ∃ t, exec (.softError 3 (k * 2 ^ 76 + u) false) s = .next t ∧ Logged s t (tierWord (8 * u)) (s.dieOf k * 2 ^ 12 + 3 * 2 ^ 8 + k) 0 0 := by
  refine ⟨_, softError_line s 3 _ (.inr rfl), ?_⟩
  rw [lineError_clean _ _ _ (by omega)]
  have hlog := logUnit_logged s 3 (k * 2 ^ 76 + u) 0 0
  have h1 : (k * 2 ^ 76 + u) % 2 ^ 60 = u := by omega
  have h2 : (k * 2 ^ 76 + u) / 2 ^ 76 = k := by omega
  rwa [errorPlace_l2, h1, h2, Nat.mod_eq_of_lt hk] at hlog

/-- A dirty line ends the context that owns it: no launch of it is left (R305, R343, R344). -/
theorem softError_dirtyLine (s : State) (kind : BitVec 4) (u n : Nat) (hk : kind = 2 ∨ kind = 3) (hu : u < 2 ^ 60) (h0 : 0 < n) (hn : n < 2 ^ 16) :
    ∃ t, exec (.softError kind (n * 2 ^ 60 + u) false) s = .next t ∧ ∀ l ∈ t.fe.launches, l.2.ctx ≠ n := by
  refine ⟨_, softError_line s kind _ hk, ?_⟩
  have hc : (n * 2 ^ 60 + u) / 2 ^ 60 % 2 ^ 16 = n := by omega
  simp only [lineError, hc, if_neg (show n ≠ 0 by omega)]
  exact endContext_launches _ n 5

/-- The line of an atomic unit: its four units keep faulting (R334). -/
theorem softError_atomicUnit (s : State) (u : Nat) : ∃ t, exec (.softError 7 u false) s = .next t ∧
    ∀ v, v ∈ t.bad ↔ (4 * u ≤ v ∧ v < 4 * u + 4) ∨ v ∈ s.bad := by
  refine ⟨unitError s u, rfl, fun v => ?_⟩
  rw [unitError, mem_foldl_markWritten]
  refine or_congr ⟨?_, fun h => ⟨v - 4 * u, List.mem_range.mpr (by omega), by omega⟩⟩ Iff.rfl
  rintro ⟨i, hi, rfl⟩
  have := List.mem_range.mp hi
  omega

/-! ### Scratchpads, TLBs and the stitch holder (kinds 4, 6, 8) -/

theorem softError_scratchpad (s : State) (u : Nat) (g : Wg) (h : s.wgs.find? (u / 2 ^ 16) = some g) :
    ∃ t, exec (.softError 4 u false) s = .next t ∧ t.wg (u / 2 ^ 16) = { g with bad := u % 2 ^ 16 :: g.bad } ∧ SameBytes s t := by
  have hg : s.wg (u / 2 ^ 16) = g := by rw [wg, Tbl.get, h]; rfl
  refine ⟨(logUnit s 4 u 1 g.ctx).setWg (u / 2 ^ 16) { g with bad := u % 2 ^ 16 :: g.bad }, ?_, wg_setWg_self _ _ _, fun p => rfl, fun c p => rfl, fun w a => ?_⟩
  · show Host.Outcome.next (scratchError s u) = _
    simp only [scratchError, h, Option.isNone_some, Bool.false_eq_true, if_false, hg]
    rw [modWg_eq, show (logUnit s 4 u 1 g.ctx).wg (u / 2 ^ 16) = g from hg]
  · rw [wg_setWg]
    split
    · rename_i e; rw [e, hg]
    · rfl

theorem sameBytes_setTlb (s : State) (c : Nat) (t : List TlbEnt) : SameBytes s (s.modCore c fun k => { k with tlb := t }) := by
  refine ⟨fun p => rfl, fun e p => ?_, fun w a => rfl⟩
  have hv : ((s.modCore c fun k => { k with tlb := t }).core e).view = (s.core e).view := by
    rw [modCore_eq, core_setCore]
    split
    · rename_i h; rw [h]
    · rfl
  unfold seen
  rw [hv]
  rfl

/-- An entry of a core's TLB is dropped there and in the cluster's TLB (R343). -/
theorem softError_coreTlb (s : State) (c i : Nat) (hc : c < 4096) (hi : i < 256) :
    ∃ t, exec (.softError 6 (256 * c + i) false) s = .next t ∧ t.core c = { s.core c with tlb := (s.core c).tlb.eraseIdx i } ∧ SameBytes s t ∧
      ∀ e, (s.core c).tlb[i]? = some e → e ∉ (t.cluster (clusterOf c)).tlb := by
  have h1 : (256 * c + i) / 256 = c := by omega
  have h2 : (256 * c + i) % 256 = i := by omega
  have hb := sameBytes_setTlb (logUnit s 6 (256 * c + i) 0 0) c ((s.core c).tlb.eraseIdx i)
  refine ⟨tlbError s (256 * c + i), rfl, ?_⟩
  simp only [tlbError, if_neg (show ¬ 2 ^ 20 ≤ 256 * c + i by omega), h1, h2]
  cases he : (s.core c).tlb[i]? with
  | none => exact ⟨core_setCore_self _ _ _, hb, by simp⟩
  | some e =>
    refine ⟨core_setCore_self _ _ _, hb, fun e' h => ?_⟩
    cases h
    simp [modCluster, cluster_setCluster]

theorem softError_clusterTlb (s : State) (k i : Nat) (hi : i < 4096) :
    ∃ t, exec (.softError 6 (2 ^ 20 + 4096 * k + i) false) s = .next t ∧ t.cluster k = { s.cluster k with tlb := (s.cluster k).tlb.eraseIdx i } ∧
      t.cores = s.cores ∧ SameBytes s t := by
  have h1 : (2 ^ 20 + 4096 * k + i) / 4096 - 256 = k := by omega
  have h2 : (2 ^ 20 + 4096 * k + i) % 4096 = i := by omega
  refine ⟨tlbError s (2 ^ 20 + 4096 * k + i), rfl, ?_⟩
  simp only [tlbError, if_pos (show 2 ^ 20 ≤ 2 ^ 20 + 4096 * k + i by omega), h1, h2]
  refine ⟨?_, rfl, fun p => rfl, fun c p => rfl, fun w a => rfl⟩
  rw [modCluster, cluster_setCluster, if_pos rfl]
  rfl

theorem softError_holder (s : State) (u : Nat) (e : Estate) (h : (s.fe.estates.filter fun e => e.place == .holder (u / 2 ^ 20))[u % 2 ^ 20]? = some e) :
    ∃ t, exec (.softError 8 u false) s = .next t ∧ t.subs = s.subs ∧
      t.fe = { s.fe with estates := s.fe.estates.map fun o => if e.same o then { o with bad := true } else o } := by
  refine ⟨holderError s u, rfl, ?_⟩
  simp only [holderError, h]
  exact ⟨rfl, rfl⟩

/-! ### The storage of a matrix engine (kind 9) -/

theorem engine_setEngine_self (s : State) (c : Nat) (x : Engine) : (s.setEngine c x).engine c = x := by simp [engine, setEngine, modCore_eq]

theorem writeHeader_cores {s t : State} {c ctx : Nat} {bs : List Byte} (h : writeHeader s c ctx bs = .ok t) : t.cores = s.cores :=
  (writeHome_home h).cores.trans rfl

/-- Sticky bits of the context whose accumulators the engine holds are set in the engine. -/
theorem setSticky_held (s : State) (c : Nat) (nan ovf merr : Bool) (h : (nan || ovf || merr) = true) : setSticky s c (s.engine c).actx nan ovf merr =
    s.setEngine c { s.engine c with nan := (s.engine c).nan || nan, ovf := (s.engine c).ovf || ovf, merr := (s.engine c).merr || merr } := by
  simp [setSticky, h]
/-- Those of another context leave the engine as it is. -/
theorem setSticky_other (s : State) (c ctx : Nat) (nan ovf merr : Bool) (h : (s.engine c).actx ≠ ctx) : (setSticky s c ctx nan ovf merr).engine c = s.engine c := by
  unfold setSticky
  extract_lets e
  split
  · rfl
  · split
    · rfl
    · dsimp only
      split
      · rename_i t hw
        simp only [engine, State.core, writeHeader_cores hw]
      · rfl

theorem softError_tile (s : State) (c i : Nat) (hi : i < 8) : let e := s.engine c
    ∃ t, exec (.softError 9 (16 * c + i) false) s = .next t ∧ t.subs = s.subs ∧
      t.engine c = if (e.tiles.get i {}).used then { e with tiles := e.tiles.set i (nanTile c), merr := true } else e := by
  intro e
  have h1 : (16 * c + i) / 16 = c := by omega
  have h2 : (16 * c + i) % 16 = i := by omega
  refine ⟨engineError s (16 * c + i), rfl, ?_⟩
  simp only [engineError, h1, h2, if_pos hi]
  split
  · have hs := setSticky_held ((logUnit s 9 (16 * c + i) 1 e.actx).setEngine c { e with tiles := e.tiles.set i (nanTile c) }) c false false true rfl
    rw [engine_setEngine_self] at hs
    rw [hs]
    exact ⟨rfl, by rw [engine_setEngine_self]; simp⟩
  · exact ⟨rfl, rfl⟩

/-- A plane's error sets MERR of the context whose weights they are: in the engine where its accumulators are there, too. -/
theorem setSticky_plane (s : State) (c : Nat) (x : Engine) : let t := setSticky (s.setEngine c x) c x.wctx false false true
    (t.engine c).shadow = x.shadow ∧ (t.engine c).active = x.active ∧ (x.actx = x.wctx → (t.engine c).merr = true) ∧ (x.actx ≠ x.wctx → (t.engine c).merr = x.merr) := by
  intro t
  by_cases h : x.actx = x.wctx
  · have hs := setSticky_held (s.setEngine c x) c false false true rfl
    rw [engine_setEngine_self, h] at hs
    unfold t
    rw [hs, engine_setEngine_self]
    exact ⟨rfl, rfl, fun _ => Bool.or_true _, fun g => absurd h g⟩
  · have ht : t.engine c = x := by
      unfold t
      rw [setSticky_other _ _ _ _ _ _ (by rwa [engine_setEngine_self]), engine_setEngine_self]
    rw [ht]
    exact ⟨rfl, rfl, fun g => absurd g h, fun _ => rfl⟩

theorem softError_shadowPlane (s : State) (c : Nat) : let e := s.engine c
    ∃ t, exec (.softError 9 (16 * c + 8) false) s = .next t ∧ (t.engine c).shadow = { e.shadow with valid := false, failed := true } ∧ (t.engine c).active = e.active ∧
      (e.actx = e.wctx → (t.engine c).merr = true) ∧ (e.actx ≠ e.wctx → (t.engine c).merr = e.merr) := by
  intro e
  have h1 : (16 * c + 8) / 16 = c := by omega
  have h2 : (16 * c + 8) % 16 = 8 := by omega
  refine ⟨engineError s (16 * c + 8), rfl, ?_⟩
  simp only [engineError, h1, h2, Nat.lt_irrefl, if_false, if_true]
  exact setSticky_plane _ c _

theorem softError_activePlane (s : State) (c : Nat) : let e := s.engine c
    ∃ t, exec (.softError 9 (16 * c + 9) false) s = .next t ∧ (t.engine c).active = { e.active with bad := true } ∧ (t.engine c).shadow = e.shadow ∧
      (e.actx = e.wctx → (t.engine c).merr = true) ∧ (e.actx ≠ e.wctx → (t.engine c).merr = e.merr) := by
  intro e
  have h1 : (16 * c + 9) / 16 = c := by omega
  have h2 : (16 * c + 9) % 16 = 9 := by omega
  refine ⟨engineError s (16 * c + 9), rfl, ?_⟩
  simp only [engineError, h1, h2, show ¬ (9 < 8) by omega, show (9 : Nat) ≠ 8 by omega, if_false]
  obtain ⟨hs, ha, hm⟩ := setSticky_plane (logUnit s 9 (16 * c + 9) 1 e.wctx) c { e with active := { e.active with bad := true } }
  exact ⟨ha, hs, hm⟩

/-! ### The patrol scrubber (R344) -/

/-- A unit of the device's memory as a patrol read finds it: good, corrected, or not to be corrected. -/
theorem patrolScrub_device (s : State) (u : Nat) (state : BitVec 2) (hu : u < 2 ^ 52) (ht : tierOf (32 * u) < 2) : let p := 32 * u
    exec (.patrolScrub u state) s = .next (
      if state = 1 then logError s (tierWord p) (memUnit s p) 0 0
      else if state = 2 ∧ u ∉ s.bad then markBad (logError s (tierWord p) (memUnit s p) 1 0) u else s) := by
  intro p
  have hr : ¬ 2 ^ 58 ≤ 32 * u := by omega
  have hp : (isRemote (32 * u) || decide (2 ≤ tierOf (32 * u))) = false := Bool.or_eq_false_iff.mpr ⟨decide_eq_false hr, decide_eq_false (by omega)⟩
  have hb : (decide (state = 2) && !s.bad.contains u) = true ↔ state = 2 ∧ u ∉ s.bad := by simp
  show execPatrolScrub _ _ _ = _
  unfold execPatrolScrub
  extract_lets
  rw [hp, if_neg Bool.false_ne_true]
  split
  · rfl
  · rw [apply_ite Host.Outcome.next]
    exact if_congr hb rfl rfl

end Sys2Proof.Machine
end

section
open Sys2Proof Machine Claim
/-- Settles O19: each kind of unit by its lemma, and the patrol scrubber case by case of what it finds. -/
theorem errorsAreLoggedAndConfined : Obligations.ErrorsAreLoggedAndConfined := by
  unfold Obligations.ErrorsAreLoggedAndConfined
  refine ⟨fun s kind u => ⟨_, softError_corrected s kind u, logUnit_logged s _ u 0 0⟩, fun s u tier ht hu => softError_memory s tier u ht hu,
    fun s u hu => ⟨softError_cleanLlc s u hu, fun k hk => softError_cleanL2 s u k hu hk⟩, softError_dirtyLine, softError_scratchpad, softError_coreTlb, softError_clusterTlb,
    softError_atomicUnit, softError_holder, fun s c => ⟨softError_tile s c, softError_shadowPlane s c, softError_activePlane s c⟩, fun s u hu ht => ?_⟩
  have hp := fun state => patrolScrub_device s u state hu ht
  refine ⟨⟨_, hp 1, logError_logged s _ _ 0 0⟩, fun hb => ?_, fun hb => ?_, hp 0⟩
  · refine ⟨_, _, hp 2, logError_logged s _ _ 1 0, ?_⟩
    rw [if_neg (by decide), if_pos ⟨rfl, hb⟩]
    exact markBad_device _ u hb ht
  · rw [hp 2, if_neg (by decide), if_neg fun h => h.2 hb]
end

section
/-!
SUPPORT. Accesses of the host and the sideband: their answers, and what stands at home afterwards (R186, R334, R343, R346, R367, R368, R374).
-/

namespace Sys2Proof.Machine
open State Claim

/-! ### Places of this package and the host -/

theorem tierSize_le (s : State) (tier : Nat) : s.tierSize tier ≤ 2 ^ 52 := by
  unfold tierSize region
  split
  · split <;> decide
  · split
    · decide
    · split <;> decide
/-- No byte of a span inside a tier is another package's. -/
theorem span_local (s : State) (p n : Nat) (hp : isRemote p = false) (h : tierAddr p + n ≤ s.tierSize (tierOf p)) : ∀ i < n, isRemote (p + i) = false := by
  intro i hi
  have hs := h.trans (tierSize_le s _)
  have hp : ¬ 2 ^ 58 ≤ p := of_decide_eq_false hp
  unfold tierAddr at hs
  have : ¬ 2 ^ 58 ≤ p + i := by omega
  exact decide_eq_false this

/-- A place inside HBM4E, as BAR 2 names it. -/
theorem hbm_place (s : State) (a n : Nat) (h : a + n ≤ s.tierSize 0) : isRemote a = false ∧ tierOf a = 0 ∧ tierAddr a = a := by
  have hs := h.trans (tierSize_le s 0)
  have : ¬ 2 ^ 58 ≤ a := by omega
  refine ⟨decide_eq_false this, ?_, Nat.mod_eq_of_lt (by omega)⟩
  unfold tierOf
  omega
theorem hbm_local (s : State) (a n : Nat) (h : a + n ≤ s.tierSize 0) : ∀ i < n, isRemote (a + i) = false := by
  obtain ⟨hr, ht, ha⟩ := hbm_place s a n h
  exact span_local s a n hr (by rw [ha, ht]; exact h)

/-- Whether a BAR 2 access of `n` bytes at `off` lies in the BAR and in the tier (R368). -/
def inBar2 (s : State) (off n : Nat) : Prop := off + n ≤ 2 ^ s.link.bar2Log ∧ s.link.bar2Base.toNat + off + n ≤ s.tierSize 0
theorem bar2Place_inside {s : State} {off n : Nat} (h : inBar2 s off n) : bar2Place s off n = some (s.link.bar2Base.toNat + off) := by
  simp only [bar2Place, inBar2] at *
  simp [h, locOf]
theorem bar2Place_outside {s : State} {off n : Nat} (h : ¬ inBar2 s off n) : bar2Place s off n = none := by
  simp only [bar2Place, inBar2] at *
  rw [if_neg (by simpa using h)]

/-! ### Answers -/

theorem foldl_answer (r : Nat → Reply) (ks : List Nat) (s : State) :
    ks.foldl (fun s i => answer s (r i)) s = { s with link := { s.link with reads := s.link.reads ++ ks.map r } } := by
  induction ks generalizing s with
  | nil => simp
  | cons k ks ih => rw [List.foldl_cons, ih]; simp [answer]
/-- Bytes are answered eight to an entry. -/
theorem answerBytes_delivers (s : State) (bs : List Byte) : Delivers s bs (.next (answerBytes s bs)) := by
  unfold Delivers answerBytes
  rw [foldl_answer]
  simp only [ofBytes_eq_number]

/-- Data that cannot be corrected is not delivered: the error is logged and the read aborted (R186, R343). -/
theorem hostLoad_bad (s : State) (p : Loc) (n : Nat) (h : s.badAt p n = true) :
    ∃ q, Logged s q (tierWord p) (memUnit s p) 1 0 ∧ Answers q .abort (.next (hostLoad s p n)) := by
  refine ⟨_, logError_logged s (tierWord p) (memUnit s p) 1 0, ?_⟩
  rw [Answers, hostLoad, if_pos h]
theorem hostLoad_device (s : State) (p : Loc) (n : Nat) (h : s.badAt p n = false) (ht : tierOf p = 0) : Delivers s (s.homeBytes p n) (.next (hostLoad s p n)) := by
  have hb : hostBytes s p n = s.homeBytes p n := by simp [hostBytes, ht]
  rw [hostLoad, h, if_neg Bool.false_ne_true, if_neg (by omega), hb]
  exact answerBytes_delivers s _

theorem mem_cleanLines (s : State) (ps : List Loc) (k : Nat × HostLine) : k ∈ (s.cleanLines ps).link.lines ↔ k ∈ s.link.lines ∧ ∀ p ∈ ps, p / 64 ≠ k.1 := by
  unfold cleanLines
  split
  · rename_i h; simp [h]
  · simp [lineNo]
theorem cleanLines_rest (s : State) (ps : List Loc) : s.cleanLines ps = { s with link := { s.link with lines := (s.cleanLines ps).link.lines } } := by
  unfold cleanLines; split <;> rfl
/-- A read of host memory takes what releases at sy have published, and the lines read are no longer held (R346, R367). -/
theorem hostLoad_host (s : State) (p n : Nat) (h : s.badAt p n = false) (ht : tierOf p = 2) (hl : ∀ i < n, isRemote (p + i) = false) :
    ∃ q, q = { s with link := { s.link with lines := q.link.lines } } ∧ (∀ k ∈ q.link.lines, k ∈ s.link.lines ∧ ∀ i < n, (p + i) / 64 ≠ k.1) ∧
      Delivers q ((List.range n).map fun i => s.sy.read (p + i)) (.next (hostLoad s p n)) := by
  have hb : hostBytes s p n = (List.range n).map fun i => s.sy.read (p + i) := by
    rw [hostBytes, if_pos ht]
    exact List.map_congr_left fun i hi => by simp [imageByte, hl i (List.mem_range.mp hi)]
  refine ⟨s.cleanLines ((List.range n).map fun i => p + i), cleanLines_rest s _, fun k hk => ?_, ?_⟩
  · obtain ⟨h1, h2⟩ := (mem_cleanLines s _ k).mp hk
    exact ⟨h1, fun i hi => h2 (p + i) (List.mem_map.mpr ⟨i, List.mem_range.mpr hi, rfl⟩)⟩
  · rw [hostLoad, h, if_neg Bool.false_ne_true, if_pos ht, hb]
    exact answerBytes_delivers _ _

/-! ### Stores -/

theorem length_lineBytes (n : Nat) (v : BitVec 512) : (lineBytes n v).length = n := by simp [lineBytes]
theorem lineBytes_getD (n : Nat) (v : BitVec 512) (i : Nat) (h : i < n) : ((lineBytes n v).getD i 0).toNat = v.toNat / 256 ^ i % 256 := by
  rw [← toNat_byte v i]
  simp [lineBytes, h]

/-- `n` bytes stood at home from `p` on are those of `v`, where reading them back gives the bytes `bs` and the rest is as it was. -/
theorem storedHome_of_bytes {s t : State} {p n v : Nat} {bs : List Byte} (hn : bs.length = n) (hv : ∀ i < n, (bs.getD i 0).toNat = v / 256 ^ i % 256)
    (h : ∀ q : Nat, t.homeByte q = if p ≤ q ∧ q < p + bs.length then bs.getD (q - p) 0 else s.homeByte q) : StoredHome s t p n v := by
  subst hn
  refine ⟨fun i hi => ?_, fun q hq => ?_⟩
  · rw [h, if_pos ⟨by omega, by omega⟩, Nat.add_sub_cancel_left]
    exact hv i hi
  · rw [h, if_neg (by omega)]

theorem hostStore_stored (s : State) (p n : Nat) (v : BitVec 512) (hl : ∀ i < n, isRemote (p + i) = false) : StoredHome s (hostStore s p (lineBytes n v)) p n v.toNat :=
  storedHome_of_bytes (length_lineBytes n v) (lineBytes_getD n v) fun q => homeByte_homeWrite s p (lineBytes n v) (by rwa [length_lineBytes]) q
theorem hostStore_subs (s : State) (p : Loc) (bs : List Byte) : (hostStore s p bs).subs = s.subs := (homeWrite_home s p bs).subs

/-! ### AtomicOps (R149, R334) -/

/-- The digits below digit `n` of a number are those of the number cut to `n` digits. -/
theorem digit_mod_pow (V n i : Nat) (h : i < n) : V % 256 ^ n / 256 ^ i % 256 = V / 256 ^ i % 256 := by
  have hd : (256 : Nat) ∣ 256 ^ (n - i) := dvd_pow_self 256 (by omega)
  rw [← pow_mul_pow_sub 256 h.le, Nat.mod_mul_right_div_self, Nat.mod_mod_of_dvd _ hd]
theorem bytesOf_getD (n : Nat) (x : Dword) (i : Nat) (h : i < n) : ((bytesOf n x).getD i 0).toNat = x.toNat % 256 ^ n / 256 ^ i % 256 := by
  rw [digit_mod_pow _ _ _ h, ← toNat_byte x i]
  simp [bytesOf, h]

/-- An operand of an AtomicOp, cut to the width of the access. -/
def cutTo (wide : Bool) (v : Dword) : Dword := if wide then v else (loOf v).setWidth 64
/-- The bytes of an AtomicOp. -/
def atomicSize (wide : Bool) : Nat := if wide then 8 else 4
theorem toNat_cutTo (wide : Bool) (v : Dword) : (cutTo wide v).toNat = v.toNat % 256 ^ atomicSize wide := by
  have hv : v.toNat < 2 ^ 64 := v.isLt
  cases wide
  · simp only [cutTo, atomicSize, Bool.false_eq_true, if_false, loOf, BitVec.toNat_setWidth]; omega
  · simp only [cutTo, atomicSize, if_true]; omega
/-- What an AtomicOp stores, as a number of the width of the access. -/
theorem toNat_atomicValue (wide : Bool) (op : BitVec 2) (old : Nat) (x y : Dword) (ho : old < 256 ^ atomicSize wide) :
    (atomicValue op (BitVec.ofNat 64 old) (cutTo wide x) (cutTo wide y)).toNat % 256 ^ atomicSize wide =
      if op = 0 then (old + x.toNat) % 256 ^ atomicSize wide else if op = 1 then x.toNat % 256 ^ atomicSize wide
      else if old = x.toNat % 256 ^ atomicSize wide then y.toNat % 256 ^ atomicSize wide else old := by
  have hd : 256 ^ atomicSize wide ∣ 2 ^ 64 := by cases wide <;> decide
  have ho64 : old < 2 ^ 64 := ho.trans_le (Nat.le_of_dvd (by decide) hd)
  have hold : (BitVec.ofNat 64 old).toNat = old := by rw [BitVec.toNat_ofNat, Nat.mod_eq_of_lt ho64]
  have heq : BitVec.ofNat 64 old = cutTo wide x ↔ old = x.toNat % 256 ^ atomicSize wide := by rw [← BitVec.toNat_inj, hold, toNat_cutTo]
  unfold atomicValue
  split
  · rw [BitVec.toNat_add, hold, toNat_cutTo, Nat.mod_mod_of_dvd _ hd, Nat.add_mod_mod]
  · split
    · rw [toNat_cutTo, Nat.mod_mod]
    · rw [if_congr heq rfl rfl]
      split
      · rw [toNat_cutTo, Nat.mod_mod]
      · rw [hold, Nat.mod_eq_of_lt ho]

theorem homeRead_eq (s : State) (p : Loc) (n : Nat) : s.homeRead p n = BitVec.ofNat 64 (homeNumber s p n) := ofBytes_eq_number _
theorem homeNumber_lt (s : State) (p : Loc) (n : Nat) : homeNumber s p n < 256 ^ n := by
  have h := number_lt ((List.range n).map fun i => s.homeByte (p + i))
  rwa [List.length_map, List.length_range] at h

/-- The machine after an AtomicOp at place `a`, which its old value has answered. -/
def afterAtomicop (s : State) (a : Nat) (wide : Bool) (op : BitVec 2) (x y : Dword) : State :=
  let old := s.homeRead a (atomicSize wide)
  let r := homeAtomic s a (bytesOf (atomicSize wide) (atomicValue op old (cutTo wide x) (cutTo wide y)))
  (answer r (.data old)).post ((wokenBy r a).map .queueWake)

section
variable {s : State} {off : Nat} {wide : Bool} {op : BitVec 2} (x y : Dword) (hup : hostUp s = true) (hop : op ≠ 3) (hal : off % atomicSize wide = 0)
include hup hop hal

theorem hostAtomicop_outside (h : ¬ inBar2 s off (atomicSize wide)) : exec (.hostAtomicop off wide op x y) s = .next (answer s .unsupported) := by
  have hg : (!hostUp s || op == 3 || off % atomicSize wide != 0) = false := by rw [hup, hal, beq_false_of_ne hop]; rfl
  have hp := bar2Place_outside h
  unfold atomicSize at hg hp
  show execHostAtomicop off wide op x y s = _
  simp only [execHostAtomicop, hg, hp, Bool.false_eq_true, if_false]

theorem hostAtomicop_inside (h : inBar2 s off (atomicSize wide)) : let a := s.link.bar2Base.toNat + off
    exec (.hostAtomicop off wide op x y) s = .next (if s.badAt (a / 128 * 128) 128 then answer (logError s (tierWord a) (memUnit s a) 1 0) .abort
      else afterAtomicop s a wide op x y) := by
  intro a
  have hg : (!hostUp s || op == 3 || off % atomicSize wide != 0) = false := by rw [hup, hal, beq_false_of_ne hop]; rfl
  have hp := bar2Place_inside h
  unfold atomicSize at hg hp
  show execHostAtomicop off wide op x y s = _
  simp only [execHostAtomicop, hg, hp, Bool.false_eq_true, if_false]
  rw [apply_ite Host.Outcome.next]
  rfl
end

theorem homeByte_answered (s : State) (r : Reply) (es : List Event) (q : Loc) : ((answer s r).post es).homeByte q = s.homeByte q := rfl
/-- The old value answers an AtomicOp, and the new one stands at home. -/
theorem afterAtomicop_stored (s : State) (a : Nat) (wide : Bool) (op : BitVec 2) (x y : Dword) (hin : a + atomicSize wide ≤ s.tierSize 0) :
    let n := atomicSize wide
    let old := homeNumber s a n
    let t := afterAtomicop s a wide op x y
    t.link.reads = s.link.reads ++ [.data (BitVec.ofNat 64 old)] ∧
      StoredHome s t a n ((atomicValue op (BitVec.ofNat 64 old) (cutTo wide x) (cutTo wide y)).toNat % 256 ^ n) := by
  intro n old t
  have hold : s.homeRead a n = BitVec.ofNat 64 old := homeRead_eq s a n
  let bs := bytesOf n (atomicValue op (s.homeRead a n) (cutTo wide x) (cutTo wide y))
  have hlen : bs.length = n := length_bytesOf _ _
  have hbytes : ∀ q : Nat, t.homeByte q = if a ≤ q ∧ q < a + bs.length then bs.getD (q - a) 0 else s.homeByte q := fun q =>
    (homeByte_answered _ _ _ q).trans (homeByte_homeAtomic s a bs (by rw [hlen]; exact hbm_local s a n hin) q)
  rw [← hold]
  exact ⟨congrArg (· ++ _) (homeAtomic_reads s a bs), storedHome_of_bytes hlen (fun i hi => bytesOf_getD n _ i hi) hbytes⟩

/-! ### BAR 2 and CXL.mem (R367, R368) -/

theorem bar2Read_outside {s : State} {off n : Nat} (hup : hostUp s = true) (h : ¬ inBar2 s off n) : exec (.bar2Read off n) s = .next (answer s .unsupported) := by
  show execBar2Read off n s = _
  rw [execBar2Read, hup, bar2Place_outside h]
  rfl
theorem bar2Read_inside {s : State} {off n : Nat} (hup : hostUp s = true) (h : inBar2 s off n) :
    exec (.bar2Read off n) s = .next (hostLoad s (s.link.bar2Base.toNat + off) n) := by
  show execBar2Read off n s = _
  rw [execBar2Read, hup, bar2Place_inside h]
  rfl
theorem bar2Write_outside {s : State} {off n : Nat} (v : BitVec 512) (hup : hostUp s = true) (h : ¬ inBar2 s off n) : exec (.bar2Write off n v) s = .next s := by
  show execBar2Write off n v s = _
  rw [execBar2Write, hup, bar2Place_outside h]
  rfl
theorem bar2Write_inside {s : State} {off n : Nat} (v : BitVec 512) (hup : hostUp s = true) (h : inBar2 s off n) :
    exec (.bar2Write off n v) s = .next (hostStore s (s.link.bar2Base.toNat + off) (lineBytes n v)) := by
  show execBar2Write off n v s = _
  rw [execBar2Write, hup, bar2Place_inside h]
  rfl
theorem resizableBarResize_legal {s : State} {n : Nat} (hup : hostUp s = true) (h : 30 ≤ n ∧ n ≤ 40) :
    exec (.resizableBarResize n) s = .next { s with link := { s.link with bar2Log := n } } := by
  show execResizableBarResize n s = _
  simp [execResizableBarResize, hup, h, setLink]
theorem resizableBarResize_illegal {s : State} {n : Nat} (h : n < 30 ∨ 40 < n) : exec (.resizableBarResize n) s = .next s := by
  have hn : ¬ (30 ≤ n ∧ n ≤ 40) := by omega
  show execResizableBarResize n s = _
  rw [execResizableBarResize, if_neg (by simpa [and_assoc] using fun _ => by simpa using hn)]

theorem cxlMemRequest_tiers {s : State} {p : Loc} (w : Bool) (n : Nat) (v : BitVec 512) (hup : hostUp s = true) (hp : isRemote p = false) (ht : tierOf p = 0 ∨ tierOf p = 2) :
    exec (.cxlMemRequest w p n v) s = .next (
      if s.tierSize (tierOf p) < tierAddr p + n then (if w then s else answer s .unsupported)
      else if w then hostStore s p (lineBytes n v) else hostLoad s p n) := by
  have hg : (!hostUp s || isRemote p || tierOf p != 0 && tierOf p != 2) = false := by
    rw [hup, hp]
    rcases ht with h | h <;> rw [h] <;> rfl
  show execCxlMemRequest w p n v s = _
  unfold execCxlMemRequest
  extract_lets
  rw [hg, if_neg Bool.false_ne_true]
  split
  · rfl
  · split <;> rfl

/-! ### The sideband (R362, R374) -/

/-- The journal place that is found to be bad is one that a byte of the window shows. -/
theorem journalBad_some {s : State} {offs : List Nat} {p : Loc} (h : journalBad s offs = some p) : s.badAt p 1 = true ∧ s.fe.jset = true ∧ ∃ off ∈ offs,
    (2 ^ 24 ≤ off ∧ p = journalLoc s ((off - 2 ^ 24) / 64) + (off - 2 ^ 24) % 64) ∨
    (0x3040 ≤ off ∧ off < 0x3080 ∧ p = journalLoc s s.fe.jridx.toNat + (off - 0x3040)) := by
  unfold journalBad at h
  split at h
  · cases h
  · obtain ⟨off, hoff, hp⟩ := List.mem_filterMap.mp (List.mem_of_find?_eq_some h)
    have hbad := List.find?_some h
    unfold journalPlace at hp
    split at hp
    · cases hp
    · rename_i hj
      refine ⟨hbad, by simpa using hj, off, hoff, ?_⟩
      split at hp
      · rename_i h24
        exact .inl ⟨h24, (Option.some.inj hp).symm⟩
      · split at hp
        · rename_i hport
          obtain ⟨h1, h2⟩ : 0x3040 ≤ off ∧ off < 0x3080 := by simpa using hport
          exact .inr ⟨h1, h2, (Option.some.inj hp).symm⟩
        · cases hp

theorem mem_markSeen (s : State) (offs : List Nat) (k : Nat) :
    k ∈ (markSeen s offs).errSeen ↔ k ∈ s.errSeen ∨ ∃ o ∈ offs, 0x8000 ≤ o ∧ o < 0xa000 ∧ k = (o - 0x8000) / 32 := by
  have hseen : k ∈ ((offs.filter fun o => decide (0x8000 ≤ o) && decide (o < 0xa000)).map fun o => (o - 0x8000) / 32) ↔
      ∃ o ∈ offs, 0x8000 ≤ o ∧ o < 0xa000 ∧ k = (o - 0x8000) / 32 := by
    simp only [List.mem_map, List.mem_filter, Bool.and_eq_true, decide_eq_true_eq]
    exact ⟨fun ⟨o, ⟨h1, h2, h3⟩, h4⟩ => ⟨o, h1, h2, h3, h4.symm⟩, fun ⟨o, h1, h2, h3, h4⟩ => ⟨o, ⟨h1, h2, h3⟩, h4.symm⟩⟩
  unfold markSeen
  extract_lets seen
  rw [← hseen, List.mem_append, List.mem_filter, List.mem_eraseDups]
  show _ ∨ (k ∈ seen ∧ (!s.errSeen.contains k) = true) ↔ _
  by_cases hk : k ∈ s.errSeen
  · simp [hk]
  · simp [hk, seen]

section
variable {s : State} {off n : Nat}

theorem sidebandRead_refused (h : ∃ i < n, sideReadable s (off + i) = false ∧ off + i < 2 ^ 24) : exec (.sidebandRead off n) s = .next (answer s .error) := by
  obtain ⟨i, hi, hr, hlt⟩ := h
  have hall : (((List.range n).map fun i => off + i).all fun o => sideReadable s o || decide (2 ^ 24 ≤ o)) = false := by
    rw [List.all_eq_false]
    refine ⟨off + i, List.mem_map.mpr ⟨i, List.mem_range.mpr hi, rfl⟩, ?_⟩
    rw [hr, decide_eq_false (by omega)]
    decide
  show execSidebandRead off n s = _
  unfold execSidebandRead
  extract_lets offs
  rw [hall]
  rfl

theorem all_readable (h : ∀ i < n, sideReadable s (off + i) = true ∨ 2 ^ 24 ≤ off + i) :
    (((List.range n).map fun i => off + i).all fun o => sideReadable s o || decide (2 ^ 24 ≤ o)) = true := by
  rw [List.all_eq_true]
  intro o ho
  obtain ⟨i, hi, rfl⟩ := List.mem_map.mp ho
  rw [Bool.or_eq_true, decide_eq_true_eq]
  exact h i (List.mem_range.mp hi)

theorem sidebandRead_bad (h : ∀ i < n, sideReadable s (off + i) = true ∨ 2 ^ 24 ≤ off + i) {p : Loc} (hj : journalBad s ((List.range n).map fun i => off + i) = some p) :
    exec (.sidebandRead off n) s = .next (answer (logError s (tierWord p) (memUnit s p) 1 0) .error) := by
  show execSidebandRead off n s = _
  unfold execSidebandRead
  extract_lets offs
  rw [all_readable h, hj]
  rfl

theorem sidebandRead_good (h : ∀ i < n, sideReadable s (off + i) = true ∨ 2 ^ 24 ≤ off + i) (hj : journalBad s ((List.range n).map fun i => off + i) = none) :
    let offs := (List.range n).map fun i => off + i
    exec (.sidebandRead off n) s = .next (markSeen (answerBytes s (offs.map (sideByte s))) offs) := by
  show execSidebandRead off n s = _
  unfold execSidebandRead
  extract_lets offs
  rw [all_readable h, hj]
  rfl

theorem sidebandRead_data (h : ∀ i < n, sideReadable s (off + i) = true ∨ 2 ^ 24 ≤ off + i) (hj : journalBad s ((List.range n).map fun i => off + i) = none) :
    ∃ q, q = { s with errSeen := q.errSeen } ∧
      (∀ k, k ∈ q.errSeen ↔ k ∈ s.errSeen ∨ ∃ i < n, 0x8000 ≤ off + i ∧ off + i < 0xa000 ∧ k = (off + i - 0x8000) / 32) ∧
      Delivers q ((List.range n).map fun i => sideByte s (off + i)) (exec (.sidebandRead off n) s) := by
  let offs := (List.range n).map fun i => off + i
  refine ⟨markSeen s offs, rfl, fun k => ?_, ?_⟩
  · rw [mem_markSeen]
    simp [offs]
  · have hd := answerBytes_delivers s (offs.map (sideByte s))
    rw [Delivers] at hd
    rw [sidebandRead_good h hj, Delivers]
    rw [List.map_map] at hd ⊢
    rw [Host.Outcome.next.inj hd]
    rfl
end

/-! ### Registers as they read (R3, R370) -/

theorem windowWord_idGrade (s : State) : windowWord s 0x10 = BitVec.ofNat 32 ((if s.g9140 then 0x91403880 else 0x920040c0) + s.stepping.toNat) := by
  have h : windowWord s 0x10 = BitVec.ofNat 32 (idGrade s) := rfl
  have hg : idGrade s = (if s.g9140 then 0x91403880 else 0x920040c0) + s.stepping.toNat := by
    unfold idGrade partOf nClusters perDie
    cases s.g9140 <;> rfl
  rw [h, hg]
theorem windowWord_devStat (s : State) : windowWord s 0x100 = BitVec.ofNat 32 ((if s.link.bringUp = .ready then 1 else 0) + 2 ^ 4 * s.link.qfail.toNat + 2 ^ 5 * s.link.flr.toNat +
    2 ^ 6 * s.link.linkState.toNat + 2 ^ 8 * s.link.therm.toNat) := by
  have h : windowWord s 0x100 = devStat s := rfl
  have hbit : ∀ (b : Bool) (k : Nat), (if b then k else 0) = k * b.toNat := fun b k => by cases b <;> simp
  rw [h, devStat, hbit, hbit, Nat.mul_comm s.link.linkState.toNat, Nat.mul_comm s.link.therm.toNat]

end Sys2Proof.Machine
end

section
open Sys2Proof Machine Claim
/-- Settles O22: accesses through BAR 2 and CXL.mem by the loads, stores and AtomicOps at home to which they come; the sideband by whether its bytes are readable. -/
theorem hostAccessesReachTheHomeOfTheirLine : Obligations.HostAccessesReachTheHomeOfTheirLine := by
  unfold Obligations.HostAccessesReachTheHomeOfTheirLine
  intro s
  refine ⟨fun hup off n => ?_, fun off n h => ⟨fun p hj => ?_, sidebandRead_data h⟩, fun offs p => journalBad_some, fun off n h => sidebandRead_refused h,
    windowWord_idGrade s, windowWord_devStat s⟩
  · intro a inside
    refine ⟨fun ho => ⟨bar2Read_outside hup ho, fun v => bar2Write_outside v hup ho⟩, fun hin => ⟨fun hb => ?_, fun hb => ?_⟩, fun hin _ v => ?_, fun wide hn hal op x y hop => ?_,
      fun h1 h2 => resizableBarResize_legal hup ⟨h1, h2⟩, resizableBarResize_illegal, fun p hp ht => ⟨fun hout v => ⟨?_, ?_⟩, fun hin v => ?_⟩⟩
    · rw [bar2Read_inside hup hin]
      exact hostLoad_device s a n hb (hbm_place s a n hin.2).2.1
    · rw [bar2Read_inside hup hin]
      exact hostLoad_bad s a n hb
    · exact ⟨_, bar2Write_inside v hup hin, hostStore_stored s a n v (hbm_local s a n hin.2), hostStore_subs s a _⟩
    · obtain rfl : n = atomicSize wide := hn
      refine ⟨hostAtomicop_outside x y hup hop hal, fun hin hb => ?_, fun hin hb => ?_⟩
      · rw [hostAtomicop_inside x y hup hop hal hin, if_pos hb]
        exact ⟨_, logError_logged s (tierWord a) (memUnit s a) 1 0, rfl⟩
      · obtain ⟨hreads, hstored⟩ := afterAtomicop_stored s a wide op x y hin.2
        have hpow : 2 ^ (8 * atomicSize wide) = 256 ^ atomicSize wide := Nat.pow_mul 2 8 _
        rw [toNat_atomicValue wide op _ x y (homeNumber_lt s a _)] at hstored
        rw [hostAtomicop_inside x y hup hop hal hin, if_neg (by rw [hb]; exact Bool.false_ne_true), hpow]
        exact ⟨_, rfl, hreads, hstored⟩
    · rw [cxlMemRequest_tiers false n v hup hp ht, if_pos hout]
      rfl
    · rw [cxlMemRequest_tiers true n v hup hp ht, if_pos hout]
      rfl
    · have hl := span_local s p n hp hin
      have hx := fun w => cxlMemRequest_tiers w n v hup hp ht
      simp only [if_neg (Nat.not_lt.mpr hin)] at hx
      refine ⟨fun hb h0 => ?_, fun hb h2 => ?_, fun hb => ?_, fun _ => ⟨_, hx true, hostStore_stored s p n v hl⟩⟩
      · rw [hx false]; exact hostLoad_device s p n hb h0
      · rw [hx false]; exact hostLoad_host s p n hb h2 hl
      · rw [hx false]; exact hostLoad_bad s p n hb
  · rw [sidebandRead_bad h hj]
    exact ⟨_, logError_logged s (tierWord p) (memUnit s p) 1 0, rfl⟩
end

/-- Settles O29: each written word decodes by computation, one word at a time. -/
theorem writtenWordsDecode : Obligations.WrittenWordsDecode := by
  unfold Obligations.WrittenWordsDecode
  repeat' apply And.intro
  all_goals rfl

section
/-!
SUPPORT. Two estates under one key and tag: the claims of a birth meet them one after the other, since MOVE takes away the first (R192). A restore can leave such a pair, as
`estatesFrom` compares the numbers of the estates alone.
-/

namespace Sys2Proof.Machine
open Claim

/-- An inheritance entry under which every thread claims key 0 (R191). -/
def sharedClaim : Inherit := { tag := 0, dst := 0, count := 1, affine := true, m := [0, 0, 0], o := [0, 0, 0], ext := [1, 1, 1] }
/-- An eligible estate under key 0. -/
def rival (seq : Dword) (place : Place) : Estate := { ctx := 1, region := 0, key := 0, tag := 0, seq := seq, regs := [0], launch := 0, eligible := true, place := place }
/-- A workgroup of two threads, about to be born, whose context has no page table. The first of two rivals stands in the stitch holder, and the second in a backing store that
cannot be reached. -/
def contested : State := { State.reset with
  cores := [(0, { ctx := some 1 })]
  wgs := [(1, { ctx := 1, launch := 7, born := false })]
  subs := [(2, { wg := 1, index := 0, core := 0, row := 0, slot := 0 })]
  fe := {
    launches := [(7, { ctx := 1, regions := [0], lpb := { wx := 2, inherit := [sharedClaim] } })]
    estates := [rival 0 (.holder 0), rival 1 (.store 0)] } }

theorem contested_birthMay : birthMay contested 1 = true := by decide +kernel
theorem contested_room (k : Nat) : HolderRoom contested k [] := by
  refine ⟨by decide, ?_⟩
  by_cases h : k = 0
  · subst h; decide
  · have hk : holderBytes contested k = 0 := by simp [holderBytes, contested, rival, Ne.symm h]
    simp [hk]
/-- What the threads claim in the state before the birth is the first rival alone. -/
theorem contested_claims : claimsAll contested (contested.launch (contested.wg 1).launch) (contested.wg 1).id.toNat = [rival 0 (.holder 0)] := by decide +kernel
/-- The first thread takes the rival of the stitch holder; the claim of the second meets the other, whose record faults with XLAT, and the launch ends with its domain. -/
theorem contested_birth : ∃ t, exec (.workgroupBirth 1) contested = .next t ∧ (t.launch 7).started = false := by
  refine ⟨_, rfl, ?_⟩
  decide +kernel

end Sys2Proof.Machine
end

section
open Sys2Proof Machine Claim
/-- Refutes O14: its premise on records of the backing store names the estates that the claims meet before the birth. Where two eligible estates have one key and tag, a MOVE
takes the first and a later claim meets the second; if its record faults with another cause than 5, the launch ends and has not started. -/
theorem not_birthGivesR37StateAndInheritance : ¬ Obligations.BirthGivesR37StateAndInheritance := by
  unfold Obligations.BirthGivesR37StateAndInheritance
  rintro ⟨h, -⟩
  have stored : ∀ e ∈ claimsAll contested (contested.launch (contested.wg 1).launch) (contested.wg 1).id.toNat, ∀ off, e.place ≠ .store off := by
    rw [contested_claims]
    simp [rival]
  obtain ⟨t, ht, -, hs, -⟩ := h contested 1 contested_birthMay (.inr ⟨by decide +kernel, contested_room, fun e he off f hp => absurd hp (stored e he off)⟩)
  obtain ⟨u, hu, hn⟩ := contested_birth
  obtain rfl : t = u := Host.Outcome.next.inj (ht.symm.trans hu)
  have hs : (t.launch 7).started = true := hs
  rw [hn] at hs
  cases hs
end

section
/-!
SUPPORT. How an entry starts and ends (R348, R362): what it changes beside its record, and the record in its journal slot.
-/

namespace Sys2Proof.Machine
open State Claim

namespace State

/-- What the record of an entry may change: the list of entries, and memory, to which its journal slot is written. -/
def SameButEntries (s t : State) : Prop :=
  t = { s with pk := t.pk, sy := t.sy, stamp := t.stamp, bad := t.bad, written := t.written, link := { s.link with lines := t.link.lines }
               fe := { s.fe with entries := t.fe.entries } }

theorem SameButEntries.refl (s : State) : SameButEntries s s := rfl
theorem SameButEntries.trans {s t u : State} (h : SameButEntries s t) (g : SameButEntries t u) : SameButEntries s u := by
  unfold SameButEntries at *
  rw [g, h]
theorem SameButHome.entries {s t : State} (h : SameButHome s t) : SameButEntries s t := by
  unfold SameButHome at h
  unfold SameButEntries
  rw [h]
theorem SameButEntries.fe {s t : State} (h : SameButEntries s t) : t.fe = { s.fe with entries := t.fe.entries } := by
  unfold SameButEntries at h
  rw [h]
theorem SameButEntries.etime {s t : State} (h : SameButEntries s t) : t.etime = s.etime := by rw [h]; rfl

theorem modEntry_entries (s : State) (seq : Nat) (f : Entry → Entry) : SameButEntries s (s.modEntry seq f) := rfl

end State

/-! ### The journal slot -/

theorem journalLoc_eq {s t : State} (h : SameButEntries s t) (seq : Nat) : journalLoc t seq = journalLoc s seq := by
  unfold journalLoc
  rw [h.fe]
/-- The slot lies in this package or the host, whatever JBASE and JLOG hold. -/
theorem journalLoc_local (s : State) (seq : Nat) : ∀ i : Nat, i < 64 → isRemote (journalLoc s seq + i) = false := by
  intro i hi
  have hn : (s.fe.jlog.setWidth 5).toNat ≤ 31 := by have := (s.fe.jlog.setWidth 5).isLt; omega
  have hs : seq % 2 ^ (s.fe.jlog.setWidth 5).toNat < 2 ^ 31 := lt_of_lt_of_le (Nat.mod_lt _ (by positivity)) (Nat.pow_le_pow_right (by omega) hn)
  have ht : (s.fe.jbase >>> 62).toNat < 4 := by
    rw [BitVec.toNat_ushiftRight, Nat.shiftRight_eq_div_pow]
    have := s.fe.jbase.isLt
    omega
  have ha : (s.fe.jbase.setWidth 52).toNat < 2 ^ 52 := (s.fe.jbase.setWidth 52).isLt
  rw [isRemote, decide_eq_false_iff_not]
  intro h
  have h : (s.fe.jbase >>> 62).toNat * 2 ^ 56 + (s.fe.jbase.setWidth 52).toNat + 64 * (seq % 2 ^ (s.fe.jlog.setWidth 5).toNat) + i ≥ 2 ^ 58 := h
  generalize seq % 2 ^ (s.fe.jlog.setWidth 5).toNat = m at hs h
  omega
theorem length_journalBytes (seq : Nat) (e : Entry) (st : BitVec 8) (tend fpc : Dword) (cause : BitVec 8) (status : Nat) :
    (journalBytes seq e st tend fpc cause status).length = 64 := rfl

theorem journal_home (s : State) (seq : Nat) (e : Entry) (st : BitVec 8) (tend fpc : Dword) (cause : BitVec 8) (status : Nat) :
    SameButHome s (journal s seq e st tend fpc cause status) := by
  unfold journal
  split
  · exact homeWrite_home s _ _
  · exact .refl s
/-- With a ring, the record of an entry stands in its slot; every other byte stays. -/
theorem homeByte_journal {s : State} (hj : s.fe.jset = true) (seq : Nat) (e : Entry) (st : BitVec 8) (tend fpc : Dword) (cause : BitVec 8) (status : Nat) (q : Nat) :
    (journal s seq e st tend fpc cause status).homeByte q =
      if journalLoc s seq ≤ q ∧ q < journalLoc s seq + 64 then (journalBytes seq e st tend fpc cause status).getD (q - journalLoc s seq) 0 else s.homeByte q := by
  unfold journal
  rw [if_pos hj, homeByte_homeWrite]
  · rw [length_journalBytes]
  · rw [length_journalBytes]
    exact journalLoc_local s seq
/-- A span apart from the slot keeps its bytes. -/
theorem homeByte_journal_apart {s : State} {seq p n : Nat} (h : Apart s seq p n) (e : Entry) (st : BitVec 8) (tend fpc : Dword) (cause : BitVec 8) (status : Nat) {i : Nat}
    (hi : i < n) : (journal s seq e st tend fpc cause status).homeByte (p + i) = s.homeByte (p + i) := by
  cases hj : s.fe.jset with
  | false => unfold journal; rw [hj]; rfl
  | true =>
    rw [homeByte_journal hj, if_neg]
    rintro ⟨h1, h2⟩
    have h1 : p + i ≥ journalLoc s seq := h1
    rcases h with h | h | h
    · rw [hj] at h; cases h
    · omega
    · have h : p ≥ journalLoc s seq + 64 := h
      omega

/-! ### Entries that end -/

theorem closeEntry_entries (s : State) (seq : Nat) (e : Entry) (st : BitVec 8) (status : Nat) (cause : BitVec 8) (fpc : Dword) :
    SameButEntries s (closeEntry s seq e st status cause fpc) := by
  have h := (journal_home s seq e st s.etime fpc cause status).entries
  exact h.trans (by rfl)
theorem find?_closeEntry (s : State) (seq : Nat) (e : Entry) (st : BitVec 8) (status : Nat) (cause : BitVec 8) (fpc : Dword) (k : Nat) :
    (closeEntry s seq e st status cause fpc).fe.entries.find? k = if k = seq then none else s.fe.entries.find? k := by
  show (Tbl.del (journal s seq e st s.etime fpc cause status).fe.entries seq).find? k = _
  rw [Tbl.find?_del, (journal_home s seq e st s.etime fpc cause status).fe]
/-- An entry that is closed has its record in its slot, and every span apart from that keeps its bytes. -/
theorem closeEntry_ended (s : State) (seq : Nat) (e : Entry) (st : BitVec 8) (status : Nat) (cause : BitVec 8) (fpc : Dword) :
    Ended s (closeEntry s seq e st status cause fpc) seq e st status cause fpc := by
  refine ⟨by rw [find?_closeEntry, if_pos rfl], fun hj i hi => ?_⟩
  show (journal s seq e st s.etime fpc cause status).homeByte (journalLoc s seq + i) = _
  rw [homeByte_journal hj, if_pos ⟨Nat.le_add_right _ _, Nat.add_lt_add_left hi _⟩, Nat.add_sub_cancel_left]

theorem finishEntry_entries (s : State) (seq : Nat) (st : BitVec 8) (status : Nat) (cause : BitVec 8) (fpc : Dword) :
    SameButEntries s (finishEntry s seq st status cause fpc) := by
  unfold finishEntry
  split
  · exact .refl s
  · rename_i e _
    extract_lets r
    have hr : SameButEntries s r := closeEntry_entries s seq e st status cause fpc
    split
    · exact hr
    · rename_i q _
      extract_lets m
      have hm : SameButEntries s m := hr.trans (modEntry_entries r q _)
      split
      · exact hm
      · split
        · exact hm.trans (closeEntry_entries m q _ _ _ _ _)
        · exact hm
/-- An entry that has ended is listed no more. -/
theorem finishEntry_gone (s : State) (seq : Nat) (st : BitVec 8) (status : Nat) (cause : BitVec 8) (fpc : Dword) :
    (finishEntry s seq st status cause fpc).fe.entries.find? seq = none := by
  unfold finishEntry
  split
  · assumption
  · rename_i e _
    extract_lets r
    have hr : r.fe.entries.find? seq = none := by unfold r; rw [find?_closeEntry, if_pos rfl]
    split
    · exact hr
    · rename_i q _
      extract_lets m
      have hm : m.fe.entries.find? seq = none := by
        show (r.fe.entries.modify q _).find? seq = none
        rw [Tbl.find?_modify, hr]
        simp
      split
      · exact hm
      · split
        · rw [find?_closeEntry, hm]; simp
        · exact hm
theorem finishEntry_eq {s : State} {seq : Nat} {e : Entry} (h : s.fe.entries.find? seq = some e) (hg : e.graph = none) (st : BitVec 8) (status : Nat) (cause : BitVec 8)
    (fpc : Dword) : finishEntry s seq st status cause fpc = closeEntry s seq e st status cause fpc := by
  unfold finishEntry
  rw [h]
  dsimp only
  rw [hg]

/-! ### Entries that start -/

theorem startEntry_eq {s : State} {seq : Nat} {e : Entry} (h : s.fe.entries.find? seq = some e) (he : e.state = 1) :
    startEntry s seq = journal (s.modEntry seq fun _ => started s e) seq (started s e) 2 0 0 0 0 := by
  unfold startEntry
  rw [h]
  dsimp only
  rw [he]
  rfl
theorem startEntry_entries (s : State) (seq : Nat) : SameButEntries s (startEntry s seq) := by
  unfold startEntry
  split
  · exact .refl s
  · split
    · exact .refl s
    · exact (modEntry_entries s seq _).trans (journal_home _ _ _ _ _ _ _ _).entries

theorem startEntry_find? {s : State} {seq : Nat} {e : Entry} (h : s.fe.entries.find? seq = some e) (he : e.state = 1) :
    (startEntry s seq).fe.entries.find? seq = some (started s e) := by
  rw [startEntry_eq h he, (journal_home _ _ _ _ _ _ _ _).fe]
  show (s.fe.entries.modify seq _).find? seq = _
  rw [Tbl.find?_modify, if_pos rfl, h]
  rfl

/-- The end of an entry of a state that differs in nothing the record of an entry speaks of. -/
theorem ended_of_same {s u t : State} {seq : Nat} {e : Entry} {st : BitVec 8} {status : Nat} {cause : BitVec 8} {fpc : Dword} (hj : u.fe.jset = s.fe.jset)
    (hl : journalLoc u seq = journalLoc s seq) (ht : u.etime = s.etime) (h : Ended u t seq e st status cause fpc) : Ended s t seq e st status cause fpc := by
  obtain ⟨gone, record⟩ := h
  rw [hj, hl, ht] at record
  exact ⟨gone, record⟩
/-- An accepted entry, not of a graph, that starts and completes at once. -/
theorem completed_ended {s : State} {seq : Nat} {e : Entry} (h : s.fe.entries.find? seq = some e) (he : e.state = 1) (hg : e.graph = none) :
    Ended s (finishEntry (startEntry s seq) seq 3 0 0 0) seq (started s e) 3 0 0 0 := by
  have hs := startEntry_entries s seq
  rw [finishEntry_eq (startEntry_find? h he) hg]
  exact ended_of_same (by rw [hs.fe]) (journalLoc_eq hs seq) hs.etime (closeEntry_ended _ seq _ 3 0 0 0)
theorem completed_entries (s : State) (seq : Nat) : SameButEntries s (finishEntry (startEntry s seq) seq 3 0 0 0) :=
  (startEntry_entries s seq).trans (finishEntry_entries _ seq 3 0 0 0)
theorem completed_apart {s : State} {seq : Nat} {e : Entry} (h : s.fe.entries.find? seq = some e) (he : e.state = 1) (hg : e.graph = none) {p n : Nat} (ha : Apart s seq p n)
    {i : Nat} (hi : i < n) : (finishEntry (startEntry s seq) seq 3 0 0 0).homeByte (p + i) = s.homeByte (p + i) := by
  have hs := startEntry_entries s seq
  have ha' : Apart (startEntry s seq) seq p n := by
    unfold Apart
    rw [journalLoc_eq hs seq, hs.fe]
    exact ha
  rw [finishEntry_eq (startEntry_find? h he) hg]
  show (journal _ seq _ 3 _ 0 0 0).homeByte (p + i) = _
  rw [homeByte_journal_apart ha' _ _ _ _ _ _ hi, startEntry_eq h he]
  exact homeByte_journal_apart (s := s.modEntry seq fun _ => started s e) ha _ _ _ _ _ _ hi

end Sys2Proof.Machine
end

section
/-!
SUPPORT. REGION_UPDATE, plain and with CREATE (R13, R356, R358, R381): how an entry is refused, what an update that completes leaves, and what stands at the place of the RCB.
-/

namespace Sys2Proof.Machine
open State Claim

/-! ### Refused and completed entries -/

theorem starts_listed {s : State} {seq : Nat} {op : BitVec 8} {e : Entry} (h : Starts s seq op e) : s.fe.entries.find? seq = some e ∧ e.state = 1 ∧ e.graph = none := by
  obtain ⟨hf, _, hg, hs⟩ := h
  exact ⟨hf, by simpa using (Bool.and_eq_true_iff.mp hs).1, hg⟩
theorem starting_eq {s : State} {seq : Nat} {op : BitVec 8} {e : Entry} (h : Starts s seq op e) (k : Entry → Out) : starting s seq op k = k e := by
  obtain ⟨hf, ho, _, hs⟩ := h
  unfold starting
  rw [hf]
  simp [ho, hs]
/-- An entry that may start is refused with a status (R348, R357). -/
theorem refuse_refused {s : State} {seq : Nat} {op : BitVec 8} {e : Entry} (h : Starts s seq op e) (st : Status) : Refused s seq e st (.next (refuse s seq st)) := by
  obtain ⟨hf, _, hg⟩ := starts_listed h
  have hr : refuse s seq st = (closeEntry s seq e 5 st 0 0).modQueue e.queue fun x => { x with stat := BitVec.ofNat 32 st } := by
    unfold refuse
    rw [hf]
    dsimp only
    rw [finishEntry_eq hf hg, hg]
    rfl
  have hc := closeEntry_entries s seq e 5 st 0 0
  refine ⟨_, rfl, ?_⟩
  rw [hr]
  refine ⟨closeEntry_ended s seq e 5 st 0 0, by simp [State.modQueue, State.queue], ?_, ?_, ?_, ?_, ?_⟩
  · show (closeEntry s seq e 5 st 0 0).fe.launches = _
    rw [hc.fe]
  · show (closeEntry s seq e 5 st 0 0).fe.contexts = _
    rw [hc.fe]
  · show (closeEntry s seq e 5 st 0 0).cores = _
    rw [hc]
  · show (closeEntry s seq e 5 st 0 0).subs = _
    rw [hc]
  · show (closeEntry s seq e 5 st 0 0).wgs = _
    rw [hc]

/-- What an update changes before its entry completes: memory at home, contexts, regions and launches. -/
def SameButRegions (s u : State) : Prop :=
  u = { s with pk := u.pk, sy := u.sy, stamp := u.stamp, bad := u.bad, written := u.written, link := { s.link with lines := u.link.lines }
               fe := { s.fe with contexts := u.fe.contexts, regions := u.fe.regions, launches := u.fe.launches } }

theorem SameButRegions.trans {s t u : State} (h : SameButRegions s t) (g : SameButRegions t u) : SameButRegions s u := by
  unfold SameButRegions at *
  rw [g, h]
theorem SameButRegions.of_home {s u : State} (h : SameButHome s u) : SameButRegions s u := by
  unfold SameButHome at h
  unfold SameButRegions
  rw [h]
theorem setContext_regions (s : State) (ctx : Nat) (p : Loc) (bs : List Byte) : SameButRegions s (setContext s ctx p bs) := rfl
theorem addRegion_regions (s : State) (ctx : Nat) (p : Loc) (a : Dword) : SameButRegions s (addRegion s ctx p a) := rfl

/-- After an update the entry starts and completes; what its record does not touch is what the update made of it. -/
theorem regionDone {s u : State} {seq : Nat} {e : Entry} (h : Starts s seq 6 e) (hu : SameButRegions s u) {P : State → Prop}
    (hP : ∀ t, SameButEntries u t → (∀ p n i, Apart s seq p n → i < n → t.homeByte (p + i) = u.homeByte (p + i)) → P t) :
    RegionDone s seq e (.next (finishEntry (startEntry u seq) seq 3 0 0 0)) P := by
  obtain ⟨hf, he, hg⟩ := starts_listed h
  have hfe : u.fe = { s.fe with contexts := u.fe.contexts, regions := u.fe.regions, launches := u.fe.launches } := by
    unfold SameButRegions at hu
    rw [hu]
  have ht : u.etime = s.etime := by rw [hu]; rfl
  have hl : journalLoc u seq = journalLoc s seq := by unfold journalLoc; rw [hfe]
  have hj : u.fe.jset = s.fe.jset := by rw [hfe]
  have hfu : u.fe.entries.find? seq = some e := by rw [hfe]; exact hf
  have hstart : started u e = started s e := by unfold started; rw [ht]
  refine ⟨_, rfl, ?_, hP _ (completed_entries u seq) fun p n i ha hi => completed_apart hfu he hg ?_ hi⟩
  · have := completed_ended hfu he hg
    rw [hstart] at this
    exact ended_of_same hj hl ht this
  · unfold Apart
    rw [hj, hl]
    exact ha

/-! ### The place and the bytes of an RCB (R356) -/

/-- A place of the device, with 256 bytes, lies in no other package. -/
theorem device_local {p : Nat} (hp : isRemote p = false) (ht : tierOf p < 2) (i : Nat) (hi : i < 256) : isRemote (p + i) = false := by
  have hp : ¬ 2 ^ 58 ≤ p := of_decide_eq_false hp
  have ht : p / 2 ^ 56 % 4 < 2 := ht
  have hi : ¬ 2 ^ 58 ≤ p + i := by omega
  exact decide_eq_false hi
theorem readRcb_local {s : State} {ctx : Nat} {a : Dword} {p : Loc} {bs : List Byte} (h : readRcb s ctx a = some (p, bs)) : ∀ i < 256, isRemote (p + i) = false := by
  unfold readRcb at h
  split at h
  · cases h
  · split at h
    · cases h
    · rename_i x _
      dsimp only at h
      split at h
      · cases h
      · rename_i hx
        split at h
        · cases h
        · obtain ⟨rfl, _⟩ := Prod.mk.inj (Option.some.inj h)
          simp only [Bool.or_eq_true, decide_eq_true_eq, not_or, Bool.not_eq_true] at hx
          obtain ⟨⟨hx, ht⟩, -⟩ := hx
          exact device_local hx (by omega)
theorem newRcbPlace_local {s : State} {ctx : Nat} {a : Dword} {p : Loc} (h : newRcbPlace s ctx a = some p) : ∀ i < 256, isRemote (p + i) = false := by
  unfold newRcbPlace at h
  split at h
  · cases h
  · split at h
    · cases h
    · rename_i x _
      split at h
      · cases h
      · rename_i hx
        obtain rfl := Option.some.inj h
        simp only [Bool.or_eq_true, decide_eq_true_eq, not_or, Bool.not_eq_true] at hx
        obtain ⟨hx, ht⟩ := hx
        exact device_local hx (by omega)

theorem length_withCtx {bs : List Byte} (h : bs.length = 256) (ctx : Nat) : (withCtx bs ctx).length = 256 := by
  simp [withCtx, length_bytesOf, h]
/-- CTX is the context's number, and the other bytes are those of SRC. -/
theorem getD_withCtx {bs : List Byte} (h : bs.length = 256) (ctx i : Nat) :
    (withCtx bs ctx).getD i 0 = if i = 0x0c then BitVec.ofNat 8 ctx else if i = 0x0d then BitVec.ofNat 8 (ctx / 256) else bs.getD i 0 := by
  have hb : bytesOf 2 (BitVec.ofNat 64 ctx) = [BitVec.ofNat 8 ctx, BitVec.ofNat 8 (ctx / 256)] := by
    have h0 : ((BitVec.ofNat 64 ctx >>> 0).setWidth 8 : Byte) = BitVec.ofNat 8 ctx := by
      apply BitVec.eq_of_toNat_eq
      simp
    have h1 : ((BitVec.ofNat 64 ctx >>> 8).setWidth 8 : Byte) = BitVec.ofNat 8 (ctx / 256) := by
      apply BitVec.eq_of_toNat_eq
      simp only [BitVec.toNat_setWidth, BitVec.toNat_ushiftRight, BitVec.toNat_ofNat, Nat.shiftRight_eq_div_pow]
      omega
    show [((BitVec.ofNat 64 ctx >>> 0).setWidth 8 : Byte), (BitVec.ofNat 64 ctx >>> 8).setWidth 8] = _
    rw [h0, h1]
  unfold withCtx
  rw [hb]
  rcases lt_trichotomy i 0x0c with hi | rfl | hi
  · rw [if_neg (by omega), if_neg (by omega)]
    simp [List.getD_eq_getElem?_getD, List.getElem?_append, List.getElem?_eq_getElem (show i < bs.length by omega), hi, h]
  · simp [List.getD_eq_getElem?_getD, h]
  · rw [if_neg (by omega)]
    by_cases hd : i = 0x0d
    · subst hd
      simp [List.getD_eq_getElem?_getD, h]
    · obtain ⟨j, rfl⟩ : ∃ j, i = 14 + j := ⟨i - 14, by omega⟩
      rw [if_neg hd]
      simp [List.getD_eq_getElem?_getD, List.getElem?_append, h, show ¬ 14 + j < 12 by omega, show 14 + j - 12 = j + 2 by omega]
/-- The bytes of SRC stored at the place of an RCB stand there, until a journal slot meets them. -/
theorem homeByte_rcb {s : State} {p : Loc} (hp : ∀ i < 256, isRemote (p + i) = false) {bs : List Byte} (h : bs.length = 256) (ctx : Nat) {i : Nat} (hi : i < 256) :
    (s.homeWrite p (withCtx bs ctx)).homeByte (p + i) =
      if i = 0x0c then BitVec.ofNat 8 ctx else if i = 0x0d then BitVec.ofNat 8 (ctx / 256) else bs.getD i 0 := by
  rw [homeByte_homeWrite _ _ _ (by rw [length_withCtx h]; exact hp), length_withCtx h, if_pos ⟨Nat.le_add_right _ _, Nat.add_lt_add_left hi _⟩, Nat.add_sub_cancel_left,
    getD_withCtx h]


/-! ### The plain update (R356, R358, R381) -/

theorem isRoot_iff (s : State) (ctx : Nat) (p : Loc) : isRoot s ctx p = true ↔ ∃ k, s.fe.contexts.find? ctx = some k ∧ k.root = p := by
  unfold isRoot
  rw [Option.any_eq_true]
  simp

/-- An update `u` of `s` with the contexts' registers as they follow the RCB at `p`: those of a root take its fields. -/
def taken (s u : State) (ctx : Nat) (p : Loc) (bs : List Byte) : State := if isRoot s ctx p then setContext u ctx p bs else u

theorem takeRcb_eq (s u : State) (ctx : Nat) (p : Loc) (bs : List Byte) : takeRcb s u ctx p bs = followDebug s (taken s u ctx p bs) ctx := rfl
theorem taken_regions (s u : State) (ctx : Nat) (p : Loc) (bs : List Byte) : SameButRegions u (taken s u ctx p bs) := by
  unfold taken
  split <;> rfl
theorem taken_fe (s u : State) (ctx : Nat) (p : Loc) (bs : List Byte) : (taken s u ctx p bs).fe = { u.fe with contexts := (taken s u ctx p bs).fe.contexts } := by
  unfold taken
  split <;> rfl
theorem find?_taken {s u : State} (h : u.fe.contexts = s.fe.contexts) (ctx : Nat) (p : Loc) (bs : List Byte) (c : Nat) :
    (taken s u ctx p bs).fe.contexts.find? c =
      if c = ctx ∧ ∃ k, s.fe.contexts.find? c = some k ∧ k.root = p then some (contextOf p bs) else s.fe.contexts.find? c := by
  by_cases hc : c = ctx
  · subst hc
    by_cases hr : ∃ k, s.fe.contexts.find? c = some k ∧ k.root = p
    · rw [if_pos ⟨rfl, hr⟩, taken, if_pos ((isRoot_iff s c p).mpr hr)]
      exact (Tbl.find?_set _ _ _ _).trans (if_pos rfl)
    · rw [if_neg fun g => hr g.2, taken, if_neg fun g => hr ((isRoot_iff s c p).mp g), h]
  · rw [if_neg fun g => hc g.1]
    unfold taken
    split
    · exact (Tbl.find?_set _ _ _ _).trans (by rw [if_neg hc, h])
    · rw [h]

/-- A fold stays where no step goes anywhere. -/
theorem foldl_stays {σ α : Type} {f : σ → α → σ} {s : σ} {xs : List α} (h : ∀ x ∈ xs, f s x = s) : xs.foldl f s = s := by
  induction xs with
  | nil => rfl
  | cons x xs ih =>
    rw [List.foldl_cons, h x (.head _)]
    exact ih fun y hy => h y (.tail _ hy)

/-- The update from `old` to `u` changes the debug right of no region of a context that firmware knows. -/
def RightsKept (old u : State) (ctx : Nat) : Prop := ∀ r ∈ knownRcbs old ctx, heldRight old ctx r = (debugOf u ctx r).map Prod.fst

theorem knownRcbs_congr {s u : State} (hr : u.fe.regions = s.fe.regions) (hl : u.fe.launches = s.fe.launches) (ctx : Nat) : knownRcbs u ctx = knownRcbs s ctx := by
  unfold knownRcbs
  rw [hr, hl]
/-- Then no mailbox is written; the launches alone are gone over. -/
theorem followDebug_rest {old u : State} {ctx : Nat} (hk : knownRcbs u ctx = knownRcbs old ctx) (h : RightsKept old u ctx) :
    followDebug old u ctx = { u with fe := { u.fe with launches := (followDebug old u ctx).fe.launches } } ∧
    ∀ n l b area, u.fe.launches.find? n = some l → l.ctx = ctx → debugOf u ctx l.lpb.rcb = some (b, area) →
      ∃ k, (followDebug old u ctx).fe.launches.find? n = some k ∧ k.dbg = b := by
  unfold followDebug
  extract_lets v
  have hv : v = u := by
    refine foldl_stays fun r hr => ?_
    have := h r (hk ▸ hr)
    cases hd : debugOf u ctx r with
    | none => split <;> simp_all
    | some x =>
      rw [hd] at this
      rw [this]
      simp
  clear_value v
  subst hv
  refine ⟨rfl, fun n l b area hn hc hd => ?_⟩
  have hm := Tbl.find?_mapVals v.fe.launches (fun _ l => if l.ctx = ctx then
      { l with dbg := match debugOf v ctx l.lpb.rcb with
          | some (b, _) => b
          | none => l.dbg } else l) n
  rw [hn] at hm
  refine ⟨_, hm, ?_⟩
  simp [hc, hd]

/-- What the contexts and the launches hold once the machine has taken an RCB that changes no debug right. -/
theorem takeRcb_holds {s u t : State} (hu : SameButHome s u) {ctx : Nat} {p : Loc} {bs : List Byte} (hk : RightsKept s (taken s u ctx p bs) ctx)
    (ht : SameButEntries (takeRcb s u ctx p bs) t) :
    (∀ c, t.fe.contexts.find? c =
      if c = ctx ∧ ∃ k, s.fe.contexts.find? c = some k ∧ k.root = p then some (contextOf p bs) else s.fe.contexts.find? c) ∧
    ∀ n l b area, s.fe.launches.find? n = some l → l.ctx = ctx → debugOf (taken s u ctx p bs) ctx l.lpb.rcb = some (b, area) →
      ∃ k, t.fe.launches.find? n = some k ∧ k.dbg = b := by
  have hr : (taken s u ctx p bs).fe.regions = s.fe.regions := by rw [taken_fe, hu.fe]
  have hl : (taken s u ctx p bs).fe.launches = s.fe.launches := by rw [taken_fe, hu.fe]
  obtain ⟨hf, hd⟩ := followDebug_rest (knownRcbs_congr hr hl ctx) hk
  rw [ht.fe, takeRcb_eq]
  rw [hl] at hd
  refine ⟨fun c => ?_, hd⟩
  rw [hf]
  exact find?_taken (by rw [hu.fe]) ctx p bs c
/-- And what else it leaves. -/
theorem takeRcb_rest {s u : State} (hu : SameButHome s u) {ctx : Nat} {p : Loc} {bs : List Byte} (hk : RightsKept s (taken s u ctx p bs) ctx) :
    SameButRegions s (takeRcb s u ctx p bs) ∧ ∀ q, (takeRcb s u ctx p bs).homeByte q = u.homeByte q := by
  have hr : (taken s u ctx p bs).fe.regions = s.fe.regions := by rw [taken_fe, hu.fe]
  have hl : (taken s u ctx p bs).fe.launches = s.fe.launches := by rw [taken_fe, hu.fe]
  obtain ⟨hf, -⟩ := followDebug_rest (knownRcbs_congr hr hl ctx) hk
  have ht := taken_regions s u ctx p bs
  rw [takeRcb_eq]
  refine ⟨((SameButRegions.of_home hu).trans ht).trans ?_, fun q => ?_⟩
  · unfold SameButRegions
    rw [hf]
  · rw [hf]
    unfold taken
    split <;> rfl

/-! The plain update, by what stands at ADDR and at SRC. -/

section
variable {s : State} {e : Entry} {p : Loc} {old bs : List Byte}

theorem plainUpdate_illegal (h : readRcb s e.ctx (dwordAt e.bytes 0x10) = none) : plainUpdate s e = .error 7 := by
  unfold plainUpdate
  dsimp only
  rw [h]
theorem plainUpdate_inPlace (h : readRcb s e.ctx (dwordAt e.bytes 0x10) = some (p, old)) (h0 : dwordAt e.bytes 0x18 = 0) : plainUpdate s e = .ok (takeRcb s s e.ctx p old) := by
  unfold plainUpdate
  dsimp only
  rw [h]
  exact if_pos h0
theorem plainUpdate_noSrc (h : readRcb s e.ctx (dwordAt e.bytes 0x10) = some (p, old)) (h0 : dwordAt e.bytes 0x18 ≠ 0) (hb : srcBytes s e = none) :
    plainUpdate s e = .error 7 := by
  unfold plainUpdate
  dsimp only
  rw [h, hb]
  exact if_neg h0
theorem plainUpdate_tree (h : readRcb s e.ctx (dwordAt e.bytes 0x10) = some (p, old)) (h0 : dwordAt e.bytes 0x18 ≠ 0) (hb : srcBytes s e = some bs) {st : Status}
    (ht : treeStatus s (s.homeWrite p (withCtx bs e.ctx)) e.ctx (dwordAt e.bytes 0x10) p = some st) : plainUpdate s e = .error st := by
  unfold plainUpdate
  dsimp only
  rw [h, hb]
  dsimp only
  rw [if_neg h0, ht]
theorem plainUpdate_src (h : readRcb s e.ctx (dwordAt e.bytes 0x10) = some (p, old)) (h0 : dwordAt e.bytes 0x18 ≠ 0) (hb : srcBytes s e = some bs)
    (ht : treeStatus s (s.homeWrite p (withCtx bs e.ctx)) e.ctx (dwordAt e.bytes 0x10) p = none) :
    plainUpdate s e = .ok (takeRcb s (s.homeWrite p (withCtx bs e.ctx)) e.ctx p bs) := by
  unfold plainUpdate
  dsimp only
  rw [h, hb]
  dsimp only
  rw [if_neg h0, ht]

end

/-- How an entry ends by what an update makes of the machine, or by the status that refuses it. -/
def updated (s : State) (seq : Nat) : Except Status State → Out
  | .error st => .next (refuse s seq st)
  | .ok u => .next (finishEntry (startEntry u seq) seq 3 0 0 0)

theorem updated_refused {s : State} {seq : Nat} {e : Entry} (h : Starts s seq 6 e) (st : Status) : Refused s seq e st (updated s seq (.error st)) := refuse_refused h st
theorem regionUpdate_eq {s : State} {seq : Nat} {e : Entry} (h : Starts s seq 6 e) : exec (.regionUpdate seq) s = updated s seq (plainUpdate s e) :=
  (starting_eq h _).trans (by rfl)

/-- A plain update whose RCB the machine takes, and which changes no debug right, completes. -/
theorem regionUpdate_done {s : State} {seq : Nat} {e : Entry} (h : Starts s seq 6 e) {u : State} (hu : SameButHome s u) {p : Loc} {bs : List Byte}
    (hp : plainUpdate s e = .ok (takeRcb s u e.ctx p bs)) (hk : RightsKept s (taken s u e.ctx p bs) e.ctx) {P : State → Prop}
    (hP : ∀ t, SameButEntries (takeRcb s u e.ctx p bs) t → (∀ q n i, Apart s seq q n → i < n → t.homeByte (q + i) = u.homeByte (q + i)) → P t) :
    RegionDone s seq e (exec (.regionUpdate seq) s) P := by
  obtain ⟨hr, hb⟩ := takeRcb_rest hu hk
  rw [regionUpdate_eq h, hp]
  exact regionDone h hr fun t ht ha => hP t ht fun q n i hq hi => (ha q n i hq hi).trans (hb _)

/-! ### CREATE (R13, R358) -/

theorem firstFrom_some {f : Nat → Bool} {fuel k n : Nat} (h : firstFrom f fuel k = some n) : k ≤ n ∧ f n = true := by
  induction fuel generalizing k with
  | zero => cases h
  | succ fuel ih =>
    unfold firstFrom at h
    split at h
    · cases h
      exact ⟨Nat.le_refl _, ‹_›⟩
    · obtain ⟨hk, hf⟩ := ih h
      exact ⟨by omega, hf⟩
/-- A free context number is not 0, and names no context. -/
theorem freeContext_free {s : State} {n : Nat} (h : freeContext s = some n) : n ≠ 0 ∧ s.fe.contexts.find? n = none := by
  obtain ⟨hn, hf⟩ := firstFrom_some h
  exact ⟨by omega, by simpa using hf⟩

/-- What CREATE makes of the machine, or the status with which it is refused. -/
def created (s : State) (e : Entry) : Except Status State :=
  if dwordAt e.bytes 0x18 = 0 then .error 7 else
  match srcBytes s e with
  | none => .error 7
  | some bs => if dwordAt bs 0 = 0 then createRoot s (dwordAt e.bytes 0x10) bs else if e.rcb = 0 then .error 1 else createChild s e.ctx (dwordAt e.bytes 0x10) bs

theorem regionCreate_eq {s : State} {seq : Nat} {e : Entry} (h : Starts s seq 6 e) : exec (.regionCreate seq) s = updated s seq (created s e) :=
  (starting_eq h _).trans (by rfl)

section
variable {s : State} {e : Entry} {bs : List Byte}

theorem created_zero (h : dwordAt e.bytes 0x18 = 0) : created s e = .error 7 := if_pos h
theorem created_noSrc (h : dwordAt e.bytes 0x18 ≠ 0) (hb : srcBytes s e = none) : created s e = .error 7 := by
  unfold created
  rw [if_neg h, hb]
theorem created_root (h : dwordAt e.bytes 0x18 ≠ 0) (hb : srcBytes s e = some bs) (h0 : dwordAt bs 0 = 0) : created s e = createRoot s (dwordAt e.bytes 0x10) bs := by
  unfold created
  rw [if_neg h, hb]
  exact if_pos h0
theorem created_bootstrap (h : dwordAt e.bytes 0x18 ≠ 0) (hb : srcBytes s e = some bs) (h0 : dwordAt bs 0 ≠ 0) (hr : e.rcb = 0) : created s e = .error 1 := by
  unfold created
  rw [if_neg h, hb]
  exact (if_neg h0).trans (if_pos hr)
theorem created_child (h : dwordAt e.bytes 0x18 ≠ 0) (hb : srcBytes s e = some bs) (h0 : dwordAt bs 0 ≠ 0) (hr : e.rcb ≠ 0) :
    created s e = createChild s e.ctx (dwordAt e.bytes 0x10) bs := by
  unfold created
  rw [if_neg h, hb]
  exact (if_neg h0).trans (if_neg hr)

end

/-- A root: its place goes by the page table that SRC names. -/
theorem createRoot_eq {s : State} {n : Nat} {a : Dword} {p : Loc} {bs : List Byte} (hn : freeContext s = some n) (hp : newRcbPlace (setContext s n 0 bs) n a = some p) :
    createRoot s a bs = if foreignRcb (setContext s n 0 bs) n p then .error 7
      else .ok (addRegion (setContext ((setContext s n 0 bs).homeWrite p (withCtx bs n)) n p bs) n p a) := by
  unfold createRoot
  rw [hn]
  dsimp only
  rw [hp]
theorem createChild_orphan {s : State} {ctx : Nat} {a : Dword} {bs : List Byte} {st : Status} (h : chainOf s ctx 8 (dwordAt bs 0) = .error st) :
    createChild s ctx a bs = .error st := by
  unfold createChild
  rw [h]
theorem createChild_deep {s : State} {ctx : Nat} {a : Dword} {bs : List Byte} {rs : List (Loc × List Byte)} (h : chainOf s ctx 8 (dwordAt bs 0) = .ok rs) (h8 : 8 ≤ rs.length) :
    createChild s ctx a bs = .error 6 := by
  unfold createChild
  rw [h]
  exact if_pos h8
section
variable {s : State} {ctx : Nat} {a : Dword} {p : Loc} {bs : List Byte} {rs : List (Loc × List Byte)}
variable (h : chainOf s ctx 8 (dwordAt bs 0) = .ok rs) (h8 : rs.length < 8) (hp : newRcbPlace s ctx a = some p)
include h h8 hp

theorem createChild_foreign (hf : foreignRcb s ctx p = true) : createChild s ctx a bs = .error 7 := by
  unfold createChild
  rw [h]
  dsimp only
  rw [if_neg (by omega), hp]
  exact if_pos hf
theorem createChild_tree (hf : foreignRcb s ctx p = false) {st : Status} (ht : treeStatus s (s.homeWrite p (withCtx bs ctx)) ctx a p = some st) :
    createChild s ctx a bs = .error st := by
  unfold createChild
  rw [h]
  dsimp only
  rw [if_neg (by omega), hp]
  dsimp only
  rw [hf, ht]
  rfl
theorem createChild_made (hf : foreignRcb s ctx p = false) (ht : treeStatus s (s.homeWrite p (withCtx bs ctx)) ctx a p = none) :
    createChild s ctx a bs = .ok (addRegion (s.homeWrite p (withCtx bs ctx)) ctx p a) := by
  unfold createChild
  rw [h]
  dsimp only
  rw [if_neg (by omega), hp]
  dsimp only
  rw [hf, ht]
  rfl

end

/-- A region that CREATE has made completes its entry: its RCB stands at its place, and the region is listed with a counter of 0. -/
theorem regionCreate_done {s v w : State} {seq : Nat} {e : Entry} (h : Starts s seq 6 e) {ctx : Nat} {a : Dword} {p : Loc} {bs : List Byte} (hl : ∀ i < 256, isRemote (p + i) = false)
    (hw : SameButRegions s w) (hb : ∀ q, w.homeByte q = (v.homeWrite p (withCtx bs ctx)).homeByte q) (hc : created s e = .ok (addRegion w ctx p a)) :
    RegionDone s seq e (exec (.regionCreate seq) s) fun t =>
      t.fe.contexts = w.fe.contexts ∧ t.fe.regions.find? p = some { ctx := ctx, rcb := a } ∧ (Apart s seq p 256 → bs.length = 256 → RcbAt t p bs ctx) := by
  rw [regionCreate_eq h, hc]
  refine regionDone h (hw.trans (addRegion_regions w ctx p a)) fun t ht ha => ?_
  rw [ht.fe]
  refine ⟨rfl, (Tbl.find?_set _ _ _ _).trans (if_pos rfl), fun hp hs i hi => ?_⟩
  rw [ha p 256 i hp hi]
  exact (hb _).trans (homeByte_rcb hl hs ctx hi)


/-! ### REGION_UPDATE and CREATE as stated -/

section
variable {s : State} {seq : Nat} {e : Entry} (h : Starts s seq 6 e)
include h

theorem regionUpdate_refused {st : Status} (hp : plainUpdate s e = .error st) : Refused s seq e st (exec (.regionUpdate seq) s) := by
  rw [regionUpdate_eq h, hp]
  exact updated_refused h st
theorem regionCreate_refused {st : Status} (hc : created s e = .error st) : Refused s seq e st (exec (.regionCreate seq) s) := by
  rw [regionCreate_eq h, hc]
  exact updated_refused h st

/-- CREATE of a root whose place is not another context's (R13, R358). -/
theorem regionCreate_root {n : Nat} {p : Loc} {bs : List Byte} (hn : freeContext s = some n) (hp : newRcbPlace (setContext s n 0 bs) n (dwordAt e.bytes 0x10) = some p)
    (hc : created s e = createRoot s (dwordAt e.bytes 0x10) bs) (hf : foreignRcb (setContext s n 0 bs) n p = false) :
    RegionDone s seq e (exec (.regionCreate seq) s) fun t => t.fe.contexts.find? n = some (contextOf p bs) ∧
      t.fe.regions.find? p = some { ctx := n, rcb := dwordAt e.bytes 0x10 } ∧ (Apart s seq p 256 → bs.length = 256 → RcbAt t p bs n) := by
  let w := (setContext s n 0 bs).homeWrite p (withCtx bs n)
  have hl := newRcbPlace_local hp
  have hw : SameButRegions s (setContext w n p bs) :=
    ((setContext_regions s n 0 bs).trans (.of_home (homeWrite_home _ _ _))).trans (setContext_regions w n p bs)
  have hcr : created s e = .ok (addRegion (setContext w n p bs) n p (dwordAt e.bytes 0x10)) := by
    rw [hc, createRoot_eq hn hp, hf]
    rfl
  obtain ⟨t, ht, he, hctx, hreg, hbytes⟩ := regionCreate_done h (v := setContext s n 0 bs) hl hw (fun _ => rfl) hcr
  refine ⟨t, ht, he, ?_, hreg, hbytes⟩
  rw [hctx]
  exact (Tbl.find?_set _ _ _ _).trans (if_pos rfl)

/-- CREATE of a child that keeps the tree of its context (R13, R358). -/
theorem regionCreate_child {p : Loc} {bs : List Byte} (hp : newRcbPlace s e.ctx (dwordAt e.bytes 0x10) = some p)
    (hc : created s e = .ok (addRegion (s.homeWrite p (withCtx bs e.ctx)) e.ctx p (dwordAt e.bytes 0x10))) :
    RegionDone s seq e (exec (.regionCreate seq) s) fun t => t.fe.contexts = s.fe.contexts ∧
      t.fe.regions.find? p = some { ctx := e.ctx, rcb := dwordAt e.bytes 0x10 } ∧ (Apart s seq p 256 → bs.length = 256 → RcbAt t p bs e.ctx) := by
  have hw := homeWrite_home s p (withCtx bs e.ctx)
  obtain ⟨t, ht, he, hctx, hreg, hbytes⟩ := regionCreate_done h (newRcbPlace_local hp) (.of_home hw) (fun _ => rfl) hc
  exact ⟨t, ht, he, by rw [hctx, hw.fe], hreg, hbytes⟩

/-- A plain update from the bytes at SRC (R356, R358). -/
theorem regionUpdate_src {p : Loc} {old bs : List Byte} (hr : readRcb s e.ctx (dwordAt e.bytes 0x10) = some (p, old))
    (hp : plainUpdate s e = .ok (takeRcb s (s.homeWrite p (withCtx bs e.ctx)) e.ctx p bs))
    (hk : RightsKept s (taken s (s.homeWrite p (withCtx bs e.ctx)) e.ctx p bs) e.ctx) :
    RegionDone s seq e (exec (.regionUpdate seq) s) fun t => (Apart s seq p 256 → bs.length = 256 → RcbAt t p bs e.ctx) ∧
      (∀ c, t.fe.contexts.find? c = if c = e.ctx ∧ ∃ k, s.fe.contexts.find? c = some k ∧ k.root = p then some (contextOf p bs) else s.fe.contexts.find? c) ∧
      ∀ n l b area, s.fe.launches.find? n = some l → l.ctx = e.ctx →
        debugOf (taken s (s.homeWrite p (withCtx bs e.ctx)) e.ctx p bs) e.ctx l.lpb.rcb = some (b, area) → ∃ k, t.fe.launches.find? n = some k ∧ k.dbg = b := by
  have hu := homeWrite_home s p (withCtx bs e.ctx)
  refine regionUpdate_done h hu hp hk fun t ht ha => ⟨fun hs hlen i hi => ?_, takeRcb_holds hu hk ht⟩
  rw [ha p 256 i hs hi]
  exact homeByte_rcb (readRcb_local hr) hlen e.ctx hi

end

/-- The plain update and CREATE, case by case of what is refused and of what completes. -/
theorem regionsAreUpdatedAndCreated : RegionsAreUpdatedAndCreated := by
  intro s seq e h a src
  refine ⟨fun hr => regionUpdate_refused h (plainUpdate_illegal hr), fun p old hr => ?_, fun h0 => regionCreate_refused h (created_zero h0),
    fun h0 hb => regionCreate_refused h (created_noSrc h0 hb), fun bs h0 hb => ⟨fun hz n p hn hp => ?_, fun hz hr => ?_, fun hz hr st hc => ?_, fun hz hr rs hc => ?_⟩⟩
  · intro taken calm holds
    refine ⟨fun h0 hk => ?_, fun h0 hb => regionUpdate_refused h (plainUpdate_noSrc hr h0 hb), fun bs h0 hb => ⟨fun st ht => ?_, fun ht hk => ?_⟩⟩
    · exact regionUpdate_done h (.refl s) (plainUpdate_inPlace hr h0) hk fun t ht _ => takeRcb_holds (.refl s) hk ht
    · exact regionUpdate_refused h (plainUpdate_tree hr h0 hb ht)
    · exact regionUpdate_src h hr (plainUpdate_src hr h0 hb ht) hk
  · have hc := created_root h0 hb hz
    refine ⟨fun hf => regionCreate_refused h ?_, fun hf => ⟨(freeContext_free hn).1, (freeContext_free hn).2, regionCreate_root h hn hp hc hf⟩⟩
    rw [hc, createRoot_eq hn hp]
    exact if_pos hf
  · exact regionCreate_refused h (created_bootstrap h0 hb hz hr)
  · exact regionCreate_refused h ((created_child h0 hb hz hr).trans (createChild_orphan hc))
  · have hch := created_child h0 hb hz hr
    refine ⟨fun h8 => regionCreate_refused h (hch.trans (createChild_deep hc (by omega))), fun p h8 hp => ?_⟩
    exact ⟨fun hf => regionCreate_refused h (hch.trans (createChild_foreign hc h8 hp hf)),
      fun hf st ht => regionCreate_refused h (hch.trans (createChild_tree hc h8 hp hf ht)),
      fun hf ht => regionCreate_child h hp (hch.trans (createChild_made hc h8 hp hf ht))⟩

end Sys2Proof.Machine
end

section
/-!
SUPPORT. What comes to rest before a CHECKPOINT or goes with a context leaves the front end's state as it is, where no fault domain ends (R178, R182, R229, R275, R300).
-/

namespace Sys2Proof.Machine
open State Claim

/-! ### Releases -/

namespace State

/-- A step that is taken or left out, and changes nothing of the front end where it is taken. -/
theorem ite_fe {c : Prop} [Decidable c] {s t : State} (h : t.fe = s.fe) : (if c then t else s).fe = s.fe := by
  split
  · exact h
  · rfl
theorem modCluster_fe (s : State) (k : Nat) (f : Cluster → Cluster) : (s.modCluster k f).fe = s.fe := rfl
theorem viewWrite1_fe (s : State) (c : Nat) (p : Loc) (b : Byte) : (s.viewWrite1 c p b).fe = s.fe := viewPut_fe s c p b
theorem viewWrite_fe (s : State) (c : Nat) (p : Loc) (bs : List Byte) : (s.viewWrite c p bs).fe = s.fe := foldl_keeps State.fe _ (fun s _ => viewWrite1_fe s c _ _) _ s
theorem moved_fe (s : State) (old new : VMem) : (s.moved old new).fe = s.fe := by rw [moved_order s old new]
theorem sent_fe (s : State) (v : VMem) (S : Nat) : (s.sent v S).fe = s.fe := by rw [sent_order s v S]
theorem holdLines_fe (s : State) (c : Nat) (ps : List Loc) : (s.holdLines c ps).fe = s.fe := foldl_keeps State.fe _ (fun _ _ => by rfl) _ s
theorem touch_fe (s : State) (ps : List Loc) : (s.touch ps).fe = s.fe := (touch_home s ps).fe
theorem publish_fe (s : State) (c w S : Nat) : (s.publish c w S).fe = s.fe := by
  unfold publish
  extract_lets v s1 s2 m3 s3 m4 s4 s5 s6 s7
  have h1 : s1.fe = s.fe := ite_fe (moved_fe _ _ _)
  have h2 : s2.fe = s1.fe := ite_fe rfl
  have h3 : s3.fe = s2.fe := ite_fe (moved_fe _ _ _)
  have h4 : s4.fe = s3.fe := ite_fe (moved_fe _ _ _)
  have h5 : s5.fe = s4.fe := ite_fe (sendRequests_fe _ _)
  have h6 : s6.fe = s5.fe := ite_fe (holdLines_fe _ _ _)
  have h7 : s7.fe = s6.fe := ite_fe ((touch_fe _ _).trans (sent_fe _ _ _))
  rw [← h1, ← h2, ← h3, ← h4, ← h5, ← h6, ← h7]
  exact ite_fe rfl

end State

theorem writeBack_fe (s : State) (P : Party) (w : Nat) (t : Stash) (is : List Nat) : (writeBack s P w t is).1.fe = s.fe := by
  induction is generalizing s with
  | nil => rfl
  | cons i is ih =>
    have ht := translate_fe s P.core P.ctx (t.base + 128 * i) .store
    unfold writeBack
    extract_lets bs
    split
    · rfl
    · split
      · simp_all
      · rename_i u x e
        have hu : u.fe = s.fe := by simp_all
        split
        · exact hu
        · dsimp only
          rw [ih]
          exact (nameFar_fe _ _ _).trans ((viewWrite_fe u _ _ _).trans hu)
theorem writeBackAll_fe (s : State) (P : Party) (w : Nat) (ts : List Stash) : (writeBackAll s P w ts).1.fe = s.fe := by
  induction ts generalizing s with
  | nil => rfl
  | cons t ts ih =>
    have hw := writeBack_fe s P w t t.dirty
    unfold writeBackAll
    split
    · simp_all
    · rename_i u e
      rw [ih]
      simp_all
theorem release_fe (s : State) (P : Party) (S : Nat) : (release s P S).1.fe = s.fe := by
  have hw := writeBackAll_fe s P P.wg (s.wg P.wg).stash
  unfold release
  extract_lets r
  have hr : r.1.fe = s.fe := by
    unfold r
    split
    · exact hw
    · rfl
  clear_value r
  obtain ⟨u, _ | f⟩ := r
  · dsimp only
    split
    · exact hr
    · exact (publish_fe u _ _ _).trans hr
  · exact hr

/-! ### Tile tasks (R298 to R300) -/

theorem commandRead_fe (s : State) (P : Party) (a : Dword) (n : Nat) (natural : Bool) : (commandRead s P a n natural).1.fe = s.fe := by
  have hl := locate_fe s P 0 a n natural .load
  unfold commandRead
  split
  · simp_all
  · split <;> simp_all
theorem taskVector_fe (s : State) (P : Party) (a : Dword) (fmt k : Nat) : (taskVector s P a fmt k).1.fe = s.fe := by
  have hc := commandRead_fe s P a (packedBytes fmt k) false
  unfold taskVector
  split
  · rfl
  · split <;> simp_all
theorem taskVectors_fe (s : State) (P : Party) (base : Dword) (stride fmt k : Nat) (is : List Nat) : (taskVectors s P base stride fmt k is).1.fe = s.fe := by
  induction is generalizing s with
  | nil => rfl
  | cons i is ih =>
    have hv := taskVector_fe s P (base + BitVec.ofNat 64 (i * stride)) fmt k
    unfold taskVectors
    split
    · simp_all
    · rename_i u x e
      have h := ih u
      split <;> simp_all
theorem storeRows_fe (s : State) (P : Party) (r : TileRec) (rows : List (Nat × List Byte)) : (storeRows s P r rows).1.fe = s.fe := by
  induction rows generalizing s with
  | nil => rfl
  | cons row rows ih =>
    obtain ⟨i, bs⟩ := row
    have hs := storeAt_fe s P 0 (r.c + BitVec.ofNat 64 (i * r.cstr)) bs false
    unfold storeRows
    dsimp only
    split
    · rfl
    · split
      · simp_all
      · rename_i u spots e
        dsimp only
        rw [ih]
        simp_all
theorem setSticky_fe (s : State) (c ctx : Nat) (nan ovf merr : Bool) : (setSticky s c ctx nan ovf merr).fe = s.fe := by
  unfold setSticky
  extract_lets e
  split
  · rfl
  · split
    · rfl
    · split
      · rfl
      · dsimp only
        split
        · rename_i h
          exact (writeHome_home h).fe
        · rfl
theorem performTask_fe (s : State) (t : TileTask) : (performTask s t).1.fe = s.fe := by
  unfold performTask
  extract_lets P r stopped
  have ha := taskVectors_fe s P r.a r.astr r.afmt r.k (List.range r.m)
  have hs : ∀ (u : State) (e : MemFault), (stopped u e).fe = u.fe := fun u e => setSticky_fe u _ _ _ _ _
  split
  · rename_i u e h
    rw [hs]
    simp_all
  · rename_i u xs h
    have hu : u.fe = s.fe := by simp_all
    have hb := taskVectors_fe u P r.b r.bstr r.wfmt r.k (List.range r.n)
    split
    · rename_i v e h
      rw [hs]
      simp_all
    · rename_i v ws h
      have hv : v.fe = s.fe := by simp_all
      extract_lets c rows w
      have hw : w.fe = s.fe := (setSticky_fe v _ _ _ _ _).trans hv
      have hr := storeRows_fe w P r rows
      split
      · rename_i x spots e h
        rw [hs]
        simp_all
      · simp_all
theorem offerFree_fe (s : State) (w : Nat) : (offerFree s w).fe = s.fe := by unfold offerFree; split <;> rfl
theorem endTask_fe (s : State) (cluster : Nat) (t : TileTask) (status : Nat) (writes : VMem) : (endTask s cluster t status writes).fe = s.fe := by
  unfold endTask
  dsimp only
  rw [offerFree_fe, post_fe, freeGang_fe, modCluster_fe, endCmd_fe]
theorem completeTask_fe (s : State) (cluster : Nat) (t : TileTask) : (completeTask s cluster t).fe = s.fe := by
  unfold completeTask
  dsimp only
  rw [endTask_fe, foldl_keeps State.fe _ (fun s _ => viewMerge_fe s _ _), performTask_fe]
theorem finishTasks_fe (s : State) (w : Nat) : (finishTasks s w).fe = s.fe := foldl_keeps State.fe _ (fun s t => completeTask_fe s _ t) _ s

/-! ### Engines, prefetches and cores -/

theorem finishMatrix_fe (s : State) (c : Nat) : (finishMatrix s c).fe = s.fe := foldl_keeps State.fe _ (fun s n => finishCmd_fe s n {}) _ s
theorem finishPrefetches_fe (s : State) (w : Nat) : (finishPrefetches s w).fe = s.fe := foldl_keeps State.fe _ (fun s (p : Nat × Prefetch) => finishCmd_fe { s with prefetches := s.prefetches.del p.1 } p.1 {}) _ s
theorem modThreads_fe (s : State) (g : Nat) (ls : List Nat) (f : Thread → Thread) : (s.modThreads g ls f).fe = s.fe := foldl_keeps State.fe _ (fun _ _ => by rfl) ls s
theorem rewindXsel_fe (s : State) (g : Nat) : (rewindXsel s g).fe = s.fe := by
  unfold rewindXsel
  extract_lets u
  split
  · split
    · rfl
    · exact modThreads_fe s g _ _
  · rfl
theorem settleEngines_fe (s : State) (ctx : Nat) : (settleEngines s ctx).fe = s.fe := by
  refine foldl_keeps State.fe _ (fun s c => ?_) _ s
  dsimp only
  split
  · rfl
  · split
    · exact (passOwner_fe _ c ctx).trans (setOwnership_fe s c ctx _ _)
    · exact setOwnership_fe s c ctx _ _
theorem unplace_fe (s : State) (w : Nat) : (unplace s w).fe = s.fe := by
  unfold unplace
  extract_lets g gs s1 s2 s3 s4
  have h1 : s1.fe = s.fe := foldl_keeps State.fe _ (fun _ _ => by rfl) _ s
  have h4 : s4.fe = s3.fe := (writeSlotDir_fe _ w false).trans (foldl_keeps State.fe _ discardSub_fe _ s3)
  exact h4.trans h1
theorem applyMode_fe (s : State) (c r : Nat) : (applyMode s c r).fe = s.fe := by
  unfold applyMode
  extract_lets row m keep u
  split
  · rfl
  · exact ite_fe (t := List.foldl _ s _) (foldl_keeps State.fe _ (fun _ _ => by rfl) _ s)
theorem leaveContext_fe (s : State) (c : Nat) : (leaveContext s c).fe = s.fe := by
  unfold leaveContext
  split
  · rfl
  · exact foldl_keeps State.fe _ (fun s r => applyMode_fe s c r) _ s
theorem dropCoreContext_fe (s : State) (ctx c : Nat) : (dropCoreContext s ctx c).fe = s.fe := by
  unfold dropCoreContext
  extract_lets u
  exact ite_fe (t := leaveContext s c) (leaveContext_fe s c)

end Sys2Proof.Machine
end

section
/-!
SUPPORT. DESTROY and CHECKPOINT (R207, R229, R275, R358): which launches leave the machine, and what the image of one holds.
-/

namespace Sys2Proof.Machine
open State Claim

namespace Tbl
variable {α : Type}

theorem find?_filter_keys (t : Tbl α) (keep : Nat → Bool) (k : Nat) : find? (t.filter fun p => keep p.1) k = if keep k then find? t k else none := by
  induction t with
  | nil => simp [find?]
  | cons p t ih =>
    obtain ⟨i, x⟩ := p
    by_cases hk : keep i
    · by_cases h : i = k
      · subst h; simp [find?, hk]
      · simpa [find?, hk, h] using ih
    · by_cases h : i = k
      · subst h; simpa [find?, hk] using ih
      · simpa [find?, hk, h] using ih
theorem find?_ne_none_of_mem {t : Tbl α} {p : Nat × α} (h : p ∈ t) : find? t p.1 ≠ none := by
  induction t with
  | nil => cases h
  | cons q t ih =>
    by_cases hk : q.1 = p.1
    · simp [find?, hk]
    · simp only [find?, hk, if_false]
      rcases List.mem_cons.mp h with rfl | h
      · exact absurd rfl hk
      · exact ih h
theorem del_eq_filter (t : Tbl α) (k : Nat) : del t k = t.filter fun p => p.1 != k := by
  induction t with
  | nil => rfl
  | cons p t ih =>
    obtain ⟨i, x⟩ := p
    by_cases h : i = k <;> simp [del, h, ih]

end Tbl

/-! ### Launches that leave -/

/-- Some launches, told by their numbers, have left the machine; the others are as they were. -/
def LaunchesLeft (s t : State) : Prop := ∃ keep : Nat → Bool, t.fe.launches = s.fe.launches.filter fun p => keep p.1

namespace LaunchesLeft

theorem of_eq {s t : State} (h : t.fe.launches = s.fe.launches) : LaunchesLeft s t := ⟨fun _ => true, by simp [h]⟩
theorem of_fe {s t : State} (h : t.fe = s.fe) : LaunchesLeft s t := of_eq (by rw [h])
theorem refl (s : State) : LaunchesLeft s s := of_eq rfl
theorem trans {s t u : State} (h : LaunchesLeft s t) (g : LaunchesLeft t u) : LaunchesLeft s u := by
  obtain ⟨a, ha⟩ := h
  obtain ⟨b, hb⟩ := g
  exact ⟨fun k => b k && a k, by rw [hb, ha, List.filter_filter]⟩
theorem foldl {α : Type} {f : State → α → State} (h : ∀ s x, LaunchesLeft s (f s x)) (xs : List α) (s : State) : LaunchesLeft s (xs.foldl f s) := by
  induction xs generalizing s with
  | nil => exact .refl s
  | cons x xs ih => exact (h s x).trans (ih (f s x))
theorem mem {s t : State} (h : LaunchesLeft s t) {p : Nat × Launch} (hp : p ∈ t.fe.launches) : p ∈ s.fe.launches := by
  obtain ⟨keep, hk⟩ := h
  rw [hk] at hp
  exact (List.mem_filter.mp hp).1
/-- A launch that is listed still is the one that was listed. -/
theorem find? {s t : State} (h : LaunchesLeft s t) {n : Nat} {l : Launch} (hn : t.fe.launches.find? n = some l) : s.fe.launches.find? n = some l := by
  obtain ⟨keep, hk⟩ := h
  rw [hk, Tbl.find?_filter_keys] at hn
  split at hn
  · exact hn
  · cases hn
theorem gone {s t : State} (h : LaunchesLeft s t) {n : Nat} (hn : s.fe.launches.find? n = none) : t.fe.launches.find? n = none := by
  cases ht : t.fe.launches.find? n with
  | none => rfl
  | some l => rw [h.find? ht] at hn; cases hn

end LaunchesLeft

/-- The numbers of the launches of a fault domain. -/
def domainLaunches (s : State) (ctx : Nat) (fdom : Word) : List Nat := (s.fe.launches.filter fun p => p.2.ctx == ctx && p.2.fdom == fdom).map Prod.fst

theorem endDomain_left (s : State) (ctx : Nat) (fdom : Word) (cause : BitVec 8) (pc : Dword) : LaunchesLeft s (endDomain s ctx fdom cause pc) :=
  ⟨fun k => !((domainLaunches s ctx fdom).contains k), endDomain_launches s ctx fdom cause pc⟩
/-- A launch leaves with its fault domain (R275). -/
theorem endDomain_gone {s : State} {n : Nat} {l : Launch} (h : s.fe.launches.find? n = some l) (cause : BitVec 8) (pc : Dword) :
    (endDomain s l.ctx l.fdom cause pc).fe.launches.find? n = none := by
  have hn : n ∈ domainLaunches s l.ctx l.fdom := List.mem_map.mpr ⟨(n, l), List.mem_filter.mpr ⟨Tbl.mem_of_find? h, by simp⟩, rfl⟩
  rw [endDomain_launches]
  refine (Tbl.find?_filter_keys _ (fun k => !((domainLaunches s l.ctx l.fdom).contains k)) n).trans ?_
  rw [List.contains_iff_mem.mpr hn]
  rfl

/-! ### Launches brought to rest (R178, R207) -/

theorem releaseOut_left (s : State) (c w : Nat) : LaunchesLeft s (releaseOut s c w) := by
  have hr := release_fe s ⟨c, (s.wg w).ctx, w⟩ 5
  unfold releaseOut
  split
  · exact .refl s
  · split
    · exact .of_fe (by simp_all)
    · rename_i u f h
      have hu : u.fe = s.fe := by simp_all
      exact (LaunchesLeft.of_fe hu).trans (endDomain_left _ _ _ _ _)
theorem quietWg_left (s : State) (w : Nat) : LaunchesLeft s (quietWg s w) := by
  unfold quietWg
  extract_lets gs here s1 s2 s3
  have h1 : s1.fe = s.fe := foldl_keeps State.fe _ finishMatrix_fe _ s
  split
  · exact .of_fe h1
  · have h2 : s2.fe = s1.fe := (finishPrefetches_fe _ w).trans (finishTasks_fe s1 w)
    have h3 : s3.fe = s2.fe := foldl_keeps State.fe _ rewindXsel_fe gs s2
    exact (LaunchesLeft.of_fe (h3.trans (h2.trans h1))).trans (.foldl (fun s c => releaseOut_left s c w) _ s3)
theorem quietLaunch_left (s : State) (seq : Nat) : LaunchesLeft s (quietLaunch s seq) := .foldl quietWg_left _ s

theorem readStored_left (s : State) (e : Estate) (off : Nat) : LaunchesLeft s (readStored s e off).1 := by
  unfold readStored
  extract_lets n
  split
  · exact .of_fe rfl
  · split
    · exact .of_fe rfl
    · exact endDomain_left s _ _ _ _
theorem takeEstate_left (s : State) (e : Estate) : LaunchesLeft s (takeEstate s e) := by
  unfold takeEstate
  split
  · exact .of_eq rfl
  · exact .refl s
theorem readEstates_left (s : State) (es : List Estate) : LaunchesLeft s (readEstates s es).1 := by
  induction es generalizing s with
  | nil => exact .refl s
  | cons e es ih =>
    unfold readEstates
    split
    · exact ih s
    · extract_lets r q
      have hr : LaunchesLeft s r.1 := by
        unfold r
        split
        · exact readStored_left s e _
        · exact .refl s
      split
      · exact hr.trans ((takeEstate_left r.1 e).trans (ih _))
      · exact hr.trans (ih r.1)

/-! ### A launch that leaves with its image -/

theorem stopLaunch_launches (s : State) (seq : Nat) (v : Saved) (es : List Estate) : (stopLaunch s seq v es).fe.launches = s.fe.launches.del seq := by
  unfold stopLaunch
  extract_lets n s1 s2 front s3
  have h1 : s1.fe.launches = s.fe.launches := by
    unfold s1
    rw [removeEstates_launches, foldl_keeps State.fe _ unplace_fe]
  rw [finishEntry_launches]
  show s1.fe.launches.del seq = _
  rw [h1]
theorem stopLaunch_left (s : State) (seq : Nat) (v : Saved) (es : List Estate) : LaunchesLeft s (stopLaunch s seq v es) :=
  ⟨fun k => k != seq, by rw [stopLaunch_launches, Tbl.del_eq_filter]⟩
theorem stopLaunch_gone (s : State) (seq : Nat) (v : Saved) (es : List Estate) : (stopLaunch s seq v es).fe.launches.find? seq = none := by
  rw [stopLaunch_launches, Tbl.find?_del, if_pos rfl]
/-- What the image held stands under the number that is next. -/
theorem stopLaunch_saved (s : State) (seq : Nat) (v : Saved) (es : List Estate) : (stopLaunch s seq v es).fe.saved.find? s.fresh = some v := by
  unfold stopLaunch
  extract_lets n s1 s2 front s3
  rw [(finishEntry_entries s3 seq 6 0 0 0).fe]
  exact (Tbl.find?_set _ _ _ _).trans (if_pos rfl)

theorem checkpointLaunch_left (s : State) (seq : Nat) (area : Dword) (es : List Estate) : LaunchesLeft s (checkpointLaunch s seq area es).1 := by
  unfold checkpointLaunch
  extract_lets u l r x
  have hu : LaunchesLeft s u := quietLaunch_left s seq
  have hr : LaunchesLeft s r.1 := hu.trans (readEstates_left u es)
  split
  · exact hu
  · split
    · exact hr
    · split
      · exact hr.trans (endDomain_left r.1 _ _ _ _)
      · rename_i v h
        exact hr.trans ((LaunchesLeft.of_fe (writeHome_home h).fe).trans (stopLaunch_left v _ _ _))
/-- However its stop ends, a launch that a checkpoint stops has left. -/
theorem checkpointLaunch_gone (s : State) (seq : Nat) (area : Dword) (es : List Estate) : (checkpointLaunch s seq area es).1.fe.launches.find? seq = none := by
  unfold checkpointLaunch
  extract_lets u l r x
  have hr : LaunchesLeft u r.1 := readEstates_left u es
  split
  · simp_all
  · split
    · simp_all
    · rename_i _ hn
      split
      · obtain ⟨k, hk⟩ := Option.ne_none_iff_exists'.mp (by simpa using hn)
        have hl : l = k := by
          show (u.fe.launches.find? seq).getD {} = k
          rw [hr.find? hk]
          rfl
        rw [hl]
        exact endDomain_gone hk _ _
      · exact stopLaunch_gone _ _ _ _

theorem checkpointAll_left (s : State) (area : Dword) (more : List Loc) (qs : List Nat) : LaunchesLeft s (checkpointAll s area more qs) := by
  induction qs generalizing s area more with
  | nil => exact .refl s
  | cons q qs ih =>
    unfold checkpointAll
    split
    · exact ih s area more
    · exact (checkpointLaunch_left s q area _).trans (ih _ _ more)
theorem checkpointAll_gone (s : State) (area : Dword) (more : List Loc) (qs : List Nat) : ∀ q ∈ qs, (checkpointAll s area more qs).fe.launches.find? q = none := by
  induction qs generalizing s area more with
  | nil => exact fun _ h => absurd h List.not_mem_nil
  | cons q qs ih =>
    intro k hk
    unfold checkpointAll
    split
    · rename_i hq
      rcases List.mem_cons.mp hk with rfl | hk
      · exact (checkpointAll_left s area more qs).gone hq
      · exact ih s area more k hk
    · rcases List.mem_cons.mp hk with rfl | hk
      · exact (checkpointAll_left _ _ more qs).gone (checkpointLaunch_gone s k area _)
      · exact ih _ _ more k hk

/-! ### DESTROY (R358) -/

theorem removeEstates_saved (s : State) (p : Estate → Bool) : (removeEstates s p).fe.saved = s.fe.saved := foldl_keeps (fun s : State => s.fe.saved) _ (fun _ _ => by rfl) _ _
theorem removeEstates_estates (s : State) (p : Estate → Bool) : (removeEstates s p).fe.estates = s.fe.estates.filter fun e => !(p e) :=
  foldl_keeps (fun s : State => s.fe.estates) _ (fun _ _ => by rfl) _ _
theorem finishEntries_entries {α : Type} (f : α → Nat) (st : BitVec 8) (cause : BitVec 8) (pc : Dword) (xs : List α) (s : State) :
    SameButEntries s (xs.foldl (fun s x => finishEntry s (f x) st 0 cause pc) s) := by
  induction xs generalizing s with
  | nil => exact .refl s
  | cons x xs ih => exact (finishEntry_entries s (f x) st 0 cause pc).trans (ih _)
theorem endDomain_saved (s : State) (ctx : Nat) (fdom : Word) (cause : BitVec 8) (pc : Dword) : (endDomain s ctx fdom cause pc).fe.saved = s.fe.saved := by
  unfold endDomain
  extract_lets ends ls ws s1 s2 s3 s4 front s5
  have h1 : s1.fe = s.fe := foldl_keeps State.fe _ abortCommands_fe ws s
  have h2 : s2.fe = s1.fe := foldl_keeps State.fe _ dropWg_fe ws s1
  have h4 : s4.fe.saved = s3.fe.saved := foldl_keeps (fun s : State => s.fe.saved) _ (fun _ _ => by rfl) ls s3
  rw [(finishEntries_entries Prod.fst 4 cause pc ends s5).fe]
  show s4.fe.saved = _
  rw [h4, removeEstates_saved, h2, h1]

/-- What DESTROY of a context leaves: none of its launches, estates and regions, and the others' launches and images as they were (R358). -/
theorem destroyContext_fe (s : State) (ctx : Nat) : let t := destroyContext s ctx
    t.fe.contexts.find? ctx = none ∧ (∀ l ∈ t.fe.launches, l.2.ctx ≠ ctx) ∧ (∀ x ∈ t.fe.estates, x.ctx ≠ ctx) ∧ (∀ r ∈ t.fe.regions, r.2.ctx ≠ ctx) ∧
      LaunchesLeft s t ∧ t.fe.saved = s.fe.saved := by
  unfold destroyContext
  extract_lets ds s1 s2 s3 s4
  have h1 : LaunchesLeft s s1 := .foldl (fun s d => endDomain_left s ctx d 0 0) ds s
  have h1s : s1.fe.saved = s.fe.saved := foldl_keeps (fun s : State => s.fe.saved) _ (fun s d => endDomain_saved s ctx d 0 0) ds s
  have h2 : SameButEntries s1 s2 := finishEntries_entries Prod.fst 4 0 0 _ s1
  have h3 : s3.fe.launches = s1.fe.launches := (removeEstates_launches s2 _).trans (by rw [h2.fe])
  have h4 : s4.fe = s3.fe := foldl_keeps State.fe _ (fun s c => dropCoreContext_fe s ctx c) _ s3
  refine ⟨(Tbl.find?_del _ _ _).trans (if_pos rfl), fun l hl hc => ?_, fun x hx hc => ?_, fun r hr hc => ?_, ?_, ?_⟩
  · have hl : l ∈ s1.fe.launches := by rw [← h3, ← h4]; exact hl
    obtain ⟨hs, hd⟩ := mem_launches_endDomains ds s hl
    exact hd ⟨hc, List.mem_eraseDups.mpr (List.mem_map.mpr ⟨l, List.mem_filter.mpr ⟨hs, by simp [hc]⟩, rfl⟩)⟩
  · have hx : x ∈ s3.fe.estates := by rw [← h4]; exact hx
    rw [removeEstates_estates] at hx
    simpa [hc] using (List.mem_filter.mp hx).2
  · simpa [hc] using (List.mem_filter.mp hr).2
  · exact h1.trans (.of_eq (by show s4.fe.launches = _; rw [h4, h3]))
  · show s4.fe.saved = _
    rw [h4, removeEstates_saved, h2.fe, h1s]

theorem destroyRoot_root {s : State} {e : Entry} {p : Loc} {bs : List Byte} (h : readRcb s e.ctx (dwordAt e.bytes 0x10) = some (p, bs)) (hr : isRoot s e.ctx p = true) :
    destroyRoot s e = destroyContext s e.ctx := by
  unfold destroyRoot
  rw [h]
  exact if_pos hr
theorem destroyRoot_other {s : State} {e : Entry} {p : Loc} {bs : List Byte} (h : readRcb s e.ctx (dwordAt e.bytes 0x10) = some (p, bs)) (hr : isRoot s e.ctx p = false) :
    destroyRoot s e = s := by
  unfold destroyRoot
  rw [h]
  exact if_neg (by rw [hr]; exact Bool.false_ne_true)
/-- Whatever it names, DESTROY takes launches away alone, and no image. -/
theorem destroyRoot_left (s : State) (e : Entry) : LaunchesLeft s (destroyRoot s e) ∧ (destroyRoot s e).fe.saved = s.fe.saved := by
  obtain ⟨_, _, _, _, hl, hs⟩ := destroyContext_fe s e.ctx
  unfold destroyRoot
  split
  · split
    · exact ⟨hl, hs⟩
    · exact ⟨.refl s, rfl⟩
  · exact ⟨.refl s, rfl⟩

/-! ### The image of a launch (R354) -/

/-- A field of a record that stands behind the bytes `a`. -/
theorem fieldAt_behind (a b rest : List Byte) : fieldAt (a ++ (b ++ rest)) a.length b.length = (ofBytes b).toNat := by
  unfold fieldAt
  rw [List.drop_left, List.take_left]
/-- The kind of the image is SAVED. -/
theorem savedImage_kind (s : State) (l : Launch) (es : List Byte) (n : Nat) (tag : Dword) : fieldAt (savedImage s l es n tag) 4 2 = 1 := by
  obtain ⟨rest, hr⟩ : ∃ rest, savedImage s l es n tag = bytesOf 4 0x00504b43 ++ (bytesOf 2 1 ++ rest) := by
    unfold savedImage
    simp only [List.append_assoc]
    exact ⟨_, rfl⟩
  rw [hr]
  exact fieldAt_behind (bytesOf 4 0x00504b43) (bytesOf 2 1) rest
theorem length_savedImage (s : State) (l : Launch) (es : List Byte) (n : Nat) (tag : Dword) : (savedImage s l es n tag).length % 64 = 0 := by
  unfold savedImage
  extract_lets desc size pad
  simp only [List.length_append, length_bytesOf, List.length_replicate, List.length_take, desc, List.length_cons, List.length_nil]
  omega


/-! ### DESTROY and CHECKPOINT as stated -/

theorem isRoot_started (s : State) (seq ctx : Nat) (p : Loc) : isRoot (startEntry s seq) ctx p = isRoot s ctx p := by
  unfold isRoot
  rw [(startEntry_entries s seq).fe]

/-- The end of an entry changes nothing else of the front end. -/
theorem finishEntry_rest (s : State) (seq : Nat) (st : BitVec 8) (status : Nat) (cause : BitVec 8) (fpc : Dword) : let t := finishEntry s seq st status cause fpc
    t.fe.contexts = s.fe.contexts ∧ t.fe.launches = s.fe.launches ∧ t.fe.estates = s.fe.estates ∧ t.fe.regions = s.fe.regions ∧ t.fe.saved = s.fe.saved := by
  intro t
  rw [(finishEntry_entries s seq st status cause fpc).fe]
  exact ⟨rfl, rfl, rfl, rfl, rfl⟩

theorem regionDestroy_eq {s q : State} {seq : Nat} {e : Entry} (h : Starts s seq 6 e) (hp : plainUpdate s e = .ok q) :
    exec (.regionDestroy seq) s = .next (finishEntry (destroyRoot (startEntry q seq) e) seq 3 0 0 0) := by
  show execRegionDestroy seq s = _
  unfold execRegionDestroy
  rw [starting_eq h, hp]

/-- The launches of the subtree of the region at `p`. -/
def subtreeLaunches (s : State) (ctx : Nat) (p : Loc) : List Nat := (s.fe.launches.filter fun (q : Nat × Launch) => q.2.ctx == ctx && q.2.regions.contains p).map Prod.fst
/-- The subtree checkpointed by an entry, before a DESTROY that comes with it. -/
def checkpointed (s : State) (e : Entry) (p : Loc) : State :=
  let qs := subtreeLaunches s e.ctx p
  settleEngines (checkpointAll s (dwordAt e.bytes 0x28) (idleRegions s e.ctx p qs) qs) e.ctx
/-- The same with that DESTROY. -/
def checkpointedRoot (s : State) (e : Entry) (p : Loc) : State :=
  if (fieldAt e.bytes 0x20 1).testBit 1 then destroyRoot (checkpointed s e p) e else checkpointed s e p

theorem regionCheckpoint_eq {s q : State} {seq : Nat} {e : Entry} {p : Loc} {bs : List Byte} (h : Starts s seq 6 e) (hp : plainUpdate s e = .ok q)
    (hr : readRcb q e.ctx (dwordAt e.bytes 0x10) = some (p, bs)) :
    exec (.regionCheckpoint seq) s = .next (finishEntry (checkpointedRoot (spillContext (startEntry q seq) e.ctx) e p) seq 3 0 0 0) := by
  show execRegionCheckpoint seq s = _
  unfold execRegionCheckpoint
  rw [starting_eq h, hp]
  dsimp only
  rw [hr]
  rfl

theorem checkpointed_fe (s : State) (e : Entry) (p : Loc) :
    (checkpointed s e p).fe = (checkpointAll s (dwordAt e.bytes 0x28) (idleRegions s e.ctx p (subtreeLaunches s e.ctx p)) (subtreeLaunches s e.ctx p)).fe := settleEngines_fe _ _
theorem checkpointed_left (s : State) (e : Entry) (p : Loc) : LaunchesLeft s (checkpointed s e p) :=
  (checkpointAll_left s _ _ _).trans (.of_fe (settleEngines_fe _ _))
theorem checkpointedRoot_left (s : State) (e : Entry) (p : Loc) :
    LaunchesLeft (checkpointed s e p) (checkpointedRoot s e p) ∧ (checkpointedRoot s e p).fe.saved = (checkpointed s e p).fe.saved := by
  unfold checkpointedRoot
  split
  · exact destroyRoot_left _ e
  · exact ⟨.refl _, rfl⟩
/-- No launch of the subtree is left (R358). -/
theorem checkpointedRoot_subtree (s : State) (e : Entry) (p : Loc) : ∀ l ∈ (checkpointedRoot s e p).fe.launches, l.2.ctx = e.ctx → p ∉ l.2.regions := by
  intro l hl hc hp
  have hl := (checkpointedRoot_left s e p).1.mem hl
  have hq : l.1 ∈ subtreeLaunches s e.ctx p :=
    List.mem_map.mpr ⟨l, List.mem_filter.mpr ⟨(checkpointed_left s e p).mem hl, by simp [hc, hp]⟩, rfl⟩
  rw [checkpointed_fe] at hl
  exact Tbl.find?_ne_none_of_mem hl (checkpointAll_gone s _ _ _ l.1 hq)

/-- The one launch of a subtree, where its stop faults at nothing: it leaves, and what its image holds is kept (R207, R354). -/
theorem checkpointLaunch_stops {s : State} {n : Nat} {l : Launch} {area : Dword} {es : List Estate} (hu : (quietLaunch s n).fe.launches = [(n, l)])
    (hy : (readEstates (quietLaunch s n) es).1.fe.launches = [(n, l)]) {r : State}
    (hw : writeHome (readEstates (quietLaunch s n) es).1 l.ctx area (saving (readEstates (quietLaunch s n) es).1 n (readEstates (quietLaunch s n) es).2).2 = .ok r) :
    (checkpointLaunch s n area es).1 = stopLaunch r n (saving (readEstates (quietLaunch s n) es).1 n (readEstates (quietLaunch s n) es).2).1 (readEstates (quietLaunch s n) es).2 := by
  have hl : (quietLaunch s n).launch n = l := by simp [State.launch, hu, Tbl.get, Tbl.find?]
  unfold checkpointLaunch
  dsimp only
  rw [if_neg (by simp [hu, Tbl.find?]), if_neg (by simp [hy, Tbl.find?]), hl, hw]
theorem saving_holds {s : State} {n : Nat} {l : Launch} (h : s.fe.launches = [(n, l)]) (es : List Estate) : let x := saving s n es
    x.1.was = n ∧ x.1.launch.lpb = l.lpb ∧ fieldAt x.2 4 2 = 1 ∧ x.2.length % 64 = 0 := by
  have hl : s.launch n = l := by simp [State.launch, h, Tbl.get, Tbl.find?]
  refine ⟨rfl, ?_, savedImage_kind _ _ _ _ _, length_savedImage _ _ _ _ _⟩
  show (s.launch n).lpb = _
  rw [hl]

theorem checkpointedRoot_only {v : State} {e : Entry} {p : Loc} {n : Nat} {l : Launch} (hv : v.fe.launches = [(n, l)]) (hc : l.ctx = e.ctx) (hin : p ∈ l.regions) :
    let u := quietLaunch v n
    let y := readEstates u (carried v n l (idleRegions v e.ctx p [n]))
    let x := saving y.1 n y.2
    u.fe.launches = [(n, l)] → y.1.fe.launches = [(n, l)] → ∀ {r}, writeHome y.1 l.ctx (dwordAt e.bytes 0x28) x.2 = .ok r →
      (checkpointedRoot v e p).fe.launches.find? n = none ∧ (checkpointedRoot v e p).fe.saved.find? r.fresh = some x.1 ∧
      x.1.was = n ∧ x.1.launch.lpb = l.lpb ∧ fieldAt x.2 4 2 = 1 ∧ x.2.length % 64 = 0 := by
  intro u y x hu hy r hw
  obtain ⟨hleft, hsaved⟩ := checkpointedRoot_left v e p
  have hqs : subtreeLaunches v e.ctx p = [n] := by simp [subtreeLaunches, hv, hc, hin]
  have hall : checkpointAll v (dwordAt e.bytes 0x28) (idleRegions v e.ctx p [n]) [n] = stopLaunch r n x.1 y.2 := by
    unfold checkpointAll
    rw [hv]
    simp only [Tbl.find?, if_true]
    exact checkpointLaunch_stops hu hy hw
  have hfe : (checkpointed v e p).fe = (stopLaunch r n x.1 y.2).fe := by rw [checkpointed_fe, hqs, hall]
  have hgone : (checkpointed v e p).fe.launches.find? n = none := by rw [hfe, stopLaunch_gone]
  exact ⟨hleft.gone hgone, by rw [hsaved, hfe, stopLaunch_saved], saving_holds hy y.2⟩

/-- DESTROY and CHECKPOINT: what they leave of the context and of the subtree. -/
theorem regionsAreDestroyedAndCheckpointed : RegionsAreDestroyedAndCheckpointed := by
  intro s seq e q h hp p bs hr
  refine ⟨fun hs hn => ?_, fun hs hroot => ?_, ?_⟩
  · rw [regionDestroy_eq h hp, destroyRoot_other hs (by rw [isRoot_started]; exact hn), regionUpdate_eq h, hp]
    rfl
  · rw [regionDestroy_eq h hp, destroyRoot_root hs (by rw [isRoot_started]; exact hroot)]
    obtain ⟨hctx, hlaunch, hest, hreg, -⟩ := destroyContext_fe (startEntry q seq) e.ctx
    obtain ⟨hc, hl, hx, hr, -⟩ := finishEntry_rest (destroyContext (startEntry q seq) e.ctx) seq 3 0 0 0
    refine ⟨_, rfl, finishEntry_gone _ _ _ _ _ _, ?_⟩
    rw [hc, hl, hx, hr]
    exact ⟨hctx, hlaunch, hest, hreg⟩
  · rw [regionCheckpoint_eq h hp hr]
    obtain ⟨-, hl, -, -, hx⟩ := finishEntry_rest (checkpointedRoot (spillContext (startEntry q seq) e.ctx) e p) seq 3 0 0 0
    refine ⟨_, rfl, finishEntry_gone _ _ _ _ _ _, ?_⟩
    rw [hl, hx]
    refine ⟨checkpointedRoot_subtree _ e p, fun n l hq hc hin => ?_⟩
    rw [hq]
    exact fun hv hu hy r hw => checkpointedRoot_only hv hc hin hu hy hw

end Sys2Proof.Machine
end

section
open Sys2Proof Machine Claim
/-- Settles O60: the plain update and CREATE by what refuses them and what they leave, DESTROY and CHECKPOINT by the launches that leave the machine. -/
theorem regionCommandsUpdateCreateDestroyAndCheckpoint : Obligations.RegionCommandsUpdateCreateDestroyAndCheckpoint := by
  unfold Obligations.RegionCommandsUpdateCreateDestroyAndCheckpoint
  exact ⟨regionsAreUpdatedAndCreated, regionsAreDestroyedAndCheckpointed⟩
end

section
/-!
SUPPORT. The control registers: how `srd` and `swr` complete, and what the order of the checks leaves to the number (R28, R30, R34, R96, R320 to R323).
-/

namespace Sys2Proof.Machine
open State Claim

/-! ### Words that leave their subgroup to the completion -/

theorem goTo_setSub_self (s : State) (x : Cx) (ls : List Nat) (f : Nat → Dword) : goTo (s.setSub x.sg (x.sub s)) x ls f = goTo s x ls f := by
  unfold goTo
  dsimp only
  rw [modSub_eq, setSub_setSub, sub_setSub_self]
  rfl
theorem advance_setSub_self (s : State) (x : Cx) (ls : List Nat) : advance (s.setSub x.sg (x.sub s)) x ls = advance s x ls := by
  have hp : x.pc (s.setSub x.sg (x.sub s)) = x.pc s := by
    unfold Cx.pc
    rw [sub_setSub_self]
    rfl
  unfold advance
  dsimp only
  rw [goTo_setSub_self, hp]
/-- A word that changes nothing of its subgroup goes on with the subgroup as it stands. -/
theorem completes_unchanged (s : State) (x : Cx) : Completes s x (Unchanged s x) (.next (advance s x x.lanes)) := by
  rw [← advance_setSub_self]
  exact completes_advance s x _ (x.sub s) rfl rfl

theorem foldl_modThread_setSub (s : State) (g : Nat) (f : Thread → Thread) (ls : List Nat) (u : Sub) :
    (s.setSub g u).modThreads g ls f = s.setSub g (ls.foldl (fun u l => u.modThread l f) u) := by
  unfold State.modThreads
  induction ls generalizing u with
  | nil => rfl
  | cons l ls ih =>
    have hl : (s.setSub g u).modThread g l f = s.setSub g (u.modThread l f) := by
      show (s.setSub g u).setSub g (((s.setSub g u).sub g).modThread l f) = _
      rw [setSub_setSub, sub_setSub_self]
    rw [List.foldl_cons, hl, ih, List.foldl_cons]
/-- A change of each of some threads of a subgroup is one change of the subgroup. -/
theorem modThreads_eq (s : State) (g : Nat) (f : Thread → Thread) {ls : List Nat} (h : ls ≠ []) :
    s.modThreads g ls f = s.setSub g (ls.foldl (fun u l => u.modThread l f) (s.sub g)) := by
  cases ls with
  | nil => exact absurd rfl h
  | cons l ls => exact foldl_modThread_setSub s g f ls ((s.sub g).modThread l f)

theorem lanes_ne_nil {s : State} {x : Cx} (h : Stands s x) : x.lanes ≠ [] := by
  intro hn
  refine (issuing_core s x h.1).2 (BitVec.eq_of_getLsbD_eq fun i hi => ?_)
  have hm : i ∉ lanesOf x.mask := by
    rw [show lanesOf x.mask = [] from hn]
    exact List.not_mem_nil
  rw [mem_lanesOf] at hm
  simpa [hi] using hm

/-! ### `srd` (R34, R96, R320) -/

/-- The state from which an `srd` of number `n` goes on: a read of 0x0030 has taken its sample. -/
def sampled (s : State) (x : Cx) (n : Nat) : State := if n = 0x30 then takeSample s x else s

theorem sampled_sreg (s : State) (x : Cx) (n k : Nat) : (x.sub (sampled s x n)).sreg k = (x.sub s).sreg k := by
  unfold sampled
  split
  · simp only [takeSample, Cx.sub, modSub_eq, sub_setSub_self]
    rfl
  · rfl
theorem sampled_pc (s : State) (x : Cx) (n : Nat) : x.pc (sampled s x n) = x.pc s := by
  unfold sampled
  split
  · simp only [takeSample, Cx.pc, modSub_eq, sub_setSub_self]
    rfl
  · rfl

/-- The one check of `srd` and `swr` before the number: a field that names a scalar passes it. -/
theorem scalarField_passes {d : BitVec 7} (hd : d.toNat ≤ 111) : ∀ c ∈ [(!(sDstOk d.toNat), 7)], c.1 = false := by simpa [sDstOk] using hd

section
variable {s : State} {x : Cx} {d : BitVec 7} (h : Stands s x) (hd : d.toNat ≤ 111)
include h hd

theorem srd_next {n : BitVec 16} {v : Word} (hr : readCtl s x n.toNat = some v) :
    exec (.srd d n) s = .next (advance ((sampled s x n.toNat).modSub x.sg fun u => u.setSreg d.toNat v) x x.lanes) := by
  have hs : (if n = 0x30 then takeSample s x else s) = sampled s x n.toNat := by
    unfold sampled
    exact if_congr BitVec.toNat_inj.symm rfl rfl
  show execSrd d n s = _
  unfold execSrd
  rw [withWord_eq s x _ h, checked_pass _ _ _ _ (scalarField_passes hd), hr, ← hs]
theorem srd_unnumbered {n : BitVec 16} (hr : readCtl s x n.toNat = none) : exec (.srd d n) s = .next (ill s x 8) := by
  show execSrd d n s = _
  unfold execSrd
  rw [withWord_eq s x _ h, checked_pass _ _ _ _ (scalarField_passes hd), hr]

theorem srd_delivers {n : Nat} {v : Word} (hr : readCtl s x n = some v) (hn : n < 2 ^ 16 := by decide) :
    GoesTo (sampled s x n) x (fun _ => x.pc s + 4) false (WroteScalars (sampled s x n) x (fun _ => false) fun k => if k = d.toNat then v else (x.sub s).sreg k)
      (exec (.srd d (BitVec.ofNat 16 n)) s) := by
  have hw : (BitVec.ofNat 16 n).toNat = n := Nat.mod_eq_of_lt hn
  rw [srd_next h hd (n := BitVec.ofNat 16 n) (by rw [hw]; exact hr), hw, ← sampled_pc s x n]
  refine completes_advance _ x _ ((x.sub (sampled s x n)).setSreg d.toNat v) rfl ⟨rfl, fun _ _ => rfl, fun _ _ => rfl, fun k => ?_⟩
  rw [Sub.sreg_setSreg, sampled_sreg]

end

/-- DCLK holds the two clock codes as the digits of a number in base 16 (R321). -/
theorem dclk_eq (y : Die) : dclk y = BitVec.ofNat 32 (y.lcode.toNat * 16 + y.dcode.toNat) := by
  have hl : y.lcode.toNat < 2 ^ 4 := y.lcode.isLt
  have hd : y.dcode.toNat < 2 ^ 4 := y.dcode.isLt
  refine BitVec.eq_of_toNat_eq ?_
  rw [dclk, BitVec.toNat_or, BitVec.toNat_shiftLeft, BitVec.toNat_setWidth_of_le (by decide), BitVec.toNat_setWidth_of_le (by decide), BitVec.toNat_ofNat,
    Nat.shiftLeft_eq, Nat.mod_eq_of_lt (by omega), Nat.mod_eq_of_lt (by omega), ← Nat.shiftLeft_eq, ← Nat.shiftLeft_add_eq_or_of_lt hd, Nat.shiftLeft_eq]
/-- The words of the step log follow each other, eight to an entry (R323). -/
theorem readCtl_stepLog (s : State) (x : Cx) {i w : Nat} (hi : i < 8) (hw : w < 8) :
    readCtl s x (0x40 + w + 8 * i) = some (stepWord ((s.die (s.dieOfCore x.core)).log.get i {}) w) := by
  have hq : (0x40 + w + 8 * i - 0x40) / 8 = i := by omega
  have hm : (0x40 + w + 8 * i) % 8 = w := by omega
  have hne : ∀ k, k < 0x40 → 0x40 + w + 8 * i ≠ k := by omega
  have hin : (decide (0x40 ≤ 0x40 + w + 8 * i) && decide (0x40 + w + 8 * i < 0x80)) = true := by
    rw [Bool.and_eq_true, decide_eq_true_eq, decide_eq_true_eq]
    omega
  unfold readCtl
  simp only [hne, hin, hq, hm, Nat.reduceLT, if_true, if_false]
theorem readCtl_unnumbered (s : State) (x : Cx) {n : Nat} (hn : n ∉ [1, 2, 3, 0x10, 0x11, 0x12, 0x20, 0x30, 0x31, 0x32, 0x33, 0x34, 0x35, 0x36, 0x37, 0x38])
    (hlog : n < 0x40 ∨ 0x80 ≤ n) : readCtl s x n = none := by
  have hout : (decide (0x40 ≤ n) && decide (n < 0x80)) = false := by
    rw [Bool.and_eq_false_iff, decide_eq_false_iff_not, decide_eq_false_iff_not]
    omega
  simp only [List.mem_cons, List.not_mem_nil, or_false, not_or] at hn
  unfold readCtl
  simp only [hn, hout, if_false, Bool.false_eq_true]

theorem srdDeliversTheNumberedRegister : SrdDeliversTheNumberedRegister := by
  intro s x d h hd u t y gives
  have given {n : Nat} {v : Word} (hr : readCtl s x n = some v) (hn : n < 2 ^ 16 := by decide) : gives n v := srd_delivers h hd hr hn
  have logged {i w : Nat} (hi : i < 8) (hw : w < 8) : gives (0x40 + w + 8 * i) (stepWord (y.log.get i {}) w) := given (readCtl_stepLog s x hi hw) (by omega)
  refine ⟨given rfl, given rfl, given rfl, given rfl, given rfl, given rfl, given rfl, given rfl, given rfl, given rfl, given rfl, given rfl, given rfl,
    given (congrArg some (dclk_eq y)), given rfl, given rfl, fun i hi => ?_, fun n hn hlog => srd_unnumbered h hd (readCtl_unnumbered s x hn hlog)⟩
  exact ⟨logged hi (w := 0) (by decide), logged hi (w := 1) (by decide), logged hi (w := 2) (by decide), logged hi (w := 3) (by decide),
    logged hi (w := 4) (by decide), logged hi (w := 5) (by decide), logged hi (w := 6) (by decide), logged hi (w := 7) (by decide)⟩

/-! ### `swr` (R28, R30, R34, R96) -/

section
variable {s : State} {x : Cx} {d : BitVec 7} (h : Stands s x) (hd : d.toNat ≤ 111)
include h hd

theorem swr_next {n : BitVec 16} {q : State} (hw : writeCtl s x n.toNat ((x.sub s).sreg d.toNat) = some q) : exec (.swr d n) s = .next (advance q x x.lanes) := by
  show execSwr d n s = _
  unfold execSwr
  rw [withWord_eq s x _ h, checked_pass _ _ _ _ (scalarField_passes hd), hw]
theorem swr_refused {n : BitVec 16} (hw : writeCtl s x n.toNat ((x.sub s).sreg d.toNat) = none) : exec (.swr d n) s = .next (ill s x 8) := by
  show execSwr d n s = _
  unfold execSwr
  rw [withWord_eq s x _ h, checked_pass _ _ _ _ (scalarField_passes hd), hw]
/-- A write of the subgroup alone completes with what it made of it. -/
theorem swr_completes {n : BitVec 16} {v : Sub} {P : Sub → Prop} (hw : writeCtl s x n.toNat ((x.sub s).sreg d.toNat) = some (s.setSub x.sg v))
    (hv : (v.thread (lowest x.mask)).pc = x.pc s) (hP : P v) : Completes s x P (exec (.swr d n) s) := by
  rw [swr_next h hd hw]
  exact completes_advance s x P v hv hP

theorem swr_tstat : Completes s x (fun w => w = { x.sub s with threads := w.threads } ∧ (∀ l, l ∉ x.lanes → w.thread l = (x.sub s).thread l) ∧
    ∀ l ∈ x.lanes, w.thread l = { (x.sub s).thread l with tstat := (x.sub s).sreg d.toNat &&& 0x171f }) (exec (.swr d 1) s) := by
  obtain ⟨hrest, hthread⟩ := foldl_modThread x.lanes (nodup_lanesOf _) (fun _ t => { t with tstat := (x.sub s).sreg d.toNat &&& tstatWritable }) (x.sub s)
  refine swr_completes h hd (congrArg some (modThreads_eq s x.sg _ (lanes_ne_nil h))) ?_ ⟨hrest, fun l hl => ?_, fun l hl => ?_⟩
  · refine (congrArg Thread.pc (hthread _)).trans ?_
    split <;> rfl
  · exact (hthread l).trans (if_neg hl)
  · exact (hthread l).trans (if_pos hl)

end

theorem writeCtl_mode {s : State} {x : Cx} (hs : supervisor (x.sub s) = true) (v : Word) :
    writeCtl s x 0x20 v = some (s.setCore x.core { s.core x.core with mode := if v.toNat % 4 = 3 then (s.core x.core).mode else v.setWidth 2 }) := by
  have hv : v &&& 3#32 = 3 ↔ v.toNat % 4 = 3 := by
    rw [← BitVec.toNat_inj, BitVec.toNat_and]
    exact Iff.of_eq (congrArg (· = 3) (Nat.and_two_pow_sub_one_eq_mod v.toNat 2))
  have hm : writeCtl s x 0x20 v = if supervisor (x.sub s) then
      some (s.modCore x.core fun k => { k with mode := if v &&& 3#32 = 3 then k.mode else v.setWidth 2 }) else none := rfl
  rw [hm, if_pos hs, modCore_eq]
  simp only [hv]
theorem writeCtl_user {s : State} {x : Cx} (hs : supervisor (x.sub s) = false) (v : Word) : writeCtl s x 0x20 v = none := by
  unfold writeCtl
  simp [hs]
theorem writeCtl_unnumbered (s : State) (x : Cx) {n : Nat} (hn : n ∉ [1, 0x10, 0x11, 0x20]) (v : Word) : writeCtl s x n v = none := by
  simp only [List.mem_cons, List.not_mem_nil, or_false, not_or] at hn
  unfold writeCtl
  simp [hn]

theorem swrWritesTheWritableBits : SwrWritesTheWritableBits := by
  intro s x d h hd u v
  refine ⟨swr_tstat h hd, swr_completes h hd rfl rfl rfl, swr_completes h hd rfl rfl rfl, fun hs q hq => ?_, fun hs => swr_refused h hd (writeCtl_user hs v),
    fun n hn => swr_refused h hd (writeCtl_unnumbered s x hn v)⟩
  subst hq
  rw [swr_next h hd (n := 0x20) (writeCtl_mode hs v)]
  exact completes_unchanged _ x

end Sys2Proof.Machine
end

section
open Sys2Proof Machine Claim
/-- Settles O47: what a number reads and what it writes, by the register that it names. -/
theorem specialRegistersAreReadAndWritten : Obligations.SpecialRegistersAreReadAndWritten := by
  unfold Obligations.SpecialRegistersAreReadAndWritten
  exact ⟨srdDeliversTheNumberedRegister, swrWritesTheWritableBits⟩
end

section
/-!
SUPPORT. What the units and the control window hold after reset (R28, R318, R319, R348, R370, R378, R383).
-/

namespace Sys2Proof.Machine

/-- A word of a queue block, through the control window (R348, R369). -/
theorem windowWord_queue (s : State) {q o : Nat} (hq : q < 256) (ho : o < 64) : windowWord s (0x10000 + 64 * q + o) = queueWord s (s.queue q) o := by
  have hne : ∀ k, k < 0x10000 → 0x10000 + 64 * q + o ≠ k := by omega
  have hge : ∀ k, k ≤ 0x10000 → ¬ 0x10000 + 64 * q + o < k := by omega
  have hlt : 0x10000 + 64 * q + o < 0x14000 := by omega
  have hle : 0x10000 ≤ 0x10000 + 64 * q + o := by omega
  have hdiv : (0x10000 + 64 * q + o - 0x10000) / 64 = q := by omega
  have hmod : (0x10000 + 64 * q + o) % 64 = o := by omega
  unfold windowWord
  simp [hne, hge, hlt, hle, hdiv, hmod]

theorem reset_die (d : Nat) : State.reset.die d = {} := rfl
theorem reset_core (c : Nat) : State.reset.core c = {} := rfl
theorem reset_queue (q : Nat) : State.reset.queue q = {} := rfl
/-- QCTL and QCONS of every queue read 0. -/
theorem reset_queueWords (q : Nat) : windowWord State.reset (0x10000 + 64 * (q % 256) + 0x0c) = 0 ∧ windowWord State.reset (0x10000 + 64 * (q % 256) + 0x2c) = 0 := by
  have hq : q % 256 < 256 := Nat.mod_lt q (by decide)
  rw [windowWord_queue _ hq (by decide), windowWord_queue _ hq (by decide), reset_queue]
  decide
/-- DEV_STAT, XINV_CTL, DBG_CTL, the freeze of the counters and the two counts of the error log read 0. -/
theorem reset_windowWords : let s := State.reset
    windowWord s 0x100 = 0 ∧ windowWord s 0x2018 = 0 ∧ windowWord s 0x6010 = 0 ∧ windowWord s 0x6200 = 0 ∧ windowWord s 0xa000 = 0 ∧ windowWord s 0xa008 = 0 := by decide
theorem reset_read (p : Loc) : State.reset.pk.read p = 0 ∧ State.reset.sy.read p = 0 := ⟨rfl, rfl⟩

end Sys2Proof.Machine
end

section
open Sys2Proof Machine Claim
/-- Settles O32: after reset each unit is the default of its kind, and the control window reads what these defaults give. -/
theorem resetLeavesTheStatedValues : Obligations.ResetLeavesTheStatedValues := by
  unfold Obligations.ResetLeavesTheStatedValues
  obtain ⟨hdev, hxinv, hdbg, hfreeze, hseq, hlost⟩ := reset_windowWords
  refine ⟨fun d => ?_, rfl, fun c => ?_, fun q => ⟨reset_queue q, reset_queueWords q⟩, rfl, rfl, rfl, rfl, rfl, rfl, rfl, rfl,
    hdev, hxinv, hdbg, hfreeze, hseq, hlost, fun _ _ => rfl, fun _ => rfl, rfl, rfl, rfl, rfl, rfl, reset_read⟩
  · rw [reset_die]
    exact ⟨rfl, rfl, rfl, rfl, rfl, rfl⟩
  · rw [reset_core]
    exact ⟨rfl, rfl, rfl, rfl, rfl⟩
end

section
/-!
SUPPORT. Fields of a word: what a word built from two parts holds, and when a word is built from two parts (R38, R39).
-/

namespace Sys2Proof

theorem toNat_field (w : Word) (lo n : Nat) : (field w lo n).toNat = w.toNat / 2 ^ lo % 2 ^ n := by
  rw [field, BitVec.extractLsb'_toNat, Nat.shiftRight_eq_div_pow]
theorem bit_iff (w : Word) (n : Nat) : bit w n = true ↔ w.toNat / 2 ^ n % 2 = 1 := by
  rw [bit, BitVec.getLsbD, Nat.testBit_eq_decide_div_mod_eq, decide_eq_true_eq]
/-- A bit is a field of width 1. -/
theorem ofBool_bit (w : Word) (n : Nat) : BitVec.ofBool (bit w n) = field w n 1 := by
  refine BitVec.eq_of_toNat_eq ?_
  rw [toNat_field, BitVec.toNat_ofBool]
  have h := bit_iff w n
  cases hb : bit w n <;> simp [hb] at h ⊢ <;> omega
theorem bit_eq_msb (w : Word) (n : Nat) : bit w n = (field w n 1).msb := by
  rw [← ofBool_bit, BitVec.msb_ofBool]

/-- A field of a word made of two parts is a field of the part that it lies in. -/
theorem fields_of_append {w : Word} {u v : Nat} {x : BitVec u} {y : BitVec v} (h : (x ++ y).toNat = w.toNat) :
    (∀ lo n, v ≤ lo → field w lo n = x.extractLsb' (lo - v) n) ∧ (∀ lo n, lo + n ≤ v → field w lo n = y.extractLsb' lo n) := by
  have hf : ∀ lo n, field w lo n = (x ++ y).extractLsb' lo n := fun lo n => by
    refine BitVec.eq_of_toNat_eq ?_
    rw [field, BitVec.extractLsb'_toNat, BitVec.extractLsb'_toNat, h]
  exact ⟨fun lo n hl => (hf lo n).trans (BitVec.extractLsb'_append_eq_of_le hl), fun lo n hl => (hf lo n).trans (BitVec.extractLsb'_append_eq_of_add_le hl)⟩
/-- A field is made of two parts when its upper and its lower bits are. -/
theorem append_eq_field_iff {w : Word} {u v lo : Nat} {x : BitVec u} {y : BitVec v} : x ++ y = field w lo (u + v) ↔ x = field w (lo + v) u ∧ y = field w lo v := by
  have hf : field w (lo + v) u ++ field w lo v = field w lo (u + v) := BitVec.extractLsb'_append_extractLsb'_eq_extractLsb' rfl
  rw [← hf]
  refine ⟨fun h => ⟨?_, ?_⟩, fun ⟨hx, hy⟩ => by rw [hx, hy]⟩
  · simpa only [BitVec.extractLsb'_append_eq_left] using congrArg (BitVec.extractLsb' v u) h
  · simpa only [BitVec.extractLsb'_append_eq_right] using congrArg (BitVec.extractLsb' 0 v) h
/-- A word is made of two parts when its upper and its lower bits are. -/
theorem toNat_append_eq_word_iff {w : Word} {u v : Nat} {x : BitVec u} {y : BitVec v} (huv : u + v = 32) :
    (x ++ y).toNat = w.toNat ↔ x = field w v u ∧ y = field w 0 v := by
  have hw : w.toNat = (field w 0 (u + v)).toNat := by rw [toNat_field, huv, Nat.pow_zero, Nat.div_one, Nat.mod_eq_of_lt w.isLt]
  rw [hw, BitVec.toNat_inj, append_eq_field_iff, Nat.zero_add]
/-- The decoder's answer behind a check. -/
theorem guard_eq_ok_iff {ε α : Type} {c : Prop} [Decidable c] {e : ε} {x : Except ε α} {i : α} : (if c then Except.error e else x) = .ok i ↔ ¬ c ∧ x = .ok i := by
  split <;> simp_all

end Sys2Proof
end

section
/-!
SUPPORT. Decoding the word of an instruction (R38, R39, R49 to R54), class by class. The constructors of `Instr` stand in the order of the opcode map, so that
`ctorIdx` tells the class: V below 87, M below 161, S below 202, X below 240, needle words below 271, then the rows without a word.
-/

namespace Sys2Proof

section
variable {w : Word}
theorem decode_eq_decodeV (hc : field w 30 2 = 0) : decode w = decodeV w := by rw [decode, hc]; rfl
theorem decode_eq_decodeM (hc : field w 30 2 = 1) : decode w = decodeM w := by rw [decode, hc]; rfl
theorem decode_eq_decodeS (hc : field w 30 2 = 2) : decode w = decodeS w := by rw [decode, hc]; rfl
theorem decode_eq_decodeX (hc : field w 30 2 = 3) : decode w = decodeX w := by rw [decode, hc]; rfl
theorem decode_eq_decodeN (hc : field w 30 2 = 3) (hg : field w 25 5 = 6) : decode w = decodeN w := by rw [decode_eq_decodeX hc, decodeX, hg]; rfl
end

theorem decode_encode_vector {i : Instr} {w : Word} (hi : i.ctorIdx < 87) (h : encode i = some w) : decode w = .ok i := by
  cases i
  case addI32 | subI32 | mulI32 | mulhiI32 | mulhiN32 | madI32 | addI64 | subI64 | andB32 | orB32 | xorB32 | andnB32 | shlB32 | shrN32 | shrI32 | rotB32 | minI32 | maxI32
      | minN32 | maxN32 | seqB32 | sneB32 | sltI32 | sleI32 | sltN32 | sleN32 | sel | bfeN32 | bfiB32 | addiI32 | andi | ori | xori | muliI32 | dp4I8 | dp4N8 | leaX4 |
      leaX8 | faddF32 | fsubF32 | fmulF32 | ffmaF32 | fminF32 | fmaxF32 | fminnmF32 | fmaxnmF32 | fseqF32 | fsltF32 | fsleF32 | fsunF32 | fdivF32 | hadd2F16 | hmul2F16 |
      hfma2F16 | badd2Bf16 | bmul2Bf16 | bfma2Bf16 | daddF64 | dmulF64 | dfmaF64 | dsltF64 | cvt | fscaleF32 | fdot2Bf16 | dseqF64 =>
    obtain ⟨hi, lo⟩ := fields_of_append (congrArg BitVec.toNat (Option.some.inj h))
    have hc := hi 30 2 (by decide)
    have ho := hi 23 7 (by decide)
    simp (disch := decide) only [Nat.reduceSub, BitVec.extractLsb'_append_eq_of_le, BitVec.reduceExtractLsb'] at hc ho
    rw [decode_eq_decodeV hc, decodeV, ho]
    show Except.ok _ = _
    simp (disch := decide) only [hi, lo, Nat.reduceSub, BitVec.extractLsb'_append_eq_of_le, BitVec.extractLsb'_append_eq_of_add_le, BitVec.extractLsb'_eq_self,
      bit_eq_msb, BitVec.msb_ofBool]
  case popcB32 | clzB32 | brevB32 | shli | shriN32 | shriI32 | mov | fnegF32 | fabsF32 | frcpF32 | frsqF32 | fsqrtF32 | fex2F32 | flg2F32 | fsinF32 | fcosF32 | frndF32 |
      fclassF32 | mad24I32 | fmulLg | vote32Ballot | shfl32 =>
    obtain ⟨hi, lo⟩ := fields_of_append (congrArg BitVec.toNat (Option.some.inj h))
    have hc := hi 30 2 (by decide)
    have ho := hi 23 7 (by decide)
    simp (disch := decide) only [Nat.reduceSub, BitVec.extractLsb'_append_eq_of_le, BitVec.reduceExtractLsb'] at hc ho
    rw [decode_eq_decodeV hc, decodeV, ho]
    show (if _ then _ else _) = _
    simp (disch := decide) only [hi, lo, Nat.reduceSub, BitVec.extractLsb'_append_eq_of_le, BitVec.extractLsb'_append_eq_of_add_le, BitVec.extractLsb'_eq_self,
      BitVec.reduceExtractLsb', bit_eq_msb, BitVec.msb_ofBool]
    rfl
  all_goals exact absurd hi (of_decide_eq_false rfl)
theorem decode_encode_memory {i : Instr} {w : Word} (hi : 87 ≤ i.ctorIdx ∧ i.ctorIdx < 161) (h : encode i = some w) : decode w = .ok i := by
  cases i
  case fenceSg | rngctlNext | exit => cases h; rfl
  case ldTex2 | stShared32 =>
    obtain ⟨hi, lo⟩ := fields_of_append (congrArg BitVec.toNat (Option.some.inj h))
    have hc := hi 30 2 (by decide)
    have ho := hi 23 7 (by decide)
    simp (disch := decide) only [Nat.reduceSub, BitVec.reduceExtractLsb'] at hc ho
    rw [decode_eq_decodeM hc, decodeM, ho]
    show Except.ok _ = _
    simp (disch := decide) only [lo, BitVec.extractLsb'_eq_self]
  case ldI8 | ldN8 | ldI16 | ldN16 | ldB32 | ldB64 | ldB128 | stB8 | stB16 | stB32 | stB64 | stB128 | ldAcqB32 | ldAcqB64 | stRelB32 | stRelB64 | stMcB64 | atomAddI32 |
      atomAddF32 | atomMinI32 | atomMaxI32 | atomMinN32 | atomMaxN32 | atomAndB32 | atomOrB32 | atomXorB32 | atomExchB32 | atomCasB32 | atomAddI64 | atomExchB64 |
      atomCasB64 | atomAdd2Bf16 | pollB32 | pollB64 | icinv | pfrange | stmap | stunmap | shfl | shflUp | shflDn | shflX | voteAny | voteAll | voteBallot | voteEq |
      reduxAddI32 | reduxMaxI32 | reduxAddF32 | scanAddI32 | xsel | sample | rngB32 | rngctlSetStream | rngctlSetKey | rngctlReadCounter | join | leave | waitk | kop |
      boff | pickup | estat | phaseAcq | phaseRel | phaseAr | kmov | kmovFromScalar | kmovToScalar =>
    obtain ⟨hi, lo⟩ := fields_of_append (congrArg BitVec.toNat (Option.some.inj h))
    have hc := hi 30 2 (by decide)
    have ho := hi 23 7 (by decide)
    simp (disch := decide) only [Nat.reduceSub, BitVec.extractLsb'_append_eq_of_le, BitVec.reduceExtractLsb'] at hc ho
    rw [decode_eq_decodeM hc, decodeM, ho]
    show (if _ then _ else _) = _
    simp (disch := decide) only [hi, lo, Nat.reduceSub, BitVec.extractLsb'_append_eq_of_le, BitVec.extractLsb'_append_eq_of_add_le, BitVec.extractLsb'_eq_self,
      BitVec.reduceExtractLsb', bit_eq_msb, BitVec.msb_ofBool]
    rfl
  all_goals exact absurd hi (of_decide_eq_false rfl)
theorem decode_encode_scalar {i : Instr} {w : Word} (hi : 161 ≤ i.ctorIdx ∧ i.ctorIdx < 202) (h : encode i = some w) : decode w = .ok i := by
  cases i
  case yield => cases h; rfl
  case sli | slih | saddi | vli | vlih | srd | swr | bnz | bz | bnzs | call | sbar32 | sjoin32 =>
    obtain ⟨hi, lo⟩ := fields_of_append (congrArg BitVec.toNat (Option.some.inj h))
    have hc := hi 30 2 (by decide)
    have ho := hi 23 7 (by decide)
    simp (disch := decide) only [Nat.reduceSub, BitVec.extractLsb'_append_eq_of_le, BitVec.reduceExtractLsb'] at hc ho
    rw [decode_eq_decodeS hc, decodeS, ho]
    show Except.ok _ = _
    simp (disch := decide) only [hi, lo, Nat.reduceSub, BitVec.extractLsb'_append_eq_of_add_le, BitVec.extractLsb'_eq_self]
  case saddI32 | ssubI32 | smulI32 | sandB32 | sorB32 | sxorB32 | sshlB32 | sshrN32 | sshrI32 | sminI32 | smaxI32 | sminN32 | smaxN32 | sseqB32 | ssltI32 | ssltN32 | ssel
      | smov | sldB32 | sldB64 | sstB32 | sstB64 | wbase | bra | ret | jmp | migr =>
    obtain ⟨hi, lo⟩ := fields_of_append (congrArg BitVec.toNat (Option.some.inj h))
    have hc := hi 30 2 (by decide)
    have ho := hi 23 7 (by decide)
    simp (disch := decide) only [Nat.reduceSub, BitVec.extractLsb'_append_eq_of_le, BitVec.reduceExtractLsb'] at hc ho
    rw [decode_eq_decodeS hc, decodeS, ho]
    show (if _ then _ else _) = _
    simp (disch := decide) only [hi, lo, Nat.reduceSub, BitVec.extractLsb'_append_eq_of_le, BitVec.extractLsb'_append_eq_of_add_le, BitVec.extractLsb'_eq_self,
      BitVec.reduceExtractLsb', bit_eq_msb, BitVec.msb_ofBool]
    rfl
  all_goals exact absurd hi (of_decide_eq_false rfl)
theorem decode_encode_group {i : Instr} {w : Word} (hi : 202 ≤ i.ctorIdx ∧ i.ctorIdx < 240) (h : encode i = some w) (hs : i.sharesWord = false) : decode w = .ok i := by
  cases i
  case rft | tfence | halt | barWg | macq | mrel | mswap | mswapFl => cases h; rfl
  case trap | sleep | sleepc | barCl | barcInit | barcArrive | barcWait | mstr | mrd | mldw | mzero | mstat | ttpost | npost | nctlRetry | bseal | bwait | cwait | oscan | ocomp |
      olegal | oapply | ostat =>
    obtain ⟨hi, lo⟩ := fields_of_append (congrArg BitVec.toNat (Option.some.inj h))
    have hc := hi 30 2 (by decide)
    have hg := hi 25 5 (by decide)
    have ho := hi 21 4 (by decide)
    simp (disch := decide) only [Nat.reduceSub, BitVec.extractLsb'_append_eq_of_le, BitVec.reduceExtractLsb'] at hc hg ho
    rw [decode_eq_decodeX hc, decodeX, hg]
    simp (disch := decide) only [decodeX0, decodeX1, decodeX2, decodeX3, decodeX4, ho, hi, lo, Nat.reduceSub, BitVec.extractLsb'_append_eq_of_le,
      BitVec.extractLsb'_append_eq_of_add_le, BitVec.extractLsb'_eq_self, BitVec.reduceExtractLsb']
    rfl
  case j | jl =>
    obtain ⟨hi, lo⟩ := fields_of_append (congrArg BitVec.toNat (Option.some.inj h))
    have hc := hi 30 2 (by decide)
    have hg := hi 25 5 (by decide)
    simp (disch := decide) only [Nat.reduceSub, BitVec.reduceExtractLsb'] at hc hg
    rw [decode_eq_decodeX hc, decodeX, hg]
    show (if _ then _ else _) = _
    simp (disch := decide) only [hi, lo, Nat.reduceSub, BitVec.extractLsb'_eq_self,
      BitVec.reduceExtractLsb', bit_eq_msb]
    rfl
  case retiredXGroup g z =>
    obtain ⟨hi, lo⟩ := fields_of_append (congrArg BitVec.toNat (Option.some.inj h))
    have hc := hi 30 2 (by decide)
    have hg := hi 25 5 (by decide)
    have hr : field w 25 1 = g := by
      simp (disch := decide) only [hi, Nat.reduceSub, BitVec.extractLsb'_append_eq_of_add_le, BitVec.extractLsb'_eq_self]
    have hz : field w 0 25 = z := by simp (disch := decide) only [lo, BitVec.extractLsb'_eq_self]
    obtain rfl | rfl := BitVec.eq_zero_or_eq_one g
    all_goals
      simp only [BitVec.reduceAppend, BitVec.reduceExtractLsb', Nat.reduceSub] at hc hg
      rw [decode_eq_decodeX hc, decodeX, hg, hr, hz]
      rfl
  case mldwTable | nctlSkip | nctlAbort | nctlExtend => cases hs
  all_goals exact absurd hi (of_decide_eq_false rfl)
theorem decode_encode_needle {i : Instr} {w : Word} (hi : 240 ≤ i.ctorIdx ∧ i.ctorIdx < 271) (h : encode i = some w) : decode w = .ok i := by
  cases i
  case nEnd => cases h; rfl
  case nLi | nLih | nBz | nBnz | nLoop =>
    obtain ⟨hi, lo⟩ := fields_of_append (congrArg BitVec.toNat (Option.some.inj h))
    have hc := hi 30 2 (by decide)
    have hg := hi 25 5 (by decide)
    have ho := hi 20 5 (by decide)
    simp (disch := decide) only [Nat.reduceSub, BitVec.extractLsb'_append_eq_of_le, BitVec.reduceExtractLsb'] at hc hg ho
    rw [decode_eq_decodeN hc hg, decodeN, ho]
    show Except.ok _ = _
    simp (disch := decide) only [hi, lo, Nat.reduceSub, BitVec.extractLsb'_append_eq_of_add_le, BitVec.extractLsb'_eq_self]
  case nAdd | nSub | nMul | nAnd | nOr | nXor | nShl | nShr | nMin | nMax | nAddi | nBlt | nLdB32 | nLdB64 | nStB64 | nTag | nStep | nCopy | nGather | nScat | nChunk |
      nArrive | nWait | nPromise | nTrap =>
    obtain ⟨hi, lo⟩ := fields_of_append (congrArg BitVec.toNat (Option.some.inj h))
    have hc := hi 30 2 (by decide)
    have hg := hi 25 5 (by decide)
    have ho := hi 20 5 (by decide)
    simp (disch := decide) only [Nat.reduceSub, BitVec.extractLsb'_append_eq_of_le, BitVec.reduceExtractLsb'] at hc hg ho
    rw [decode_eq_decodeN hc hg, decodeN, ho]
    show (if _ then _ else _) = _
    simp (disch := decide) only [hi, lo, Nat.reduceSub, BitVec.extractLsb'_append_eq_of_le, BitVec.extractLsb'_append_eq_of_add_le, BitVec.extractLsb'_eq_self,
      BitVec.reduceExtractLsb']
    rfl
  all_goals exact absurd hi (of_decide_eq_false rfl)
/-- A row without a word is an event's. -/
theorem encode_isSome_or_event (i : Instr) : (encode i).isSome = true ∨ ∃ e : Machine.Event, e.instr = i := by
  cases i
  case loadDataArrival sg => exact .inr ⟨.loadDataArrival sg, rfl⟩
  case releaseComplete sg => exact .inr ⟨.releaseComplete sg, rfl⟩
  case pageWalkComplete core => exact .inr ⟨.pageWalkComplete core, rfl⟩
  case pollReread core row => exact .inr ⟨.pollReread core row, rfl⟩
  case fairTExpiry core row => exact .inr ⟨.fairTExpiry core row, rfl⟩
  case sleepExpiry sg => exact .inr ⟨.sleepExpiry sg, rfl⟩
  case sleepcExpiry sg => exact .inr ⟨.sleepcExpiry sg, rfl⟩
  case trapEntry sg => exact .inr ⟨.trapEntry sg, rfl⟩
  case asyncTrapEntry sg => exact .inr ⟨.asyncTrapEntry sg, rfl⟩
  case faultServiceResolved sg => exact .inr ⟨.faultServiceResolved sg, rfl⟩
  case faultServiceUnresolvable sg => exact .inr ⟨.faultServiceUnresolvable sg, rfl⟩
  case continuationEntry sg => exact .inr ⟨.continuationEntry sg, rfl⟩
  case accclaim core => exact .inr ⟨.accclaim core, rfl⟩
  case promiseExpiry wg slot => exact .inr ⟨.promiseExpiry wg slot, rfl⟩
  case needleTakeEntry core needle => exact .inr ⟨.needleTakeEntry core needle, rfl⟩
  case matrixCommandComplete core => exact .inr ⟨.matrixCommandComplete core, rfl⟩
  case tileTaskStart cluster => exact .inr ⟨.tileTaskStart cluster, rfl⟩
  case tileTaskComplete cluster => exact .inr ⟨.tileTaskComplete cluster, rfl⟩
  case orreryCommandPerform cluster => exact .inr ⟨.orreryCommandPerform cluster, rfl⟩
  case pfrangeComplete cmd => exact .inr ⟨.pfrangeComplete cmd, rfl⟩
  case qrsvRead q => exact .inr ⟨.qrsvRead q, rfl⟩
  case qctlEnable q on => exact .inr ⟨.qctlEnable q on, rfl⟩
  case qctlDrain q => exact .inr ⟨.qctlDrain q, rfl⟩
  case queueDrainEnd q => exact .inr ⟨.queueDrainEnd q, rfl⟩
  case queueWake q => exact .inr ⟨.queueWake q, rfl⟩
  case queueRescan => exact .inr ⟨.queueRescan, rfl⟩
  case entryConsume q => exact .inr ⟨.entryConsume q, rfl⟩
  case nop seq => exact .inr ⟨.nop seq, rfl⟩
  case launch seq => exact .inr ⟨.launch seq, rfl⟩
  case launchAdmission seq => exact .inr ⟨.launchAdmission seq, rfl⟩
  case graph seq => exact .inr ⟨.graph seq, rfl⟩
  case graphNodeStart seq node => exact .inr ⟨.graphNodeStart seq node, rfl⟩
  case loopIteration seq node => exact .inr ⟨.loopIteration seq node, rfl⟩
  case signal seq => exact .inr ⟨.signal seq, rfl⟩
  case wait seq => exact .inr ⟨.wait seq, rfl⟩
  case waitSatisfied seq => exact .inr ⟨.waitSatisfied seq, rfl⟩
  case releaseEstates seq => exact .inr ⟨.releaseEstates seq, rfl⟩
  case regionUpdate seq => exact .inr ⟨.regionUpdate seq, rfl⟩
  case regionCreate seq => exact .inr ⟨.regionCreate seq, rfl⟩
  case regionDestroy seq => exact .inr ⟨.regionDestroy seq, rfl⟩
  case regionCheckpoint seq => exact .inr ⟨.regionCheckpoint seq, rfl⟩
  case workgroupPlacement l => exact .inr ⟨.workgroupPlacement l, rfl⟩
  case estateMoveComplete core row slot => exact .inr ⟨.estateMoveComplete core row slot, rfl⟩
  case estateArrival wg => exact .inr ⟨.estateArrival wg, rfl⟩
  case workgroupBirth wg => exact .inr ⟨.workgroupBirth wg, rfl⟩
  case workgroupFree wg => exact .inr ⟨.workgroupFree wg, rfl⟩
  case preemptDecision core => exact .inr ⟨.preemptDecision core, rfl⟩
  case preemptDeadline core => exact .inr ⟨.preemptDeadline core, rfl⟩
  case preemptionSwap core ctx => exact .inr ⟨.preemptionSwap core ctx, rfl⟩
  case shadowSpillFill core ctx => exact .inr ⟨.shadowSpillFill core ctx, rfl⟩
  case scratchpadPageExchange wg page => exact .inr ⟨.scratchpadPageExchange wg page, rfl⟩
  case dvfsStep die domL code => exact .inr ⟨.dvfsStep die domL code, rfl⟩
  case relockEnd die domL => exact .inr ⟨.relockEnd die domL, rfl⟩
  case debugResume ctx area => exact .inr ⟨.debugResume ctx area, rfl⟩
  case pcSample core => exact .inr ⟨.pcSample core, rfl⟩
  case patrolScrub unit state => exact .inr ⟨.patrolScrub unit state, rfl⟩
  case xinvCtlGo => exact .inr ⟨.xinvCtlGo, rfl⟩
  case invalidationComplete => exact .inr ⟨.invalidationComplete, rfl⟩
  case devCtlResume => exact .inr ⟨.devCtlResume, rfl⟩
  case dbgCtlGo => exact .inr ⟨.dbgCtlGo, rfl⟩
  case jridxWrite n => exact .inr ⟨.jridxWrite n, rfl⟩
  case cntCtlFreeze on => exact .inr ⟨.cntCtlFreeze on, rfl⟩
  case cntCtlClear => exact .inr ⟨.cntCtlClear, rfl⟩
  case expCtlOpen win wprot => exact .inr ⟨.expCtlOpen win wprot, rfl⟩
  case expCtlClose win => exact .inr ⟨.expCtlClose win, rfl⟩
  case exportCloseComplete win => exact .inr ⟨.exportCloseComplete win, rfl⟩
  case registerWrite off size val => exact .inr ⟨.registerWrite off size val, rfl⟩
  case bar2Read off size => exact .inr ⟨.bar2Read off size, rfl⟩
  case bar2Write off size val => exact .inr ⟨.bar2Write off size val, rfl⟩
  case hostAtomicop off wide op x y => exact .inr ⟨.hostAtomicop off wide op x y, rfl⟩
  case sidebandRead off size => exact .inr ⟨.sidebandRead off size, rfl⟩
  case pldmSensorRead sensor => exact .inr ⟨.pldmSensorRead sensor, rfl⟩
  case powerCapEffecter watts => exact .inr ⟨.powerCapEffecter watts, rfl⟩
  case resetEffecter => exact .inr ⟨.resetEffecter, rfl⟩
  case coldResetEffecter => exact .inr ⟨.coldResetEffecter, rfl⟩
  case firmwareUpdate len => exact .inr ⟨.firmwareUpdate len, rfl⟩
  case functionLevelReset => exact .inr ⟨.functionLevelReset, rfl⟩
  case flrComplete => exact .inr ⟨.flrComplete, rfl⟩
  case surpriseLinkLoss => exact .inr ⟨.surpriseLinkLoss, rfl⟩
  case quiesceComplete => exact .inr ⟨.quiesceComplete, rfl⟩
  case linkRetrain => exact .inr ⟨.linkRetrain, rfl⟩
  case powerOn gmTime => exact .inr ⟨.powerOn gmTime, rfl⟩
  case perstDeassert => exact .inr ⟨.perstDeassert, rfl⟩
  case bringupReady => exact .inr ⟨.bringupReady, rfl⟩
  case thermalThrottle die => exact .inr ⟨.thermalThrottle die, rfl⟩
  case thermalTrip => exact .inr ⟨.thermalTrip, rfl⟩
  case flitReceive port head payload check => exact .inr ⟨.flitReceive port head payload check, rfl⟩
  case ackTimeout port => exact .inr ⟨.ackTimeout port, rfl⟩
  case portRetrainComplete port peer pport => exact .inr ⟨.portRetrainComplete port peer pport, rfl⟩
  case remoteRequest id key op loc size val => exact .inr ⟨.remoteRequest id key op loc size val, rfl⟩
  case remoteTimeout sg store => exact .inr ⟨.remoteTimeout sg store, rfl⟩
  case responseRetentionExpiry id => exact .inr ⟨.responseRetentionExpiry id, rfl⟩
  case ptpMessage offset gmReached => exact .inr ⟨.ptpMessage offset gmReached, rfl⟩
  case reservedOpcode word => exact .inr ⟨.reservedOpcode word, rfl⟩
  case fetchBufferFill core line => exact .inr ⟨.fetchBufferFill core line, rfl⟩
  case pickupComplete sg => exact .inr ⟨.pickupComplete sg, rfl⟩
  case clockCycle die domL => exact .inr ⟨.clockCycle die domL, rfl⟩
  case softError kind unit correctable => exact .inr ⟨.softError kind unit correctable, rfl⟩
  case cxlMemRequest write loc size val => exact .inr ⟨.cxlMemRequest write loc size val, rfl⟩
  case resizableBarResize log2 => exact .inr ⟨.resizableBarResize log2, rfl⟩
  all_goals exact .inl rfl
/-- What has a word stands in the opcode map. -/
theorem ctorIdx_lt_of_encode {i : Instr} {w : Word} (h : encode i = some w) : i.ctorIdx < 271 := by
  cases i
  any_goals exact of_decide_eq_true rfl
  all_goals cases h
theorem decode_encode {i : Instr} {w : Word} (h : encode i = some w) (hs : i.sharesWord = false) : decode w = .ok i := by
  obtain hv | hv := Nat.lt_or_ge i.ctorIdx 87
  · exact decode_encode_vector hv h
  obtain hm | hm := Nat.lt_or_ge i.ctorIdx 161
  · exact decode_encode_memory ⟨hv, hm⟩ h
  obtain hsc | hsc := Nat.lt_or_ge i.ctorIdx 202
  · exact decode_encode_scalar ⟨hm, hsc⟩ h
  obtain hx | hx := Nat.lt_or_ge i.ctorIdx 240
  · exact decode_encode_group ⟨hsc, hx⟩ h hs
  exact decode_encode_needle ⟨hx, ctorIdx_lt_of_encode h⟩ h

end Sys2Proof
end

section
/-!
SUPPORT. The word of a decoded instruction (R38, R39, R49 to R54): the fields that the decoder read, and the ones that it checked, are all the word's bits.
-/

namespace Sys2Proof

theorem encode_of_decodeV {w : Word} {i : Instr} (hc : field w 30 2 = 0) (h : decodeV w = .ok i) : encode i = some w := by
  unfold decodeV at h
  split at h
  all_goals simp only [guard_eq_ok_iff, Except.ok.injEq, reduceCtorEq] at h
  all_goals repeat (obtain ⟨_, h⟩ := h)
  all_goals refine congrArg some (BitVec.eq_of_toNat_eq ?_)
  any_goals
    rw [toNat_append_eq_word_iff (by decide)]
    simp only [append_eq_field_iff, ofBool_bit, and_true]
  all_goals
    simp only [bit_iff, bne_iff_ne, ne_eq, not_not, BitVec.ofNat_eq_ofNat,
      ← BitVec.toNat_inj, toNat_field, BitVec.toNat_ofNat, Nat.reduceAdd] at *
    omega
theorem encode_of_decodeM {w : Word} {i : Instr} (hc : field w 30 2 = 1) (h : decodeM w = .ok i) : encode i = some w := by
  unfold decodeM at h
  split at h
  all_goals simp only [guard_eq_ok_iff, Except.ok.injEq, reduceCtorEq] at h
  all_goals repeat (obtain ⟨_, h⟩ := h)
  any_goals split at h
  any_goals simp only [guard_eq_ok_iff, Except.ok.injEq, reduceCtorEq] at h
  all_goals repeat (obtain ⟨_, h⟩ := h)
  all_goals refine congrArg some (BitVec.eq_of_toNat_eq ?_)
  any_goals
    rw [toNat_append_eq_word_iff (by decide)]
    simp only [append_eq_field_iff, ofBool_bit, and_true]
  all_goals
    simp only [bit_iff, bne_iff_ne, ne_eq, not_not, Bool.or_eq_true, not_or, Bool.not_eq_eq_eq_not, Bool.not_true, Bool.not_eq_false, imp_false, BitVec.ofNat_eq_ofNat,
      ← BitVec.toNat_inj, toNat_field, BitVec.toNat_ofNat, Nat.reduceAdd] at *
    omega
theorem encode_of_decodeS {w : Word} {i : Instr} (hc : field w 30 2 = 2) (h : decodeS w = .ok i) : encode i = some w := by
  unfold decodeS at h
  split at h
  all_goals simp only [guard_eq_ok_iff, Except.ok.injEq, reduceCtorEq] at h
  all_goals repeat (obtain ⟨_, h⟩ := h)
  all_goals refine congrArg some (BitVec.eq_of_toNat_eq ?_)
  any_goals
    rw [toNat_append_eq_word_iff (by decide)]
    simp only [append_eq_field_iff, ofBool_bit, and_true]
  all_goals
    simp only [bit_iff, bne_iff_ne, ne_eq, not_not, BitVec.ofNat_eq_ofNat,
      ← BitVec.toNat_inj, toNat_field, BitVec.toNat_ofNat, Nat.reduceAdd] at *
    omega
theorem encode_of_decodeN {w : Word} {i : Instr} (hc : field w 30 2 = 3) (hg : field w 25 5 = 6) (h : decodeN w = .ok i) : encode i = some w := by
  unfold decodeN at h
  split at h
  all_goals simp only [guard_eq_ok_iff, Except.ok.injEq, reduceCtorEq] at h
  all_goals repeat (obtain ⟨_, h⟩ := h)
  all_goals refine congrArg some (BitVec.eq_of_toNat_eq ?_)
  any_goals
    rw [toNat_append_eq_word_iff (by decide)]
    simp only [append_eq_field_iff, and_true]
  all_goals
    simp only [bne_iff_ne, ne_eq, not_not, Bool.or_eq_true, not_or, BitVec.ofNat_eq_ofNat,
      ← BitVec.toNat_inj, toNat_field, BitVec.toNat_ofNat, Nat.reduceAdd] at *
    omega
theorem encode_of_decodeX {w : Word} {i : Instr} (hc : field w 30 2 = 3) (h : decodeX w = .ok i) : encode i = some w := by
  unfold decodeX decodeX0 decodeX1 decodeX2 decodeX3 decodeX4 at h
  split at h
  case h_7 hg => exact encode_of_decodeN hc (BitVec.eq_of_toNat_eq hg) h
  any_goals split at h
  all_goals simp only [guard_eq_ok_iff, Except.ok.injEq, reduceCtorEq] at h
  all_goals repeat (obtain ⟨_, h⟩ := h)
  any_goals split at h
  any_goals simp only [Except.ok.injEq] at h
  all_goals repeat (obtain ⟨_, h⟩ := h)
  all_goals refine congrArg some (BitVec.eq_of_toNat_eq ?_)
  any_goals
    rw [toNat_append_eq_word_iff (by decide)]
    simp only [append_eq_field_iff, and_true]
  all_goals
    simp only [bit_iff, bne_iff_ne, ne_eq, not_not, Bool.or_eq_true, not_or, BitVec.ofNat_eq_ofNat,
      ← BitVec.toNat_inj, toNat_field, BitVec.toNat_ofNat, Nat.reduceAdd] at *
    omega
theorem encode_of_decode {w : Word} {i : Instr} (h : decode w = .ok i) : encode i = some w := by
  unfold decode at h
  split at h
  case h_1 hc => exact encode_of_decodeV (BitVec.eq_of_toNat_eq hc) h
  case h_2 hc => exact encode_of_decodeM (BitVec.eq_of_toNat_eq hc) h
  case h_3 hc => exact encode_of_decodeS (BitVec.eq_of_toNat_eq hc) h
  case h_4 _ h0 h1 h2 =>
    rw [imp_false] at h0 h1 h2
    have hlt : (field w 30 2).toNat < 4 := (field w 30 2).isLt
    have hc : (field w 30 2).toNat = 3 := by omega
    exact encode_of_decodeX (BitVec.eq_of_toNat_eq hc) h

end Sys2Proof
end

section
open Sys2Proof Machine Claim
/-- Settles O30: one way by the parts that the encoder lays side by side, class by class; the other way by the bits that the decoder reads and checks. -/
theorem encodingRoundTrips : Obligations.EncodingRoundTrips := by
  unfold Obligations.EncodingRoundTrips
  refine ⟨fun i w => decode_encode, fun a b w h => decode_encode (i := .mldw a b) h rfl, fun a b w h => ?_, encode_isSome_or_event, fun w i => encode_of_decode⟩
  obtain h | h | h := h
  all_goals exact decode_encode (i := .nctlRetry a b) h rfl
end

section
/-!
SUPPORT. What stops a needle: the needle alone is stopped, and the trap that it delivers is asynchronous (R251 to R253).
-/

namespace Sys2Proof.Machine
open State Claim

/-- The subgroups and the needles are the same in both states. -/
def SameUnits (s t : State) : Prop := t.subs = s.subs ∧ ∀ c n, t.needle c n = s.needle c n

theorem SameUnits.refl (s : State) : SameUnits s s := ⟨rfl, fun _ _ => rfl⟩
theorem SameUnits.trans {s t u : State} (h : SameUnits s t) (k : SameUnits t u) : SameUnits s u :=
  ⟨k.1.trans h.1, fun c n => (k.2 c n).trans (h.2 c n)⟩
theorem SameUnits.foldl {α : Type} {s t : State} (h : SameUnits s t) (f : State → α → State) (hf : ∀ u a, SameUnits u (f u a)) (l : List α) : SameUnits s (l.foldl f t) := by
  induction l generalizing t with
  | nil => exact h
  | cons a l ih => exact ih (h.trans (hf t a))
theorem sameUnits_usePages (s : State) (w off n : Nat) : SameUnits s (s.usePages w off n) := by
  simp only [State.usePages]
  split
  · exact .refl s
  · refine ⟨rfl, fun c m => ?_⟩
    rw [modCore_eq, needle, core_setCore]
    split
    · next h => rw [h]; rfl
    · rfl
theorem sameUnits_scrWrite (s : State) (w off : Nat) (b : Byte) : SameUnits s (scrWrite s w off b) := ⟨rfl, fun _ _ => rfl⟩

theorem needle_setNeedle_self (s : State) (c n : Nat) (x : Needle) : (s.setNeedle c n x).needle c n = x := by
  rw [setNeedle, modCore_eq, needle, core_setCore_self, Tbl.get_set_self]

/-- A workgroup with a live subgroup has one that takes the trap of its needle (R253). -/
theorem deliverTo_isSome {s : State} {w : Nat} (hw : s.subsOf w ≠ []) (g : Nat) : (deliverTo s w g).isSome = true := by
  unfold deliverTo
  split
  · rfl
  · rw [← List.foldr_reverse]
    cases hl : (s.subsOf w).reverse with
    | nil => exact absurd (List.reverse_eq_nil_iff.mp hl) hw
    | cons h l =>
      rw [List.foldr_cons]
      split
      · rfl
      · split <;> rfl

/-- The trap of a command goes to a live subgroup of the workgroup as an asynchronous one: no needle moves and no precise trap becomes pending. -/
theorem deliver253_spec {s : State} {w : Nat} (hw : s.subsOf w ≠ []) (g slot : Nat) (T : Trap) :
    (∀ c n, (deliver253 s w g slot T).needle c n = s.needle c n) ∧ ∀ h, ((deliver253 s w g slot T).sub h).traps = (s.sub h).traps := by
  obtain ⟨k, hk⟩ := Option.isSome_iff_exists.mp (deliverTo_isSome hw g)
  rw [deliver253, hk]
  refine ⟨fun c n => rfl, fun h => ?_⟩
  show (((s.setSub k _).sub h).traps) = _
  rw [sub_setSub]
  split
  · next hh => rw [hh]
  · rfl

/-- The fault record of a needle is written into the ring of its workgroup, where there is one and no record is VALID (R252). -/
def recordStop (s : State) (x : Needle) (n w slot : Nat) (p : Stop) : State :=
  match ringOf s w with
  | none => s
  | some r =>
    let o := r + recordOff n
    let s := s.usePages w o 64
    if scrRead s w (o + 1) 1 % 2 = 1 then s else (recordBytes x n slot p).zipIdx.foldl (fun s b => scrWrite s w (o + b.2) b.1) s
theorem sameUnits_recordStop (s : State) (x : Needle) (n w slot : Nat) (p : Stop) : SameUnits s (recordStop s x n w slot p) := by
  simp only [recordStop]
  split
  · exact .refl s
  · next r _ =>
    have hp := sameUnits_usePages s w (r + recordOff n) 64
    split
    · exact hp
    · exact hp.foldl _ (fun u b => sameUnits_scrWrite u _ _ _) _
/-- The steps of a stop: the needle is marked, the record is written, the trap is delivered. -/
theorem stopNeedle_eq {s : State} {c n w slot : Nat} (hc : (s.needle c n).cmd = some (w, slot)) (p : Stop) :
    ∃ g T, stopNeedle s c n p =
      deliver253 (recordStop (s.setNeedle c n { s.needle c n with stopped := some (BitVec.ofNat 8 p.code), waiting := none }) (s.needle c n) n w slot p) w g slot T := by
  simp only [stopNeedle]
  split
  · next h => exact absurd (hc.symm.trans h) nofun
  · next v k h =>
    cases hc.symm.trans h
    exact ⟨_, _, rfl⟩
/-- A stop leaves the needle's PC, registers and command, and raises no precise trap (R251 to R253). -/
theorem stopNeedle_spec {s : State} {c n w slot : Nat} (hc : (s.needle c n).cmd = some (w, slot)) (hw : s.subsOf w ≠ []) (p : Stop) :
    (stopNeedle s c n p).needle c n = { s.needle c n with stopped := some (BitVec.ofNat 8 p.code), waiting := none } ∧
    ∀ g, ((stopNeedle s c n p).sub g).traps = (s.sub g).traps := by
  obtain ⟨g, T, he⟩ := stopNeedle_eq hc p
  rw [he]
  obtain ⟨hsubs, hneedle⟩ := sameUnits_recordStop (s.setNeedle c n { s.needle c n with stopped := some (BitVec.ofNat 8 p.code), waiting := none }) (s.needle c n) n w slot p
  obtain ⟨hd, htraps⟩ := deliver253_spec (s := recordStop _ _ n w slot p) (w := w) (by rw [subsOf, hsubs]; exact hw) g slot T
  refine ⟨(hd c n).trans ((hneedle c n).trans (needle_setNeedle_self _ _ _ _)), fun h => (htraps h).trans ?_⟩
  rw [State.sub, hsubs]
  rfl

/-! ### Words that stop the needle in turn -/

section
variable {s : State} {c n w slot : Nat}

/-- A word that is none stops the needle with ILLW (R56). -/
theorem reservedOpcode_needle (ht : Turns s c n w slot) (hpc : (s.needle c n).pc < codeSize s w) (word : Word) :
    exec (.reservedOpcode word) s = .next (stopNeedle s c n { code := 9 }) := by
  obtain ⟨hturn, hcmd⟩ := ht
  show execReservedOpcode word s = _
  simp only [execReservedOpcode, hturn, hcmd, hpc, if_true]
/-- A dimension above 5 stops the needle with ILLW (R54, R243). -/
theorem nStep_above (ht : Turns s c n w slot) (g : BitVec 2) {i : BitVec 8} (hi : 5 < i.toNat) : exec (.nStep g i) s = .next (stopNeedle s c n { code := 9 }) := by
  obtain ⟨hturn, hcmd⟩ := ht
  show execNStep g i s = _
  simp only [execNStep, withNeedle, hturn, hcmd, hi, if_true]
/-- Stopped with ILLW: the needle keeps its PC and its registers, and no thread takes a precise trap. -/
theorem stopNeedle_illw (ht : Turns s c n w slot) (hw : s.subsOf w ≠ []) {o : Out} (ho : o = .next (stopNeedle s c n { code := 9 })) :
    ∃ t, o = .next t ∧ (t.needle c n).stopped = some 9 ∧ (t.needle c n).pc = (s.needle c n).pc ∧ (t.needle c n).n = (s.needle c n).n ∧
      ∀ g, (t.sub g).traps = (s.sub g).traps := by
  obtain ⟨hn, htraps⟩ := stopNeedle_spec ht.2 hw { code := 9 }
  exact ⟨_, ho, congrArg Needle.stopped hn, by rw [hn], by rw [hn], htraps⟩

end

theorem rowOfNeedle_of_decode {word : Word} {i : Instr} (hg : word.extractLsb' 25 7 = 0x66) (hd : decode word = .ok i) : rowOfNeedle word = i := by
  rw [rowOfNeedle, if_pos hg, hd]
theorem rowOfNeedle_reserved {word : Word} (h : word.extractLsb' 25 7 ≠ 0x66 ∨ ∀ i, decode word ≠ .ok i) : rowOfNeedle word = .reservedOpcode word := by
  unfold rowOfNeedle
  split
  · next hg =>
    split
    · next i hd => exact absurd hd (h.resolve_left (absurd hg) i)
    · rfl
  · rfl
/-- NOP 0x1F of the needle group is reserved (R56). -/
theorem decode_needle_nop31 (z : BitVec 20) : decode (0xcdf00000 ||| BitVec.setWidth 32 z) = .error .reserved := by
  have hw : (0xcdf#12 ++ z).toNat = (0xcdf00000 ||| BitVec.setWidth 32 z).toNat := by
    rw [BitVec.append_def]
    rfl
  obtain ⟨hi, _⟩ := fields_of_append hw
  rw [decode_eq_decodeN (hi 30 2 (by decide)) (hi 25 5 (by decide)), decodeN, hi 20 5 (by decide)]
  rfl

end Sys2Proof.Machine
end

section
open Sys2Proof Machine Claim
/-- Settles O28: a word outside the group, or one that the decoder refuses, stands for RESERVED_OPCODE, which stops the needle with ILLW as a dimension above 5 does. -/
theorem aNeedleExecutesOnlyNeedleWords : Obligations.ANeedleExecutesOnlyNeedleWords := by
  unfold Obligations.ANeedleExecutesOnlyNeedleWords
  intro s c n w slot ht word
  refine ⟨fun i => rowOfNeedle_of_decode, fun h hpc hw => ?_, fun g i hi hw => stopNeedle_illw ht hw (nStep_above ht g hi), decode_needle_nop31⟩
  rw [rowOfNeedle_reserved h]
  exact stopNeedle_illw ht hw (reservedOpcode_needle ht hpc word)
end

section
/-!
SUPPORT. Which unit has its turn makes no difference to what a load does (R140, R154, R340): the functions that a load is made of, in the order of the model.
-/

namespace Sys2Proof.Machine
open State Claim

/-- The state in the turn of a unit. -/
def State.inTurn (t : Turn) (s : State) : State := { s with turn := t }
/-- What a function of the state gives, in the turn of a unit. -/
def inTurn2 {α : Type} (t : Turn) (p : State × α) : State × α := (p.1.inTurn t, p.2)

/-- Steps that the turn makes no difference to, one after the other. -/
theorem foldl_inTurn {α : Type} (t : Turn) (f : State → α → State) (hf : ∀ s a, f (s.inTurn t) a = (f s a).inTurn t) (l : List α) (s : State) :
    l.foldl f (s.inTurn t) = (l.foldl f s).inTurn t := by
  induction l generalizing s with
  | nil => rfl
  | cons a l ih => rw [List.foldl_cons, List.foldl_cons, hf, ih]

section
variable (t : Turn) (s : State)

/-! ### Requests over the links -/

theorem sendFlit_inTurn (p : Nat) (f : Flit) : (s.inTurn t).sendFlit p f = (s.sendFlit p f).inTurn t := by
  unfold State.sendFlit
  rw [show (s.inTurn t).portUp p = s.portUp p from rfl]
  split <;> rfl
theorem sendRequest_inTurn (p : Loc) : (s.inTurn t).sendRequest p = (s.sendRequest p).inTurn t := by
  unfold State.sendRequest
  rw [show (s.inTurn t).route (pkgOf p) (lineOf128 p) = s.route (pkgOf p) (lineOf128 p) from rfl]
  split
  · exact sendFlit_inTurn t s _ _
  · rfl
theorem nameFar_inTurn (p : Loc) (va : Nat) : (s.inTurn t).nameFar p va = (s.nameFar p va).inTurn t := by
  unfold State.nameFar
  split <;> rfl
theorem remoteAccess_inTurn (need : Need) (a : Dword) (spots : List Spot) : (s.inTurn t).remoteAccess need a spots = (s.remoteAccess need a spots).inTurn t := by
  simp only [State.remoteAccess]
  split
  · exact foldl_inTurn t _ (sendRequest_inTurn t) _ s
  · exact foldl_inTurn t _ (fun s q => nameFar_inTurn t s q.1 q.2.toNat) _ s

/-! ### Translation -/

theorem walkFrom_inTurn (va fuel level : Nat) (table : Loc) : walkFrom (s.inTurn t) va fuel level table = walkFrom s va fuel level table := by
  induction fuel generalizing level table with
  | zero => rfl
  | succ fuel ih =>
    rw [walkFrom, walkFrom]
    simp only [ih]
    rfl
theorem walk_inTurn (ctx va : Nat) : walk (s.inTurn t) ctx va = walk s ctx va := by
  unfold walk
  simp only [walkFrom_inTurn]
  rfl
theorem translate_inTurn (c ctx va : Nat) (need : Need) : translate (s.inTurn t) c ctx va need = inTurn2 t (translate s c ctx va need) := by
  simp only [translate, walk_inTurn]
  rw [show (s.inTurn t).core c = s.core c from rfl, show (s.inTurn t).cluster (clusterOf c) = s.cluster (clusterOf c) from rfl]
  split
  · rfl
  · split
    · rfl
    · split
      · rfl
      · split <;> rfl
theorem translateAll_inTurn (P : Party) (need : Need) (ns : List Named) : translateAll (s.inTurn t) P need ns = inTurn2 t (translateAll s P need ns) := by
  induction ns generalizing s with
  | nil => rfl
  | cons n ns ih =>
    cases n with
    | scr w off =>
      simp only [translateAll, ih]
      rcases translateAll s P need ns with ⟨u, _ | _⟩ <;> rfl
    | glob va =>
      simp only [translateAll, translate_inTurn]
      rcases translate s P.core P.ctx va need with ⟨u, e | y⟩
      · rfl
      · simp only [inTurn2, ih]
        rcases translateAll u P need ns with ⟨v, _ | _⟩ <;> rfl

/-! ### First touch of stash lines -/

theorem unfilled_inTurn (a : Dword) (spots : List Spot) : unfilled (s.inTurn t) a spots = unfilled s a spots := by
  induction spots generalizing a with
  | nil => rfl
  | cons y ys ih =>
    cases y with
    | glob x => exact ih (a + 1)
    | scr w off =>
      simp only [unfilled, ih]
      rfl
theorem placeLines_inTurn (P : Party) (ys : List Unfilled) : placeLines (s.inTurn t) P ys = inTurn2 t (placeLines s P ys) := by
  induction ys generalizing s with
  | nil => rfl
  | cons y ys ih =>
    simp only [placeLines, translate_inTurn]
    rcases translate s P.core P.ctx (y.range.base + 128 * y.line) .load with ⟨u, e | x⟩
    · rfl
    · simp only [inTurn2, ih]
      rcases placeLines u P ys with ⟨v, _ | _⟩ <;> rfl
theorem fillAll_inTurn (P : Party) (a : Dword) (spots : List Spot) : fillAll (s.inTurn t) P a spots = inTurn2 t (fillAll s P a spots) := by
  have hmay : ∀ (u : State) p, (u.inTurn t).mayReach P.ctx p = u.mayReach P.ctx p := fun _ _ => rfl
  have hreach : ∀ (u : State) p, (u.inTurn t).reachable p = u.reachable p := fun _ _ => rfl
  have hrefused : ∀ (u : State) p, (u.inTurn t).refusedAt P.ctx p false = u.refusedAt P.ctx p false := fun _ _ => rfl
  have hbad : ∀ (u : State) p, (u.inTurn t).badAt p 128 = u.badAt p 128 := fun _ _ => rfl
  simp only [fillAll, unfilled_inTurn, placeLines_inTurn]
  rcases placeLines s P (unfilled s a spots) with ⟨u, e | xs⟩
  · rfl
  · simp only [inTurn2, hmay, hreach, hrefused, hbad]
    split
    · rfl
    · rfl
    · rfl
    · rfl
    · exact congrArg (·, Except.ok ()) (foldl_inTurn t _ (fun _ _ => rfl) xs u)

/-! ### The access, and the needle that waits on what it reads -/

theorem usePages_inTurn (w off n : Nat) : (s.inTurn t).usePages w off n = (s.usePages w off n).inTurn t := by
  simp only [State.usePages]
  rw [show (s.inTurn t).wg w = s.wg w from rfl, show (s.inTurn t).core = s.core from rfl]
  split <;> rfl
theorem validPages_inTurn (spots : List Spot) : (s.inTurn t).validPages spots = (s.validPages spots).inTurn t := by
  refine foldl_inTurn t _ (fun s x => ?_) spots s
  cases x with
  | glob y => rfl
  | scr w off => exact usePages_inTurn t s w off 1
theorem locate_inTurn (P : Party) (sp : BitVec 2) (a : Dword) (n : Nat) (natural : Bool) (need : Need) :
    locate (s.inTurn t) P sp a n natural need = inTurn2 t (locate s P sp a n natural need) := by
  have hdecode : ∀ b, decodeAddr (s.inTurn t) P.core P.ctx P.wg sp b = decodeAddr s P.core P.ctx P.wg sp b := fun _ => rfl
  have hwg : ∀ w, (s.inTurn t).wg w = s.wg w := fun _ => rfl
  have hmay : ∀ (u : State) y, spotMay (u.inTurn t) P y = spotMay u P y := fun _ y => by cases y <;> rfl
  have hreached : ∀ (u : State) y, spotReached (u.inTurn t) y = spotReached u y := fun _ y => by cases y <;> rfl
  have hrefused : ∀ (u : State) y, spotRefused (u.inTurn t) P need y = spotRefused u P need y := fun _ y => by cases y <;> rfl
  simp only [locate, hdecode, hwg, translateAll_inTurn]
  split
  · rfl
  · split
    · rfl
    · split
      · rfl
      · next names _ _ _ _ =>
        rcases translateAll s P need names with ⟨u, e | spots⟩
        · rfl
        · simp only [inTurn2, hmay, hreached, hrefused, fillAll_inTurn]
          split
          · rfl
          · rcases fillAll u P a spots with ⟨v, e | _⟩
            · rfl
            · simp only [remoteAccess_inTurn]
              split
              · rw [validPages_inTurn]
              · rw [validPages_inTurn]
theorem loadAt_inTurn (P : Party) (sp : BitVec 2) (a : Dword) (n : Nat) (natural : Bool) : loadAt (s.inTurn t) P sp a n natural = inTurn2 t (loadAt s P sp a n natural) := by
  simp only [loadAt, loadFrom, locate_inTurn]
  rcases locate s P sp a n natural .load with ⟨u, e | spots⟩
  · rfl
  · simp only [inTurn2]
    rw [show correctable (u.inTurn t) a spots [] = correctable u a spots [] from rfl, show readSpots (u.inTurn t) P.core spots = readSpots u P.core spots from rfl]
    split <;> rfl
/-- Whether a needle has a word to perform does not depend on the turn (R247, R251). -/
theorem needleActive_inTurn (c n : Nat) : needleActive (s.inTurn t) c n = needleActive s c n := by
  simp only [needleActive, barrierSense, loadAt_inTurn]
  rfl

end
end Sys2Proof.Machine
end

section
/-!
SUPPORT. A step, unit by unit: what the agenda, a lane row, a needle and the clocks do in it (R66, R160, R184, R240), and the row that a word stands for.
-/

namespace Sys2Proof.Machine
open State Claim

/-! ### The unit in turn -/

theorem step_of_nextUnit {s : State} {t : Turn} (ha : s.agenda = []) (hn : nextUnit s = some t) : step s = stepUnit { s with turn := t } t := by
  rw [step, ha]
  dsimp only
  rw [hn]
theorem step_of_noUnit {s : State} (ha : s.agenda = []) (hn : nextUnit s = none) :
    step s = if clocksRun s then exec (.clockCycle (nextEdge s).1 (nextEdge s).2) s else .next s := by
  rw [step, ha]
  dsimp only
  rw [hn]

theorem foldl_modSub_turn (f : Nat → Sub → Sub) (gs : List Nat) (s : State) : (gs.foldl (fun s g => s.modSub g (f g)) s).turn = s.turn :=
  foldl_keeps State.turn (fun s g => s.modSub g (f g)) (fun _ _ => rfl) gs s
theorem applyMode_turn (s : State) (c r : Nat) : (applyMode s c r).turn = s.turn := by
  simp only [applyMode]
  split
  · rfl
  · split
    · exact foldl_modSub_turn _ _ s
    · rfl
theorem switchTo_turn (s : State) (c r : Nat) (k : Cand) : (switchTo s c r k).turn = s.turn := foldl_modSub_turn _ _ s
/-- What a lane row does next, it does in its own turn. -/
theorem rowNext_turn (s : State) (c r : Nat) : (rowNext s c r).1.turn = s.turn := by
  simp only [rowNext]
  split
  · rfl
  · split
    · rfl
    · split
      · exact applyMode_turn s c r
      · split
        · exact applyMode_turn s c r
        · split
          · exact applyMode_turn s c r
          · split
            · exact applyMode_turn s c r
            · exact (switchTo_turn _ c r _).trans (applyMode_turn s c r)
theorem issuing_place {s : State} {x : Cx} {c r : Nat} (ht : s.turn = .row c r) (hx : s.issuing = some x) : x.core = c ∧ x.row = r := by
  rw [State.issuing, ht] at hx
  dsimp only at hx
  split at hx
  · cases hx
  · split at hx
    · cases hx
    · cases hx
      exact ⟨rfl, rfl⟩

/-! ### The word in course -/

theorem fetch_of_buffered {s : State} {c ctx : Nat} {pc : Dword} {v : Word} (hpc : pc.toNat % 4 = 0) (hv : buffered (s.core c) pc = some v) : fetch s c ctx pc = (s, .ok v) := by
  simp [fetch, hpc, hv]
/-- A fetched word is the one that the fetch delivered, and it stands in the row. -/
theorem fetchWord_some {s q : State} {x : Cx} {w : Word} (h : fetchWord s x = (q, some w)) :
    (fetch s x.core (x.party s).ctx (x.pc s)).2 = .ok w ∧ (q.row x.core x.row).word = w := by
  simp only [fetchWord] at h
  split at h
  · next s' w' hf =>
    obtain ⟨hq, hw⟩ := Prod.ext_iff.mp h
    cases hw
    refine ⟨by rw [hf], ?_⟩
    subst hq
    dsimp only
    split
    · next hr => exact hr
    · rw [modRow_eq, row_setRow_self]
  · cases (Prod.ext_iff.mp h).2
theorem fetchWord_of_buffered {s q : State} {x : Cx} {w v : Word} (h : fetchWord s x = (q, some w)) (hpc : (x.pc s).toNat % 4 = 0)
    (hv : buffered (s.core x.core) (x.pc s) = some v) : w = v := by
  have hw := (fetchWord_some h).1
  rw [fetch_of_buffered hpc hv] at hw
  exact (Except.ok.inj hw).symm
theorem useSlot_row (s : State) (x : Cx) (w : Word) : let b := s.row x.core x.row
    (useSlot s x w).row x.core x.row = { b with spent := some (if (x.sub s).live = x.mask then 1 else 2), held := b.held ++ List.replicate (portCycles s x w - 1) 5 } := by
  rw [useSlot, modRow_eq, row_setRow_self]

/-! ### The row that a word stands for -/

theorem rowOfWord_of_decode {w : Word} {i : Instr} (h : decode w = .ok i) (s : State) : rowOfWord s w = selectRow s i := by
  rw [rowOfWord, h]
theorem rowOfWord_reserved {w : Word} (h : ∀ i, decode w ≠ .ok i) (s : State) : rowOfWord s w = .reservedOpcode w := by
  unfold rowOfWord
  split
  · next i hd => exact absurd hd (h i)
  · rfl
theorem selectRow_other (s : State) {i : Instr} (h : ∀ a b, i ≠ .mldw a b ∧ i ≠ .nctlRetry a b) : selectRow s i = i := by
  unfold selectRow
  split
  · rfl
  · split
    · next a b => exact absurd rfl (h a b).1
    · next a b => exact absurd rfl (h a b).2
    · rfl
theorem selectRow_mldw {s : State} {x : Cx} (h : s.issuing = some x) (a b : BitVec 7) :
    selectRow s (.mldw a b) = if ((x.sub s).sreg b.toNat).getLsbD 4 then .mldwTable a b else .mldw a b := by
  rw [selectRow, h]
theorem selectRow_nctl {s : State} {x : Cx} (h : s.issuing = some x) (a b : BitVec 7) :
    selectRow s (.nctlRetry a b) =
      match ((x.sub s).sreg a.toNat).toNat % 16 with
      | 1 => .nctlSkip a b
      | 2 => .nctlAbort a b
      | 3 => .nctlExtend a b
      | _ => .nctlRetry a b := by
  have hop : ((x.sub s).sreg a.toNat).toNat % 16 = (((x.sub s).sreg a.toNat).extractLsb' 0 4).toNat := by
    rw [BitVec.extractLsb'_toNat, Nat.shiftRight_zero]
  rw [selectRow, h, hop]
  dsimp only
  generalize ((x.sub s).sreg a.toNat).extractLsb' 0 4 = op
  split
  · next h1 => rw [h1]; rfl
  · next h1 =>
    split
    · next h2 => rw [h2]; rfl
    · next h2 =>
      split
      · next h3 => rw [h3]; rfl
      · next h3 =>
        split
        · next he => exact absurd (BitVec.eq_of_toNat_eq he) h1
        · next he => exact absurd (BitVec.eq_of_toNat_eq he) h2
        · next he => exact absurd (BitVec.eq_of_toNat_eq he) h3
        · rfl

/-! ### The step of a lane row -/

section
variable {s u v q : State} {c r g : Nat} {x : Cx} {w : Word}

theorem stepRow_trap (h : rowNext u c r = (v, .trap g)) : stepRow u c r = exec (.trapEntry g) v := by rw [stepRow, h]
theorem stepRow_async (h : rowNext u c r = (v, .async g)) : stepRow u c r = exec (.asyncTrapEntry g) v := by rw [stepRow, h]
theorem stepRow_continuation (h : rowNext u c r = (v, .continuation g)) : stepRow u c r = exec (.continuationEntry g) v := by rw [stepRow, h]
theorem stepRow_reread (h : rowNext u c r = (v, .reread)) : stepRow u c r = exec (.pollReread c r) (v.modRow c r fun y => { y with spent := some 3 }) := by
  rw [stepRow, h]
theorem stepRow_fetchFails (h : rowNext u c r = (v, .issue)) (hx : v.issuing = some x) (hf : fetchWord v x = (q, none)) : stepRow u c r = .next q := by
  rw [stepRow, h]
  dsimp only
  rw [hx]
  dsimp only
  rw [hf]
theorem stepRow_word (h : rowNext u c r = (v, .issue)) (hx : v.issuing = some x) (hf : fetchWord v x = (q, some w)) :
    stepRow u c r = exec (rowOfWord q w) (useSlot q x w) := by
  rw [stepRow, h]
  dsimp only
  rw [hx]
  dsimp only
  rw [hf]
/-- The word of a row in turn: the row that it stands for is performed, with the slot used and the word in course. -/
theorem stepRow_issue (ht : u.turn = .row c r) (h : rowNext u c r = (v, .issue)) (hx : v.issuing = some x) (hf : fetchWord v x = (q, some w)) :
    (∀ i, decode w = .ok i → stepRow u c r = exec (selectRow q i) (useSlot q x w)) ∧ ((∀ i, decode w ≠ .ok i) → stepRow u c r = exec (.reservedOpcode w) (useSlot q x w)) ∧
    (let b := q.row c r;
      (useSlot q x w).row c r = { b with spent := some (if (x.sub q).live = x.mask then 1 else 2), held := b.held ++ List.replicate (portCycles q x w - 1) 5 }) ∧
    (q.row c r).word = w := by
  have hv : v.turn = .row c r := by
    rw [← ht, ← rowNext_turn u c r, h]
  obtain ⟨rfl, rfl⟩ := issuing_place hv hx
  refine ⟨fun i hi => ?_, fun hn => ?_, useSlot_row q x w, (fetchWord_some hf).2⟩
  · rw [stepRow_word h hx hf, rowOfWord_of_decode hi]
  · rw [stepRow_word h hx hf, rowOfWord_reserved hn]

end

/-! ### The step of a needle, and of the clocks -/

theorem step_needle {s : State} {c n : Nat} {w : Word} (ha : s.agenda = []) (hn : nextUnit s = some (.needle c n)) (hact : needleActive s c n = true)
    (hw : needleWord s c n = some w) : let u : State := { s with turn := .needle c n }
    step s = exec (rowOfNeedle w) (u.setNeedle c n { s.needle c n with word := w, spent := true }) := by
  have hactive : needleActive (s.inTurn (.needle c n)) c n = true := (needleActive_inTurn _ s c n).trans hact
  have hword : needleWord (s.inTurn (.needle c n)) c n = some w := hw
  rw [step_of_nextUnit ha hn]
  show stepNeedle (s.inTurn (.needle c n)) c n = _
  rw [stepNeedle, if_pos hactive, hword]
  rfl
theorem step_clocks {s : State} (ha : s.agenda = []) (hn : nextUnit s = none) :
    (s.link.bringUp = .off → step s = .next s) ∧ (s.link.bringUp ≠ .off → ∃ d b, step s = exec (.clockCycle d b) s) := by
  rw [step_of_noUnit ha hn]
  refine ⟨fun h => if_neg ?_, fun h => ⟨_, _, if_pos ?_⟩⟩
  · simp [clocksRun, h]
  · simpa [clocksRun] using h

end Sys2Proof.Machine
end

section
open Sys2Proof Machine Claim
/-- Settles O31: the agenda's head by what it is, the unit in turn by what its row or its needle does next. -/
theorem aStepRunsTheDecodedInstruction : Obligations.AStepRunsTheDecodedInstruction := by
  unfold Obligations.AStepRunsTheDecodedInstruction
  refine ⟨fun s e rest h => ?_, fun s a rest h => ?_, fun s c r v x q w ha hn => ?_, fun s x q w h v hpc hv => fetchWord_of_buffered h hpc hv, fun s i h => selectRow_other s h,
    fun s x a b h => selectRow_mldw h a b, fun s x a b h => selectRow_nctl h a b, fun s c n w => step_needle, fun s ha hn => step_clocks ha hn⟩
  · rw [step, h]
  · rw [step, h]
  · intro u
    rw [show step s = stepRow u c r from step_of_nextUnit ha hn]
    exact ⟨fun h => by rw [rowNext, if_pos h], fun g => stepRow_trap, fun g => stepRow_async, fun g => stepRow_continuation, stepRow_reread, stepRow_fetchFails, stepRow_issue rfl⟩
end

section
/-!
SUPPORT. The retired multiply-add reads D as a source, and a source of a member that k0 does not name reads zero (R29, R117, R126).
-/

namespace Sys2Proof.Machine
open State Claim

/-- A row issues for member 0, whose v1 holds 5; the live mask of the subgroup is empty. -/
def issuingForNoLiveMember : State := (grp 0 1 1 (fun _ => [(1, 5)]) []).modSub 1 fun u => { u with k := [] }

theorem stands_issuingForNoLiveMember : Stands issuingForNoLiveMember (xof 0 1) := by constructor <;> decide +kernel
theorem calm_issuingForNoLiveMember (p : Nat → Bool) : Calm issuingForNoLiveMember (xof 0 1) p := by
  have hm : (xof 0 1).mode issuingForNoLiveMember = 0 := by decide +kernel
  exact fun h => absurd (hm.symm.trans h) (by decide)
/-- `mad24.i32 v1, v2, v3`: the operands read zero, and so does the accumulator. -/
theorem mad24_issuingForNoLiveMember : shows (regOf 0 1) (exec (.mad24I32 false 1 2 3) issuingForNoLiveMember) = some 0 := by decide +kernel
/-- What a completed word has made of a register of a member is what the next state shows. -/
theorem shows_of_completes {s : State} {x : Cx} {P : Sub → Prop} {o : Out} (h : Completes s x P o) (hg : x.sg = 1) {l : Nat} (hl : l ∈ x.lanes) (n : Nat) :
    ∃ v, P v ∧ shows (regOf l n) o = some ((v.thread l).reg n) := by
  obtain ⟨v, t, ho, hv, hw, _⟩ := h
  refine ⟨v, hv, ?_⟩
  have hm := hw.members l hl
  rw [hg] at hm
  rw [ho, shows, regOf, hm]
  rfl

end Sys2Proof.Machine
end

section
open Sys2Proof Machine Claim
/-- Refutes O48: its clause on `mad24.i32` adds the register of D itself, where the word reads D as a source, and `Stands` does not say that the members of the group are live.
Of a member outside the live mask that source is zero: the word leaves 0 in v1 where the clause wants the 5 that stood there. -/
theorem not_illegalRetiredAndReservedWords : ¬ Obligations.IllegalRetiredAndReservedWords := by
  unfold Obligations.IllegalRetiredAndReservedWords
  rintro ⟨_, ⟨hmad, _⟩, _⟩
  have hdone := hmad issuingForNoLiveMember (xof 0 1) false 1 2 3 stands_issuingForNoLiveMember nofun (by decide +kernel) (by decide +kernel) (by decide +kernel)
    (calm_issuingForNoLiveMember _)
  have hl : 0 ∈ (xof 0 1).lanes := by decide
  obtain ⟨v, hv, hshows⟩ := shows_of_completes hdone rfl hl 1
  have hreg : (v.thread 0).reg 1 = 5 := ((hv.members 0 hl).2 1).trans (by decide +kernel)
  rw [mad24_issuingForNoLiveMember, hreg] at hshows
  exact absurd hshows (by decide)
end

section
/-!
SUPPORT. Rounding a whole number of units of 2^e to units of 2^q: the unit below, the rest, and which of the two neighbours each mode takes (R75).
-/

namespace Sys2Proof.Machine
open Claim

/-- Whether a value of `d` units and a rest of `r` parts in `p` goes to the neighbour above (R75, R77). -/
def roundsUp (mode : RMode) (neg : Bool) (d r p : Nat) : Bool :=
  r != 0 && match mode with
    | .rne => decide (p < 2 * r) || (2 * r == p && d % 2 == 1)
    | .rtz => false
    | .rup => !neg
    | .rdn => neg
    | .rna => decide (p < 2 * r) || 2 * r == p
    | .rsr k => decide (2 ^ 16 ≤ r * 2 ^ 16 / p + k)

theorem two_zpow_eq {e q : Int} (h : e ≤ q) : (2 : ℚ) ^ q = 2 ^ (q - e).toNat * 2 ^ e := by
  rw [← zpow_natCast, ← zpow_add₀ two_ne_zero, Int.toNat_of_nonneg (by omega), Int.sub_add_cancel]

/-- The magnitude as `d` units of 2^q and a rest of `r` parts of size `w`, `p` to the unit, and what rounding makes of them. -/
theorem roundTo_parts (mode : RMode) (neg : Bool) (m : Nat) (e q : Int) : ∃ (d r p : Nat) (w : ℚ), 0 < w ∧ r < p ∧ (2 : ℚ) ^ q = p * w ∧
    Claim.units m e = d * 2 ^ q + r * w ∧ roundTo mode neg m e q false = (if roundsUp mode neg d r p then d + 1 else d, r != 0) := by
  by_cases h : e ≤ q
  · generalize hk : (q - e).toNat = k
    refine ⟨m / 2 ^ k, m % 2 ^ k, 2 ^ k, 2 ^ e, by positivity, Nat.mod_lt _ (by positivity), ?_, ?_, ?_⟩
    · rw [two_zpow_eq h, hk]
      push_cast
      rfl
    · have hm : (m : ℚ) = 2 ^ k * (m / 2 ^ k : ℕ) + (m % 2 ^ k : ℕ) := by exact_mod_cast (Nat.div_add_mod m (2 ^ k)).symm
      rw [Claim.units, two_zpow_eq h, hk, hm]
      ring
    · cases mode <;> simp [roundTo, roundsUp, h, hk]
  · refine ⟨m * 2 ^ (e - q).toNat, 0, 1, 2 ^ q, by positivity, one_pos, by simp, ?_, ?_⟩
    · rw [Claim.units, two_zpow_eq (by omega : q ≤ e)]
      push_cast
      ring
    · simp [roundTo, roundsUp, h]

section
variable {mode : RMode} {neg : Bool} {m : Nat} {e q : Int} {n : Nat} {lost : Bool} (h : roundTo mode neg m e q false = (n, lost))
include h

/-- Rounding takes the neighbour below, a rest `R` under the value, or the one above; `R` compares with half a unit as its parts do with half their number. -/
theorem roundTo_neighbour : ∃ (d r p : Nat) (R : ℚ), (0 ≤ R ∧ R < 2 ^ q) ∧ (R = 0 ↔ r = 0) ∧ (R ≤ 2 ^ q / 2 ↔ 2 * r ≤ p) ∧ (2 ^ q / 2 ≤ R ↔ p ≤ 2 * r) ∧
    r < p ∧ lost = (r != 0) ∧
    (roundsUp mode neg d r p = false ∧ n = d ∧ Claim.units m e - Claim.units n q = R ∨
      roundsUp mode neg d r p = true ∧ n = d + 1 ∧ Claim.units m e - Claim.units n q = R - 2 ^ q) := by
  obtain ⟨d, r, p, w, hw, hr, hu, hx, ht⟩ := roundTo_parts mode neg m e q
  obtain ⟨rfl, rfl⟩ := Prod.mk.inj (h.symm.trans ht)
  have hR : (r * w : ℚ) * 2 = (2 * r : ℕ) * w := by push_cast; ring
  refine ⟨d, r, p, r * w, ⟨by positivity, ?_⟩, by simp [hw.ne'], ?_, ?_, hr, rfl, ?_⟩
  · rw [hu, mul_lt_mul_iff_left₀ hw]
    exact_mod_cast hr
  · rw [hu, le_div_iff₀ two_pos, hR, mul_le_mul_iff_left₀ hw, Nat.cast_le]
  · rw [hu, div_le_iff₀ two_pos, hR, mul_le_mul_iff_left₀ hw, Nat.cast_le]
  · cases roundsUp mode neg d r p
    · exact .inl ⟨rfl, rfl, by rw [hx, Claim.units]; simp⟩
    · exact .inr ⟨rfl, rfl, by rw [hx, Claim.units, if_pos rfl]; push_cast; ring⟩

theorem roundTo_lost_iff : lost = true ↔ Claim.units n q ≠ Claim.units m e := by
  obtain ⟨d, r, p, R, ⟨-, hRu⟩, hzero, -, -, -, rfl, ⟨-, -, hxy⟩ | ⟨hup, -, hxy⟩⟩ := roundTo_neighbour h
  · rw [bne_iff_ne, ne_eq, ← hzero, ← hxy, sub_eq_zero, eq_comm]
  · have hr : r ≠ 0 := by
      rintro rfl
      simp [roundsUp] at hup
    exact ⟨fun _ hyx => by linarith, fun _ => by simpa using hr⟩

/-- A mode that never goes up takes the neighbour below. -/
theorem roundTo_below (hmode : ∀ d r p, roundsUp mode neg d r p = false) : Claim.units n q ≤ Claim.units m e ∧ Claim.units m e < Claim.units n q + 2 ^ q := by
  obtain ⟨d, r, p, R, ⟨hR, hRu⟩, -, -, -, -, -, ⟨-, -, hxy⟩ | ⟨hup, -, -⟩⟩ := roundTo_neighbour h
  · exact ⟨by linarith, by linarith⟩
  · exact absurd hup (by simp [hmode])

/-- A mode that goes up from every rest takes the neighbour above. -/
theorem roundTo_above (hmode : ∀ d r p, roundsUp mode neg d r p = (r != 0)) : Claim.units m e ≤ Claim.units n q ∧ Claim.units n q < Claim.units m e + 2 ^ q := by
  obtain ⟨d, r, p, R, ⟨hR, hRu⟩, hzero, -, -, -, -, ⟨hup, -, hxy⟩ | ⟨hup, -, hxy⟩⟩ := roundTo_neighbour h
  · have h0 : R = 0 := hzero.2 (by simpa [hmode] using hup)
    exact ⟨by linarith, by linarith⟩
  · have h0 : 0 < R := lt_of_le_of_ne hR fun h0 => by simp [hmode, hzero.1 h0.symm] at hup
    exact ⟨by linarith, by linarith⟩

/-- A mode that goes up from more than half a unit, and not from less, takes a nearest neighbour; two are equally near where the rest is half a unit. -/
theorem roundTo_nearest (hless : ∀ d r p, 2 * r < p → roundsUp mode neg d r p = false) (hmore : ∀ d r p, p < 2 * r → roundsUp mode neg d r p = true) :
    |Claim.units m e - Claim.units n q| ≤ 2 ^ q / 2 ∧
      (|Claim.units m e - Claim.units n q| = 2 ^ q / 2 → ∃ d r p, r < p ∧ 2 * r = p ∧
        (roundsUp mode neg d r p = false ∧ n = d ∨ roundsUp mode neg d r p = true ∧ n = d + 1 ∧ Claim.units m e < Claim.units n q)) := by
  obtain ⟨d, r, p, R, ⟨hR, hRu⟩, -, hle, hge, hr, -, ⟨hup, hn, hxy⟩ | ⟨hup, hn, hxy⟩⟩ := roundTo_neighbour h
  · have hhalf : 2 * r ≤ p := not_lt.1 fun hlt => by simp [hmore d r p hlt] at hup
    rw [hxy, abs_of_nonneg hR]
    exact ⟨hle.2 hhalf, fun htie => ⟨d, r, p, hr, le_antisymm hhalf (hge.1 htie.ge), .inl ⟨hup, hn⟩⟩⟩
  · have hhalf : p ≤ 2 * r := not_lt.1 fun hlt => by simp [hless d r p hlt] at hup
    have hlow := hge.2 hhalf
    rw [hxy, abs_of_neg (by linarith)]
    exact ⟨by linarith, fun htie => ⟨d, r, p, hr, le_antisymm (hle.1 (by linarith)) hhalf, .inr ⟨hup, hn, by linarith⟩⟩⟩

end

/-- A tie goes to the even neighbour. -/
theorem roundTo_rne {neg : Bool} {m : Nat} {e q : Int} {n : Nat} {lost : Bool} (h : roundTo .rne neg m e q false = (n, lost)) :
    |Claim.units m e - Claim.units n q| ≤ 2 ^ q / 2 ∧ (|Claim.units m e - Claim.units n q| = 2 ^ q / 2 → n % 2 = 0) := by
  obtain ⟨hnear, htie⟩ := roundTo_nearest h (fun d r p hlt => by simp [roundsUp]; omega) (fun d r p hlt => by simp [roundsUp]; omega)
  refine ⟨hnear, fun heq => ?_⟩
  obtain ⟨d, r, p, hr, hp, ⟨hup, hn⟩ | ⟨hup, hn, -⟩⟩ := htie heq
  · simp [roundsUp] at hup
    omega
  · simp [roundsUp] at hup
    omega

/-- A tie goes away from zero. -/
theorem roundTo_rna {neg : Bool} {m : Nat} {e q : Int} {n : Nat} {lost : Bool} (h : roundTo .rna neg m e q false = (n, lost)) :
    |Claim.units m e - Claim.units n q| ≤ 2 ^ q / 2 ∧ (|Claim.units m e - Claim.units n q| = 2 ^ q / 2 → Claim.units m e < Claim.units n q) := by
  obtain ⟨hnear, htie⟩ := roundTo_nearest h (fun d r p hlt => by simp [roundsUp]; omega) (fun d r p hlt => by simp [roundsUp]; omega)
  refine ⟨hnear, fun heq => ?_⟩
  obtain ⟨d, r, p, hr, hp, ⟨hup, -⟩ | ⟨-, -, hlt⟩⟩ := htie heq
  · simp [roundsUp] at hup
    omega
  · exact hlt

theorem roundingModesChooseTheR75Neighbour : RoundingModesChooseTheR75Neighbour := by
  intro mode neg m e q n lost h x y u
  refine ⟨roundTo_lost_iff h, ?_, ?_, ?_, ?_, ?_⟩
  · rintro rfl
    exact roundTo_rne h
  · rintro rfl
    exact roundTo_rna h
  · rintro rfl
    exact roundTo_below h fun d r p => by simp [roundsUp]
  · rintro rfl
    cases neg
    · exact roundTo_above h fun d r p => by simp [roundsUp]
    · exact roundTo_below h fun d r p => by simp [roundsUp]
  · rintro rfl
    cases neg
    · exact roundTo_below h fun d r p => by simp [roundsUp]
    · exact roundTo_above h fun d r p => by simp [roundsUp]

end Sys2Proof.Machine
end

section
/-!
SUPPORT. Operands that have no finite exact value, and sums of zeros (R69, R76, R101, R107).
-/

namespace Sys2Proof.Machine
open Claim

/-! ### The code of a result in f32 -/

section
variable (mode : RMode) (ftz : Bool) (n sig sticky : Bool) (fl : Flags)

theorem finish_nan : finish f32 mode ftz ⟨.nan sig, fl, sticky⟩ = { bits := 0x7fc00000, flags := fl } := by
  simp [finish, round, f32, Fmt.nanCode, Fmt.infCode, Fmt.topE]
theorem finish_inf : finish f32 mode ftz ⟨.inf n, fl, sticky⟩ = { bits := if n then 0xff800000 else 0x7f800000, flags := fl } := by
  cases n <;> simp [finish, round, f32, Fmt.signBit, Fmt.infCode, Fmt.topE]
theorem finish_zero (e : Int) : finish f32 mode ftz ⟨.fin n 0 e, fl, false⟩ = { bits := if n then 0x80000000 else 0, flags := fl } := by
  cases n <;> simp [finish, round, f32, Fmt.signBit]
end

/-! ### Sums (R101) -/

/-- A NaN among two terms makes the sum NaN, and no flag of its own. -/
theorem sumFp_nan (mode : RMode) (q : Bool) (y : Fp) : sumFp mode [.nan q, y] = { val := .nan false } := by
  cases y with
  | fin n m e => simp [sumFp, Fp.isNan]
  | inf n => cases n <;> simp [sumFp, Fp.isNan]
  | nan r => simp [sumFp, Fp.isNan]
theorem sumFp_inf (mode : RMode) (a b : Bool) :
    sumFp mode [.inf a, .inf b] = if a = b then { val := .inf a } else { val := .nan false, flags := flagIV } := by
  cases a <;> cases b <;> simp [sumFp, Fp.isNan]
theorem sumFp_opposite (mode : RMode) (a : Bool) {m : Nat} (hm : m ≠ 0) (e : Int) :
    sumFp mode [.fin a m e, .fin (!a) m e] = { val := .fin (mode == .rdn) 0 0 } := by
  cases a <;> simp [sumFp, Fp.isNan, Fp.isZero, hm, inUnits, zeroSign, Fp.neg]
theorem sumFp_zeros (mode : RMode) (a : Bool) (e g : Int) : sumFp mode [.fin a 0 e, .fin a 0 g] = { val := .fin a 0 0 } := by
  cases a <;> simp [sumFp, Fp.isNan, Fp.isZero, zeroSign, Fp.neg]

/-- A NaN operand makes a product NaN, and no flag of its own. -/
theorem mulFp_nan (q : Bool) (y : Fp) : mulFp (.nan q) y = { val := .nan false } := rfl
theorem mulFp_inf_zero (a b : Bool) (e : Int) : mulFp (.inf a) (.fin b 0 e) = { val := .nan false, flags := flagIV } := rfl

/-! ### Operations on special operands (R69, R101, R107) -/

section
variable (mode : RMode) (q a b : Bool) (e g : Int)

theorem sigFlag_nan (q : Bool) (y : Fp) : sigFlag [.nan q, y] = if q || y.isSig then flagIV else 0 := by simp [sigFlag, Fp.isSig]
theorem addRes_nan (y : Fp) : addRes mode (.nan q) y = { val := .nan false, flags := if q || y.isSig then flagIV else 0 } := by
  simp [addRes, sumFp_nan, sigFlag_nan]
theorem mulRes_nan (y : Fp) : mulRes (.nan q) y = { val := .nan false, flags := if q || y.isSig then flagIV else 0 } := by
  simp [mulRes, mulFp_nan, sigFlag_nan]
theorem addRes_inf : addRes mode (.inf a) (.inf b) = if a = b then { val := .inf a } else { val := .nan false, flags := flagIV } := by
  by_cases h : a = b <;> simp [addRes, sumFp_inf, h, sigFlag, Fp.isSig]
theorem addRes_opposite {m : Nat} (hm : m ≠ 0) : addRes mode (.fin a m e) (.fin (!a) m e) = { val := .fin (mode == .rdn) 0 0 } := by
  simp [addRes, sumFp_opposite mode a hm, sigFlag, Fp.isSig]
theorem addRes_zeros : addRes mode (.fin a 0 e) (.fin a 0 g) = { val := .fin a 0 0 } := by
  simp [addRes, sumFp_zeros, sigFlag, Fp.isSig]
theorem mulRes_inf_zero : mulRes (.inf a) (.fin b 0 e) = { val := .nan false, flags := flagIV } := by simp [mulRes, mulFp_inf_zero, sigFlag, Fp.isSig]
/-- An invalid product raises IV whatever NaN is added to it. -/
theorem fmaRes_inf_zero_nan : fmaRes mode (.inf a) (.fin b 0 e) (.nan q) = { val := .nan false, flags := flagIV } := by
  cases q <;> simp [fmaRes, mulFp_inf_zero, sumFp_nan, sigFlag, Fp.isSig, flagIV]
theorem divRes_zero_zero : divRes (.fin a 0 e) (.fin b 0 g) = { val := .nan false, flags := flagIV } := rfl
theorem divRes_inf_inf : divRes (.inf a) (.inf b) = { val := .nan false, flags := flagIV } := rfl
theorem divRes_by_zero {m : Nat} (hm : m ≠ 0) : divRes (.fin a m e) (.fin b 0 g) = { val := .inf (a != b), flags := flagDZ } := by simp [divRes, hm]
theorem sqrtRes_negative {m : Nat} (hm : m ≠ 0) : sqrtRes (.fin true m e) = { val := .nan false, flags := flagIV } := by simp [sqrtRes, hm]
theorem sqrtRes_zero : sqrtRes (.fin a 0 e) = { val := .fin a 0 0 } := rfl
theorem rcpRes_zero : rcpRes (.fin a 0 e) = { val := .inf a, flags := flagDZ } := rfl
theorem rcpRes_inf : rcpRes (.inf a) = { val := .fin a 0 0 } := by simp [rcpRes, divRes, Fp.neg]
theorem rsqRes_zero : rsqRes (.fin a 0 e) = { val := .inf a, flags := flagDZ } := rfl
theorem rsqRes_inf : rsqRes (.inf a) = if a then { val := .nan false, flags := flagIV } else { val := .fin false 0 0 } := rfl
end

theorem specialFloatCasesGiveTheirCodesAndFlags : SpecialFloatCasesGiveTheirCodesAndFlags := by
  intro mode ftz nan inf zero fin
  have hnan (fl : Flags) : fin { val := .nan false, flags := fl } = nan fl := finish_nan ..
  have hinf (n : Bool) (fl : Flags) : fin { val := .inf n, flags := fl } = inf n fl := finish_inf ..
  have hzero (n : Bool) : fin { val := .fin n 0 0 } = zero n := finish_zero ..
  refine ⟨fun q y => ?_, fun q y => ?_, fun a b => ?_, fun a b e => ?_, fun a b e q => ?_, fun a b e g => ?_, fun a b => ?_, fun a b m e g hm => ?_, fun m e hm => ?_,
    fun e n => ?_, fun a m e hm => ?_, fun a e g => ?_, fun n e => ?_, fun n => ?_, fun n e => ?_, ?_, ?_⟩
  · rw [addRes_nan, hnan]
  · rw [mulRes_nan, hnan]
  · rw [addRes_inf, apply_ite fin, hinf, hnan]
  · rw [mulRes_inf_zero, hnan]
  · rw [fmaRes_inf_zero_nan, hnan]
  · rw [divRes_zero_zero, hnan]
  · rw [divRes_inf_inf, hnan]
  · rw [divRes_by_zero _ _ _ _ hm, hinf]
  · rw [sqrtRes_negative _ hm, hnan]
  · rw [sqrtRes_zero, hzero]
  · rw [addRes_opposite _ _ _ hm, hzero]
  · rw [addRes_zeros, hzero]
  · rw [rcpRes_zero, hinf]
  · rw [rcpRes_inf, hzero]
  · rw [rsqRes_zero, hinf]
  · rw [rsqRes_inf, if_pos rfl, hnan]
  · rw [rsqRes_inf, if_neg (by decide), hzero]

end Sys2Proof.Machine
end

section
open Sys2Proof Machine Claim
/-- Settles O38: the neighbour that each mode takes, and the special operands operation by operation. -/
theorem roundingAndSpecialCasesFollowTheirRules : Obligations.RoundingAndSpecialCasesFollowTheirRules := by
  unfold Obligations.RoundingAndSpecialCasesFollowTheirRules
  exact ⟨roundingModesChooseTheR75Neighbour, specialFloatCasesGiveTheirCodesAndFlags⟩
end

section
/-!
SUPPORT. Words that change their subgroup thread by thread or raise a trap in it, and every byte left as it was (R82, R155, R259, R266, R267, R274).
-/

namespace Sys2Proof.Machine
open State Claim

/-! ### Changes of some threads of a subgroup -/

theorem modThreads_rest (s : State) (g : Nat) (ls : List Nat) (f : Thread → Thread) : s.modThreads g ls f = { s with subs := (s.modThreads g ls f).subs } := by
  unfold State.modThreads
  induction ls generalizing s with
  | nil => rfl
  | cons l ls ih =>
    rw [List.foldl_cons, ih]
    rfl
theorem sub_modThreads (s : State) (g h : Nat) (ls : List Nat) (f : Thread → Thread) :
    (s.modThreads g ls f).sub h = if h = g then ls.foldl (fun u l => u.modThread l f) (s.sub g) else s.sub h := by
  cases ls with
  | nil =>
    by_cases e : h = g
    · rw [e, if_pos rfl]; rfl
    · rw [if_neg e]; rfl
  | cons l ls => rw [modThreads_eq s g f (List.cons_ne_nil l ls), sub_setSub]
/-- What a change of some members leaves of their subgroup. -/
theorem sub_modThreads_rest (s : State) (g : Nat) (ls : List Nat) (nd : ls.Nodup) (f : Thread → Thread) :
    (s.modThreads g ls f).sub g = { s.sub g with threads := ((s.modThreads g ls f).sub g).threads } := by
  rw [sub_modThreads, if_pos rfl]
  exact (foldl_modThread ls nd (fun _ => f) _).1
theorem thread_modThreads (s : State) (g : Nat) (ls : List Nat) (nd : ls.Nodup) (f : Thread → Thread) (l : Nat) :
    ((s.modThreads g ls f).sub g).thread l = if l ∈ ls then f ((s.sub g).thread l) else (s.sub g).thread l := by
  rw [sub_modThreads, if_pos rfl]
  exact (foldl_modThread ls nd (fun _ => f) _).2 l
@[simp] theorem core_modThreads (s : State) (g : Nat) (ls : List Nat) (f : Thread → Thread) (c : Nat) : (s.modThreads g ls f).core c = s.core c := by
  rw [modThreads_rest]
  rfl
@[simp] theorem row_modThreads (s : State) (g : Nat) (ls : List Nat) (f : Thread → Thread) (c r : Nat) : (s.modThreads g ls f).row c r = s.row c r := by
  rw [modThreads_rest]
  rfl
@[simp] theorem cycle_modThreads (s : State) (g : Nat) (ls : List Nat) (f : Thread → Thread) (c : Nat) : (s.modThreads g ls f).cycle c = s.cycle c := by
  rw [modThreads_rest]
  rfl

theorem thread_blockAt (s : State) (x : Cx) {ls : List Nat} (nd : ls.Nodup) (w : Wait) (l : Nat) : ((blockAt s x ls w).sub x.sg).thread l =
    if l ∈ ls then { (x.sub s).thread l with wait := w, lastIssue := (s.row x.core x.row).issued + 1, readyAt := s.cycle x.core, lastAt := s.cycle x.core }
    else (x.sub s).thread l :=
  thread_modThreads s x.sg ls nd _ l

/-! ### Traps (R155, R259) -/

/-- A trap as it is recorded: at an `xsel` that stands before the word, where there is one (R127). -/
def atXsel (s : State) (x : Cx) (T : Trap) : Trap := match (s.row x.core x.row).xsel with
  | some p => { T with pc := p.pc, word := p.word }
  | none => T
theorem atXsel_none {s : State} {x : Cx} (h : (s.row x.core x.row).xsel = none) (T : Trap) : atXsel s x T = T := by rw [atXsel, h]
theorem isPageFault_atXsel (s : State) (x : Cx) (T : Trap) : isPageFault (atXsel s x T) = isPageFault T := by
  unfold atXsel
  split <;> rfl
theorem mem_trapLanes (T : Trap) (l : Nat) : l ∈ trapLanes T ↔ T.mask.getLsbD l = true :=
  (mem_lanesOf T.mask l).trans (and_iff_right_of_imp BitVec.lt_of_getLsbD)
/-- What the trap makes of a thread of its mask. -/
def trapMember (T : Trap) (t : Thread) : Thread := { t with pc := T.pc, wait := .trapped, since := if T.kind = 1 then min (t.since + 1) 0xffffffff else t.since }
/-- The row at a switch point, and the members of the trap waiting. -/
def trapMembers (s : State) (x : Cx) (T : Trap) : State :=
  (s.modRow x.core x.row fun r => { r with xsel := none, atSwitch := true }).modThreads x.sg (trapLanes T) (trapMember T)

theorem sub_trapMembers (s : State) (x : Cx) (T : Trap) : x.sub (trapMembers s x T) = { x.sub s with threads := (x.sub (trapMembers s x T)).threads } :=
  sub_modThreads_rest _ _ _ (nodup_lanesOf _) _

/-- Outside a handler, a trap that is no page fault joins those of its subgroup. -/
theorem raise_eq {s : State} {x : Cx} {T : Trap} (h : Issues s x) (hp : isPageFault T = false) :
    raise s x T = (trapMembers s x (atXsel s x T)).setSub x.sg { x.sub (trapMembers s x (atXsel s x T)) with
      traps := (x.sub s).traps ++ [{ atXsel s x T with order := (x.sub s).raised }]
      raised := (x.sub s).raised + 1 } := by
  obtain ⟨-, hsub, hin⟩ := h
  have hM := sub_trapMembers s x (atXsel s x T)
  have hnone : ¬ (s.subs.find? x.sg).isNone = true := by simpa [Option.isSome_iff_ne_none] using hsub
  have hpage : ¬ isPageFault (atXsel s x T) = true := by simpa [isPageFault_atXsel] using hp
  unfold raise
  rw [if_neg hnone]
  generalize hu : x.sub (trapMembers s x (atXsel s x T)) = u at hM ⊢
  have hmod : (trapMembers s x (atXsel s x T)).modSub x.sg (fun u => { u with raised := u.raised + 1 }) =
      (trapMembers s x (atXsel s x T)).setSub x.sg { u with raised := u.raised + 1 } := by rw [modSub_eq, ← hu]; rfl
  show (if isPageFault (atXsel s x T) = true then _ else
    if (((trapMembers s x (atXsel s x T)).modSub x.sg fun u => { u with raised := u.raised + 1 }).sub x.sg).inHandler = true then _ else
    ((trapMembers s x (atXsel s x T)).modSub x.sg fun u => { u with raised := u.raised + 1 }).modSub x.sg fun v =>
      { v with traps := v.traps ++ [{ atXsel s x T with order := (x.sub (trapMembers s x (atXsel s x T))).raised }] }) = _
  rw [if_neg hpage, hmod, sub_setSub_self, if_neg (by rw [hM]; exact Bool.eq_false_iff.1 hin), modSub_eq, sub_setSub_self, setSub_setSub, hu, hM]

/-- Outside a handler, a trap that is no page fault is pending, recorded at the `xsel` where one stands before the word. -/
theorem raise_raised {s : State} {x : Cx} {T : Trap} (h : Issues s x) (hp : isPageFault T = false) : Raised s (raise s x T) x (atXsel s x T) := by
  rw [raise_eq h hp]
  generalize atXsel s x T = P
  have hM := sub_trapMembers s x P
  have hcore (c : Nat) : (trapMembers s x P).core c = (s.modRow x.core x.row fun r => { r with xsel := none, atSwitch := true }).core c := core_modThreads ..
  have hself (v : Sub) : x.sub ((trapMembers s x P).setSub x.sg v) = v := sub_setSub_self ..
  refine ⟨?_, fun g hg => ?_, ?_, fun l => ?_, fun c => ?_, fun c r => ?_⟩
  · rw [trapMembers, modThreads_rest]
    rfl
  · rw [sub_setSub, if_neg hg, trapMembers, sub_modThreads, if_neg hg]
    rfl
  · rw [hself, hM]
  · rw [hself]
    exact (thread_modThreads _ _ _ (nodup_lanesOf _) _ l).trans (if_congr (mem_trapLanes P l) rfl rfl)
  · rw [core_setSub, hcore, modRow_eq, setRow_eq, core_setCore]
    by_cases h : c = x.core
    · subst h; simp
    · simp [h]
  · rw [row_setSub, trapMembers, row_modThreads, modRow_eq, row_setRow]
    by_cases h : c = x.core ∧ r = x.row
    · obtain ⟨rfl, rfl⟩ := h; simp
    · simp [h]

/-- ILL with a detail code, raised by the whole group (R55). -/
theorem ill_raisesIll {s : State} {x : Cx} (h : Issues s x) (detail : Nat) : RaisesIll s x detail (.next (ill s x detail)) := by
  have hr := raise_raised (T := trapOf s x x.mask 1 (BitVec.ofNat 8 detail)) h rfl
  cases hx : (s.row x.core x.row).xsel with
  | none =>
    rw [atXsel, hx] at hr
    exact ⟨_, _, _, rfl, hr, fun _ => ⟨rfl, rfl⟩, fun y hy => absurd (hx.symm.trans hy) nofun⟩
  | some p =>
    rw [atXsel, hx] at hr
    refine ⟨_, _, _, rfl, hr, (absurd · (by simp [hx])), fun y hy => ?_⟩
    obtain rfl := Option.some.inj (hx.symm.trans hy)
    exact ⟨rfl, rfl⟩

/-! ### Words of a level, and words that change nothing -/

theorem withLevel_pass {s : State} {x : Cx} {may : Sub → Bool} (k : Cx → Out) (h : Stands s x) (hl : may (x.sub s) = true) : withLevel s may k = k x := by
  rw [withLevel, withGroup_eq s x _ h.1, if_pos hl, withWord_eq s x k h]
/-- A word of another level raises ILL with detail 2 before every later check (R55). -/
theorem withLevel_refused {s : State} {x : Cx} {may : Sub → Bool} (k : Cx → Out) (h : Issues s x) (hl : may (x.sub s) = false) : RaisesIll s x 2 (withLevel s may k) := by
  rw [withLevel, withGroup_eq s x _ h.1, if_neg (Bool.eq_false_iff.1 hl)]
  exact ill_raisesIll h 2
theorem halt_refused {s : State} {x : Cx} (h : Issues s x) : RaisesIll s x 2 (exec .halt s) := by
  have ⟨_, _, hin⟩ := h
  exact withLevel_refused _ h (by rw [supervisor, hin, Bool.false_and])
theorem rft_refused {s : State} {x : Cx} (h : Issues s x) : RaisesIll s x 2 (exec .rft s) :=
  have ⟨_, _, hin⟩ := h
  withLevel_refused _ h hin
theorem switches_unchanged (s : State) (x : Cx) : Switches s x (Unchanged s x) (.next (done s x)) := by
  have hd : done (s.setSub x.sg (x.sub s)) x = done s x := by rw [done, done, advance_setSub_self]
  rw [← hd]
  exact switches_done s x _ (x.sub s) rfl rfl

/-! ### `tfence` (R82) -/

theorem getLsbD_foldl_or (ls : List Nat) (m : Dword) {l : Nat} (hl : l < 64) :
    (ls.foldl (fun m l => m ||| (1#64 <<< l)) m).getLsbD l = true ↔ m.getLsbD l = true ∨ l ∈ ls := by
  induction ls generalizing m with
  | nil => simp
  | cons k ls ih =>
    have hk : (1#64 <<< k).getLsbD l = true ↔ l = k := by simp [hl]; omega
    rw [List.foldl_cons, ih, BitVec.getLsbD_or, Bool.or_eq_true, hk, List.mem_cons, or_assoc]
theorem getLsbD_maskOf (ls : List Nat) {l : Nat} (hl : l < 64) : (maskOf ls).getLsbD l = true ↔ l ∈ ls :=
  (getLsbD_foldl_or ls 0 hl).trans (or_iff_right (by simp))

/-- Whether a member holds a flag whose trap is enabled. -/
def holdsEnabled (s : State) (x : Cx) (l : Nat) : Bool := ((x.sub s).thread l).tstat &&& (x.sub s).fen &&& 0x1f != 0

section
variable {s : State} {x : Cx} (h : Stands s x)
include h

theorem tfence_next : exec .tfence s = if maskOf (x.lanes.filter (holdsEnabled s x)) = 0 then .next (done s x)
    else .next (raise s x (trapOf s x (maskOf (x.lanes.filter (holdsEnabled s x))) 8 0)) :=
  withWord_eq s x _ h

theorem tfence_passes (hf : ∀ l ∈ x.lanes, holdsEnabled s x l = false) : Switches s x (Unchanged s x) (exec .tfence s) := by
  rw [tfence_next h, List.filter_eq_nil_iff.2 fun l hl => Bool.eq_false_iff.1 (hf l hl), if_pos maskOf_nil]
  exact switches_unchanged s x

theorem tfence_traps (hi : Issues s x) {m : Dword} (hm : ∀ l < 64, m.getLsbD l = (x.mask.getLsbD l && holdsEnabled s x l)) (h0 : m ≠ 0) :
    ∃ t, exec .tfence s = .next t ∧ Raised s t x { cause := 8, pc := x.pc s, mask := m, word := (s.row x.core x.row).word } := by
  have hmask : maskOf (x.lanes.filter (holdsEnabled s x)) = m := by
    refine BitVec.eq_of_getLsbD_eq fun l hl => ?_
    rw [Bool.eq_iff_iff, getLsbD_maskOf _ hl, hm l hl, List.mem_filter, Cx.lanes, mem_lanesOf, Bool.and_eq_true, and_iff_right hl]
  have hr := raise_raised (T := trapOf s x m 8 0) hi rfl
  rw [atXsel_none h.2] at hr
  rw [tfence_next h, hmask, if_neg h0]
  exact ⟨_, rfl, hr⟩

/-! ### `trap`, `halt` and `sleep` (R266, R267, R274) -/

theorem trap_raises (hi : Issues s x) (i : BitVec 21) : ∃ t, exec (.trap i) s = .next t ∧ Raised s t x {
    cause := if i.getLsbD 20 = true ∧ (x.launch s).dbg = true then 0x0e else 0x0d
    aux := i.setWidth 32
    pc := x.pc s
    mask := x.mask
    word := (s.row x.core x.row).word
    kind := 1 } := by
  have hpage (c : BitVec 8) : isPageFault { trapOf s x x.mask c 0 with aux := i.setWidth 32, kind := 1 } = false := by simp [isPageFault, trapOf]
  have hr := raise_raised hi (hpage (if i.getLsbD 20 && (x.launch s).dbg then 0x0e else 0x0d))
  rw [atXsel_none h.2] at hr
  simp only [← Bool.and_eq_true_iff]
  exact ⟨_, withWord_eq s x _ h, hr⟩

theorem halt_switches (hs : supervisor (x.sub s) = true) : Switches s x (fun v => v = { x.sub s with halted := true }) (exec .halt s) := by
  show Switches s x _ (execHalt s)
  rw [execHalt, withLevel_pass _ h hs]
  exact switches_done s x _ { x.sub s with halted := true } rfl rfl

theorem sleep_next (a : BitVec 7) (ha : spairOk a.toNat = true) : exec (.sleep a) s =
    if ((x.sub s).spair a.toNat).toNat ≤ s.etime.toNat then .next (done s x) else .next (blockAt s x x.lanes (.sleep ((x.sub s).spair a.toNat))) := by
  show execSleep a s = _
  rw [execSleep, withWord_eq s x _ h, checked_pass _ _ _ _ (by simpa using ha)]
  rfl

end

/-! ### Every byte left as it was -/

theorem SameBytes.trans {s t u : State} (h : SameBytes s t) (g : SameBytes t u) : SameBytes s u := by
  obtain ⟨h1, h2, h3⟩ := h
  obtain ⟨g1, g2, g3⟩ := g
  exact ⟨fun p => (g1 p).trans (h1 p), fun c p => (g2 c p).trans (h2 c p), fun w a => (g3 w a).trans (h3 w a)⟩
theorem sameBytes_setSub (s : State) (g : Nat) (u : Sub) : SameBytes s (s.setSub g u) := ⟨fun _ => rfl, fun _ _ => rfl, fun _ _ => rfl⟩
theorem sameBytes_setRow (s : State) (c r : Nat) (y : Row) : SameBytes s (s.setRow c r y) := by
  refine ⟨fun _ => rfl, fun e p => ?_, fun _ _ => rfl⟩
  unfold seen
  rw [view_setRow]
  rfl
theorem sameBytes_modThreads (s : State) (g : Nat) (ls : List Nat) (f : Thread → Thread) : SameBytes s (s.modThreads g ls f) := by
  rw [modThreads_rest]
  exact ⟨fun _ => rfl, fun _ _ => rfl, fun _ _ => rfl⟩
theorem sameBytes_blockAt (s : State) (x : Cx) (ls : List Nat) (w : Wait) : SameBytes s (blockAt s x ls w) :=
  ((sameBytes_modThreads s _ _ _).trans (sameBytes_setRow _ _ _ _)).trans (sameBytes_setRow _ _ _ _)
theorem sameBytes_advance (s : State) (x : Cx) (ls : List Nat) : SameBytes s (advance s x ls) := by
  rw [advance_eq]
  exact ((sameBytes_setSub s _ _).trans (sameBytes_setRow _ _ _ _)).trans (sameBytes_setRow _ _ _ _)

/-! ### `sleepc` (R274) -/

/-- The cycles that a thread has left of a `sleepc` of `i` cycles at `pc`. -/
def sleepcLeft (i : BitVec 21) (pc : Dword) (t : Thread) : Nat := match t.slept with
  | some (p, n) => if p = pc then n else i.toNat
  | none => i.toNat

section
variable (s : State) (x : Cx) (i : BitVec 21)

/-- The members whose count is 0, and the others. -/
def sleepcGo : List Nat := x.lanes.filter fun l => sleepcLeft i (x.pc s) ((x.sub s).thread l) == 0
def sleepcStay : List Nat := x.lanes.filter fun l => sleepcLeft i (x.pc s) ((x.sub s).thread l) != 0
/-- The members whose count is 0 have forgotten it. -/
def sleepcAwake : State := s.modThreads x.sg (sleepcGo s x i) fun t => { t with slept := none }
/-- The others wait, each with its count. -/
def sleepcWaiting : State := if (sleepcStay s x i).isEmpty then sleepcAwake s x i
  else (blockAt (sleepcAwake s x i) x (sleepcStay s x i) .sleepc).modThreads x.sg (sleepcStay s x i) fun t => { t with slept := some (x.pc s, sleepcLeft i (x.pc s) t) }

theorem mem_sleepcGo (l : Nat) : l ∈ sleepcGo s x i ↔ l ∈ x.lanes ∧ sleepcLeft i (x.pc s) ((x.sub s).thread l) = 0 := by simp [sleepcGo]
theorem mem_sleepcStay (l : Nat) : l ∈ sleepcStay s x i ↔ l ∈ x.lanes ∧ sleepcLeft i (x.pc s) ((x.sub s).thread l) ≠ 0 := by simp [sleepcStay]
theorem nodup_sleepcGo : (sleepcGo s x i).Nodup := (nodup_lanesOf _).filter _
theorem nodup_sleepcStay : (sleepcStay s x i).Nodup := (nodup_lanesOf _).filter _

theorem thread_sleepcAwake (l : Nat) : (x.sub (sleepcAwake s x i)).thread l =
    if l ∈ sleepcGo s x i then { (x.sub s).thread l with slept := none } else (x.sub s).thread l :=
  thread_modThreads s x.sg _ (nodup_sleepcGo s x i) _ l
theorem thread_sleepcWaiting (l : Nat) : (x.sub (sleepcWaiting s x i)).thread l = if l ∈ sleepcStay s x i then { (x.sub s).thread l with
      wait := .sleepc
      slept := some (x.pc s, sleepcLeft i (x.pc s) ((x.sub s).thread l))
      lastIssue := (s.row x.core x.row).issued + 1
      readyAt := s.cycle x.core
      lastAt := s.cycle x.core } else (x.sub (sleepcAwake s x i)).thread l := by
  unfold sleepcWaiting
  split
  next hn => rw [if_neg (by simp [List.isEmpty_iff.1 hn])]
  next =>
    show (State.sub (State.modThreads _ _ _ _) x.sg).thread l = _
    rw [thread_modThreads _ _ _ (nodup_sleepcStay s x i)]
    by_cases hl : l ∈ sleepcStay s x i
    · have hgo : l ∉ sleepcGo s x i := fun hg => ((mem_sleepcStay s x i l).1 hl).2 ((mem_sleepcGo s x i l).1 hg).2
      rw [if_pos hl, if_pos hl, thread_blockAt _ _ (nodup_sleepcStay s x i), if_pos hl, thread_sleepcAwake, if_neg hgo, sleepcAwake, row_modThreads, cycle_modThreads]
      rfl
    · rw [if_neg hl, if_neg hl, thread_blockAt _ _ (nodup_sleepcStay s x i), if_neg hl]
theorem pc_sleepcWaiting : x.pc (sleepcWaiting s x i) = x.pc s := by
  show ((x.sub (sleepcWaiting s x i)).thread _).pc = _
  rw [thread_sleepcWaiting, thread_sleepcAwake]
  split
  · rfl
  · split <;> rfl
theorem sameBytes_sleepcWaiting : SameBytes s (sleepcWaiting s x i) := by
  have ha : SameBytes s (sleepcAwake s x i) := sameBytes_modThreads ..
  unfold sleepcWaiting
  split
  · exact ha
  · exact (ha.trans (sameBytes_blockAt ..)).trans (sameBytes_modThreads ..)

/-- What a `sleepc` leaves: the members whose count is 0 go on, the others wait, and the row stands at a switch point. -/
def sleepcNext : State := switchPoint (if (sleepcGo s x i).isEmpty then sleepcWaiting s x i else advance (sleepcWaiting s x i) x (sleepcGo s x i)) x

theorem sleepc_next (h : Stands s x) : exec (.sleepc i) s = .next (sleepcNext s x i) := withWord_eq s x _ h
theorem sameBytes_sleepcNext : SameBytes s (sleepcNext s x i) := by
  refine SameBytes.trans ?_ (sameBytes_setRow _ _ _ _)
  split
  · exact sameBytes_sleepcWaiting s x i
  · exact (sameBytes_sleepcWaiting s x i).trans (sameBytes_advance ..)
theorem thread_sleepcNext (l : Nat) : (x.sub (sleepcNext s x i)).thread l = if l ∈ sleepcGo s x i
    then ((x.sub (sleepcWaiting s x i)).thread l).goTo ((sleepcWaiting s x i).cycle x.core) (((sleepcWaiting s x i).row x.core x.row).issued + 1) (x.pc s + 4)
    else (x.sub (sleepcWaiting s x i)).thread l := by
  show ((if _ then _ else _ : State).sub x.sg).thread l = _
  split
  next hn => rw [if_neg (by simp [List.isEmpty_iff.1 hn])]; rfl
  next =>
    rw [advance_eq, sub_setRow, pc_sleepcWaiting]
    exact (goTo_spec _ x _ (nodup_sleepcGo s x i) _).2 l

/-- A member whose count is 0 goes on. -/
theorem sleepcNext_go {l : Nat} (hl : l ∈ x.lanes) (h0 : sleepcLeft i (x.pc s) ((x.sub s).thread l) = 0) : let n := (x.sub (sleepcNext s x i)).thread l
    n.pc = x.pc s + 4 ∧ n.wait = .none ∧ n.slept = none ∧ n.v = ((x.sub s).thread l).v := by
  have hgo : l ∈ sleepcGo s x i := (mem_sleepcGo s x i l).2 ⟨hl, h0⟩
  have hstay : l ∉ sleepcStay s x i := fun hs => ((mem_sleepcStay s x i l).1 hs).2 h0
  rw [thread_sleepcNext, if_pos hgo, thread_sleepcWaiting, if_neg hstay, thread_sleepcAwake, if_pos hgo]
  exact ⟨rfl, rfl, rfl, rfl⟩
/-- A member with a count left waits with it. -/
theorem sleepcNext_stay {l : Nat} (hl : l ∈ x.lanes) (h0 : sleepcLeft i (x.pc s) ((x.sub s).thread l) ≠ 0) : (x.sub (sleepcNext s x i)).thread l =
    { (x.sub s).thread l with
      wait := .sleepc
      slept := some (x.pc s, sleepcLeft i (x.pc s) ((x.sub s).thread l))
      lastIssue := (s.row x.core x.row).issued + 1
      readyAt := s.cycle x.core
      lastAt := s.cycle x.core } := by
  have hgo : l ∉ sleepcGo s x i := fun hg => h0 ((mem_sleepcGo s x i l).1 hg).2
  rw [thread_sleepcNext, if_neg hgo, thread_sleepcWaiting, if_pos ((mem_sleepcStay s x i l).2 ⟨hl, h0⟩)]

/-- Where no member has a count left the word completes for the group. -/
theorem sleepcNext_done (h : Stands s x) (h0 : ∀ l ∈ x.lanes, sleepcLeft i (x.pc s) ((x.sub s).thread l) = 0) :
    sleepcNext s x i = done (s.setSub x.sg (x.lanes.foldl (fun u l => u.modThread l fun t => { t with slept := none }) (x.sub s))) x := by
  have hgo : sleepcGo s x i = x.lanes := List.filter_eq_self.2 fun l hl => by simp [h0 l hl]
  have hstay : sleepcStay s x i = [] := List.filter_eq_nil_iff.2 fun l hl => by simp [h0 l hl]
  have hne : ¬ x.lanes.isEmpty = true := by simpa using lanes_ne_nil h
  rw [sleepcNext, hgo, if_neg hne, sleepcWaiting, hstay, if_pos List.isEmpty_nil, sleepcAwake, hgo, modThreads_eq _ _ _ (lanes_ne_nil h)]
  rfl
theorem sleepc_switches (h : Stands s x) (h0 : ∀ l ∈ x.lanes, sleepcLeft i (x.pc s) ((x.sub s).thread l) = 0) :
    Switches s x (fun v => v = { x.sub s with threads := v.threads } ∧ ∀ l, v.thread l =
      if l ∈ x.lanes then { (x.sub s).thread l with slept := none } else (x.sub s).thread l) (exec (.sleepc i) s) := by
  obtain ⟨hrest, hthread⟩ := foldl_modThread x.lanes (nodup_lanesOf _) (fun _ t => { t with slept := none }) (x.sub s)
  rw [sleepc_next s x i h, sleepcNext_done s x i h h0]
  refine switches_done s x _ _ ?_ ⟨hrest, hthread⟩
  rw [hthread]
  split <;> rfl
end

end Sys2Proof.Machine
end

section
open Sys2Proof Machine Claim
/-- Settles O7: `trap`, `tfence` and words of another level by the trap that the group raises, `halt`, `sleep` and `sleepc` by what their subgroup becomes. -/
theorem systemWordsTrapFenceHaltAndSleep : Obligations.SystemWordsTrapFenceHaltAndSleep := by
  unfold Obligations.SystemWordsTrapFenceHaltAndSleep
  refine ⟨fun s x i h hi => trap_raises h hi i, fun s x h => ⟨tfence_passes h, fun hi m => tfence_traps h hi⟩, fun s x h => halt_switches h, fun s x hi => ⟨halt_refused hi, rft_refused hi⟩,
    fun s x a h ha => ⟨fun hle => ?_, fun hlt => ?_⟩, fun s x i h => ⟨sleepc_switches s x i h, _, sleepc_next s x i h, sameBytes_sleepcNext s x i, fun l hl =>
      ⟨sleepcNext_go s x i hl, sleepcNext_stay s x i hl⟩⟩⟩
  · rw [sleep_next h a ha, if_pos hle]
    exact switches_unchanged s x
  · rw [sleep_next h a ha, if_neg hlt.not_ge]
end

section
/-!
SUPPORT. What the integer words compute, as integers and naturals (R86 to R91): the operations on bits that the model uses, each as a number.
-/

namespace Sys2Proof.Machine
open Claim

/-! ### Sums, products and logic -/

theorem add_eq_ofInt {n : Nat} (A B : BitVec n) : A + B = BitVec.ofInt n (A.toInt + B.toInt) := by rw [BitVec.ofInt_add, BitVec.ofInt_toInt, BitVec.ofInt_toInt]
theorem add_eq_ofNat {n : Nat} (A B : BitVec n) : A + B = BitVec.ofNat n (A.toNat + B.toNat) := BitVec.add_def A B
theorem sub_eq_ofInt {n : Nat} (A B : BitVec n) : A - B = BitVec.ofInt n (A.toInt - B.toInt) := by
  rw [Int.sub_eq_add_neg, BitVec.ofInt_add, BitVec.ofInt_neg, BitVec.ofInt_toInt, BitVec.ofInt_toInt, BitVec.sub_eq_add_neg]
theorem mul_eq_ofInt {n : Nat} (A B : BitVec n) : A * B = BitVec.ofInt n (A.toInt * B.toInt) := by rw [BitVec.ofInt_mul, BitVec.ofInt_toInt, BitVec.ofInt_toInt]
theorem mul_eq_ofNat (A B : Word) : A * B = BitVec.ofNat 32 (A.toNat * B.toNat) := by
  rw [BitVec.ofNat_mul, BitVec.ofNat_toNat, BitVec.ofNat_toNat, BitVec.setWidth_eq, BitVec.setWidth_eq]
theorem mad_eq_ofNat (A B D : Word) : A * B + D = BitVec.ofNat 32 (A.toNat * B.toNat + D.toNat) := by
  rw [BitVec.ofNat_add, ← mul_eq_ofNat, BitVec.ofNat_toNat, BitVec.setWidth_eq]
theorem and_eq_ofNat (A B : Word) : A &&& B = BitVec.ofNat 32 (A.toNat &&& B.toNat) := by rw [← BitVec.toNat_and, BitVec.ofNat_toNat, BitVec.setWidth_eq]
theorem or_eq_ofNat (A B : Word) : A ||| B = BitVec.ofNat 32 (A.toNat ||| B.toNat) := by rw [← BitVec.toNat_or, BitVec.ofNat_toNat, BitVec.setWidth_eq]
theorem xor_eq_ofNat (A B : Word) : A ^^^ B = BitVec.ofNat 32 (A.toNat ^^^ B.toNat) := by rw [← BitVec.toNat_xor, BitVec.ofNat_toNat, BitVec.setWidth_eq]
theorem andn_eq_ofNat (A B : Word) : A &&& ~~~B = BitVec.ofNat 32 (A.toNat &&& (2 ^ 32 - 1 - B.toNat)) := by rw [and_eq_ofNat, BitVec.toNat_not]
theorem lea_eq_ofInt (k : Int) (A : Dword) (B : Word) : lea k A B = BitVec.ofInt 64 (A.toInt + B.toInt * k) := by rw [lea, BitVec.ofInt_add, BitVec.ofInt_toInt]

/-! ### Shifts -/

theorem shiftLeft_eq_ofNat (A : Word) (k : Nat) : A <<< k = BitVec.ofNat 32 (A.toNat * 2 ^ k) :=
  BitVec.eq_of_toNat_eq (by rw [BitVec.toNat_shiftLeft, Nat.shiftLeft_eq, BitVec.toNat_ofNat])
theorem ushiftRight_eq_ofNat (A : Word) (k : Nat) : A >>> k = BitVec.ofNat 32 (A.toNat / 2 ^ k) :=
  BitVec.eq_of_toNat_eq (by
    rw [BitVec.toNat_ushiftRight, Nat.shiftRight_eq_div_pow, BitVec.toNat_ofNat, Nat.mod_eq_of_lt (lt_of_le_of_lt (Nat.div_le_self _ _) A.isLt)])
theorem sshiftRight_eq_ofInt (A : Word) (k : Nat) : A.sshiftRight k = BitVec.ofInt 32 (A.toInt / 2 ^ k) := by
  rw [BitVec.sshiftRight, Int.shiftRight_eq_div_pow]
  norm_cast

theorem shl_eq (A B : Word) : shl A B = if 32 ≤ B.toNat then 0 else BitVec.ofNat 32 (A.toNat * 2 ^ B.toNat) := by rw [shl, shiftLeft_eq_ofNat]
theorem shrN_eq (A B : Word) : shrN A B = if 32 ≤ B.toNat then 0 else BitVec.ofNat 32 (A.toNat / 2 ^ B.toNat) := by rw [shrN, ushiftRight_eq_ofNat]
theorem shrI_eq (A B : Word) : shrI A B = if 32 ≤ B.toNat then (if A.toInt < 0 then -1 else 0) else BitVec.ofInt 32 (A.toInt / 2 ^ B.toNat) := by
  rw [shrI, sshiftRight_eq_ofInt, BitVec.msb_eq_toInt]
  simp only [decide_eq_true_eq]
  rfl
theorem rot_eq (A B : Word) : rot A B = BitVec.ofNat 32 (A.toNat * 2 ^ (B.toNat % 32)) ||| BitVec.ofNat 32 (A.toNat / 2 ^ (32 - B.toNat % 32)) := by
  rw [rot, BitVec.rotateLeft_def, Nat.mod_mod, shiftLeft_eq_ofNat, ushiftRight_eq_ofNat]

/-! ### Comparisons -/

theorem minI_eq (A B : Word) : minI A B = BitVec.ofInt 32 (min A.toInt B.toInt) := by
  rw [minI, min_def, apply_ite (BitVec.ofInt 32), BitVec.ofInt_toInt, BitVec.ofInt_toInt]
theorem maxI_eq (A B : Word) : maxI A B = BitVec.ofInt 32 (max A.toInt B.toInt) := by
  rw [maxI, max_def, apply_ite (BitVec.ofInt 32), BitVec.ofInt_toInt, BitVec.ofInt_toInt]
theorem minN_eq (A B : Word) : minN A B = BitVec.ofNat 32 (min A.toNat B.toNat) := by
  rw [minN, min_def, apply_ite (BitVec.ofNat 32), BitVec.ofNat_toNat, BitVec.ofNat_toNat, BitVec.setWidth_eq, BitVec.setWidth_eq]
theorem maxN_eq (A B : Word) : maxN A B = BitVec.ofNat 32 (max A.toNat B.toNat) := by
  rw [maxN, max_def, apply_ite (BitVec.ofNat 32), BitVec.ofNat_toNat, BitVec.ofNat_toNat, BitVec.setWidth_eq, BitVec.setWidth_eq]

theorem ofBool_decide (p : Prop) [Decidable p] : ofBool (decide p) = if p then 1 else 0 := by rw [ofBool]; simp only [decide_eq_true_eq]
theorem sltI_eq (A B : Word) : ofBool (decide (A.toInt < B.toInt)) = if A.toInt < B.toInt then 1 else 0 := ofBool_decide _
theorem sleI_eq (A B : Word) : ofBool (decide (A.toInt ≤ B.toInt)) = if A.toInt ≤ B.toInt then 1 else 0 := ofBool_decide _
theorem sltN_eq (A B : Word) : ofBool (decide (A.toNat < B.toNat)) = if A.toNat < B.toNat then 1 else 0 := ofBool_decide _
theorem sleN_eq (A B : Word) : ofBool (decide (A.toNat ≤ B.toNat)) = if A.toNat ≤ B.toNat then 1 else 0 := ofBool_decide _
theorem ofBool_beq (A B : Word) : ofBool (A == B) = if A = B then 1 else 0 := by rw [ofBool]; simp only [beq_iff_eq]
theorem ofBool_bne (A B : Word) : ofBool (A != B) = if A = B then 0 else 1 := by rw [ofBool]; simp only [bne_iff_ne, ite_not]
theorem sel_toNat (A B D : Word) : sel A B D = if D.toNat ≠ 0 then A else B := by rw [sel]; simp only [ne_eq, ← BitVec.toNat_inj, BitVec.toNat_zero, BitVec.ofNat_eq_ofNat]
theorem sel_zero (A B D : Word) : sel A B D = if D = 0 then B else A := by rw [sel, ite_not]

/-! ### Bit fields (R88) -/

/-- A bit of the field mask, below bit 32. -/
theorem getLsbD_fieldMask (B : Word) (i : Nat) : (fieldMask B).getLsbD i = (decide (i < 32) && decide (fieldPos B ≤ i) && decide (i - fieldPos B < fieldWidth B)) := by
  rw [fieldMask, BitVec.getLsbD_ofNat, Nat.testBit_mul_two_pow, Nat.testBit_two_pow_sub_one, Bool.and_assoc]
theorem bfe_eq (A B : Word) : bfe A B = BitVec.ofNat 32 (A.toNat / 2 ^ (B.toNat % 32) % 2 ^ (B.toNat / 256 % 64)) := by
  refine BitVec.eq_of_getLsbD_eq fun i hi => ?_
  rw [bfe, BitVec.getLsbD_ushiftRight, BitVec.getLsbD_and, getLsbD_fieldMask, BitVec.getLsbD_ofNat, Nat.testBit_mod_two_pow, Nat.testBit_div_two_pow,
    show A.toNat.testBit (i + B.toNat % 32) = A.getLsbD (fieldPos B + i) by rw [Nat.add_comm]; rfl]
  by_cases h : fieldPos B + i < 32
  · have hw : i < fieldWidth B ↔ i < B.toNat / 256 % 64 := by unfold fieldWidth; omega
    simp [h, hw, hi, Bool.and_comm]
  · rw [BitVec.getLsbD_of_ge _ _ (by omega)]
    simp
theorem bfi_eq (A B D : Word) : bfi A B D =
    (D &&& ~~~(fieldMask B)) ||| (BitVec.ofNat 32 (A.toNat * 2 ^ (B.toNat % 32)) &&& fieldMask B) := by rw [bfi, shiftLeft_eq_ofNat, fieldPos]

/-! ### Dot products (R87) -/

theorem byteI_eq (A : Word) (i : Nat) : byteI A i = ((A >>> (8 * i)).setWidth 8).toInt := by rw [byteI, BitVec.setWidth_ushiftRight_eq_extractLsb]
theorem byteN_eq (A : Word) (i : Nat) : byteN A i = A.toNat / 2 ^ (8 * i) % 256 := by rw [byteN, BitVec.extractLsb'_toNat, Nat.shiftRight_eq_div_pow]
theorem dp4I_eq (A B D : Word) : dp4I A B D =
    BitVec.ofInt 32 (D.toInt + ∑ i ∈ Finset.range 4, ((A >>> (8 * i)).setWidth 8).toInt * ((B >>> (8 * i)).setWidth 8).toInt) := by
  rw [dp4I, BitVec.ofInt_add D.toInt, BitVec.ofInt_toInt, Finset.sum_range_succ, Finset.sum_range_succ, Finset.sum_range_succ, Finset.sum_range_one]
  simp only [byteI_eq]
theorem dp4N_eq (A B D : Word) : dp4N A B D =
    BitVec.ofNat 32 (D.toNat + ∑ i ∈ Finset.range 4, A.toNat / 2 ^ (8 * i) % 256 * (B.toNat / 2 ^ (8 * i) % 256)) := by
  rw [dp4N, BitVec.ofNat_add D.toNat, BitVec.ofNat_toNat, BitVec.setWidth_eq, Finset.sum_range_succ, Finset.sum_range_succ, Finset.sum_range_succ, Finset.sum_range_one]
  simp only [byteN_eq]

/-! ### Immediates (R90) -/

theorem add_signed {m : Nat} (hm : m ≤ 32) (i : BitVec m) (A : Word) : A + i.signExtend 32 = BitVec.ofInt 32 (A.toInt + i.toInt) := by
  rw [add_eq_ofInt, BitVec.toInt_signExtend_of_le hm]
theorem mul_signed (i : BitVec 8) (A : Word) : A * i.signExtend 32 = BitVec.ofInt 32 (A.toInt * i.toInt) := by rw [mul_eq_ofInt, BitVec.toInt_signExtend_of_le (by decide)]
theorem and_unsigned (i : BitVec 8) (A : Word) : A &&& i.setWidth 32 = BitVec.ofNat 32 (A.toNat &&& i.toNat) := by rw [and_eq_ofNat, BitVec.toNat_setWidth_of_le (by decide)]
theorem or_unsigned (i : BitVec 8) (A : Word) : A ||| i.setWidth 32 = BitVec.ofNat 32 (A.toNat ||| i.toNat) := by rw [or_eq_ofNat, BitVec.toNat_setWidth_of_le (by decide)]
theorem xor_unsigned (i : BitVec 8) (A : Word) : A ^^^ i.setWidth 32 = BitVec.ofNat 32 (A.toNat ^^^ i.toNat) := by rw [xor_eq_ofNat, BitVec.toNat_setWidth_of_le (by decide)]

/-- A count of five bits is below 32. -/
theorem count_lt (i : BitVec 5) : ¬ 32 ≤ i.toNat := i.isLt.not_ge
theorem shl_count (i : BitVec 5) (A : Word) : shl A (i.setWidth 32) = BitVec.ofNat 32 (A.toNat * 2 ^ i.toNat) := by
  rw [shl_eq, BitVec.toNat_setWidth_of_le (by decide), if_neg (count_lt i)]
theorem shrN_count (i : BitVec 5) (A : Word) : shrN A (i.setWidth 32) = BitVec.ofNat 32 (A.toNat / 2 ^ i.toNat) := by
  rw [shrN_eq, BitVec.toNat_setWidth_of_le (by decide), if_neg (count_lt i)]
theorem shrI_count (i : BitVec 5) (A : Word) : shrI A (i.setWidth 32) = BitVec.ofInt 32 (A.toInt / 2 ^ i.toNat) := by
  rw [shrI_eq, BitVec.toNat_setWidth_of_le (by decide), if_neg (count_lt i)]

/-! ### Counts and the reverse of bits (R89) -/

theorem countP_range_getLsbD (A : Word) (n : Nat) : ((List.range n).countP fun i => A.getLsbD i) = ∑ i ∈ Finset.range n, A.toNat / 2 ^ i % 2 := by
  induction n with
  | zero => rfl
  | succ n ih =>
    rw [List.range_succ, List.countP_append, ih, Finset.sum_range_succ, List.countP_singleton, ← Nat.toNat_testBit, BitVec.testBit_toNat]
    cases A.getLsbD n <;> rfl
theorem popc_eq (A : Word) : popc A = BitVec.ofNat 32 (∑ i ∈ Finset.range 32, A.toNat / 2 ^ i % 2) := by rw [popc, countP_range_getLsbD]

/-- The leading zeros end at the bit that the binary logarithm names. -/
theorem clz_eq (A : Word) : clz A = if A = 0 then 32 else BitVec.ofNat 32 (31 - Nat.log2 A.toNat) := by
  unfold clz
  rw [List.takeWhile_eq_take_findIdx_not, List.length_take, List.length_range]
  simp only [Bool.not_not]
  split
  case isTrue h =>
    rw [List.findIdx_eq_length_of_false (by simp [h]), List.length_range]
    rfl
  case isFalse h =>
    have h0 : A.toNat ≠ 0 := fun e => h (BitVec.eq_of_toNat_eq e)
    have hlog : Nat.log2 A.toNat < 32 := (Nat.log2_lt h0).2 A.isLt
    have hfind : (List.range 32).findIdx (fun i => A.getLsbD (31 - i)) = 31 - Nat.log2 A.toNat := by
      refine (List.findIdx_eq (by simp; omega)).2 ⟨?_, fun j hj => ?_⟩
      · rw [List.getElem_range, show 31 - (31 - Nat.log2 A.toNat) = Nat.log2 A.toNat by omega, ← BitVec.testBit_toNat]
        exact Nat.testBit_log2 h0
      · rw [List.getElem_range, ← BitVec.testBit_toNat]
        exact Nat.testBit_lt_two_pow (lt_of_lt_of_le Nat.lt_log2_self (Nat.pow_le_pow_right (by decide) (by omega)))
    rw [hfind, Nat.min_eq_left (by omega)]

/-- The bits that a reversal has put in place after its first `n` steps. -/
theorem getLsbD_reversed (A : Word) (n j : Nat) (hn : n ≤ 32) (hj : j < 32) :
    ((List.range n).foldl (fun (r : Word) i => if A.getLsbD i then r ||| (1#32 <<< (31 - i)) else r) 0).getLsbD j = (decide (31 - j < n) && A.getLsbD (31 - j)) := by
  induction n with
  | zero => simp
  | succ n ih =>
    have hbit : (1#32 <<< (31 - n)).getLsbD j = decide (31 - j = n) := by
      rw [← BitVec.twoPow_eq, BitVec.getLsbD_twoPow, ← Bool.decide_and]
      exact decide_eq_decide.2 (by omega)
    rw [List.range_succ, List.foldl_append, List.foldl_cons, List.foldl_nil]
    split
    case isTrue h =>
      rw [BitVec.getLsbD_or, ih (by omega), hbit]
      by_cases e : 31 - j = n
      · simp [e, h]
      · simp [e, show 31 - j < n + 1 ↔ 31 - j < n by omega]
    case isFalse h =>
      rw [ih (by omega)]
      by_cases e : 31 - j = n
      · simp [e, h]
      · simp [show 31 - j < n + 1 ↔ 31 - j < n by omega]
theorem brev_eq (A : Word) : brev A = A.reverse := by
  refine BitVec.eq_of_getLsbD_eq fun i hi => ?_
  rw [brev, getLsbD_reversed A 32 i le_rfl hi, BitVec.getLsbD_reverse, BitVec.getMsbD]
  simp [show 31 - i < 32 by omega, hi]

end Sys2Proof.Machine
end

section
/-!
SUPPORT. The integer, pair and scalar words by the shapes of their classes (R83 to R92), and the constant words (R93, R97).
-/

namespace Sys2Proof.Machine
open State Claim

/-! ### Words of the V class -/

/-- A V-class word that computes `f` gives the result `g`, where `f` and `g` agree. -/
theorem rr_of_vOp {sh : Shape} {i : Bool → Bool → BitVec 7 → BitVec 7 → BitVec 7 → Instr} {f g : Word → Dword → Dword → Dword → LaneRes}
    (he : ∀ s w sb d a b, exec (i w sb d a b) s = vOp s sh w sb d a b f) (hf : f = g) : RR sh i g := by
  intro s x w sb d a b h
  rw [he, hf]
  exact vOp_spec s x sh w sb d a b g h

section
variable {i : Bool → Bool → BitVec 7 → BitVec 7 → BitVec 7 → Instr}

theorem rr_of_int2 {f g : Word → Word → Word} (hf : ∀ A B, f A B = g A B) (he : ∀ s w sb d a b, exec (i w sb d a b) s = int2 s w sb d a b f := by intros; rfl) :
    RR {} i (int32 fun A B _ => g A B) :=
  rr_of_vOp he (by funext t A B D; exact congrArg res (hf (loOf A) (loOf B)))
theorem rr_of_int3 {f g : Word → Word → Word → Word} (hf : ∀ A B D, f A B D = g A B D)
    (he : ∀ s w sb d a b, exec (i w sb d a b) s = int3 s w sb d a b f := by intros; rfl) : RR { readsD := true } i (int32 g) :=
  rr_of_vOp he (by funext t A B D; exact congrArg res (hf (loOf A) (loOf B) (loOf D)))
theorem rr_of_int64 {f g : Dword → Dword → Dword} (hf : ∀ A B, f A B = g A B)
    (he : ∀ s w sb d a b, exec (i w sb d a b) s = Machine.int64 s w sb d a b f := by intros; rfl) :
    RR { wideD := true, wideA := true, wideB := true } i (Claim.int64 g) :=
  rr_of_vOp he (by funext t A B D; exact congrArg (LaneRes.mk · 0) (hf A B))
theorem rr_of_intLea {k : Int} (he : ∀ s w sb d a b, exec (i w sb d a b) s = intLea s w sb d a b k := by intros; rfl) :
    RR { wideD := true, wideA := true } i (Claim.int64 fun A B => BitVec.ofInt 64 (A.toInt + (loOf B).toInt * k)) :=
  rr_of_vOp he (by funext t A B D; exact congrArg (LaneRes.mk · 0) (lea_eq_ofInt k A (loOf B)))
end

theorem r1_of_int1 {i : Bool → BitVec 7 → BitVec 7 → Instr} {f g : Word → Word} (hf : ∀ A, f A = g A)
    (he : ∀ s w d a, exec (i w d a) s = int1 s w d a f := by intros; rfl) : R1 {} i (int32 fun A _ _ => g A) := by
  intro s x w d a h
  have hfg : (fun _ A _ _ => res (f (loOf A)) : Word → Dword → Dword → Dword → LaneRes) = int32 fun A _ _ => g A := by
    funext t A B D
    exact congrArg res (hf (loOf A))
  rw [he, int1, hfg]
  exact vOp_spec s x { useB := false } w false d a 0 _ h

theorem integerPairWordsGiveR86Results : IntegerPairWordsGiveR86Results :=
  ⟨rr_of_int2 add_eq_ofInt, rr_of_int2 sub_eq_ofInt, rr_of_int2 mul_eq_ofNat, rr_of_int2 (f := mulhiI) fun _ _ => rfl, rr_of_int2 (f := mulhiN) fun _ _ => rfl,
    rr_of_int2 and_eq_ofNat, rr_of_int2 or_eq_ofNat, rr_of_int2 xor_eq_ofNat, rr_of_int2 andn_eq_ofNat, rr_of_int2 shl_eq, rr_of_int2 shrN_eq, rr_of_int2 shrI_eq,
    rr_of_int2 rot_eq, rr_of_int2 minI_eq, rr_of_int2 maxI_eq, rr_of_int2 minN_eq, rr_of_int2 maxN_eq, rr_of_int2 ofBool_beq, rr_of_int2 ofBool_bne, rr_of_int2 sltI_eq,
    rr_of_int2 sleI_eq, rr_of_int2 sltN_eq, rr_of_int2 sleN_eq, rr_of_int2 bfe_eq⟩
theorem accumulatingIntegerWordsGiveR87Results : AccumulatingIntegerWordsGiveR87Results :=
  ⟨rr_of_int3 mad_eq_ofNat, rr_of_int3 sel_toNat, rr_of_int3 bfi_eq, rr_of_int3 dp4I_eq, rr_of_int3 dp4N_eq⟩
theorem oneOperandAndImmediateWordsGiveTheirResults : OneOperandAndImmediateWordsGiveTheirResults :=
  ⟨r1_of_int1 popc_eq, r1_of_int1 clz_eq, r1_of_int1 brev_eq, r1_of_int1 (f := id) fun _ => rfl, fun i => r1_of_int1 (add_signed (by decide) i),
    fun i => r1_of_int1 (mul_signed i), fun i => r1_of_int1 (and_unsigned i), fun i => r1_of_int1 (or_unsigned i), fun i => r1_of_int1 (xor_unsigned i),
    fun i => r1_of_int1 (shl_count i), fun i => r1_of_int1 (shrN_count i), fun i => r1_of_int1 (shrI_count i)⟩
theorem pairWordsGiveR91Results : PairWordsGiveR91Results := ⟨rr_of_int64 add_eq_ofNat, rr_of_int64 sub_eq_ofInt, rr_of_intLea, rr_of_intLea⟩

/-! ### Scalar words -/

theorem s2_of_scalar2 {i : Bool → BitVec 7 → BitVec 7 → BitVec 7 → Instr} {f g : Word → Word → Word} (hf : ∀ A B, f A B = g A B)
    (he : ∀ s w d a b, exec (i w d a b) s = scalar2 s w d a b f := by intros; rfl) : S2 i g := by
  intro s x w d a b h
  rw [he, show g = f from funext₂ fun A B => (hf A B).symm]
  exact sOp_spec s x w true false d a b (fun A B _ => f A B) h

theorem ssel_completes (s : State) (x : Cx) (w : Bool) (d a b : BitVec 7) (h : LegalScalar s x w true true d a b) :
    Completes s x (WroteScalar s x w d ((readScalar s x a.toNat).2 || (readScalar s x b.toNat).2)
      (if (x.sub s).sreg d.toNat = 0 then (readScalar s x b.toNat).1 else (readScalar s x a.toNat).1)) (exec (.ssel w d a b) s) := by
  rw [← sel_zero]
  exact sOp_spec s x w true true d a b sel h
theorem smov_completes (s : State) (x : Cx) (w : Bool) (d a : BitVec 7) (h : LegalScalar s x w false false d a 0) :
    Completes s x (WroteScalar s x w d (readScalar s x a.toNat).2 (readScalar s x a.toNat).1) (exec (.smov w d a) s) := by
  have hw := sOp_spec s x w false false d a 0 (fun A _ _ => A) h
  simp only [Bool.or_false, Bool.false_eq_true, if_false] at hw
  exact hw

theorem scalarWordsGiveTheirVectorResults : ScalarWordsGiveTheirVectorResults :=
  ⟨s2_of_scalar2 add_eq_ofInt, s2_of_scalar2 sub_eq_ofInt, s2_of_scalar2 mul_eq_ofNat, s2_of_scalar2 and_eq_ofNat, s2_of_scalar2 or_eq_ofNat, s2_of_scalar2 xor_eq_ofNat,
    s2_of_scalar2 shl_eq, s2_of_scalar2 shrN_eq, s2_of_scalar2 shrI_eq, s2_of_scalar2 minI_eq, s2_of_scalar2 maxI_eq, s2_of_scalar2 minN_eq, s2_of_scalar2 maxN_eq,
    s2_of_scalar2 ofBool_beq, s2_of_scalar2 sltI_eq, s2_of_scalar2 sltN_eq, ssel_completes, smov_completes⟩

/-! ### Constant words and `wbase` -/

theorem setHigh_eq (k : BitVec 16) (v : Word) : setHigh k v = BitVec.ofNat 32 (k.toNat * 2 ^ 16 + v.toNat % 2 ^ 16) := by
  have hk : k.toNat < 2 ^ 16 := k.isLt
  have hlow : (v &&& 0xffff#32).toNat = v.toNat % 2 ^ 16 := Nat.and_two_pow_sub_one_eq_mod v.toNat 16
  have hhigh : (k.setWidth 32 <<< 16).toNat = k.toNat <<< 16 := by
    rw [BitVec.toNat_shiftLeft, BitVec.toNat_setWidth_of_le (by decide), Nat.shiftLeft_eq, Nat.mod_eq_of_lt (by omega)]
  have hsum : k.toNat * 2 ^ 16 + v.toNat % 2 ^ 16 < 2 ^ 32 := by omega
  refine BitVec.eq_of_toNat_eq ?_
  rw [setHigh, BitVec.toNat_or, hlow, hhigh, ← Nat.shiftLeft_add_eq_or_of_lt (Nat.mod_lt _ (by decide)), Nat.shiftLeft_eq, BitVec.toNat_ofNat, Nat.mod_eq_of_lt hsum]

section
variable {s : State} {x : Cx} {d : BitVec 7} (h : Stands s x)
include h

theorem scalarConst_completes (hd : d.toNat ≤ 111) (f : Word → Word) :
    Completes s x (fun v => v = { x.sub s with s := v.s } ∧ ∀ n, v.sreg n = if n = d.toNat then f ((x.sub s).sreg n) else (x.sub s).sreg n) (scalarConst s d f) := by
  rw [scalarConst, withWord_eq s x _ h, checked_pass _ _ _ _ (scalarField_passes hd), modSub_eq]
  refine completes_advance s x _ _ rfl ⟨rfl, fun n => ?_⟩
  rw [Sub.sreg_setSreg]
  split
  case isTrue e => rw [e]; rfl
  case isFalse => rfl

theorem laneConst_completes (hd : dstOk s x d.toNat 1 = true) (f : Word → Word) :
    Completes s x (fun v => v = { x.sub s with threads := v.threads } ∧ (∀ l, l ∉ x.lanes → v.thread l = (x.sub s).thread l) ∧
      ∀ l, l ∈ x.lanes → v.thread l = { (x.sub s).thread l with v := (v.thread l).v } ∧
        ∀ n, (v.thread l).reg n = if n = destReg s x d then f (((x.sub s).thread l).reg n) else ((x.sub s).thread l).reg n) (laneConst s d f) := by
  rw [laneConst, withWord_eq s x _ h, checked_pass _ _ _ _ (by simp [hd])]
  change Completes s x _ (.next (advance (s.modThreads x.sg x.lanes fun t => t.setReg (destReg s x d) (f (t.reg (destReg s x d)))) x x.lanes))
  rw [modThreads_eq _ _ _ (lanes_ne_nil h), show s.sub x.sg = x.sub s from rfl]
  obtain ⟨hrest, hthread⟩ := foldl_modThread x.lanes (nodup_lanesOf _) (fun _ t => t.setReg (destReg s x d) (f (t.reg (destReg s x d)))) (x.sub s)
  refine completes_advance s x _ _ ?_ ⟨hrest, fun l hl => ?_, fun l hl => ?_⟩
  · rw [hthread]
    split <;> rfl
  · rw [hthread, if_neg hl]
  · rw [hthread, if_pos hl]
    refine ⟨rfl, fun n => ?_⟩
    rw [Thread.reg_setReg]
    split
    case isTrue e => rw [e]
    case isFalse => rfl

theorem wbase_completes {k : BitVec 16} (hk : wbaseOk x.form k.toNat = true) :
    Completes s x (fun v => v = { x.sub s with wbase := k.setWidth 8 }) (exec (.wbase k) s) := by
  show Completes s x _ (execWbase k s)
  rw [execWbase, withWord_eq s x _ h, checked_pass _ _ _ _ (by simp [hk]), modSub_eq]
  exact completes_advance s x _ _ rfl rfl
end

theorem constantWordsAndWbase : ConstantWordsAndWbase := by
  refine ⟨fun s x d k h hd => scalarConst_completes h hd fun _ => k.signExtend 32, fun s x d k h hd => ?_, fun s x d k h hd => ?_,
    fun s x d k h hd => laneConst_completes h hd fun _ => k.signExtend 32, fun s x d k h hd => ?_, fun s x k h hk => wbase_completes h ?_⟩
  · simp only [← setHigh_eq]
    exact scalarConst_completes h hd (setHigh k)
  · simp only [← add_signed (m := 16) (by decide)]
    exact scalarConst_completes h hd fun D => D + k.signExtend 32
  · simp only [← setHigh_eq]
    exact laneConst_completes h hd (setHigh k)
  · cases hf : x.form <;> simp_all [wbaseOk]

end Sys2Proof.Machine
end

section
open Sys2Proof Machine Claim
/-- Settles O35: each word by the operation on bits that it performs, written as a number. -/
theorem integerWordsGiveTheirResults : Obligations.IntegerWordsGiveTheirResults := by
  unfold Obligations.IntegerWordsGiveTheirResults
  exact ⟨integerPairWordsGiveR86Results, accumulatingIntegerWordsGiveR87Results, oneOperandAndImmediateWordsGiveTheirResults⟩

/-- Settles O36: the scalar words by the operations of their V-class namesakes; the constant words by the one register that they write. -/
theorem pairScalarAndConstantWordsGiveTheirResults : Obligations.PairScalarAndConstantWordsGiveTheirResults := by
  unfold Obligations.PairScalarAndConstantWordsGiveTheirResults
  exact ⟨pairWordsGiveR91Results, scalarWordsGiveTheirVectorResults, constantWordsAndWbase⟩
end

section
/-!
SUPPORT. Accesses by threads: what locating one may change (R142, R154, R340), and the bytes of one store (R8, R142, R176, R177).
-/

namespace Sys2Proof.Machine
open State Claim

/-! ### Locating an access -/

namespace State

/-- What locating an access may change: TLBs, walk counts, pages and stash lines, in cores, clusters and workgroups; the fabric's ports, and the names of its far pages. -/
def SameButAccess (s t : State) : Prop :=
  t = { s with cores := t.cores, clusters := t.clusters, wgs := t.wgs, fabric := { s.fabric with ports := t.fabric.ports, names := t.fabric.names } }

theorem SameButAccess.refl (s : State) : SameButAccess s s := rfl
theorem SameButAccess.trans {s t u : State} (h : SameButAccess s t) (g : SameButAccess t u) : SameButAccess s u := by
  unfold SameButAccess at *
  rw [g, h]
theorem SameButAccess.foldl {α : Type} {f : State → α → State} (h : ∀ s x, SameButAccess s (f s x)) (xs : List α) (s : State) : SameButAccess s (xs.foldl f s) := by
  induction xs generalizing s with
  | nil => exact .refl s
  | cons x xs ih => exact (h s x).trans (ih (f s x))
theorem SameButAccess.subs {s t : State} (h : SameButAccess s t) : t.subs = s.subs := by rw [h]
theorem SameButPorts.access {s t : State} (h : SameButPorts s t) : SameButAccess s t := by
  unfold SameButAccess
  rw [h]

theorem nameFar_access (s : State) (p : Loc) (va : Nat) : SameButAccess s (s.nameFar p va) := by unfold nameFar; split <;> rfl
theorem remoteAccess_access (s : State) (need : Need) (a : Dword) (spots : List Spot) : SameButAccess s (s.remoteAccess need a spots) := by
  unfold remoteAccess
  dsimp only
  split
  · exact (sendRequests_ports s _).access
  · exact .foldl (fun s (q : Loc × Dword) => nameFar_access s q.1 q.2.toNat) _ s
theorem usePages_access (s : State) (w off n : Nat) : SameButAccess s (s.usePages w off n) := by unfold usePages; dsimp only; split <;> rfl
theorem validPages_access (s : State) (spots : List Spot) : SameButAccess s (s.validPages spots) :=
  .foldl (fun s y => by
    cases y with
    | glob q => exact .refl s
    | scr w off => exact usePages_access s w off 1) spots s

end State

theorem translate_access (s : State) (c ctx va : Nat) (need : Need) : SameButAccess s (translate s c ctx va need).1 := by
  unfold translate
  dsimp only
  split
  · rfl
  · split
    · rfl
    · split
      · rfl
      · split <;> rfl
theorem translateAll_access (s : State) (P : Party) (need : Need) (ns : List Named) : SameButAccess s (translateAll s P need ns).1 := by
  induction ns generalizing s with
  | nil => exact .refl s
  | cons n ns ih =>
    cases n with
    | scr w off =>
      have h := ih s
      unfold translateAll
      split <;> simp_all
    | glob va =>
      have ht := translate_access s P.core P.ctx va need
      unfold translateAll
      split
      · simp_all
      · rename_i t y e
        have h : SameButAccess s (translateAll t P need ns).1 := .trans (by simp_all) (ih t)
        split <;> simp_all
theorem placeLines_access (s : State) (P : Party) (ys : List Unfilled) : SameButAccess s (placeLines s P ys).1 := by
  induction ys generalizing s with
  | nil => exact .refl s
  | cons y ys ih =>
    have ht := translate_access s P.core P.ctx (y.range.base + 128 * y.line) .load
    unfold placeLines
    split
    · simp_all
    · rename_i t z e
      have h : SameButAccess s (placeLines t P ys).1 := .trans (by simp_all) (ih t)
      split <;> simp_all
theorem fillAll_access (s : State) (P : Party) (a : Dword) (spots : List Spot) : SameButAccess s (fillAll s P a spots).1 := by
  have hp := placeLines_access s P (unfilled s a spots)
  unfold fillAll
  split
  · simp_all
  · rename_i t xs e
    have ht : SameButAccess s t := by simp_all
    split
    · exact ht
    · exact ht
    · exact ht
    · exact ht
    · exact ht.trans (.foldl (fun s (y : Unfilled × Loc) => (rfl : SameButAccess s (fillLine s P y.1 y.2))) xs t)
/-- Locating an access changes nothing but what translation, first touch and requests over the links leave (R152, R340, R393). -/
theorem locate_access (s : State) (P : Party) (sp : BitVec 2) (a : Dword) (n : Nat) (natural : Bool) (need : Need) :
    SameButAccess s (locate s P sp a n natural need).1 := by
  unfold locate
  split
  · exact .refl s
  · rename_i names _
    have ht := translateAll_access s P need names
    split
    · exact .refl s
    · split
      · exact .refl s
      · split
        · simp_all
        · rename_i t spots e
          have hf : SameButAccess s (fillAll t P a spots).1 := .trans (by simp_all) (fillAll_access t P a spots)
          split
          · simp_all
          · split
            · simp_all
            · rename_i u e'
              have hu : SameButAccess s u := by simp_all
              refine .trans ?_ (validPages_access _ spots)
              split
              · exact hu.trans (remoteAccess_access u need a spots)
              · exact hu

/-! ### Bytes stored -/

theorem globs_append (L M : List (Spot × Byte)) : globs (L ++ M) = globs L ++ globs M := List.filterMap_append
theorem scrs_append (L M : List (Spot × Byte)) : scrs (L ++ M) = scrs L ++ scrs M := List.filterMap_append

/-- A place of which a view has the same store reads as before from its core. -/
theorem seen_of_view {s t : State} {k : Nat} {p : Loc} (hsy : t.sy = s.sy) (ht : t.ticks = s.ticks) (hr : (t.core k).view.read p = (s.core k).view.read p)
    (hs : (t.core k).view.stampAt p = (s.core k).view.stampAt p) : t.seen k p = s.seen k p := by
  unfold seen imageByte later
  rw [hsy, ht, hs]
  split
  · split
    · rfl
    · rw [hr, hs]
  · exact hr

theorem Claim.Stored.nil (s : State) (c : Nat) : Stored s s c [] where
  rest := rfl
  cores k := by split <;> rfl
  wgs w := rfl
  view p := rfl
  seen k p h := rfl
  scratch w off := rfl
  home p := rfl
/-- Stores one after the other. -/
theorem Claim.Stored.trans {s r q : State} {c : Nat} {L M : List (Spot × Byte)} (h : Stored s r c L) (g : Stored r q c M) : Stored s q c (L ++ M) where
  rest := by rw [g.rest, h.rest]
  cores k := by
    rw [g.cores k, h.cores k]
    split <;> rfl
  wgs w := by rw [g.wgs w, h.wgs w]
  view p := by
    rw [g.view, h.view, globs_append, lastTo_append]
    cases lastTo (globs M) p <;> rfl
  seen k p hk := by
    rw [globs_append, lastTo_append, Option.or_eq_none_iff] at hk
    rw [g.seen k p (hk.imp_right And.left), h.seen k p (hk.imp_right And.right)]
  scratch w off := by
    rw [g.scratch, h.scratch, scrs_append, lastTo_append]
    cases lastTo (scrs M) (w, off) <;> rfl
  home p := by rw [g.home, h.home]

theorem Claim.Stored.sub {s r : State} {c : Nat} {L : List (Spot × Byte)} (h : Stored s r c L) (g : Nat) : r.sub g = s.sub g := by
  rw [h.rest]
  rfl

theorem nextStamp_stored (s : State) (c : Nat) : Stored s s.nextStamp c [] where
  rest := rfl
  cores k := by split <;> rfl
  wgs w := rfl
  view p := rfl
  seen k p h := rfl
  scratch w off := rfl
  home p := rfl

theorem viewPut_order (s : State) (c : Nat) (p : Loc) (b : Byte) :
    SameButOrder (s.modCore c fun k => { k with view := k.view.write p b s.stamp }) (s.viewPut c p b) := by
  have hput (t : State) (us : List (Loc × Nat)) : SameButOrder t { t with unsent := us } := rfl
  exact (hput _ _).trans (ordered_order _ _ _ _)
theorem core_viewPut (s : State) (c : Nat) (p : Loc) (b : Byte) (k : Nat) :
    (s.viewPut c p b).core k = if k = c then { s.core c with view := (s.core c).view.write p b s.stamp } else s.core k := by
  rw [viewPut_order s c p b]
  exact core_setCore s c k _
theorem viewPut_stored (s : State) (c : Nat) (x : Xlate) (b : Byte) : Stored s (s.viewPut c x.loc b) c [(.glob x, b)] := by
  have ho := viewPut_order s c x.loc b
  have hlast (p : Loc) : lastTo (globs [(.glob x, b)]) p = if x.loc = p then some b else none := lastTo_cons (x.loc, b) [] p
  refine ⟨by rw [ho]; rfl, fun k => ?_, fun w => by rw [ho]; rfl, fun p => ?_, fun k p hk => ?_, fun w off => by rw [ho]; rfl, fun p => by rw [ho]; rfl⟩
  · rw [core_viewPut]
    by_cases e : k = c
    · subst e; rw [if_pos rfl, if_pos rfl]
    · rw [if_neg e, if_neg e]
  · rw [core_viewPut, if_pos rfl, hlast]
    refine (VMem.read_write _ _ _ _ _).trans ?_
    by_cases e : x.loc = p
    · rw [if_pos e, if_pos e.symm]; rfl
    · rw [if_neg e, if_neg (Ne.symm e)]; rfl
  · by_cases e : k = c
    · subst e
      have hp : p ≠ x.loc := fun h => by simp [hlast, h] at hk
      refine seen_of_view (by rw [ho]; rfl) (by rw [ho]; rfl) ?_ ?_
      · rw [core_viewPut, if_pos rfl]
        exact (VMem.read_write _ _ _ _ _).trans (if_neg hp)
      · rw [core_viewPut, if_pos rfl]
        exact (VMem.stampAt_write _ _ _ _ _).trans (if_neg hp)
    · have hc : (s.viewPut c x.loc b).core k = s.core k := by rw [core_viewPut, if_neg e]
      exact seen_of_view (by rw [ho]; rfl) (by rw [ho]; rfl) (by rw [hc]) (by rw [hc])

theorem wg_scrWrite (s : State) (w off : Nat) (b : Byte) (v : Nat) : (scrWrite s w off b).wg v =
    { s.wg v with mem := if v = w then Mem.write (s.wg v).mem off b else (s.wg v).mem, stash := ((scrWrite s w off b).wg v).stash } := by
  have h (x : Wg) : (s.setWg w x).wg v = if v = w then x else s.wg v := wg_setWg s w v x
  unfold scrWrite
  rw [modWg_eq, h]
  by_cases e : v = w
  · subst e; simp only [if_pos]
  · simp only [if_neg e]
theorem scrWrite_stored (s : State) (c w off : Nat) (b : Byte) : Stored s (scrWrite s w off b) c [(.scr w off, b)] := by
  refine ⟨rfl, fun k => by split <;> rfl, fun v => by rw [wg_scrWrite], fun p => rfl, fun k p hk => rfl, fun v o => ?_, fun p => rfl⟩
  rw [wg_scrWrite, show lastTo (scrs [(.scr w off, b)]) (v, o) = if (w, off) = (v, o) then some b else none from lastTo_cons ((w, off), b) [] (v, o)]
  by_cases e : v = w
  · subst e
    rw [if_pos rfl, Mem.read_write]
    by_cases g : o = off
    · rw [g, if_pos rfl, if_pos rfl]; rfl
    · rw [if_neg g, if_neg (by simp [Ne.symm g])]; rfl
  · rw [if_neg e, if_neg (by simp [Ne.symm e])]; rfl
theorem writeSpot_stored (s : State) (c : Nat) (b : Byte) (y : Spot) : Stored s (writeSpot s c b y) c [(y, b)] := by
  cases y with
  | glob x => exact viewPut_stored s c x b
  | scr w off => exact scrWrite_stored s c w off b
theorem writeParts_stored (s : State) (c n : Nat) (xs : List Spot) (bs : List Byte) : Stored s (writeParts s c n xs bs) c (xs.zip bs) := by
  induction xs generalizing s bs with
  | nil => exact .nil s c
  | cons x xs ih =>
    cases bs with
    | nil => exact .nil s c
    | cons b bs =>
      have hb : Stored s (if xs.length % n = 0 then (writeSpot s c b x).nextStamp else writeSpot s c b x) c [(x, b)] := by
        split
        · exact (writeSpot_stored s c b x).trans (nextStamp_stored _ c)
        · exact writeSpot_stored s c b x
      exact hb.trans (ih _ bs)

/-- A workgroup of which the scratchpad units that `covered` rewrites in full fault no longer (R343). -/
def healedWg (covered : List Spot) (i : Nat) (w : Wg) : Wg :=
  if w.bad = [] then w else { w with bad := w.bad.filter fun u => !((List.range 8).all fun j => covered.contains (.scr i (u * 8 + j))) }
theorem wgs_heal (s : State) (covered : List Spot) : (heal s covered).wgs = s.wgs.map fun p => (p.1, healedWg covered p.1 p.2) := by
  unfold heal
  dsimp only
  split <;> rfl
theorem wg_heal (s : State) (covered : List Spot) (w : Nat) : (heal s covered).wg w = { s.wg w with bad := ((heal s covered).wg w).bad } := by
  unfold State.wg
  rw [wgs_heal, Tbl.get, Tbl.find?_mapVals, Tbl.get]
  cases s.wgs.find? w with
  | none => rfl
  | some g =>
    show healedWg covered w g = { g with bad := (healedWg covered w g).bad }
    unfold healedWg
    split <;> rfl
/-- Healing changes which units fault and nothing else. -/
theorem heal_stored (s : State) (c : Nat) (covered : List Spot) : Stored s (heal s covered) c [] := by
  have hrest : heal s covered = { s with bad := (heal s covered).bad, wgs := (heal s covered).wgs } := by
    unfold heal
    dsimp only
    split <;> rfl
  exact ⟨by rw [hrest], fun k => by rw [hrest]; split <;> rfl, fun w => by rw [wg_heal], fun p => by rw [hrest]; rfl, fun k p _ => by rw [hrest]; rfl,
    fun w off => by rw [wg_heal]; rfl, fun p => by rw [hrest]; rfl⟩
/-- The bytes of one access stored, alone in its event (R8, R142). -/
theorem heal_writeSpots_stored (s : State) (c : Nat) (xs : List Spot) (bs : List Byte) : Stored s (heal (writeSpots s c xs bs) xs) c (xs.zip bs) := by
  have h := (writeParts_stored s c (partSize xs) xs bs).trans (heal_stored (writeSpots s c xs bs) c xs)
  rwa [List.append_nil] at h

theorem storeAt_stored {s r : State} {P : Party} {sp : BitVec 2} {a : Dword} {bs : List Byte} {natural : Bool} {at_ : List Spot}
    (h : locate s P sp a bs.length natural .store = (r, .ok at_)) (hc : correctable r a at_ at_ = none) :
    ∃ q, storeAt s P sp a bs natural = (q, .ok at_) ∧ Stored r q P.core (at_.zip bs) := by
  refine ⟨heal (writeSpots r P.core at_ bs) at_, ?_, heal_writeSpots_stored r P.core at_ bs⟩
  simp only [storeAt, h, hc]
theorem loadFrom_ok {r : State} {c : Nat} {a : Dword} {at_ : List Spot} (h : correctable r a at_ [] = none) : loadFrom (r, .ok at_) c a = (r, .ok (readSpots r c at_)) := by
  simp only [loadFrom, h]
theorem sub_located {s r : State} {P : Party} {sp : BitVec 2} {a : Dword} {n : Nat} {natural : Bool} {need : Need} {e : Except MemFault (List Spot)}
    (h : locate s P sp a n natural need = (r, e)) (g : Nat) : r.sub g = s.sub g := by
  have hs : r.subs = s.subs := by simpa [h] using (locate_access s P sp a n natural need).subs
  rw [State.sub, hs]
  rfl

end Sys2Proof.Machine
end

section
/-!
SUPPORT. Words that read a latch, as they complete (R26, R94, R95): the members that read a stale entry set LSTALE after the word, and nothing else changes.
-/

namespace Sys2Proof.Machine
open State Claim

theorem lanesOf_ne_nil {m : Dword} (h : m ≠ 0) : lanesOf m ≠ [] := fun hn => h <| BitVec.eq_of_getLsbD_eq fun i hi => by
  have hm : i ∉ lanesOf m := by simp [hn]
  simpa [mem_lanesOf, hi] using hm

/-! ### LSTALE set in some members -/

/-- The subgroup `v` with LSTALE set in the members of a mask. -/
def Sub.marked (v : Sub) (stale : Dword) : Sub := (lanesOf stale).foldl (fun u l => u.modThread l fun t => { t with tstat := setStale t.tstat true }) v

theorem Sub.marked_rest (v : Sub) (stale : Dword) : v.marked stale = { v with threads := (v.marked stale).threads } :=
  (foldl_modThread (lanesOf stale) (nodup_lanesOf _) (fun _ t => { t with tstat := setStale t.tstat true }) v).1
theorem Sub.thread_marked (v : Sub) (stale : Dword) (l : Nat) :
    (v.marked stale).thread l = { v.thread l with tstat := setStale (v.thread l).tstat (decide (l ∈ lanesOf stale)) } := by
  refine ((foldl_modThread (lanesOf stale) (nodup_lanesOf _) (fun _ t => { t with tstat := setStale t.tstat true }) v).2 l).trans ?_
  by_cases h : l ∈ lanesOf stale
  · rw [if_pos h, decide_eq_true h]
  · rw [if_neg h, decide_eq_false h]; rfl

/-- A change of some members' threads is one change of their subgroup, or none. -/
theorem modThreads_marked (s : State) (g : Nat) (stale : Dword) :
    s.modThreads g (lanesOf stale) (fun t => { t with tstat := setStale t.tstat true }) = if lanesOf stale = [] then s else s.setSub g ((s.sub g).marked stale) := by
  split
  case isTrue h => rw [h]; rfl
  case isFalse h => exact modThreads_eq s g _ h

/-- Members that have gone on have done so with LSTALE set before or after. -/
theorem WentOn.marked {s t : State} {x : Cx} {ls : List Nat} {pc : Nat → Dword} {sw : Bool} {v : Sub} (h : WentOn s t x ls pc sw v) (stale : Dword) :
    WentOn s (t.modThreads x.sg (lanesOf stale) fun t => { t with tstat := setStale t.tstat true }) x ls pc sw (v.marked stale) := by
  rw [modThreads_marked]
  split
  case isTrue e => rw [Sub.marked, e]; exact h
  case isFalse e =>
    refine ⟨?_, fun g hg => ?_, ?_, fun l hl => ?_, fun l hl => ?_, h.cores, h.rows⟩
    · exact congrArg (fun q : State => { q with subs := (t.setSub x.sg ((t.sub x.sg).marked stale)).subs }) h.rest
    · rw [sub_setSub, if_neg hg, h.subs g hg]
    · let threads (q : Sub) : Sub := { q with threads := ((t.sub x.sg).marked stale).threads }
      rw [sub_setSub_self]
      calc (t.sub x.sg).marked stale = threads (t.sub x.sg) := Sub.marked_rest _ _
        _ = threads v := (congrArg threads h.sub).trans rfl
        _ = threads (v.marked stale) := (congrArg threads (Sub.marked_rest v stale)).symm
    · rw [sub_setSub_self, Sub.thread_marked, Sub.thread_marked, h.members l hl]
    · rw [sub_setSub_self, Sub.thread_marked, Sub.thread_marked, h.others l hl]

/-- A member that has gone on stands in a subgroup that the machine holds, and waits for nothing. -/
theorem WentOn.listed {s t : State} {x : Cx} {ls : List Nat} {pc : Nat → Dword} {sw : Bool} {v : Sub} (h : WentOn s t x ls pc sw v) {l : Nat} (hl : l ∈ ls) :
    (t.subs.find? x.sg).isNone = false := by
  cases hf : t.subs.find? x.sg with
  | some u => rfl
  | none =>
    have hsub : t.sub x.sg = {} := by rw [State.sub, Tbl.get, hf]; rfl
    have hlast := congrArg Thread.lastIssue (h.members l hl)
    rw [hsub] at hlast
    cases hlast

theorem mem_unfaulted {s t : State} {x : Cx} {pc : Nat → Dword} {sw : Bool} {v : Sub} (h : WentOn s t x x.lanes pc sw v) {l : Nat} (hl : l ∈ x.lanes) :
    (unfaulted t x).getLsbD l = true := by
  refine (getLsbD_maskOf _ ((mem_lanesOf _ _).1 hl).1).2 (List.mem_filter.2 ⟨hl, ?_⟩)
  rw [h.members l hl]
  rfl

/-- A word that CHECK mode does not stop and that the group completes sets LSTALE in the members whose read was stale (R26). -/
theorem GoesTo.withStale {s r : State} {x : Cx} {pc : Nat → Dword} {sw : Bool} {P : Sub → Prop} {stale : Dword} {k : State → Out}
    (hm : staleTraps s x stale = false) (hl : ∀ l ∈ lanesOf stale, l ∈ x.lanes) (h : GoesTo r x pc sw P (k s)) :
    GoesTo r x pc sw (fun v => ∃ u, P u ∧ v = u.marked stale) (withStale s x stale k) := by
  obtain ⟨u, t, hk, hP, hw, -⟩ := h
  have hout : Machine.withStale s x stale k = .next (t.modThreads x.sg (lanesOf stale) fun t => { t with tstat := setStale t.tstat true }) := by
    unfold Machine.withStale
    rw [hm, if_neg (by decide), hk]
    split
    case isTrue h0 => rw [h0]; rfl
    case isFalse h0 =>
      have hall : stale &&& unfaulted t x = stale := BitVec.eq_of_getLsbD_eq fun i hi => by
        rw [BitVec.getLsbD_and]
        cases hs : stale.getLsbD i with
        | false => rfl
        | true => exact mem_unfaulted hw (hl i ((mem_lanesOf _ _).2 ⟨hi, hs⟩))
      obtain ⟨l, hmem⟩ := List.exists_mem_of_ne_nil _ (lanesOf_ne_nil h0)
      dsimp only
      rw [hw.listed (hl l hmem), if_neg (by decide), hall, markStale, if_neg h0]
  rw [hout]
  exact ⟨u.marked stale, _, rfl, ⟨u, hP, rfl⟩, hw.marked stale, (hw.marked stale).sameBytes⟩

theorem GoesTo.mono {s : State} {x : Cx} {pc : Nat → Dword} {sw : Bool} {P Q : Sub → Prop} {o : Out} (h : GoesTo s x pc sw P o) (hpq : ∀ v, P v → Q v) :
    GoesTo s x pc sw Q o := by
  obtain ⟨v, t, ho, hP, hw, hb⟩ := h
  exact ⟨v, t, ho, hpq v hP, hw, hb⟩

/-! ### The lowest member -/

theorem lowest_mem {s : State} {x : Cx} (h : Stands s x) : lowest x.mask ∈ x.lanes := by
  rw [lowest]
  cases hl : lanesOf x.mask with
  | nil => exact absurd hl (lanes_ne_nil h)
  | cons l ls => rw [Cx.lanes, hl]; exact .head ls
theorem mem_lanesOf_lowestIf {s : State} {x : Cx} (h : Stands s x) (b : Bool) (l : Nat) : l ∈ lanesOf (lowestIf x b) ↔ b = true ∧ l = lowest x.mask := by
  have h64 : lowest x.mask < 64 := ((mem_lanesOf _ _).1 (lowest_mem h)).1
  rw [mem_lanesOf, lowestIf]
  cases b with
  | false => simp
  | true =>
    rw [if_pos rfl, ← BitVec.twoPow_eq, BitVec.getLsbD_twoPow, Bool.and_eq_true, decide_eq_true_iff, decide_eq_true_iff, eq_self, true_and]
    omega
/-- LSTALE of the lowest member alone. -/
theorem thread_marked_lowestIf {s : State} {x : Cx} (h : Stands s x) (v : Sub) (b : Bool) (l : Nat) :
    (v.marked (lowestIf x b)).thread l = { v.thread l with tstat := setStale (v.thread l).tstat (b && l == lowest x.mask) } := by
  have hb : decide (l ∈ lanesOf (lowestIf x b)) = (b && l == lowest x.mask) := by
    rw [Bool.eq_iff_iff, decide_eq_true_iff, mem_lanesOf_lowestIf h, Bool.and_eq_true, beq_iff_eq]
  rw [Sub.thread_marked, hb]
theorem thread_marked_outside {s : State} {x : Cx} (h : Stands s x) (v : Sub) (b : Bool) {l : Nat} (hl : l ∉ x.lanes) :
    (v.marked (lowestIf x b)).thread l = v.thread l := by
  have hne : l ≠ lowest x.mask := fun e => hl (e ▸ lowest_mem h)
  rw [thread_marked_lowestIf h, beq_false_of_ne hne, Bool.and_false]
  rfl
theorem staleTraps_lowestIf {s : State} {x : Cx} {b : Bool} (h : x.mode s = 1 → b = false) : staleTraps s x (lowestIf x b) = false := by
  by_cases hm : x.mode s = 1
  · rw [h hm]; simp [staleTraps, lowestIf]
  · rw [staleTraps, beq_eq_false_iff_ne.2 hm, Bool.false_and]

/-! ### `sld` and `sst` (R94, R95) -/

/-- A word that reads latches of the lowest member alone completes as `k` does, and that member sets LSTALE where the read was stale. -/
theorem withStale_lowest {s r : State} {x : Cx} {P : Sub → Prop} {b : Bool} {k : State → Out} (h : Stands s x) (hm : x.mode s = 1 → b = false)
    (hk : Completes r x P (k s)) : Completes r x (fun v => ∃ u, P u ∧ v = u.marked (lowestIf x b)) (withStale s x (lowestIf x b) k) :=
  GoesTo.withStale (staleTraps_lowestIf hm) (fun l hl => ((mem_lanesOf_lowestIf h b l).1 hl).2 ▸ lowest_mem h) hk

theorem onlyStale_marked {s q : State} {x : Cx} (h : Stands s x) (b : Bool) : OnlyStale q x (fun l => b && l == lowest x.mask) ((x.sub q).marked (lowestIf x b)) where
  rest := Sub.marked_rest _ _
  others l hl := thread_marked_outside h _ b hl
  members l hl := by
    rw [thread_marked_lowestIf h]
    exact ⟨rfl, fun i => rfl⟩
theorem wroteScalars_marked {s r : State} {x : Cx} (h : Stands s x) (b : Bool) {u : Sub} {f : Nat → Word} (hu : u = { x.sub r with s := u.s }) (hf : ∀ n, u.sreg n = f n) :
    WroteScalars r x (fun l => b && l == lowest x.mask) f (u.marked (lowestIf x b)) := by
  have ht (l : Nat) : u.thread l = (x.sub r).thread l := by rw [hu]; rfl
  refine ⟨?_, fun l hl => ?_, fun l hl => ?_, fun n => ?_⟩
  · rw [Sub.marked_rest, hu]
  · rw [thread_marked_outside h _ b hl, ht]
  · rw [thread_marked_lowestIf h, ht]
  · rw [Sub.marked_rest]
    exact hf n

theorem answered_one {r : State} {x : Cx} {store : Bool} {l : Nat} {a : Dword} {at_ : List Spot} (h : ∀ y ∈ at_, spotAnswers r y = true) (k : Out) :
    answered r x store [⟨l, a, .ok at_⟩] k = k := by
  have hnone : at_.zipIdx.find? (fun y => !(spotAnswers r y.1)) = none := List.find?_eq_none.2 fun y hy => by simp [h y.1 (List.fst_mem_of_mem_zipIdx hy)]
  have hun : unanswered r [⟨l, a, .ok at_⟩] = none := by simp [unanswered, passed, hnone]
  rw [answered, hun]
theorem lateAt_calm {r : State} {x : Cx} {l : Nat} {a : Dword} {at_ : List Spot} (h : ∀ p, ((x.sub r).thread l).wait ≠ .late p) : lateAt r x l a (.ok at_) = .ok at_ := by
  unfold lateAt
  split
  · rename_i p _ hw _
    exact absurd hw (h p)
  · rfl

/-- The scalars that a load of `n` bytes writes: one for four bytes, a pair for eight. -/
def loadedScalars (u : Sub) (d n : Nat) (v : Dword) : Sub := if n = 8 then u.setSpair d v else u.setSreg d (loOf v)
theorem loadedScalars_rest (u : Sub) (d n : Nat) (v : Dword) : loadedScalars u d n v = { u with s := (loadedScalars u d n v).s } := by
  unfold loadedScalars
  split <;> rfl
/-- Each of them takes its part of the number that the bytes are. -/
theorem sreg_loadedScalars (u : Sub) (d : Nat) {n : Nat} (hn : n = 4 ∨ n = 8) (bs : List Byte) (k : Nat) : (loadedScalars u d n (ofBytes bs)).sreg k =
    if d ≤ k ∧ k < d + n / 4 then BitVec.ofNat 32 (number bs / 2 ^ (32 * (k - d))) else u.sreg k := by
  have hlo : loOf (ofBytes bs) = BitVec.ofNat 32 (number bs / 2 ^ (32 * 0)) := by
    refine BitVec.eq_of_toNat_eq ?_
    rw [ofBytes_eq_number, loOf, BitVec.toNat_setWidth, BitVec.toNat_ofNat, BitVec.toNat_ofNat]
    omega
  have hhi : hiOf (ofBytes bs) = BitVec.ofNat 32 (number bs / 2 ^ (32 * 1)) := by
    refine BitVec.eq_of_toNat_eq ?_
    rw [ofBytes_eq_number, hiOf, BitVec.toNat_setWidth, BitVec.toNat_ushiftRight, BitVec.toNat_ofNat, BitVec.toNat_ofNat, Nat.shiftRight_eq_div_pow]
    omega
  obtain rfl | rfl := hn
  · rw [loadedScalars, if_neg (by decide), Sub.sreg_setSreg]
    by_cases h : k = d
    · rw [if_pos h, if_pos (by omega), hlo, h, Nat.sub_self]
    · rw [if_neg h, if_neg (by omega)]
  · rw [loadedScalars, if_pos rfl, Sub.setSpair, Sub.sreg_setSreg, Sub.sreg_setSreg]
    by_cases h1 : k = d + 1
    · rw [if_pos h1, if_pos (by omega), hhi, show k - d = 1 by omega]
    · by_cases h : k = d
      · rw [if_neg h1, if_pos h, if_pos (by omega), hlo, h, Nat.sub_self]
      · rw [if_neg h1, if_neg h, if_neg (by omega)]

/-- The address of a scalar access, and whether its base was a stale latch (R94). -/
def scalarAddr (s : State) (x : Cx) (a : BitVec 7) (f : BitVec 6) (n : Nat) : Dword := (readScalarWide s x a.toNat true).1 + BitVec.ofInt 64 (f.toInt * n)
def staleBase (s : State) (x : Cx) (a : BitVec 7) : Bool := (readScalarWide s x a.toNat true).2
/-- The data of a scalar store, and whether it was a stale latch. -/
def scalarData (s : State) (x : Cx) (d : BitVec 7) (n : Nat) : Dword × Bool := readScalarWide s x d.toNat (n == 8)

section
variable {s r : State} {x : Cx} {d a : BitVec 7} {sp : BitVec 2} {f : BitVec 6} {n : Nat} {at_ : List Spot} (h : Stands s x) (ha : sBaseOk x.form a.toNat = true)
include h ha

/-- A scalar load of four or eight bytes whose access passes its checks and is answered. -/
theorem scalarLoad_completes (hn : n = 4 ∨ n = 8) (hd : (if n = 8 then spairOk d.toNat else sDstOk d.toNat) = true) (hm : x.mode s = 1 → staleBase s x a = false)
    (hloc : locate s (x.party s) sp (scalarAddr s x a f n) n false .load = (r, .ok at_)) (hcor : correctable r (scalarAddr s x a f n) at_ [] = none)
    (hlate : ∀ p, ((x.sub s).thread (lowest x.mask)).wait ≠ .late p) (hans : ∀ y ∈ at_, spotAnswers r y = true) :
    GoesTo r x (fun _ => x.pc s + 4) false (WroteScalars r x (fun l => staleBase s x a && l == lowest x.mask) fun k =>
      if d.toNat ≤ k ∧ k < d.toNat + n / 4 then BitVec.ofNat 32 (number (at_.map (readSpot r x.core)) / 2 ^ (32 * (k - d.toNat))) else (x.sub s).sreg k)
      (scalarLoad s d a sp f n) := by
  have hsub : x.sub r = x.sub s := sub_located hloc x.sg
  have hpc : x.pc s = x.pc r := congrArg (fun u : Sub => (u.thread (lowest x.mask)).pc) hsub.symm
  unfold scalarAddr at hloc hcor
  rw [scalarLoad, withWord_eq s x _ h, checked_pass _ _ _ _ (by simp [hd, ha]), hpc, ← hsub]
  refine GoesTo.mono (withStale_lowest (P := fun u => u = loadedScalars (x.sub r) d.toNat n (readSpots r x.core at_)) h hm ?_) ?_
  · simp only [hloc]
    rw [lateAt_calm (by rw [hsub]; exact hlate), answered_one hans, loadFrom_ok hcor]
    refine completes_advance r x _ (loadedScalars (x.sub r) d.toNat n (readSpots r x.core at_)) ?_ rfl
    rw [loadedScalars_rest]
    rfl
  · rintro _ ⟨u, rfl, rfl⟩
    exact wroteScalars_marked h _ (loadedScalars_rest _ _ _ _) (sreg_loadedScalars _ _ hn _)

/-- A scalar store whose access passes its checks. -/
theorem scalarStore_completes (hd : sDataOk x.form d.toNat (n == 8) = true) (hm : x.mode s = 1 → (staleBase s x a || (scalarData s x d n).2) = false)
    (hloc : locate s (x.party s) sp (scalarAddr s x a f n) n false .store = (r, .ok at_)) (hcor : correctable r (scalarAddr s x a f n) at_ at_ = none) :
    ∃ q, Stored r q x.core (at_.zip (bytesOf n (scalarData s x d n).1)) ∧
      GoesTo q x (fun _ => x.pc s + 4) false (OnlyStale q x fun l => (staleBase s x a || (scalarData s x d n).2) && l == lowest x.mask) (scalarStore s d a sp f n) := by
  obtain ⟨q, hq, hst⟩ := storeAt_stored (bs := bytesOf n (scalarData s x d n).1) (by rw [length_bytesOf]; exact hloc) hcor
  have hpc : x.pc s = x.pc q := congrArg (fun u : Sub => (u.thread (lowest x.mask)).pc) ((hst.sub x.sg).trans (sub_located hloc x.sg)).symm
  unfold scalarAddr scalarData at hq
  refine ⟨q, hst, ?_⟩
  rw [scalarStore, withWord_eq s x _ h, checked_pass _ _ _ _ (by simp [hd, ha]), hpc]
  refine GoesTo.mono (withStale_lowest (P := Unchanged q x) h hm ?_) ?_
  · simp only [hq]
    exact completes_unchanged q x
  · rintro _ ⟨u, rfl, rfl⟩
    exact onlyStale_marked h _
end

end Sys2Proof.Machine
end

section
open Sys2Proof Machine Claim
/-- Settles O5: one access at the address of the lowest member's operands, LSTALE of that member where a latch was stale, and the frame of the access. -/
theorem scalarAccessesAreMadeOnceForTheGroup : Obligations.ScalarAccessesAreMadeOnceForTheGroup := by
  unfold Obligations.ScalarAccessesAreMadeOnceForTheGroup
  exact ⟨fun s x d a sp f r at_ h hd ha hm hloc => scalarLoad_completes h ha (.inl rfl) hd hm hloc,
    fun s x d a sp f r at_ h hd ha hm hloc => scalarLoad_completes h ha (.inr rfl) hd hm hloc,
    fun s x d a sp f r at_ h hd ha hm => scalarStore_completes h ha hd hm, fun s x d a sp f r at_ h hd ha hm => scalarStore_completes h ha hd hm⟩
end

section
/-!
SUPPORT. The floating-point words of the V class by the shapes in which they deliver their results (R99 to R115).
-/

namespace Sys2Proof.Machine
open Claim

/-! ### Operands and flags as the statements write them -/

theorem toNat_loOf (A : Dword) : (loOf A).toNat = A.toNat % 2 ^ 32 := BitVec.toNat_setWidth 32 A

theorem sigFlag_one (x : Fp) : sigFlag [x] = if x.isSig then flagIV else 0 := by rw [sigFlag, List.any_cons, List.any_nil, Bool.or_false]
theorem sigFlag_two (x y : Fp) : sigFlag [x, y] = if x.isSig || y.isSig then flagIV else 0 := by
  rw [sigFlag, List.any_cons, List.any_cons, List.any_nil, Bool.or_false]

/-- FTZ leaves f64 alone (R78). -/
theorem unpack_f64 (z : Bool) (x : Nat) : unpack f64 false x = unpack f64 z x := by cases z <;> rfl

/-! ### The shapes of exact results and of raw codes -/

/-- A word of two or three operands that the model performs by `g`. -/
theorem rr_of_eq {sh : Shape} {i : Bool → Bool → BitVec 7 → BitVec 7 → BitVec 7 → Instr} {g : Word → Dword → Dword → Dword → LaneRes}
    (he : ∀ s w sb d a b, exec (i w sb d a b) s = vOp s sh w sb d a b g := by intros; rfl) : RR sh i g := rr_of_vOp he rfl
/-- A word that takes A alone, which the model performs by `g`. -/
theorem r1_of_eq {i : Bool → BitVec 7 → BitVec 7 → Instr} {g : Word → Dword → Dword → Dword → LaneRes}
    (he : ∀ s w d a, exec (i w d a) s = vOp s { useB := false } w false d a 0 g := by intros; rfl) : R1 {} i g := by
  intro s x w d a h
  rw [he]
  exact vOp_spec s x { useB := false } w false d a 0 g h

/-- The code of the low words of A and B is what a raw word delivers. -/
theorem raw_eq {k k' : Bool → Nat → Nat → Code} (hk : ∀ z a b, k z a b = k' z a b) :
    (fun t A B _ => laneOf (k (flushes t) (A.toNat % 2 ^ 32) (B.toNat % 2 ^ 32)) : Word → Dword → Dword → Dword → LaneRes) = raw k' := by
  funext t A B D
  rw [raw, toNat_loOf, toNat_loOf, hk]
theorem rr_of_fRaw {i : Bool → Bool → BitVec 7 → BitVec 7 → BitVec 7 → Instr} {k : Bool → Nat → Nat → Code}
    (he : ∀ s w sb d a b, exec (i w sb d a b) s = fRaw s true w sb d a b k := by intros; rfl) : RR {} i (raw k) := rr_of_vOp he (raw_eq fun _ _ _ => rfl)
theorem r1_of_fRaw {i : Bool → BitVec 7 → BitVec 7 → Instr} {k k' : Bool → Nat → Nat → Code} (hk : ∀ z a b, k z a b = k' z a b)
    (he : ∀ s w d a, exec (i w d a) s = fRaw s false w false d a 0 k := by intros; rfl) : R1 {} i (raw k') :=
  r1_of_eq fun s w d a => by rw [he, fRaw, raw_eq hk]

/-! ### Compares and sign words (R103, R104) -/

/-- What a compare delivers: `unordered` where an operand is NaN, and IV where an operand is signaling or the compare is and an operand is NaN (R103). -/
theorem laneOf_compareFp (f : Fmt) (signaling z : Bool) (a b : Nat) (holds : Int → Bool) (unordered : Bool) :
    laneOf (compareFp f signaling z a b holds unordered) =
      let x := unpack f z a
      let y := unpack f z b
      let nan := x.isNan || y.isNan
      { val := if (if nan then unordered else holds (cmpFp x y)) then 1 else 0
        flags := if (nan && signaling) || x.isSig || y.isSig then flagIV else 0 } := by
  unfold laneOf compareFp
  dsimp only
  rw [sigFlag_two, apply_ite (BitVec.ofNat 64), Bool.or_assoc]
  simp only [Bool.or_eq_true (_ && _), ite_or]
  rfl
/-- An ordered compare holds of numbers alone. -/
theorem ordered_eq (nan c : Bool) : (if nan then false else c) = (!nan && c) := by cases nan <;> rfl

/-- The operands of a compare of f32 are the low words. -/
theorem compare_f32 (signaling : Bool) (holds : Int → Bool) :
    (fun t A B _ => laneOf (compareFp f32 signaling (flushes t) (A.toNat % 2 ^ 32) (B.toNat % 2 ^ 32) holds false) : Word → Dword → Dword → Dword → LaneRes) =
      compare f32 signaling fun x y => holds (cmpFp x y) := by
  funext t A B D
  rw [laneOf_compareFp]
  simp only [ordered_eq]
  rfl
/-- The operands of a compare of f64 are whole, and FTZ is nothing to it. -/
theorem compare_f64 (signaling : Bool) (holds : Int → Bool) :
    (fun _ A B _ => laneOf (compareFp f64 signaling false A.toNat B.toNat holds false) : Word → Dword → Dword → Dword → LaneRes) =
      compare f64 signaling fun x y => holds (cmpFp x y) := by
  funext t A B D
  have hwhole (V : Dword) : V.toNat = V.toNat % (2 * f64.signBit) := (Nat.mod_eq_of_lt V.isLt).symm
  rw [laneOf_compareFp, unpack_f64 (flushes t), unpack_f64 (flushes t), hwhole A, hwhole B]
  simp only [ordered_eq]
  rfl

/-- The word that asks for unordered operands. -/
theorem unordered_f32 (t : Word) (A B : Dword) :
    laneOf (compareFp f32 false (flushes t) (A.toNat % 2 ^ 32) (B.toNat % 2 ^ 32) (fun _ => false) true) =
      let x := unpack f32 (flushes t) (loOf A).toNat
      let y := unpack f32 (flushes t) (loOf B).toNat
      { val := if x.isNan || y.isNan then 1 else 0, flags := if x.isSig || y.isSig then flagIV else 0 } := by
  rw [laneOf_compareFp, toNat_loOf, toNat_loOf]
  simp only [Bool.and_false, Bool.false_or, Bool.if_true_left, Bool.or_false, Bool.decide_eq_true]

/-- A sign word gives a NaN its canonical code (R104). -/
theorem signOp_eq (z : Bool) (a : Nat) (g : Nat → Nat) : signOp z a g =
    let x := unpack f32 z a
    if x.isNan then { bits := 0x7fc00000, flags := if x.isSig then flagIV else 0 } else { bits := g (ftzRead f32 z a) } := by
  rw [signOp, sigFlag_one]
  rfl

/-! ### The words that round by TSTAT.RM, and the transcendental words -/

theorem singlePrecisionWordsRoundTheExactValueOnce : SinglePrecisionWordsRoundTheExactValueOnce :=
  ⟨rr_of_eq, rr_of_eq, rr_of_eq, rr_of_eq, rr_of_eq, r1_of_eq, r1_of_eq, r1_of_eq, rr_of_eq⟩
theorem transcendentalWordsAreFixedFunctions : TranscendentalWordsAreFixedFunctions :=
  ⟨r1_of_fRaw fun _ _ _ => rfl, r1_of_fRaw fun _ _ _ => rfl, r1_of_fRaw fun _ _ _ => rfl, r1_of_fRaw fun _ _ _ => rfl⟩
theorem packedAndDoubleWordsRoundEachElementOnce : PackedAndDoubleWordsRoundEachElementOnce :=
  ⟨rr_of_eq, rr_of_eq, rr_of_eq, rr_of_eq, rr_of_eq, rr_of_eq, rr_of_eq, rr_of_eq, rr_of_eq, rr_of_eq⟩

end Sys2Proof.Machine
end

section
open Sys2Proof Machine Claim
/-- Settles O1: minimum, maximum, sign and class words by the code that each delivers, compares by what holds of operands that are numbers. -/
theorem selectionCompareSignAndClassWords : Obligations.SelectionCompareSignAndClassWords := by
  unfold Obligations.SelectionCompareSignAndClassWords
  exact ⟨rr_of_fRaw, rr_of_fRaw, rr_of_fRaw, rr_of_fRaw,
    rr_of_vOp (fun _ _ _ _ _ _ => rfl) (compare_f32 false (· == 0)), rr_of_vOp (fun _ _ _ _ _ _ => rfl) (compare_f32 true fun c => decide (c < 0)),
    rr_of_vOp (fun _ _ _ _ _ _ => rfl) (compare_f32 true fun c => decide (c ≤ 0)), rr_of_vOp (fun _ _ _ _ _ _ => rfl) (funext₃ fun t A B => funext fun _ => unordered_f32 t A B),
    rr_of_vOp (fun _ _ _ _ _ _ => rfl) (compare_f64 true fun c => decide (c < 0)), rr_of_vOp (fun _ _ _ _ _ _ => rfl) (compare_f64 false (· == 0)),
    r1_of_fRaw (k := fun z a _ => signOp z a (· ^^^ f32.signBit)) fun z a _ => signOp_eq z a _,
    r1_of_fRaw (k := fun z a _ => signOp z a (· % f32.signBit)) fun z a _ => signOp_eq z a _, r1_of_fRaw (k := fun z a _ => classOf z a) fun _ _ _ => rfl⟩
end

section
/-!
SUPPORT. `frnd` and `cvt`: the modes that their rounding codes permit, and the draw under rsr (R77, R80, R112, R114, R115).
-/

namespace Sys2Proof.Machine
open State Claim

/-- Checks that pass leave the word to those after them (R55). -/
theorem checked_append (s : State) (x : Cx) (cs ds : List (Bool × Nat)) (k : Out) (h : ∀ c ∈ cs, c.1 = false) : checked s x (cs ++ ds) k = checked s x ds k := by
  induction cs with
  | nil => rfl
  | cons c cs ih =>
    rw [List.cons_append, checked, h c List.mem_cons_self]
    exact ih fun c hc => h c (List.mem_cons_of_mem _ hc)

/-- A legal V-class word performed by `vPerform` completes. -/
theorem vPerform_completes {s : State} {x : Cx} {sh : Shape} {w sb : Bool} {d a b : BitVec 7} (f : Nat → Word → Dword → Dword → Dword → LaneRes)
    (h : Legal s x sh w sb d a b) : Completes s x (Wrote s x sh w sb d a b f) (.next (vPerform s x sh w sb d.toNat a.toNat b.toNat f)) := by
  obtain ⟨v, hv, e⟩ := vPerform_spec s x sh w sb d a b f h
  rw [e]
  exact completes_advance s x _ v (hv.pc _) hv

/-- Only code 5 reads the draw (R50). -/
theorem modeOf_draw {r : BitVec 3} (hr : r ≠ 5) (t : Word) (p q : Nat) : modeOf r t p = modeOf r t q := by
  have h5 : r.toNat ≠ 5 := fun e => hr (BitVec.eq_of_toNat_eq e)
  unfold modeOf
  split
  case h_6 => contradiction
  all_goals rfl
theorem convertAll_draw {r : BitVec 3} (hr : r ≠ 5) (e : CvtEntry) (t p q : Word) (x : Nat) : convertAll e r t p x = convertAll e r t q x := by
  unfold convertAll
  simp only [modeOf_draw hr t _ 0]

/-! ### `frnd` (R112) -/

section
variable {s : State} {x : Cx} {w : Bool} {d a : BitVec 7} (h : Legal s x { useB := false } w false d a 0)
include h

/-- What is left of `frnd` after the checks of its operands. -/
theorem frnd_eq (r : BitVec 3) : exec (.frndF32 w d a r) s = checked s x [(r == 5 || r == 7, 8)]
    (.next (vPerform s x { useB := false } w false d.toNat a.toNat 0 fun _ t v _ _ => laneOf (roundIntegral (modeOf r t 0) (flushes t) (v.toNat % 2 ^ 32)))) := by
  show execFrndF32 w d a r s = _
  rw [execFrndF32, withGroup_eq s x _ h.issues]
  exact checked_append s x _ _ _ (vChecks_pass s x _ w false d a 0 h)

theorem frnd_completes {r : BitVec 3} (h5 : r ≠ 5) (h7 : r ≠ 7) : Completes s x (Wrote s x { useB := false } w false d a 0
    fun _ t A _ _ => laneOf (roundIntegral (modeOf r t 0) (flushes t) (loOf A).toNat)) (exec (.frndF32 w d a r) s) := by
  rw [frnd_eq h, checked_pass _ _ _ _ (by simpa using ⟨h5, h7⟩)]
  simp only [toNat_loOf]
  exact vPerform_completes _ h
theorem frnd_ill {r : BitVec 3} (hr : r = 5 ∨ r = 7) : exec (.frndF32 w d a r) s = .next (ill s x 8) := by
  rw [frnd_eq h, checked, if_pos (by simpa using hr)]
end

/-! ### The draw of a subgroup (R77, R133) -/

/-- A draw moves the index or sets RNGSAT, and nothing else. -/
theorem drawDone_rest (u : Sub) : drawDone u = { u with sstat := (drawDone u).sstat, rngDraw := (drawDone u).rngDraw } := by
  unfold drawDone
  split <;> rfl
theorem narrow_drawDone (u : Sub) : (drawDone u).narrow = u.narrow := by
  unfold drawDone
  split
  case isTrue => simp [Sub.narrow, setBit]
  case isFalse => rfl
theorem width_drawDone (u : Sub) : (drawDone u).width = u.width := by rw [Sub.width, narrow_drawDone, Sub.width]
theorem live_drawDone (u : Sub) : (drawDone u).live = u.live := by
  rw [Sub.live, Sub.kreg, narrow_drawDone, drawDone_rest]
  rfl

section
variable (s : State) (x : Cx)

theorem sub_drawn : x.sub (s.modSub x.sg drawDone) = drawDone (x.sub s) := sub_setSub_self s x.sg (drawDone (s.sub x.sg))
theorem regs_drawn : x.regs (s.modSub x.sg drawDone) = x.regs s := by
  unfold Cx.regs Cx.launch State.launchOf
  rw [modSub_eq, sub_setSub_self, drawDone_rest]
  rfl
theorem dstOk_drawn (code n : Nat) : dstOk (s.modSub x.sg drawDone) x code n = dstOk s x code n := by
  unfold dstOk
  rw [regs_drawn, sub_drawn, drawDone_rest]
theorem srcOk_drawn (code : Nat) (wide : Bool) : srcOk (s.modSub x.sg drawDone) x code wide = srcOk s x code wide := by
  unfold srcOk
  rw [regs_drawn, sub_drawn, drawDone_rest]
theorem readSrc_drawn (m code : Nat) (wide : Bool) : readSrc (s.modSub x.sg drawDone) x m code wide = readSrc s x m code wide := by
  unfold readSrc
  simp only [sub_drawn, width_drawDone, live_drawDone]
  rw [drawDone_rest]
  rfl
theorem bOk_drawn (sb : Bool) (code : Nat) (wide : Bool) : bOk (s.modSub x.sg drawDone) x sb code wide = bOk s x sb code wide := by
  unfold bOk
  rw [srcOk_drawn]
theorem readB_drawn (sb : Bool) (m code : Nat) (wide : Bool) : readB (s.modSub x.sg drawDone) x sb m code wide = readB s x sb m code wide := by
  unfold readB
  rw [readSrc_drawn, sub_drawn, drawDone_rest]
  rfl
theorem readA_drawn (l code : Nat) (wide : Bool) : readA (s.modSub x.sg drawDone) x l code wide = readA s x l code wide := by
  unfold readA
  simp only [readSrc_drawn]
  rfl
/-- The group reads its operands after the draw as before. -/
theorem operands_drawn (sh : Shape) (sb : Bool) (d a b l : Nat) : operands (s.modSub x.sg drawDone) x sh sb d a b l = operands s x sh sb d a b l := by
  unfold operands
  rw [readA_drawn, readB_drawn, readSrc_drawn]
end

/-- A word that is legal is so after the draw. -/
theorem legal_drawn {s : State} {x : Cx} {sh : Shape} {w sb : Bool} {d a b : BitVec 7} (h : Legal s x sh w sb d a b) :
    Legal (s.modSub x.sg drawDone) x sh w sb d a b where
  issues := h.issues
  keepsD := h.keepsD
  dst := by simpa only [dstOk_drawn] using h.dst
  srcA := by simpa only [srcOk_drawn] using h.srcA
  srcB := by simpa only [srcOk_drawn] using h.srcB
  scalarB := by simpa only [bOk_drawn] using h.scalarB
  fresh hm := by simpa only [operands_drawn] using h.fresh hm

/-- A word that draws is performed unless the index is saturated and RSTEN set. -/
theorem drawing_goes {s : State} {x : Cx} (hsat : drawSat (x.sub s) = true → (x.sub s).rsten = false) (q : State) : drawing s x q = q :=
  if_neg (by simpa using hsat)

/-! ### `cvt` (R80, R114) -/

/-- What each member's conversion delivers with the draw of its subgroup. -/
def converted (u : Sub) (e : CvtEntry) (r : BitVec 3) : Nat → Word → Dword → Dword → Dword → LaneRes :=
  fun l t A _ _ => laneOf (convertAll e r t (rngWord u l) A.toNat)
theorem converted_undrawn {r : BitVec 3} (hr : r ≠ 5) (u : Sub) (e : CvtEntry) : converted u e r = fun _ t A _ _ => laneOf (convertAll e r t 0 A.toNat) := by
  funext l t A B D
  rw [converted, convertAll_draw hr]

/-- CHECK mode does not stop a word whose members' reads are fresh (R26). -/
theorem staleTraps_of_calm {s : State} {x : Cx} {p : Nat → Bool} (h : Calm s x p) : staleTraps s x (maskOf (x.lanes.filter p)) = false := by
  by_cases hm : x.mode s = 1
  · rw [List.filter_eq_nil_iff.2 fun l hl => Bool.eq_false_iff.1 (h hm l hl), staleTraps, maskOf_nil, bne_self_eq_false, Bool.and_false]
  · rw [staleTraps, beq_eq_false_iff_ne.2 hm, Bool.false_and]

section
variable {s : State} {x : Cx} {w : Bool} {d a : BitVec 7} {k : BitVec 5} (h : Legal s x (cvtShape k.toNat) w false d a 0)
include h

theorem cvt_none {r : BitVec 3} (he : cvtEntry k.toNat = none) : exec (.cvt w d a r k) s = .next (ill s x 8) := by
  show execCvt w d a r k s = _
  rw [execCvt, withGroup_eq s x _ h.issues, he]
  exact checked_pass s x _ _ (vChecks_pass s x _ w false d a 0 h)

/-- What an entry of the table does, where no stale read is trapped. -/
theorem cvt_some {e : CvtEntry} (he : cvtEntry k.toNat = some e) (r : BitVec 3) : exec (.cvt w d a r k) s =
    if !(e.permits r) then .next (ill s x 8)
    else if r = 5 then .next (drawing s x (vPerform (s.modSub x.sg drawDone) x (cvtShape k.toNat) w false d.toNat a.toNat 0 (converted (x.sub s) e r)))
    else .next (vPerform s x (cvtShape k.toNat) w false d.toNat a.toNat 0 (converted (x.sub s) e r)) := by
  show execCvt w d a r k s = _
  rw [execCvt, withGroup_eq s x _ h.issues, he]
  refine (checked_pass s x _ _ (vChecks_pass s x _ w false d a 0 h)).trans ?_
  have hs : staleTraps s x (maskOf (x.lanes.filter fun l => (operands s x (cvtShape k.toNat) false d.toNat a.toNat 0 l).2)) = false := staleTraps_of_calm h.fresh
  dsimp only
  rw [hs]
  rfl

theorem cvt_completes {e : CvtEntry} (he : cvtEntry k.toNat = some e) {r : BitVec 3} (hp : e.permits r = true) (hr : r ≠ 5) :
    Completes s x (Wrote s x (cvtShape k.toNat) w false d a 0 fun _ t A _ _ => laneOf (convertAll e r t 0 A.toNat)) (exec (.cvt w d a r k) s) := by
  rw [cvt_some h he, hp, if_neg hr, converted_undrawn hr]
  exact vPerform_completes _ h

/-- Under rsr the index moves on, and each member converts with its own draw (R77). -/
theorem cvt_draws {e : CvtEntry} (he : cvtEntry k.toNat = some e) (hp : e.permits 5 = true) (hsat : drawSat (x.sub s) = true → (x.sub s).rsten = false) :
    Completes s x (Wrote (s.modSub x.sg drawDone) x (cvtShape k.toNat) w false d a 0
      fun l t A _ _ => laneOf (convertAll e 5 t (rngWord (x.sub s) l) A.toNat)) (exec (.cvt w d a 5 k) s) := by
  obtain ⟨v, hv, hq⟩ := vPerform_spec _ x _ w false d a 0 (converted (x.sub s) e 5) (legal_drawn h)
  have hpc : (v.thread (lowest x.mask)).pc = x.pc s := by
    rw [hv.pc, sub_drawn, drawDone_rest]
    rfl
  rw [cvt_some h he, hp, if_pos rfl, drawing_goes hsat, show (0 : Nat) = (0 : BitVec 7).toNat from rfl, hq, modSub_eq, setSub_setSub]
  exact completes_advance s x _ v hpc hv

/-- An entry that does not permit its code is refused, and so is an index outside the table (R80). -/
theorem cvt_ill {r : BitVec 3} (hp : ∀ e, cvtEntry k.toNat = some e → e.permits r = false) : exec (.cvt w d a r k) s = .next (ill s x 8) := by
  cases he : cvtEntry k.toNat with
  | none => exact cvt_none h he
  | some e =>
    rw [cvt_some h he, hp e he]
    rfl
end

/-- The entries of the table, and those among them that permit rsr (R80). -/
theorem cvtEntry_isSome (k : BitVec 5) : (cvtEntry k.toNat).isSome = decide (k.toNat < 28) := by revert k; decide
theorem cvtEntry_rsr (k : BitVec 5) : (cvtEntry k.toNat).any (·.rsr) = decide (k.toNat ∈ [0, 1, 12, 13, 14, 15, 18, 19]) := by revert k; decide

theorem cvt_permitted_iff (r : BitVec 3) (k : BitVec 5) : (∃ e, cvtEntry k.toNat = some e ∧ e.permits r = true) ↔
    k.toNat < 28 ∧ r ≠ 7 ∧ (r = 5 → k.toNat ∈ [0, 1, 12, 13, 14, 15, 18, 19]) := by
  have hsome := cvtEntry_isSome k
  have hrsr := cvtEntry_rsr k
  cases he : cvtEntry k.toNat with
  | none =>
    have hout : ¬ k.toNat < 28 := by simpa [he] using hsome
    simp [hout]
  | some e =>
    rw [he, Option.isSome_some, eq_comm, decide_eq_true_eq] at hsome
    rw [he, Option.any_some] at hrsr
    rw [← decide_eq_true_eq (p := k.toNat ∈ _), ← hrsr]
    simp [hsome, CvtEntry.permits, imp_iff_not_or]

theorem roundingFieldWordsFollowTheirField : RoundingFieldWordsFollowTheirField :=
  ⟨fun _ _ _ _ _ _ h => ⟨frnd_completes h, frnd_ill h⟩,
    fun _ _ _ _ _ _ _ h => ⟨fun _ he hp => ⟨cvt_completes h he hp, by rintro rfl; exact cvt_draws h he hp⟩, cvt_ill h⟩, cvt_permitted_iff⟩

end Sys2Proof.Machine
end

section
open Sys2Proof Machine Claim
/-- Settles O37: the words that round by TSTAT.RM by their exact results; `frnd` and `cvt` by the mode that their field names, `cvt` after the draw under rsr. -/
theorem floatingPointWordsRoundTheExactValueOnce : Obligations.FloatingPointWordsRoundTheExactValueOnce := by
  unfold Obligations.FloatingPointWordsRoundTheExactValueOnce
  exact ⟨singlePrecisionWordsRoundTheExactValueOnce, transcendentalWordsAreFixedFunctions, packedAndDoubleWordsRoundEachElementOnce, roundingFieldWordsFollowTheirField⟩
end

section
/-!
SUPPORT. Words whose members read each other, as they complete: the masks of members, LSTALE of those whose read was stale, and results written member by member or once for
the group (R26, R122 to R134).
-/

namespace Sys2Proof.Machine
open State Claim

/-! ### Masks of members -/

/-- The members that a mask made of some members of another names are those. -/
theorem lanesOf_maskOf_filter (m : Dword) (p : Nat → Bool) : lanesOf (maskOf ((lanesOf m).filter p)) = (lanesOf m).filter p := by
  unfold lanesOf
  rw [List.filter_filter]
  refine List.filter_congr fun l hl => ?_
  rw [Bool.eq_iff_iff, getLsbD_maskOf _ (List.mem_range.1 hl)]
  simpa [and_comm] using fun _ _ => List.mem_range.1 hl

/-- The members of a list that pass a test, where each stands with what is tested. -/
theorem filter_members {α : Type} (ls : List Nat) (f : Nat → α) (p : α → Bool) : ((ls.map fun l => (l, f l)).filter fun q => p q.2).map Prod.fst = ls.filter fun l => p (f l) := by
  rw [List.filter_map, List.map_map]
  exact List.map_id _
theorem readAll_eq (s : State) (x : Cx) (a : Nat) (wide : Bool) :
    readAll s x a wide = (x.lanes.map fun l => (l, (readSrc s x l a wide).1), maskOf (x.lanes.filter fun l => (readSrc s x l a wide).2)) := by
  have h := filter_members x.lanes (fun l => readSrc s x l a wide) Prod.snd
  unfold readAll
  dsimp only
  rw [h, List.map_map]
  rfl
/-- What stands with a member in a list of members. -/
theorem find?_members {α : Type} (ls : List Nat) (f : Nat → α) (l : Nat) : ((ls.map fun k => (k, f k)).find? fun p => p.1 == l) = if l ∈ ls then some (l, f l) else none := by
  induction ls with
  | nil => rfl
  | cons k ls ih =>
    rw [List.map_cons, List.find?_cons, ih]
    by_cases h : k = l
    · subst h; simp
    · rw [beq_false_of_ne h]
      simp [Ne.symm h]

/-! ### LSTALE of the members whose read was stale (R26) -/

theorem mem_lanesOf_maskOf_filter (x : Cx) (p : Nat → Bool) (l : Nat) : l ∈ lanesOf (maskOf (x.lanes.filter p)) ↔ l ∈ x.lanes ∧ p l = true := by
  rw [Cx.lanes, lanesOf_maskOf_filter, List.mem_filter]
theorem thread_marked_members (u : Sub) (x : Cx) (p : Nat → Bool) (l : Nat) :
    (u.marked (maskOf (x.lanes.filter p))).thread l = { u.thread l with tstat := setStale (u.thread l).tstat (decide (l ∈ x.lanes) && p l) } := by
  have hd : decide (l ∈ lanesOf (maskOf (x.lanes.filter p))) = (decide (l ∈ x.lanes) && p l) := by
    rw [Bool.eq_iff_iff, decide_eq_true_iff, mem_lanesOf_maskOf_filter, Bool.and_eq_true, decide_eq_true_iff]
  rw [Sub.thread_marked, hd]
theorem thread_marked_other (u : Sub) {x : Cx} (p : Nat → Bool) {l : Nat} (hl : l ∉ x.lanes) : (u.marked (maskOf (x.lanes.filter p))).thread l = u.thread l := by
  rw [thread_marked_members, decide_eq_false hl]
  rfl
theorem thread_marked_member (u : Sub) {x : Cx} (p : Nat → Bool) {l : Nat} (hl : l ∈ x.lanes) :
    (u.marked (maskOf (x.lanes.filter p))).thread l = { u.thread l with tstat := setStale (u.thread l).tstat (p l) } := by
  rw [thread_marked_members, decide_eq_true hl, Bool.true_and]

theorem WroteRegs.marked {s : State} {x : Cx} {p : Nat → Bool} {f : Nat → Nat → Word} {u : Sub} (h : WroteRegs s x (fun _ => false) f u) :
    WroteRegs s x p f (u.marked (maskOf (x.lanes.filter p))) := by
  refine ⟨?_, fun l hl => (thread_marked_other u p hl).trans (h.others l hl), fun l hl => ?_⟩
  · rw [Sub.marked_rest, h.rest]
  · obtain ⟨hm, hf⟩ := h.members l hl
    rw [thread_marked_member u p hl, hm]
    exact ⟨rfl, hf⟩
theorem WroteScalars.marked {s : State} {x : Cx} {p : Nat → Bool} {f : Nat → Word} {u : Sub} (h : WroteScalars s x (fun _ => false) f u) :
    WroteScalars s x p f (u.marked (maskOf (x.lanes.filter p))) := by
  refine ⟨?_, fun l hl => (thread_marked_other u p hl).trans (h.others l hl), fun l hl => ?_, fun n => ?_⟩
  · rw [Sub.marked_rest, h.rest]
  · rw [thread_marked_member u p hl, h.members l hl]
    rfl
  · rw [Sub.marked_rest]
    exact h.scalars n

section
variable {s q r : State} {x : Cx} {pc : Nat → Dword} {sw : Bool} {p : Nat → Bool} {k : State → Out} (hc : Calm s x p)
include hc

/-- A word that reads latches of some members and writes registers. -/
theorem GoesTo.withStaleRegs {f : Nat → Nat → Word} (h : GoesTo r x pc sw (WroteRegs q x (fun _ => false) f) (k s)) :
    GoesTo r x pc sw (WroteRegs q x p f) (Machine.withStale s x (maskOf (x.lanes.filter p)) k) := by
  refine GoesTo.mono (GoesTo.withStale (staleTraps_of_calm hc) (fun l hl => ((mem_lanesOf_maskOf_filter x p l).1 hl).1) h) ?_
  rintro _ ⟨u, hu, rfl⟩
  exact hu.marked
/-- A word that reads latches of some members and writes scalars. -/
theorem GoesTo.withStaleScalars {f : Nat → Word} (h : GoesTo r x pc sw (WroteScalars q x (fun _ => false) f) (k s)) :
    GoesTo r x pc sw (WroteScalars q x p f) (Machine.withStale s x (maskOf (x.lanes.filter p)) k) := by
  refine GoesTo.mono (GoesTo.withStale (staleTraps_of_calm hc) (fun l hl => ((mem_lanesOf_maskOf_filter x p l).1 hl).1) h) ?_
  rintro _ ⟨u, hu, rfl⟩
  exact hu.marked
end

/-! ### Results written member by member, and once for the group -/

/-- One register of each member written. -/
def wroteMembers (u : Sub) (ls : List Nat) (r : Nat) (f : Nat → Word) : Sub := ls.foldl (fun u l => u.modThread l fun t => t.setReg r (f l)) u
theorem wroteMembers_rest (u : Sub) {ls : List Nat} (nd : ls.Nodup) (r : Nat) (f : Nat → Word) : wroteMembers u ls r f = { u with threads := (wroteMembers u ls r f).threads } :=
  (foldl_modThread ls nd (fun l t => t.setReg r (f l)) u).1
theorem thread_wroteMembers (u : Sub) {ls : List Nat} (nd : ls.Nodup) (r : Nat) (f : Nat → Word) (l : Nat) :
    (wroteMembers u ls r f).thread l = if l ∈ ls then (u.thread l).setReg r (f l) else u.thread l :=
  (foldl_modThread ls nd (fun l t => t.setReg r (f l)) u).2 l
theorem pc_wroteMembers (u : Sub) {ls : List Nat} (nd : ls.Nodup) (r : Nat) (f : Nat → Word) (l : Nat) : ((wroteMembers u ls r f).thread l).pc = (u.thread l).pc := by
  rw [thread_wroteMembers u nd]
  split <;> rfl
theorem writeV_eq (s : State) (x : Cx) (d : BitVec 7) (f : Nat → Word) :
    writeV s x d.toNat (x.lanes.map fun l => (l, f l)) = s.setSub x.sg (wroteMembers (x.sub s) x.lanes (destReg s x d) f) := by
  unfold writeV
  dsimp only
  rw [modSub_eq, List.foldl_map]
  rfl
theorem wroteMembers_wroteReg (s : State) (x : Cx) (d : BitVec 7) (f : Nat → Word) :
    WroteReg s x d (fun _ => false) f (wroteMembers (x.sub s) x.lanes (destReg s x d) f) := by
  have nd : x.lanes.Nodup := nodup_lanesOf _
  refine ⟨wroteMembers_rest _ nd _ _, fun l hl => ?_, fun l hl => ⟨?_, fun i => ?_⟩⟩
  · rw [thread_wroteMembers _ nd, if_neg hl]
  · rw [thread_wroteMembers _ nd, if_pos hl]
    rfl
  · rw [thread_wroteMembers _ nd, if_pos hl, Thread.reg_setReg]
/-- A word that writes one register of each member and comes to a switch point. -/
theorem switches_writeV (s : State) (x : Cx) (d : BitVec 7) (f : Nat → Word) :
    Switches s x (WroteReg s x d (fun _ => false) f) (.next (done (writeV s x d.toNat (x.lanes.map fun l => (l, f l))) x)) := by
  rw [writeV_eq]
  exact switches_done s x _ _ (pc_wroteMembers _ (nodup_lanesOf _) _ _ _) (wroteMembers_wroteReg s x d f)

/-- A subgroup of which scalars alone differ. -/
theorem wroteScalars_of_rest {s : State} {x : Cx} {u : Sub} {f : Nat → Word} (hu : u = { x.sub s with s := u.s }) (hf : ∀ n, u.sreg n = f n) :
    WroteScalars s x (fun _ => false) f u := by
  have ht (l : Nat) : u.thread l = (x.sub s).thread l := by rw [hu]; rfl
  exact ⟨by rw [hu], fun l _ => ht l, fun l _ => ht l, hf⟩
/-- A word that writes scalars and comes to a switch point. -/
theorem switches_scalars {s : State} {x : Cx} {f : Nat → Word} {g : Sub → Sub} (hg : ∀ u, g u = { u with s := (g u).s }) (hf : ∀ n, (g (x.sub s)).sreg n = f n) :
    Switches s x (WroteScalars s x (fun _ => false) f) (.next (done (s.modSub x.sg g) x)) := by
  refine switches_done s x _ _ ?_ (wroteScalars_of_rest (hg _) hf)
  rw [hg]
  rfl

theorem sreg_setSpair (u : Sub) (d : Nat) (v : Dword) (n : Nat) : (u.setSpair d v).sreg n = if n = d then loOf v else if n = d + 1 then hiOf v else u.sreg n := by
  rw [Sub.setSpair, Sub.sreg_setSreg, Sub.sreg_setSreg]
  by_cases h : n = d
  · subst h; simp
  · simp [h]
theorem reg_setPair (t : Thread) (r : Nat) (v : Dword) (i : Nat) : (t.setPair r v).reg i = if i = r then loOf v else if i = r + 1 then hiOf v else t.reg i := by
  rw [Thread.setPair, Thread.reg_setReg, Thread.reg_setReg]
  by_cases h : i = r
  · subst h; simp
  · simp [h]
/-- A scalar pair written (R22). -/
theorem switches_setSpair {s : State} {x : Cx} (d : BitVec 7) (v : Dword) :
    Switches s x (WroteScalars s x (fun _ => false) fun n => if n = d.toNat then loOf v else if n = d.toNat + 1 then hiOf v else (x.sub s).sreg n)
      (.next (done (s.modSub x.sg fun u => u.setSpair d.toNat v) x)) :=
  switches_scalars (fun _ => rfl) (sreg_setSpair _ _ _)
theorem spairOk_of {n : Nat} (h : n ≤ 110) (h2 : n % 2 = 0) : spairOk n = true := by simp [spairOk, h, h2]

end Sys2Proof.Machine
end

section
/-!
SUPPORT. The mask words, and the wait on a knot (R123 to R125).
-/

namespace Sys2Proof.Machine
open State Claim

theorem kreg_setKreg (u : Sub) (k n : Nat) (m : Dword) : (u.setKreg k m).kreg n = if n = k then (if u.narrow then m &&& 0xffffffff else m) else u.kreg n := by
  have hn : (u.setKreg k m).narrow = u.narrow := rfl
  have hk : (u.setKreg k m).k.get n 0 = if n = k then (if u.narrow then m &&& 0xffffffff#64 else m) else u.k.get n 0 := Tbl.get_set _ _ _ _ _
  rw [Sub.kreg, Sub.kreg, hn, hk]
  by_cases h : n = k
  · simp only [if_pos h]
    split
    · rw [BitVec.and_assoc, BitVec.and_self]; rfl
    · rfl
  · simp only [if_neg h]

/-- What writing a mask once for the group makes of the machine. -/
theorem setMask_setsMask (s : State) (x : Cx) (k : Nat) (m : Dword) : SetsMask s x k m (.next (setMask s x k m)) := by
  have hw := done_wentOn s x ((x.sub s).setKreg k m) rfl
  exact ⟨_, _, rfl, hw, hw.sameBytes.trans (sameBytes_setSub ..), rfl, fun n => kreg_setKreg _ _ _ _⟩

/-- Bit `l` of what `kop` gives is the entry of the truth table that the two masks' bits name (R125). -/
theorem getLsbD_kopMask (f : BitVec 4) (d a : Dword) {l : Nat} (hl : l < 64) : (kopMask f d a).getLsbD l = f.getLsbD (2 * (d.getLsbD l).toNat + (a.getLsbD l).toNat) := by
  have pick (i : Nat) (m : Dword) : (if f.getLsbD i then m else 0).getLsbD l = (f.getLsbD i && m.getLsbD l) := by
    cases f.getLsbD i <;> simp
  unfold kopMask
  dsimp only
  simp only [BitVec.getLsbD_or, pick, BitVec.getLsbD_and, BitVec.getLsbD_not, hl, decide_true, Bool.true_and]
  cases d.getLsbD l <;> cases a.getLsbD l <;> simp

section
variable {s : State} {x : Cx} {d a : BitVec 7} (h : Stands s x)
include h

section
variable (h1 : 1 ≤ d.toNat) (h11 : d.toNat ≤ 11)
include h1 h11

theorem join_setsMask : SetsMask s x d.toNat ((x.sub s).kreg d.toNat ||| x.mask) (exec (.join d) s) := by
  show SetsMask s x _ _ (execJoin d s)
  rw [execJoin, withWord_eq s x _ h, checked_pass _ _ _ _ (by simp [kDst, h1, h11])]
  exact setMask_setsMask ..
theorem leave_setsMask : SetsMask s x d.toNat ((x.sub s).kreg d.toNat &&& ~~~x.mask) (exec (.leave d) s) := by
  show SetsMask s x _ _ (execLeave d s)
  rw [execLeave, withWord_eq s x _ h, checked_pass _ _ _ _ (by simp [kDst, h1, h11])]
  exact setMask_setsMask ..
theorem kmov_setsMask (ha : a.toNat ≤ 11) : SetsMask s x d.toNat ((x.sub s).kreg a.toNat) (exec (.kmov d a) s) := by
  show SetsMask s x _ _ (execKmov d a s)
  rw [execKmov, withWord_eq s x _ h, checked_pass _ _ _ _ (by simp [kDst, h1, h11, ha])]
  exact setMask_setsMask ..
theorem kmovFromScalar_setsMask (ha : a.toNat ≤ 110) (h2 : a.toNat % 2 = 0) : SetsMask s x d.toNat ((x.sub s).spair a.toNat) (exec (.kmovFromScalar d a) s) := by
  show SetsMask s x _ _ (execKmovFromScalar d a s)
  rw [execKmovFromScalar, withWord_eq s x _ h, checked_pass _ _ _ _ (by simp [kDst, h1, h11, spairOk_of ha h2])]
  exact setMask_setsMask ..
theorem kop_setsMask (f : BitVec 4) (ha : a.toNat ≤ 11) :
    SetsMask s x d.toNat (kopMask f ((x.sub s).kreg d.toNat) ((x.sub s).kreg a.toNat)) (exec (.kop d a f) s) := by
  show SetsMask s x _ _ (execKop d a f s)
  rw [execKop, withWord_eq s x _ h, checked_pass _ _ _ _ (by simp [kDst, h1, h11, ha])]
  exact setMask_setsMask ..
end

theorem kmovToScalar_switches (hd : d.toNat ≤ 110) (h2 : d.toNat % 2 = 0) (ha : a.toNat ≤ 11) : Switches s x (WroteScalars s x (fun _ => false) fun n =>
    if n = d.toNat then loOf ((x.sub s).kreg a.toNat) else if n = d.toNat + 1 then hiOf ((x.sub s).kreg a.toNat) else (x.sub s).sreg n) (exec (.kmovToScalar d a) s) := by
  show Switches s x _ (execKmovToScalar d a s)
  rw [execKmovToScalar, withWord_eq s x _ h, checked_pass _ _ _ _ (by simp [ha, spairOk_of hd h2])]
  exact switches_setSpair d _
theorem waitk_next (ha : a.toNat ≤ 11) : exec (.waitk a) s = .next (settleKnots (blockAt s x x.lanes (.knot (a.setWidth 4))) x.sg) := by
  show execWaitk a s = _
  rw [execWaitk, withWord_eq s x _ h, checked_pass _ _ _ _ (by simpa using ha)]
end

theorem maskWordsWriteTheirMaskOnce : MaskWordsWriteTheirMaskOnce :=
  ⟨fun _ _ _ h h1 h11 => ⟨join_setsMask h h1 h11, leave_setsMask h h1 h11, fun _ ha => kmov_setsMask h h1 h11 ha, fun _ ha h2 => kmovFromScalar_setsMask h h1 h11 ha h2,
      fun _ f ha => ⟨_, kop_setsMask h h1 h11 f ha, fun _ hl => getLsbD_kopMask f _ _ hl⟩⟩,
    fun _ _ _ _ h hd h2 ha => kmovToScalar_switches h hd h2 ha⟩

/-! ### `waitk` (R124) -/

theorem knotMet_iff (u : Sub) (k : Nat) (pc : Dword) : knotMet u k pc = true ↔
    ∀ m < 64, (u.kreg k).getLsbD m = true → u.live.getLsbD m = true → (∃ j, (u.thread m).wait = .knot j) ∧ (u.thread m).pc = pc := by
  have hm (m : Nat) : (match (u.thread m).wait with
      | .knot _ => (u.thread m).pc == pc
      | _ => false) = true ↔ (∃ j, (u.thread m).wait = .knot j) ∧ (u.thread m).pc = pc := by
    cases (u.thread m).wait <;> simp
  unfold knotMet
  simp only [List.all_eq_true, mem_lanesOf, BitVec.getLsbD_and, Bool.and_eq_true, and_imp]
  exact forall_congr' fun m => imp_congr_right fun _ => imp_congr_right fun _ => imp_congr_right fun _ => hm m

/-- What `settleKnots` makes of a thread that the subgroup holds. -/
def knotSettled (u : Sub) (now l : Nat) (t : Thread) : Thread := match t.wait with
  | .knot k => if u.live.getLsbD l && knotMet u k.toNat t.pc then passWord u now l t else t
  | _ => t
theorem knotSettled_knot (u : Sub) (now l : Nat) {t : Thread} {k : BitVec 4} (hk : t.wait = .knot k) :
    knotSettled u now l t = if u.live.getLsbD l && knotMet u k.toNat t.pc then passWord u now l t else t := by rw [knotSettled, hk]
theorem knotSettled_other (u : Sub) (now l : Nat) {t : Thread} (hk : ∀ k, t.wait ≠ .knot k) : knotSettled u now l t = t := by
  unfold knotSettled
  split
  next k h => exact absurd h (hk k)
  next => rfl
theorem settleKnots_eq (s : State) (g : Nat) :
    settleKnots s g = s.setSub g { s.sub g with threads := (s.sub g).threads.map fun p => (p.1, knotSettled (s.sub g) (s.cycle (s.sub g).core) p.1 p.2) } := by
  have hmap : (fun (l, t) => match t.wait with
      | .knot k => (l, if (s.sub g).live.getLsbD l && knotMet (s.sub g) k.toNat t.pc then passWord (s.sub g) (s.cycle (s.sub g).core) l t else t)
      | _ => (l, t) : Nat × Thread → Nat × Thread) = fun p => (p.1, knotSettled (s.sub g) (s.cycle (s.sub g).core) p.1 p.2) := by
    funext ⟨l, t⟩
    unfold knotSettled
    dsimp only
    cases t.wait <;> rfl
  unfold settleKnots
  dsimp only
  exact congrArg (fun f => s.setSub g { s.sub g with threads := (s.sub g).threads.map f }) hmap
theorem thread_settleKnots (s : State) (g l : Nat) :
    ((settleKnots s g).sub g).thread l = (((s.sub g).threads.find? l).map (knotSettled (s.sub g) (s.cycle (s.sub g).core) l)).getD {} := by
  rw [settleKnots_eq, sub_setSub_self, Sub.thread, Tbl.get, Tbl.find?_mapVals]
theorem thread_settleKnots_of {s : State} {g l : Nat} {t : Thread} (h : (s.sub g).threads.find? l = some t) :
    ((settleKnots s g).sub g).thread l = knotSettled (s.sub g) (s.cycle (s.sub g).core) l t := by rw [thread_settleKnots, h]; rfl

/-- A thread that waits for no knot is left as it was. -/
theorem thread_settleKnots_other {s : State} {g l : Nat} (h : ∀ k, ((s.sub g).thread l).wait ≠ .knot k) : ((settleKnots s g).sub g).thread l = (s.sub g).thread l := by
  rw [thread_settleKnots]
  unfold Sub.thread Tbl.get at h ⊢
  cases hf : (s.sub g).threads.find? l with
  | none => rfl
  | some t => exact knotSettled_other _ _ _ (by simpa [hf] using h)

theorem waitkBlocksUntilItsKnotIsMet : WaitkBlocksUntilItsKnotIsMet := by
  refine ⟨fun s x a h ha => ⟨waitk_next h ha, fun l hl => (thread_blockAt s x (nodup_lanesOf _) _ l).trans (if_pos hl)⟩, ?_⟩
  intro s g hh u n met
  have hmet {l : Nat} {t : Thread} {k : BitVec 4} (hf : u.threads.find? l = some t) : (u.live.getLsbD l && knotMet u k.toNat t.pc) = true ↔ met l k := by
    have ht : u.thread l = t := by rw [Sub.thread, Tbl.get, hf]; rfl
    rw [Bool.and_eq_true, knotMet_iff, ← ht]
  refine ⟨fun l t hf k hk hm => ?_, fun l t hf k hk hm => ?_, fun l hl => thread_settleKnots_other hl, ?_, ?_⟩
  · rw [show n.thread l = _ from thread_settleKnots_of hf, knotSettled_knot _ _ _ hk, if_pos ((hmet hf).2 hm), passWord, show (s.sub g).handler = none from hh]
    rfl
  · rw [show n.thread l = _ from thread_settleKnots_of hf, knotSettled_knot _ _ _ hk, if_neg (mt (hmet hf).1 hm)]
  · show settleKnots s g = s.setSub g ((settleKnots s g).sub g)
    rw [settleKnots_eq, sub_setSub_self]
  · show (settleKnots s g).sub g = { s.sub g with threads := ((settleKnots s g).sub g).threads }
    rw [settleKnots_eq, sub_setSub_self]

end Sys2Proof.Machine
end

section
open Sys2Proof Machine Claim
/-- Settles O39: the mask words by the one mask that they write, `waitk` by what the settling of knots makes of each thread that waits for one. -/
theorem maskWordsAndWaitk : Obligations.MaskWordsAndWaitk := by
  unfold Obligations.MaskWordsAndWaitk
  exact ⟨maskWordsWriteTheirMaskOnce, waitkBlocksUntilItsKnotIsMet⟩
end

section
/-!
SUPPORT. Shuffles, votes, reductions and the scan over the issuing group (R126, R128 to R130).
-/

namespace Sys2Proof.Machine
open State Claim

/-! ### The operands of the group -/

theorem loOf_setWidth (w : Word) : loOf (w.setWidth 64) = w := by rw [loOf, BitVec.setWidth_setWidth_of_le _ (by decide), BitVec.setWidth_eq]
/-- A 32-bit source is delivered in the low half (R41). -/
theorem readSrc_narrow (s : State) (x : Cx) (a : BitVec 7) (l : Nat) : (readSrc s x l a.toNat false).1 = (opA s x a l).setWidth 64 := by
  have hlow : ∀ v : Dword, loOf (v &&& 0xffffffff#64) = loOf v := fun v => by rw [low_mask, loOf_setWidth]
  unfold opA readSrc
  dsimp only
  split
  · rfl
  · split
    · exact congrArg (BitVec.setWidth 64) (loOf_setWidth _).symm
    · split
      · split
        · exact (low_mask _).trans (congrArg _ (hlow _).symm)
        · rfl
      · exact (low_mask _).trans (congrArg _ (hlow _).symm)
theorem readAll_narrow (s : State) (x : Cx) (a : BitVec 7) :
    readAll s x a.toNat false = (x.lanes.map fun l => (l, (opA s x a l).setWidth 64), maskOf (x.lanes.filter (staleA s x a))) := by
  rw [readAll_eq]
  simp only [readSrc_narrow]
  rfl
theorem setWidth_bne_zero (w : Word) : ((w.setWidth 64 : Dword) != 0) = (w != 0) := by
  have h : (w.setWidth 64 : Dword) = 0 ↔ w = 0 := ⟨fun e => by rw [← loOf_setWidth w, e]; rfl, fun e => by rw [e]; rfl⟩
  rw [Bool.eq_iff_iff, bne_iff_ne, bne_iff_ne, Ne, Ne, h]

/-- A member that the subgroup does not have, or that holds no thread, delivers zero (R126, log 53). -/
theorem readSrc_absent {s : State} {x : Cx} {m : Nat} (hm : (x.sub s).width ≤ m ∨ (x.sub s).live.getLsbD m = false) (a : Nat) (wide : Bool) :
    readSrc s x m a wide = (0, false) := by
  have h : ((x.sub s).width ≤ m || !((x.sub s).live.getLsbD m)) = true := by simpa using hm
  unfold readSrc
  exact if_pos h

/-! ### Shuffles (R128) -/

/-- What stands with each member is delivered to it. -/
theorem switches_delivered {s : State} {x : Cx} (d : BitVec 7) {g : Nat → Dword × Bool} (hc : Calm s x fun l => (g l).2) :
    Switches s x (WroteReg s x d (fun l => (g l).2) fun l => loOf (g l).1)
      (withStale s x (maskOf (((x.lanes.map fun l => (l, g l)).filter fun p => p.2.2).map Prod.fst)) fun q =>
        .next (done (writeV q x d.toNat ((x.lanes.map fun l => (l, g l)).map fun p => (p.1, loOf p.2.1))) x)) := by
  rw [filter_members x.lanes g Prod.snd, List.map_map]
  exact GoesTo.withStaleRegs hc (switches_writeV s x d fun l => loOf (g l).1)

section
variable {s : State} {x : Cx} {d a : BitVec 7} (h : Stands s x) (hd : dstOk s x d.toNat 1 = true) (ha : srcOk s x a.toNat false = true)
include h hd ha

/-- A shuffle by a rule that names a member, or none. -/
theorem shuffle_switches {n : Nat → Int} {m : Nat → Option Nat} (hm : ∀ l, m l = if n l < 0 then none else some (n l).toNat)
    (hc : Calm s x fun l => (m l).any (staleA s x a)) :
    Switches s x (WroteReg s x d (fun l => (m l).any (staleA s x a)) fun l => match m l with
      | some k => opA s x a k
      | none => 0) (shuffle s d a n) := by
  have hs : (fun l => (m l).any (staleA s x a)) = fun l => (if n l < 0 then (0, false) else readSrc s x (n l).toNat a.toNat false).2 := by
    funext l
    rw [hm]
    split <;> rfl
  have hv : (fun l => match m l with
      | some k => opA s x a k
      | none => 0) = fun l => loOf (if n l < 0 then (0, false) else readSrc s x (n l).toNat a.toNat false).1 := by
    funext l
    rw [hm]
    by_cases hn : n l < 0
    · simp only [if_pos hn]
      rfl
    · simp only [if_neg hn]
      rfl
  rw [hs] at hc ⊢
  rw [hv, shuffle, laneWord, withWord_eq s x _ h, checked_pass _ _ _ _ (by simp [hd, ha])]
  exact switches_delivered d hc

theorem shflUp_switches (i : BitVec 8) (hc : Calm s x fun l => (if i.toNat ≤ l then some (l - i.toNat) else none).any (staleA s x a)) :
    Switches s x (WroteReg s x d (fun l => (if i.toNat ≤ l then some (l - i.toNat) else none).any (staleA s x a))
      fun l => match if i.toNat ≤ l then some (l - i.toNat) else none with
        | some k => opA s x a k
        | none => 0) (exec (.shflUp d a i) s) := by
  refine shuffle_switches h hd ha (n := fun l => (l : Int) - i.toNat) (m := fun l => if i.toNat ≤ l then some (l - i.toNat) else none) (fun l => ?_) hc
  by_cases hi : i.toNat ≤ l
  · rw [if_pos hi, if_neg (by omega), show ((l : Int) - i.toNat).toNat = l - i.toNat by omega]
  · rw [if_neg hi, if_pos (by omega)]

/-- `shfl`: the member that B names, in a register or a scalar. -/
theorem shfl_switches {sb : Bool} {b : BitVec 7} (hsb : sb = true → sbOk b.toNat = true) (hb : bOk s x sb b.toNat false = true)
    (hc : Calm s x fun l => (readB s x sb l b.toNat false).2 || staleA s x a (readB s x sb l b.toNat false).1.toNat) :
    Switches s x (WroteReg s x d (fun l => (readB s x sb l b.toNat false).2 || staleA s x a (readB s x sb l b.toNat false).1.toNat)
      fun l => opA s x a (readB s x sb l b.toNat false).1.toNat) (exec (.shfl sb d a b) s) := by
  have hs : (fun l => (readB s x sb l b.toNat false).2 || staleA s x a (readB s x sb l b.toNat false).1.toNat) =
      fun l => (readSrc s x (readB s x sb l b.toNat false).1.toNat a.toNat false).2 || (readB s x sb l b.toNat false).2 := funext fun l => Bool.or_comm _ _
  have hbad : sbBad sb b.toNat = false := by
    cases sb with
    | false => rfl
    | true => rw [sbBad, hsb rfl]; rfl
  rw [hs] at hc ⊢
  show Switches s x _ (execShfl sb d a b s)
  rw [execShfl, withWordAfter_eq s x _ _ h (by simpa using hbad), checked_pass _ _ _ _ (by simp [hd, ha, hb])]
  exact switches_delivered d (g := fun l => ((readSrc s x (readB s x sb l b.toNat false).1.toNat a.toNat false).1,
    (readSrc s x (readB s x sb l b.toNat false).1.toNat a.toNat false).2 || (readB s x sb l b.toNat false).2)) hc
end

theorem shufflesDeliverTheNamedMembersOperand : ShufflesDeliverTheNamedMembersOperand := by
  refine fun s x d a h hd ha => ⟨fun i => ⟨shflUp_switches h hd ha i, shuffle_switches h hd ha (n := fun l => (l : Int) + i.toNat) fun l => ?_,
    shuffle_switches h hd ha (n := fun l => ((l ^^^ i.toNat : Nat) : Int)) fun l => ?_⟩, fun sb b hsb hb => shfl_switches h hd ha hsb hb, fun m hm => ?_⟩
  · rw [if_neg (by omega)]
    rfl
  · rw [if_neg (by omega)]
    rfl
  · rw [opA, staleA, readSrc_absent hm]
    exact ⟨rfl, rfl⟩

/-! ### Votes (R129) -/

section
variable {s : State} {x : Cx} {d a : BitVec 7} (h : Stands s x) (ha : srcOk s x a.toNat false = true) (hc : Calm s x (staleA s x a))
include h ha hc

/-- The operands of the group in member order, as a vote sees them. -/
theorem vote_switches (hd : d.toNat ≤ 111) (f : List (Nat × Dword) → Dword) {b : Prop} [Decidable b]
    (hf : f (x.lanes.map fun l => (l, (opA s x a l).setWidth 64)) = if b then 1 else 0) :
    Switches s x (WroteScalars s x (staleA s x a) fun n => if n = d.toNat then (if b then 1 else 0) else (x.sub s).sreg n) (vote s d a false f) := by
  have hlo : loOf (if b then 1 else 0) = if b then 1 else 0 := by split <;> rfl
  rw [vote, withWord_eq s x _ h, checked_pass _ _ _ _ (by simp [sDstOk, hd, ha]), readAll_narrow]
  refine GoesTo.withStaleScalars hc (switches_scalars (fun _ => rfl) fun n => ?_)
  simp only [Bool.false_eq_true, if_false, hf, hlo]
  exact Sub.sreg_setSreg ..

theorem voteAny_switches (hd : d.toNat ≤ 111) : Switches s x (WroteScalars s x (staleA s x a) fun n =>
    if n = d.toNat then (if ∃ l ∈ x.lanes, opA s x a l ≠ 0 then 1 else 0) else (x.sub s).sreg n) (exec (.voteAny d a) s) := by
  show Switches s x _ (execVoteAny d a s)
  rw [execVoteAny]
  refine vote_switches h ha hc hd _ (if_congr ?_ rfl rfl)
  simp only [List.any_map, List.any_eq_true, Function.comp_apply, setWidth_bne_zero, bne_iff_ne]
theorem voteAll_switches (hd : d.toNat ≤ 111) : Switches s x (WroteScalars s x (staleA s x a) fun n =>
    if n = d.toNat then (if ∀ l ∈ x.lanes, opA s x a l ≠ 0 then 1 else 0) else (x.sub s).sreg n) (exec (.voteAll d a) s) := by
  show Switches s x _ (execVoteAll d a s)
  rw [execVoteAll]
  refine vote_switches h ha hc hd _ (if_congr ?_ rfl rfl)
  simp only [List.all_map, List.all_eq_true, Function.comp_apply, setWidth_bne_zero, bne_iff_ne]
theorem voteEq_switches (hd : d.toNat ≤ 111) : Switches s x (WroteScalars s x (staleA s x a) fun n =>
    if n = d.toNat then (if ∀ l ∈ x.lanes, ∀ m ∈ x.lanes, opA s x a l = opA s x a m then 1 else 0) else (x.sub s).sreg n) (exec (.voteEq d a) s) := by
  show Switches s x _ (execVoteEq d a s)
  rw [execVoteEq]
  refine vote_switches h ha hc hd _ ?_
  cases hl : x.lanes with
  | nil => exact absurd hl (lanes_ne_nil h)
  | cons k ls =>
    refine if_congr ?_ rfl rfl
    have hw (l : Nat) : ((opA s x a l).setWidth 64 : Dword) = (opA s x a k).setWidth 64 ↔ opA s x a l = opA s x a k :=
      ⟨fun e => by rw [← loOf_setWidth (opA s x a l), e, loOf_setWidth], fun e => by rw [e]⟩
    simp only [List.all_map, List.all_eq_true, Function.comp_apply, beq_iff_eq, hw]
    refine ⟨fun hk l hl m hm => ?_, fun hall l hl => hall l (.tail _ hl) k (.head _)⟩
    have eqK : ∀ i ∈ k :: ls, opA s x a i = opA s x a k := fun i hi => (List.mem_cons.1 hi).elim (fun e => by rw [e]) (hk i)
    rw [eqK l hl, eqK m hm]
theorem voteBallot_switches (hd : d.toNat ≤ 110) (h2 : d.toNat % 2 = 0) : ∃ m : Dword, (∀ l < 64, m.getLsbD l = (x.mask.getLsbD l && opA s x a l != 0)) ∧
    Switches s x (WroteScalars s x (staleA s x a) fun n => if n = d.toNat then loOf m else if n = d.toNat + 1 then hiOf m else (x.sub s).sreg n)
      (exec (.voteBallot d a) s) := by
  refine ⟨maskOf (x.lanes.filter fun l => opA s x a l != 0), fun l hl => ?_, ?_⟩
  · rw [Bool.eq_iff_iff, getLsbD_maskOf _ hl, List.mem_filter, Cx.lanes, mem_lanesOf, and_iff_right hl, Bool.and_eq_true]
  · have hm : ((x.lanes.map fun l => (l, ((opA s x a l).setWidth 64 : Dword))).filter fun p => p.2 != 0).map Prod.fst = x.lanes.filter fun l => opA s x a l != 0 := by
      simp only [filter_members x.lanes (fun l => ((opA s x a l).setWidth 64 : Dword)) (· != 0), setWidth_bne_zero]
    show Switches s x _ (execVoteBallot d a s)
    rw [execVoteBallot, vote, withWord_eq s x _ h, checked_pass _ _ _ _ (by simp [spairOk_of hd h2, ha]), readAll_narrow]
    refine GoesTo.withStaleScalars hc ?_
    simp only [if_true, hm]
    exact switches_setSpair d _
end

theorem votesCountTheIssuingGroupOnly : VotesCountTheIssuingGroupOnly :=
  fun _ _ _ _ h ha hc => ⟨fun hd => ⟨voteAny_switches h ha hc hd, voteAll_switches h ha hc hd, voteEq_switches h ha hc hd⟩, fun hd h2 => voteBallot_switches h ha hc hd h2⟩

/-! ### Reductions and the scan (R130) -/

theorem foldl_addWords (ls : List Nat) (f : Nat → Word) (n : Nat) :
    (ls.map fun l => (l, f l)).foldl (fun a p => a + p.2) (BitVec.ofNat 32 n) = BitVec.ofNat 32 (n + (ls.map fun l => (f l).toNat).sum) := by
  induction ls generalizing n with
  | nil => rfl
  | cons l ls ih =>
    have hl : BitVec.ofNat 32 n + f l = BitVec.ofNat 32 (n + (f l).toNat) := by rw [BitVec.ofNat_add, BitVec.ofNat_toNat, BitVec.setWidth_eq]
    rw [List.map_cons, List.foldl_cons, hl, ih, List.map_cons, List.sum_cons, Nat.add_assoc]
/-- The sum modulo 2^32 is the sum of the numbers. -/
theorem sumWords_eq (ls : List Nat) (f : Nat → Word) : sumWords (ls.map fun l => (l, f l)) = BitVec.ofNat 32 (ls.map fun l => (f l).toNat).sum :=
  (foldl_addWords ls f 0).trans (by rw [Nat.zero_add])

/-- The larger of two signed words, the first where they are equal. -/
def maxWord (m w : Word) : Word := if m.toInt < w.toInt then w else m
/-- Taken over a list, it is one of the words that come in, and none of them is greater. -/
theorem foldl_maxWord (ls : List Nat) (f : Nat → Word) (m : Word) : let r := (ls.map f).foldl maxWord m
    (r = m ∨ ∃ l ∈ ls, r = f l) ∧ m.toInt ≤ r.toInt ∧ ∀ l ∈ ls, (f l).toInt ≤ r.toInt := by
  induction ls generalizing m with
  | nil => exact ⟨.inl rfl, le_refl _, fun l hl => absurd hl List.not_mem_nil⟩
  | cons k ls ih =>
    obtain ⟨hin, hle, hall⟩ := ih (maxWord m (f k))
    have hm : maxWord m (f k) = m ∨ maxWord m (f k) = f k := by unfold maxWord; split <;> simp
    have hmle : m.toInt ≤ (maxWord m (f k)).toInt := by unfold maxWord; split <;> omega
    have hkle : (f k).toInt ≤ (maxWord m (f k)).toInt := by unfold maxWord; split <;> omega
    rw [List.map_cons, List.foldl_cons]
    refine ⟨?_, hmle.trans hle, fun l hl => ?_⟩
    · rcases hin with e | ⟨l, hl, e⟩
      · rcases hm with g | g
        · exact .inl (e.trans g)
        · exact .inr ⟨k, .head _, e.trans g⟩
      · exact .inr ⟨l, .tail _ hl, e⟩
    · rcases List.mem_cons.1 hl with rfl | hl
      · exact hkle.trans hle
      · exact hall l hl

section
variable {s : State} {x : Cx} {d a : BitVec 7} (h : Stands s x) (hd : dstOk s x d.toNat 1 = true) (ha : srcOk s x a.toNat false = true) (hc : Calm s x (staleA s x a))
include h hd ha hc

/-- Each member receives what the reduction gives it of the operands of the group. -/
theorem reduce_switches (f : List (Nat × Word) → Nat → Word) :
    Switches s x (WroteReg s x d (staleA s x a) (f (x.lanes.map fun l => (l, opA s x a l)))) (reduce s d a f) := by
  have hw : (x.lanes.map fun l => (l, ((opA s x a l).setWidth 64 : Dword))).map (fun p => (p.1, loOf p.2)) = x.lanes.map fun l => (l, opA s x a l) := by
    rw [List.map_map]
    exact List.map_congr_left fun l _ => congrArg (Prod.mk l) (loOf_setWidth _)
  rw [reduce, withWord_eq s x _ h, checked_pass _ _ _ _ (by simp [hd, ha]), readAll_narrow]
  simp only [hw]
  exact GoesTo.withStaleRegs hc (switches_writeV s x d _)

theorem reduxAdd_switches : Switches s x (WroteReg s x d (staleA s x a) fun _ => BitVec.ofNat 32 (x.lanes.map fun l => (opA s x a l).toNat).sum)
    (exec (.reduxAddI32 d a) s) := by
  rw [← sumWords_eq]
  exact reduce_switches h hd ha hc fun ws _ => sumWords ws
theorem scanAdd_switches : Switches s x (WroteReg s x d (staleA s x a) fun l => BitVec.ofNat 32 ((x.lanes.filter (· ≤ l)).map fun m => (opA s x a m).toNat).sum)
    (exec (.scanAddI32 d a) s) := by
  have hscan : (fun l => BitVec.ofNat 32 ((x.lanes.filter (· ≤ l)).map fun m => (opA s x a m).toNat).sum) =
      fun l => sumWords ((x.lanes.map fun l => (l, opA s x a l)).filter fun p => decide (p.1 ≤ l)) := by
    funext l
    rw [List.filter_map, ← sumWords_eq]
    rfl
  rw [hscan]
  exact reduce_switches h hd ha hc fun ws l => sumWords (ws.filter fun p => decide (p.1 ≤ l))
theorem reduxMax_switches : ∃ m : Word, (∃ l ∈ x.lanes, m = opA s x a l) ∧ (∀ l ∈ x.lanes, (opA s x a l).toInt ≤ m.toInt) ∧
    Switches s x (WroteReg s x d (staleA s x a) fun _ => m) (exec (.reduxMaxI32 d a) s) := by
  have hr := reduce_switches h hd ha hc fun ws _ => match ws with
    | [] => 0
    | p :: ps => ps.foldl (fun m q => if m.toInt < q.2.toInt then q.2 else m) p.2
  cases hl : x.lanes with
  | nil => exact absurd hl (lanes_ne_nil h)
  | cons k ls =>
    have hfold : (ls.map fun l => (l, opA s x a l)).foldl (fun m q => if m.toInt < q.2.toInt then q.2 else m) (opA s x a k) = (ls.map (opA s x a)).foldl maxWord (opA s x a k) := by
      rw [List.foldl_map, List.foldl_map]
      rfl
    obtain ⟨hin, hle, hall⟩ := foldl_maxWord ls (opA s x a) (opA s x a k)
    refine ⟨(ls.map (opA s x a)).foldl maxWord (opA s x a k), ?_, fun l hm => ?_, ?_⟩
    · rcases hin with e | ⟨l, hm, e⟩
      · exact ⟨k, .head _, e⟩
      · exact ⟨l, .tail _ hm, e⟩
    · rcases List.mem_cons.1 hm with rfl | hm
      · exact hle
      · exact hall l hm
    · rw [hl] at hr
      simp only [List.map_cons, hfold] at hr
      exact hr
end

theorem reductionsCombineTheIssuingGroup : ReductionsCombineTheIssuingGroup :=
  fun _ _ _ _ h hd ha hc => ⟨reduxAdd_switches h hd ha hc, scanAdd_switches h hd ha hc, reduce_switches h hd ha hc fun ws _ => treeSum ws, reduxMax_switches h hd ha hc⟩

end Sys2Proof.Machine
end

section
open Sys2Proof Machine Claim
/-- Settles O40: the shuffles by the member that each names, the votes and reductions by what they make of the operands of the group in member order. -/
theorem shufflesVotesAndReductionsCombineTheIssuingGroup : Obligations.ShufflesVotesAndReductionsCombineTheIssuingGroup := by
  unfold Obligations.ShufflesVotesAndReductionsCombineTheIssuingGroup
  exact ⟨shufflesDeliverTheNamedMembersOperand, votesCountTheIssuingGroupOnly, reductionsCombineTheIssuingGroup⟩
end

section
/-!
SUPPORT. `xsel`, `sample` and the random numbers (R127, R131 to R134).
-/

namespace Sys2Proof.Machine
open State Claim

/-! ### `xsel` (R127) -/

theorem row_goTo (s : State) (x : Cx) (ls : List Nat) (f : Nat → Dword) :
    (goTo s x ls f).row x.core x.row = { s.row x.core x.row with issued := (s.row x.core x.row).issued + 1 } := by
  simp [goTo, modRow_eq, modSub_eq]
theorem sameBytes_goTo (s : State) (x : Cx) (ls : List Nat) (f : Nat → Dword) : SameBytes s (goTo s x ls f) :=
  (sameBytes_setSub s _ _).trans (sameBytes_setRow _ _ _ _)
/-- A group whose row and turn stand as they did still issues. -/
theorem issuing_of_row {s t : State} {x : Cx} (h : s.issuing = some x) (ht : t.turn = s.turn) (hr : (t.row x.core x.row).issuing = (s.row x.core x.row).issuing) :
    t.issuing = some x := by
  obtain ⟨hrow, hmask⟩ := issuing_core s x h
  unfold State.issuing at h ⊢
  rw [ht]
  cases hturn : s.turn with
  | needle c n => rw [hturn] at h; cases h
  | row c r =>
    have hx : c = x.core ∧ r = x.row := by
      simp only [hturn] at h
      split at h
      · cases h
      · split at h
        · cases h
        · cases h; exact ⟨rfl, rfl⟩
    obtain ⟨rfl, rfl⟩ := hx
    simp only [hr, hrow]
    exact if_neg hmask
/-- What the selection of an `xsel` says of a member. -/
theorem get_members {ls : List Nat} (f : Nat → Word) {l : Nat} (hl : l ∈ ls) : Tbl.get (ls.map fun k => (k, f k)) l 0 = f l := by
  have hf : Tbl.find? (ls.map fun k => (k, f k)) l = some (f l) := by
    induction ls with
    | nil => cases hl
    | cons k ls ih =>
      rw [List.map_cons, Tbl.find?]
      by_cases h : k = l
      · rw [if_pos h, h]
      · rw [if_neg h]
        exact ih ((List.mem_cons.1 hl).resolve_left (Ne.symm h))
  rw [Tbl.get, hf]
  rfl

/-- What an `xsel` leaves before the next word. -/
def xselOf (s : State) (x : Cx) (a : BitVec 7) : Xsel where
  word := (s.row x.core x.row).word
  pc := x.pc s
  sel := x.lanes.map fun l => (l, opA s x a l)
  stale := maskOf (x.lanes.filter (staleA s x a))
/-- The machine after an `xsel`: the group at the next word, and its row between the two. -/
def xselNext (s : State) (x : Cx) (a : BitVec 7) : State :=
  (goTo s x x.lanes fun _ => x.pc s + 4).modRow x.core x.row fun r => { r with xsel := some (xselOf s x a), atSwitch := false }

theorem row_xselNext (s : State) (x : Cx) (a : BitVec 7) : (xselNext s x a).row x.core x.row =
    { s.row x.core x.row with issued := (s.row x.core x.row).issued + 1, xsel := some (xselOf s x a), atSwitch := false } := by
  rw [xselNext, modRow_eq, row_setRow_self, row_goTo]
theorem thread_xselNext (s : State) (x : Cx) (a : BitVec 7) {l : Nat} (hl : l ∈ x.lanes) : (x.sub (xselNext s x a)).thread l =
    ((x.sub s).thread l).goTo (s.cycle x.core) ((s.row x.core x.row).issued + 1) (x.pc s + 4) :=
  ((goTo_spec s x x.lanes (nodup_lanesOf _) _).2 l).trans (if_pos hl)
theorem xsel_next {s : State} {x : Cx} {a : BitVec 7} (h : Stands s x) (ha : srcOk s x a.toNat false = true) (hc : Calm s x (staleA s x a)) :
    exec (.xsel a) s = .next (xselNext s x a) := by
  have hsel : (x.lanes.map fun l => (l, ((opA s x a l).setWidth 64 : Dword))).map (fun q => (q.1, loOf q.2)) = x.lanes.map fun l => (l, opA s x a l) := by
    rw [List.map_map]
    exact List.map_congr_left fun l _ => congrArg (Prod.mk l) (loOf_setWidth _)
  show execXsel a s = _
  rw [execXsel, withWord_eq s x _ h, checked_pass _ _ _ _ (by simpa using ha), readAll_narrow]
  simp only [staleTraps_of_calm hc, hsel]
  rfl

/-! ### `sample` (R131) -/

/-- What `sample` takes for member `l` from the operands that were read: zero for a member that is not among them. -/
def operandOr (vs : List (Nat × Dword)) (l : Nat) : Word := match vs.find? fun p => p.1 == l with
  | some p => loOf p.2
  | none => 0
theorem operandOr_members (s : State) (x : Cx) (a : BitVec 7) {l : Nat} (hl : l < 64) :
    operandOr (x.lanes.map fun k => (k, (opA s x a k).setWidth 64)) l = if x.mask.getLsbD l then opA s x a l else 0 := by
  have hin : l ∈ x.lanes ↔ x.mask.getLsbD l = true := (mem_lanesOf _ _).trans (and_iff_right hl)
  rw [operandOr, find?_members x.lanes fun k => ((opA s x a k).setWidth 64 : Dword)]
  by_cases hm : x.mask.getLsbD l = true
  · rw [if_pos (hin.2 hm), if_pos hm]
    exact loOf_setWidth _
  · rw [if_neg (mt hin.1 hm), if_neg hm]
/-- The weight of each member of the subgroup: its operand where it is in the group, and zero where it is not. -/
theorem sampleWeights_eq (s : State) (x : Cx) (a : BitVec 7) :
    ((List.range (x.sub s).width).map (operandOr (x.lanes.map fun k => (k, (opA s x a k).setWidth 64)))) =
      (List.range (x.sub s).width).map fun l => if x.mask.getLsbD l then opA s x a l else 0 :=
  List.map_congr_left fun l hl => operandOr_members s x a (lt_of_lt_of_le (List.mem_range.1 hl) (by unfold Sub.width; split <;> omega))

/-- A subgroup in which a `sample` has left its result in two scalars and SZERO. -/
def sampledSub (u : Sub) (d : Nat) (r : Word × Word × Bool) : Sub := { (u.setSreg d r.1).setSreg (d + 1) r.2.1 with sstat := setBit u.sstat 0 r.2.2 }
theorem sampledSub_wroteScalars (s : State) (x : Cx) (d : Nat) (r : Word × Word × Bool) :
    WroteScalars (s.setSub x.sg { x.sub s with sstat := setBit (x.sub s).sstat 0 r.2.2 }) x (fun _ => false)
      (fun n => if n = d + 1 then r.2.1 else if n = d then r.1 else (x.sub s).sreg n) (sampledSub (x.sub s) d r) := by
  have hsub (u : Sub) : x.sub (s.setSub x.sg u) = u := sub_setSub_self s x.sg u
  refine wroteScalars_of_rest (by rw [hsub]; rfl) fun n => ?_
  exact (Sub.sreg_setSreg _ _ _ _).trans (if_congr Iff.rfl rfl (Sub.sreg_setSreg _ _ _ _))

section
variable {s : State} {x : Cx}

theorem sample_switches {d a b : BitVec 7} (h : Stands s x) (hb : sbOk b.toNat = true) (hd : d.toNat ≤ 110) (ha : srcOk s x a.toNat false = true)
    (hc : Calm s x (staleA s x a)) :
    let r := sampleOf (if (x.sub s).narrow then 5 else 6) ((List.range (x.sub s).width).map fun l => if x.mask.getLsbD l then opA s x a l else 0)
      (loOf (readSb (x.sub s) b.toNat false))
    Switches s x (WroteScalars (s.setSub x.sg { x.sub s with sstat := setBit (x.sub s).sstat 0 r.2.2 }) x (staleA s x a)
      (fun n => if n = d.toNat + 1 then r.2.1 else if n = d.toNat then r.1 else (x.sub s).sreg n)) (exec (.sample d a b) s) := by
  intro r
  show Switches s x _ (execSample d a b s)
  rw [execSample, withWordAfter_eq s x _ _ h (by simp [sbBad, hb]), checked_pass _ _ _ _ (by simp [hd, ha]), readAll_narrow]
  refine GoesTo.withStaleScalars hc ?_
  show Switches s x _ (.next (done (s.setSub x.sg (sampledSub (x.sub s) d.toNat (sampleOf (if (x.sub s).narrow then 5 else 6)
    ((List.range (x.sub s).width).map (operandOr (x.lanes.map fun k => (k, (opA s x a k).setWidth 64)))) (loOf (readSb (x.sub s) b.toNat false))))) x))
  rw [sampleWeights_eq]
  exact switches_done s x _ (sampledSub (x.sub s) d.toNat r) rfl (sampledSub_wroteScalars s x d.toNat r)

/-! ### The random numbers (R133, R134) -/

/-- The counter has the position above the 24 bits of the draw index (R134). -/
theorem rngCounter_eq (p : BitVec 40) (n : BitVec 24) : ((p.setWidth 64 <<< 24) ||| n.setWidth 64 : Dword) = BitVec.ofNat 64 (p.toNat * 2 ^ 24 + n.toNat) := by
  have hp := p.isLt
  have hn := n.isLt
  refine BitVec.eq_of_toNat_eq ?_
  rw [BitVec.toNat_or, BitVec.toNat_shiftLeft, BitVec.toNat_setWidth_of_le (by decide), BitVec.toNat_setWidth_of_le (by decide), BitVec.toNat_ofNat, Nat.shiftLeft_eq,
    Nat.mod_eq_of_lt (by omega), Nat.mod_eq_of_lt (by omega), ← Nat.shiftLeft_eq, ← Nat.shiftLeft_add_eq_or_of_lt hn]

/-- A draw leaves the threads, and they leave it. -/
theorem drawDone_threads (u : Sub) (ts : Tbl Thread) : drawDone { u with threads := ts } = { drawDone u with threads := ts } := by
  unfold drawDone
  rw [show drawSat { u with threads := ts } = drawSat u from rfl]
  split <;> rfl
theorem thread_drawDone (u : Sub) (l : Nat) : (drawDone u).thread l = u.thread l := by rw [drawDone_rest]; rfl
theorem drawDone_wroteReg (s : State) (x : Cx) (d : BitVec 7) (f : Nat → Word) : WroteReg (s.setSub x.sg (drawDone (x.sub s))) x d (fun _ => false) f
    (drawDone (wroteMembers (x.sub s) x.lanes (destReg s x d) f)) := by
  have hsub : x.sub (s.setSub x.sg (drawDone (x.sub s))) = drawDone (x.sub s) := sub_setSub_self ..
  have hdest : destReg (s.setSub x.sg (drawDone (x.sub s))) x d = destReg s x d := by rw [destReg, hsub, drawDone_rest]; rfl
  obtain ⟨hrest, hothers, hmembers⟩ := wroteMembers_wroteReg s x d f
  unfold WroteReg
  rw [hdest]
  refine ⟨?_, fun l hl => ?_, fun l hl => ?_⟩
  · rw [hsub, hrest, drawDone_threads]
  · rw [hsub, thread_drawDone, thread_drawDone, hothers l hl]
  · rw [hsub, thread_drawDone, thread_drawDone]
    exact hmembers l hl

section
variable {d : BitVec 7} (h : Stands s x) (hd : dstOk s x d.toNat 1 = true)
include h hd

theorem rngB32_next : exec (.rngB32 d) s = .next (drawing s x
    (done (s.setSub x.sg (drawDone (wroteMembers (x.sub s) x.lanes (destReg s x d) (rngWord (x.sub s))))) x)) := by
  show execRngB32 d s = _
  rw [execRngB32, withWord_eq s x _ h, checked_pass _ _ _ _ (by simpa using hd)]
  dsimp only
  rw [writeV_eq s x d fun l => rngWord (x.sub s) l, modSub_eq, setSub_setSub, sub_setSub_self]
theorem rngB32_switches (hsat : drawSat (x.sub s) = false ∨ (x.sub s).rsten = false) :
    Switches s x (WroteReg (s.setSub x.sg (drawDone (x.sub s))) x d (fun _ => false) (rngWord (x.sub s))) (exec (.rngB32 d) s) := by
  rw [rngB32_next h hd, drawing_goes fun hs => hsat.resolve_left (by simp [hs])]
  refine switches_done s x _ _ ?_ (drawDone_wroteReg s x d _)
  rw [thread_drawDone]
  exact pc_wroteMembers _ (nodup_lanesOf _) _ _ _
theorem rngB32_traps (hsat : drawSat (x.sub s) = true) (hen : (x.sub s).rsten = true) : exec (.rngB32 d) s =
    .next (raise (s.modSub x.sg fun u => { u with sstat := setBit u.sstat 1 true }) x (trapOf s x x.mask 9 0)) := by
  rw [rngB32_next h hd, drawing]
  simp only [hsat, hen]
  rfl
end

section
variable (h : Stands s x)
include h

theorem rngctlNext_switches (hp : (x.sub s).rngPos ≠ 0xffffffffff) :
    Switches s x (fun v => v = { x.sub s with rngPos := (x.sub s).rngPos + 1, rngDraw := 0 }) (exec .rngctlNext s) := by
  show Switches s x _ (execRngctlNext s)
  rw [execRngctlNext, withWord_eq s x _ h, if_neg hp, modSub_eq]
  exact switches_done s x _ { x.sub s with rngPos := (x.sub s).rngPos + 1, rngDraw := 0 } rfl rfl
theorem rngctlNext_traps (hp : (x.sub s).rngPos = 0xffffffffff) : exec .rngctlNext s = .next (raise s x (trapOf s x x.mask 0x0a 0)) := by
  show execRngctlNext s = _
  rw [execRngctlNext, withWord_eq s x _ h, if_pos hp]

section
variable {a : BitVec 7} (ha : a.toNat ≤ 110) (h2 : a.toNat % 2 = 0)
include ha h2

theorem rngctlSetStream_switches :
    Switches s x (fun v => v = { x.sub s with rngStream := (x.sub s).spair a.toNat, rngPos := 0, rngDraw := 0 }) (exec (.rngctlSetStream a) s) := by
  show Switches s x _ (execRngctlSetStream a s)
  rw [execRngctlSetStream, withWord_eq s x _ h, checked_pass _ _ _ _ (by simp [spairOk_of ha h2])]
  exact switches_done s x _ { x.sub s with rngStream := (x.sub s).spair a.toNat, rngPos := 0, rngDraw := 0 } rfl rfl
theorem rngctlSetKey_switches : Switches s x (fun v => v = { x.sub s with rngKey := (x.sub s).spair a.toNat }) (exec (.rngctlSetKey a) s) := by
  show Switches s x _ (execRngctlSetKey a s)
  rw [execRngctlSetKey, withWord_eq s x _ h, checked_pass _ _ _ _ (by simp [spairOk_of ha h2])]
  exact switches_done s x _ { x.sub s with rngKey := (x.sub s).spair a.toNat } rfl rfl

theorem rngctlReadCounter_switches : Switches s x (WroteScalars s x (fun _ => false) fun n =>
    let c : Dword := BitVec.ofNat 64 ((x.sub s).rngPos.toNat * 2 ^ 24 + (x.sub s).rngDraw.toNat)
    if n = a.toNat then loOf c else if n = a.toNat + 1 then hiOf c else (x.sub s).sreg n) (exec (.rngctlReadCounter a) s) := by
  show Switches s x _ (execRngctlReadCounter a s)
  rw [execRngctlReadCounter, withWord_eq s x _ h, checked_pass _ _ _ _ (by simp [spairOk_of ha h2]), modSub_eq, rngCounter_eq]
  exact switches_setSpair a _
end
end
end

end Sys2Proof.Machine
end

section
open Sys2Proof Machine Claim
/-- Settles O3: `xsel` by the row that it leaves between two words, `sample` by the weights of the group, the random numbers by what the draw leaves. -/
theorem samplingAndGeneratorWords : Obligations.SamplingAndGeneratorWords := by
  unfold Obligations.SamplingAndGeneratorWords
  refine ⟨fun s x a h ha hc => ⟨_, xsel_next h ha hc, ⟨xselOf s x a, by rw [row_xselNext], rfl, rfl, fun l hl => ⟨get_members _ hl, ?_⟩, row_xselNext s x a⟩,
      issuing_of_row h.1 rfl (by rw [row_xselNext]), fun l hl => ?_, (sameBytes_goTo s x _ _).trans (sameBytes_setRow _ _ _ _)⟩,
    fun s x d a b h hb hd ha hc => sample_switches h hb hd ha hc, fun s x d h hd => ⟨rngB32_switches h hd, rngB32_traps h hd⟩,
    fun s x h => ⟨rngctlNext_switches h, rngctlNext_traps h, fun a ha h2 => ⟨rngctlSetStream_switches h ha h2, rngctlSetKey_switches h ha h2,
      rngctlReadCounter_switches h ha h2⟩⟩⟩
  · rw [Bool.eq_iff_iff, show (xselOf s x a).stale = maskOf (x.lanes.filter (staleA s x a)) from rfl, getLsbD_maskOf _ ((mem_lanesOf _ _).1 hl).1, List.mem_filter,
      and_iff_right hl]
  · rw [thread_xselNext s x a hl]
    exact ⟨rfl, rfl⟩
end

section
/-!
SUPPORT. Branches, calls, returns and jumps: the trace records of the members that leave, and the PCs to which they go (R120, R121, R384).
-/

namespace Sys2Proof.Machine
open State Claim

/-! ### Trace records (R384) -/

/-- A choice between two states commutes with a subgroup set in either. -/
theorem ite_setSub {c d : Prop} [Decidable c] [Decidable d] (h : c ↔ d) {g : Nat} {u : Sub} {p q p' q' : State} (hp : p = p'.setSub g u) (hq : q = q'.setSub g u) :
    (if c then p else q) = (if d then p' else q').setSub g u := by
  by_cases hd : d
  · rw [if_pos (h.2 hd), if_pos hd, hp]
  · rw [if_neg (mt h.1 hd), if_neg hd, hq]
theorem homeWrite_setSub (s : State) (g : Nat) (u : Sub) (p : Loc) (bs : List Byte) : (s.setSub g u).homeWrite p bs = (s.homeWrite p bs).setSub g u := by
  have clean (s : State) (ps : List Loc) : (s.setSub g u).cleanLines ps = (s.cleanLines ps).setSub g u := ite_setSub Iff.rfl rfl rfl
  have heal (s : State) (ps : List Loc) : (if (s.setSub g u).bad = [] then s.setSub g u else (s.setSub g u).healUnits ps) = (if s.bad = [] then s else s.healUnits ps).setSub g u :=
    ite_setSub Iff.rfl rfl rfl
  have touched (s : State) (ps : List Loc) : (s.setSub g u).touch ps = (s.touch ps).setSub g u :=
    List.foldl_hom (fun q : State => q.setSub g u) fun s p => ite_setSub Iff.rfl rfl rfl
  unfold State.homeWrite
  dsimp only
  rw [List.foldl_hom (fun q : State => q.setSub g u) (g₁ := fun s x => s.homeWrite1 (p + x.2) x.1) fun s x => rfl, clean, heal, touched]
theorem traceRecord_setSub (s : State) (g : Nat) (u : Sub) (kind lane : Nat) (pc data : Dword) :
    traceRecord (s.setSub g u) kind lane pc data = (traceRecord s kind lane pc data).setSub g u := by
  have he : (s.setSub g u).etime = s.etime := rfl
  unfold traceRecord
  dsimp only
  rw [homeWrite_setSub, he, setSub_dbgr]
  generalize s.homeWrite _ _ = q
  exact ite_setSub Iff.rfl rfl rfl

/-- What trace records may change: memory at home, and the ring's own registers. -/
def SameButTrace (s t : State) : Prop :=
  t = { s with pk := t.pk, sy := t.sy, stamp := t.stamp, bad := t.bad, written := t.written, link := { s.link with lines := t.link.lines }, dbgr := t.dbgr }
theorem SameButTrace.refl (s : State) : SameButTrace s s := rfl
theorem SameButTrace.trans {s t u : State} (h : SameButTrace s t) (g : SameButTrace t u) : SameButTrace s u := by
  unfold SameButTrace at *
  rw [g, h]
theorem traceRecord_trace (s : State) (kind lane : Nat) (pc data : Dword) : SameButTrace s (traceRecord s kind lane pc data) := by
  unfold traceRecord
  dsimp only
  split
  · rfl
  · have h := homeWrite_home s (tierPlace s.dbgr.trcBase + 32 * (s.dbgr.trcWr.toNat % 2 ^ (s.dbgr.trcLog.setWidth 5).toNat))
      (bytesOf 8 s.etime ++ bytesOf 4 (BitVec.ofNat 64 lane) ++ [BitVec.ofNat 8 kind, 0, 0, 0] ++ bytesOf 8 pc ++ bytesOf 8 data)
    generalize s.homeWrite _ _ = q at h ⊢
    unfold SameButTrace
    rw [h]
theorem traceLanes_trace (s : State) (g kind : Nat) (ls : List Nat) (pc data : Nat → Dword) : SameButTrace s (traceLanes s g kind ls pc data) := by
  have fold : ∀ (ls : List Nat) (s : State), SameButTrace s (ls.foldl (fun s l => traceRecord s kind (laneId s (s.sub g) l) (pc l) (data l)) s) := by
    intro ls
    induction ls with
    | nil => exact SameButTrace.refl
    | cons l ls ih => exact fun s => (traceRecord_trace s ..).trans (ih _)
  unfold traceLanes
  split
  · exact fold ls s
  · exact .refl s
theorem SameButTrace.sub {s t : State} (h : SameButTrace s t) (g : Nat) : t.sub g = s.sub g := by rw [h]; rfl
theorem SameButTrace.row {s t : State} (h : SameButTrace s t) (c r : Nat) : t.row c r = s.row c r := by rw [h]; rfl
/-- Records depend on where the subgroup stands, and on nothing else of it. -/
theorem traceLanes_setSub {s : State} {g : Nat} {u : Sub} (hc : u.core = (s.sub g).core) (hr : u.row = (s.sub g).row) (hk : u.slot = (s.sub g).slot) (kind : Nat) (ls : List Nat)
    (pc data : Nat → Dword) : traceLanes (s.setSub g u) g kind ls pc data = (traceLanes s g kind ls pc data).setSub g u := by
  have fold : ∀ (ls : List Nat) (s : State), u.core = (s.sub g).core → u.row = (s.sub g).row → u.slot = (s.sub g).slot →
      ls.foldl (fun s l => traceRecord s kind (laneId s (s.sub g) l) (pc l) (data l)) (s.setSub g u) =
      (ls.foldl (fun s l => traceRecord s kind (laneId s (s.sub g) l) (pc l) (data l)) s).setSub g u := by
    intro ls
    induction ls with
    | nil => exact fun _ _ _ _ => rfl
    | cons l ls ih =>
      intro s hc hr hk
      have hl : laneId (s.setSub g u) ((s.setSub g u).sub g) l = laneId s (s.sub g) l := by
        rw [sub_setSub_self]
        unfold laneId
        rw [hc, hr, hk]
        rfl
      have hsub := (traceRecord_trace s kind (laneId s (s.sub g) l) (pc l) (data l)).sub g
      rw [List.foldl_cons, List.foldl_cons, hl, traceRecord_setSub]
      exact ih _ (by rw [hsub, hc]) (by rw [hsub, hr]) (by rw [hsub, hk])
  unfold traceLanes
  rw [fold ls s hc hr hk]
  exact ite_setSub Iff.rfl rfl rfl
theorem traceLanes_congr {s : State} {g kind : Nat} {ls : List Nat} {pc data data' : Nat → Dword} (h : ∀ l ∈ ls, data l = data' l) :
    traceLanes s g kind ls pc data = traceLanes s g kind ls pc data' := by
  unfold traceLanes
  rw [List.foldl_ext _ _ _ fun s l hl => by rw [h l hl]]

/-! ### Jumps -/

theorem GoesTo.congrPc {s : State} {x : Cx} {f g : Nat → Dword} {sw : Bool} {P : Sub → Prop} {o : Out} (hfg : ∀ l ∈ x.lanes, f l = g l) (h : GoesTo s x f sw P o) :
    GoesTo s x g sw P o := by
  obtain ⟨v, t, ho, hP, ⟨hrest, hsubs, hsub, hmem, hoth, hcores, hrows⟩, hb⟩ := h
  exact ⟨v, t, ho, hP, ⟨hrest, hsubs, hsub, fun l hl => by rw [hmem l hl, hfg l hl], hoth, hcores, hrows⟩, hb⟩

/-- The link of each member written. -/
theorem linked_wroteRegs (s : State) (x : Cx) (r : Nat) (v : Dword) : WroteRegs s x (fun _ => false)
    (fun l i => if i = r then loOf v else if i = r + 1 then hiOf v else ((x.sub s).thread l).reg i) (x.lanes.foldl (fun u l => u.modThread l fun t => t.setPair r v) (x.sub s)) := by
  obtain ⟨hrest, ht⟩ := foldl_modThread x.lanes (nodup_lanesOf _) (fun _ t => t.setPair r v) (x.sub s)
  refine ⟨hrest, fun l hl => by rw [ht, if_neg hl], fun l hl => ?_⟩
  rw [ht, if_pos hl]
  exact ⟨rfl, reg_setPair _ _ _⟩
/-- The members whose target is misaligned, with their targets. -/
theorem misaligned_eq (s : State) (x : Cx) (a : BitVec 7) : ((x.lanes.map fun l => (l, (readSrc s x l a.toNat true).1)).filter fun p => p.2.toNat % 4 != 0) =
    (x.lanes.filter fun l => (readSrc s x l a.toNat true).1.toNat % 4 ≠ 0).map fun l => (l, (readSrc s x l a.toNat true).1) := by
  rw [List.filter_map]
  refine congrArg _ (List.filter_congr fun l _ => ?_)
  rw [Bool.eq_iff_iff, decide_eq_true_iff]
  exact bne_iff_ne
theorem wroteRegs_self (s : State) (x : Cx) : WroteRegs s x (fun _ => false) (fun l => ((x.sub s).thread l).reg) (x.sub s) :=
  ⟨rfl, fun _ _ => rfl, fun _ _ => ⟨rfl, fun _ => rfl⟩⟩

section
variable {s : State} {x : Cx} (h : Stands s x)
include h

/-- A jump, with its records, of a word that has made `v` of the subgroup. -/
theorem jumpTraced_goesTo {P : Sub → Prop} {v : Sub} (hc : v.core = (x.sub s).core) (hr : v.row = (x.sub s).row) (hk : v.slot = (x.sub s).slot)
    (hpc : (v.thread (lowest x.mask)).pc = x.pc s) (hP : P v) (kind : Nat) (ls : List Nat) (f : Nat → Dword) :
    GoesTo (traceLanes s x.sg kind ls (fun _ => x.pc s) f) x f true P (.next (jumpTraced (s.setSub x.sg v) x kind ls f)) := by
  have hp : x.pc (s.setSub x.sg v) = x.pc s := by
    rw [← hpc, Cx.pc, sub_setSub_self]
  rw [jumpTraced, hp, traceLanes_setSub hc hr hk]
  exact goesTo_jumpTo _ x P v f (by rw [(traceLanes_trace ..).row]; exact h.2) hP
/-- A jump, with its records, of a word that changes nothing of its subgroup. -/
theorem jumpTraced_unchanged (kind : Nat) (ls : List Nat) (f : Nat → Dword) :
    GoesTo (traceLanes s x.sg kind ls (fun _ => x.pc s) f) x f true (Unchanged s x) (.next (jumpTraced s x kind ls f)) := by
  have ht := traceLanes_trace s x.sg kind ls (fun _ => x.pc s) f
  have hself : jumpTo ((traceLanes s x.sg kind ls (fun _ => x.pc s) f).setSub x.sg (x.sub s)) x f = jumpTo (traceLanes s x.sg kind ls (fun _ => x.pc s) f) x f := by
    unfold jumpTo
    rw [← show x.sub (traceLanes s x.sg kind ls (fun _ => x.pc s) f) = x.sub s from ht.sub x.sg, goTo_setSub_self]
  rw [jumpTraced, ← hself]
  exact goesTo_jumpTo _ x _ _ f (by rw [ht.row]; exact h.2) rfl

/-- A jump of a word that changes nothing but the PCs, to targets that are, for the members, those stated. -/
theorem jumpTraced_jumps (kind : Nat) {ls : List Nat} (hls : ∀ l ∈ ls, l ∈ x.lanes) {f g : Nat → Dword} (hfg : ∀ l ∈ x.lanes, f l = g l) :
    Jumps s x kind ls g (fun _ => false) (.next (jumpTraced s x kind ls f)) := by
  unfold Jumps
  rw [← traceLanes_congr fun l hl => hfg l (hls l hl)]
  refine GoesTo.congrPc hfg ((jumpTraced_unchanged h kind ls f).mono ?_)
  rintro v rfl
  exact wroteRegs_self s x

/-! ### Branches (R120) -/

/-- A branch on each member's own A. -/
theorem branchOn_jumps {a : BitVec 7} (o : BitVec 16) (ha : srcOk s x a.toNat false = true) (hc : Calm s x (staleA s x a)) {taken : Word → Bool} {p : Word → Prop}
    [DecidablePred p] (hp : ∀ w, taken w = decide (p w)) :
    Jumps s x 1 (x.lanes.filter fun l => p (opA s x a l)) (fun l => if p (opA s x a l) then away s x o.toInt else x.pc s + 4) (staleA s x a) (branchOn s a o taken) := by
  have hyes : ((x.lanes.map fun l => (l, ((opA s x a l).setWidth 64 : Dword))).filter fun p => taken (loOf p.2)).map Prod.fst = x.lanes.filter fun l => p (opA s x a l) := by
    rw [filter_members x.lanes (fun l => ((opA s x a l).setWidth 64 : Dword)) fun v => taken (loOf v)]
    exact List.filter_congr fun l _ => by rw [loOf_setWidth, hp]
  rw [branchOn, withWord_eq s x _ h, checked_pass _ _ _ _ (by simpa using ha), readAll_narrow]
  refine GoesTo.withStaleRegs hc ?_
  dsimp only
  rw [hyes, Cx.lanes, lanesOf_maskOf_filter]
  refine jumpTraced_jumps h 1 (fun l hl => (List.mem_filter.1 hl).1) fun l hl => if_congr ?_ rfl rfl
  rw [getLsbD_maskOf _ ((mem_lanesOf _ _).1 hl).1, List.mem_filter, decide_eq_true_iff]
  exact and_iff_right hl

theorem bnz_jumps {a : BitVec 7} (o : BitVec 16) (ha : srcOk s x a.toNat false = true) (hc : Calm s x (staleA s x a)) :
    Jumps s x 1 (x.lanes.filter fun l => opA s x a l ≠ 0) (fun l => if opA s x a l ≠ 0 then away s x o.toInt else x.pc s + 4) (staleA s x a) (exec (.bnz a o) s) := by
  show Jumps s x 1 _ _ _ (execBnz a o s)
  rw [execBnz]
  exact branchOn_jumps h o ha hc (p := fun w => w ≠ 0) fun w => by rw [Bool.eq_iff_iff, decide_eq_true_iff, bne_iff_ne]
theorem bz_jumps {a : BitVec 7} (o : BitVec 16) (ha : srcOk s x a.toNat false = true) (hc : Calm s x (staleA s x a)) :
    Jumps s x 1 (x.lanes.filter fun l => opA s x a l = 0) (fun l => if opA s x a l = 0 then away s x o.toInt else x.pc s + 4) (staleA s x a) (exec (.bz a o) s) := by
  show Jumps s x 1 _ _ _ (execBz a o s)
  rw [execBz]
  exact branchOn_jumps h o ha hc (p := fun w => w = 0) fun w => by rw [Bool.eq_iff_iff, decide_eq_true_iff, beq_iff_eq]
/-- A branch on a scalar: every member takes the same way. -/
theorem bnzs_jumps {a : BitVec 7} (o : BitVec 16) (ha : sSrcOk x.form a.toNat = true) (hm : x.mode s = 1 → (readScalar s x a.toNat).2 = false) :
    let taken := (readScalar s x a.toNat).1 ≠ 0
    Jumps s x 1 (if taken then x.lanes else []) (fun _ => if taken then away s x o.toInt else x.pc s + 4)
      (fun l => (readScalar s x a.toNat).2 && l == lowest x.mask) (exec (.bnzs a o) s) := by
  intro taken
  have hls : (if ((readScalar s x a.toNat).1 != 0) = true then x.lanes else []) = if taken then x.lanes else [] := if_congr bne_iff_ne rfl rfl
  have hto : (fun _ : Nat => if ((readScalar s x a.toNat).1 != 0) = true then target s x o.toInt else x.pc s + 4) = fun _ => if taken then away s x o.toInt else x.pc s + 4 :=
    funext fun _ => if_congr bne_iff_ne rfl rfl
  show Jumps s x 1 _ _ _ (execBnzs a o s)
  rw [execBnzs, withWord_eq s x _ h, checked_pass _ _ _ _ (by simpa using ha)]
  refine GoesTo.mono (GoesTo.withStale (P := Unchanged s x) (staleTraps_lowestIf hm) (fun l hl => ((mem_lanesOf_lowestIf h _ l).1 hl).2 ▸ lowest_mem h) ?_) ?_
  · rw [hls, hto]
    exact jumpTraced_unchanged h 1 _ _
  · rintro _ ⟨u, rfl, rfl⟩
    exact onlyStale_marked h _

/-! ### Jumps and calls (R120) -/

theorem bra_jumps (o : BitVec 16) : Jumps s x 1 x.lanes (fun _ => away s x o.toInt) (fun _ => false) (exec (.bra o) s) := by
  show Jumps s x 1 _ _ _ (execBra o s)
  rw [execBra, withWord_eq s x _ h]
  exact jumpTraced_jumps h 1 (fun _ hl => hl) fun _ _ => rfl
theorem j_jumps (o : BitVec 24) : Jumps s x 4 x.lanes (fun _ => away s x o.toInt) (fun _ => false) (exec (.j o) s) := by
  show Jumps s x 4 _ _ _ (execJ o s)
  rw [execJ, withWord_eq s x _ h]
  exact jumpTraced_jumps h 4 (fun _ hl => hl) fun _ _ => rfl
theorem jl_goesTo (o : BitVec 24) : GoesTo (traceLanes s x.sg 2 x.lanes (fun _ => x.pc s) fun _ => away s x o.toInt) x (fun _ => away s x o.toInt) true
    (WroteScalars s x (fun _ => false) fun n => if n = 110 then loOf (x.pc s + 4) else if n = 111 then hiOf (x.pc s + 4) else (x.sub s).sreg n)
    (exec (.jl o) s) := by
  show GoesTo _ x _ true _ (execJl o s)
  rw [execJl, withWord_eq s x _ h, modSub_eq]
  exact jumpTraced_goesTo h (v := (x.sub s).setSpair 110 (x.pc s + 4)) rfl rfl rfl rfl (wroteScalars_of_rest rfl (sreg_setSpair _ _ _)) 2 x.lanes fun _ => away s x o.toInt

theorem call_goesTo {a : BitVec 7} (o : BitVec 16) (ha : linkOk s x a.toNat = true) :
    GoesTo (traceLanes s x.sg 2 x.lanes (fun _ => x.pc s) fun _ => away s x o.toInt) x (fun _ => away s x o.toInt) true
      (WroteRegs s x (fun _ => false) fun l i => if i = destReg s x a then loOf (x.pc s + 4) else if i = destReg s x a + 1 then hiOf (x.pc s + 4)
        else ((x.sub s).thread l).reg i) (exec (.call a o) s) := by
  have hw := linked_wroteRegs s x (destReg s x a) (x.pc s + 4)
  have hrest := hw.rest
  show GoesTo _ x _ true _ (execCall a o s)
  rw [execCall, withWord_eq s x _ h, checked_pass _ _ _ _ (by simpa using ha)]
  dsimp only
  rw [modThreads_eq _ _ _ (lanes_ne_nil h)]
  refine jumpTraced_goesTo h ?_ ?_ ?_ ?_ hw 2 x.lanes fun _ => away s x o.toInt
  · exact (congrArg Sub.core hrest).trans rfl
  · exact (congrArg Sub.row hrest).trans rfl
  · exact (congrArg Sub.slot hrest).trans rfl
  · rw [(hw.members _ (lowest_mem h)).1]
    rfl

/-! ### Jumps to a pair (R120, R121) -/

section
variable {a : BitVec 7} (ha : linkOk s x a.toNat = true)
include ha

theorem jumpPair_jumps (kind : Nat) (hal : ∀ l ∈ x.lanes, (readSrc s x l a.toNat true).1.toNat % 4 = 0) :
    Jumps s x kind x.lanes (fun l => (readSrc s x l a.toNat true).1) (fun _ => false) (jumpPair s kind a) := by
  have hnone : (x.lanes.filter fun l => (readSrc s x l a.toNat true).1.toNat % 4 ≠ 0) = [] := List.filter_eq_nil_iff.2 fun l hl => by simpa using hal l hl
  rw [jumpPair, withWord_eq s x _ h, checked_pass _ _ _ _ (by simpa using ha), readAll_eq]
  dsimp only
  rw [misaligned_eq, hnone]
  refine jumpTraced_jumps h kind (fun _ hl => hl) fun l hl => ?_
  rw [find?_members x.lanes fun k => (readSrc s x k a.toNat true).1, if_pos hl]
theorem jumpPair_traps (kind : Nat) {m : Nat} {ls : List Nat} (hms : (x.lanes.filter fun l => (readSrc s x l a.toNat true).1.toNat % 4 ≠ 0) = m :: ls) :
    jumpPair s kind a = .next (raise s x { trapOf s x (maskOf (m :: ls)) 3 2 with addr := (readSrc s x m a.toNat true).1 }) := by
  have hfst : ((m :: ls).map fun l => (l, (readSrc s x l a.toNat true).1)).map Prod.fst = m :: ls := by
    rw [List.map_map]
    exact List.map_id _
  rw [jumpPair, withWord_eq s x _ h, checked_pass _ _ _ _ (by simpa using ha), readAll_eq]
  dsimp only
  rw [misaligned_eq, hms]
  exact congrArg (fun k => Host.Outcome.next (raise s x { trapOf s x (maskOf k) 3 2 with addr := (readSrc s x m a.toNat true).1 })) hfst

theorem ret_jumps (hal : ∀ l ∈ x.lanes, (readSrc s x l a.toNat true).1.toNat % 4 = 0) :
    Jumps s x 3 x.lanes (fun l => (readSrc s x l a.toNat true).1) (fun _ => false) (exec (.ret a) s) := jumpPair_jumps h ha 3 hal
theorem jmp_jumps (hal : ∀ l ∈ x.lanes, (readSrc s x l a.toNat true).1.toNat % 4 = 0) :
    Jumps s x 4 x.lanes (fun l => (readSrc s x l a.toNat true).1) (fun _ => false) (exec (.jmp a) s) := jumpPair_jumps h ha 4 hal
theorem ret_traps {m : Nat} {ls : List Nat} (hms : (x.lanes.filter fun l => (readSrc s x l a.toNat true).1.toNat % 4 ≠ 0) = m :: ls) :
    exec (.ret a) s = .next (raise s x { trapOf s x (maskOf (m :: ls)) 3 2 with addr := (readSrc s x m a.toNat true).1 }) := jumpPair_traps h ha 3 hms
theorem jmp_traps {m : Nat} {ls : List Nat} (hms : (x.lanes.filter fun l => (readSrc s x l a.toNat true).1.toNat % 4 ≠ 0) = m :: ls) :
    exec (.jmp a) s = .next (raise s x { trapOf s x (maskOf (m :: ls)) 3 2 with addr := (readSrc s x m a.toNat true).1 }) := jumpPair_traps h ha 4 hms
end

theorem yield_switches : Switches s x (fun v => v = { x.sub s with yielded := true }) (exec .yield s) := by
  show Switches s x _ (execYield s)
  rw [execYield, withWord_eq s x _ h]
  exact switches_done s x _ { x.sub s with yielded := true } rfl rfl
end

end Sys2Proof.Machine
end

section
open Sys2Proof Machine Claim
/-- Settles O2: branches by the members that take them, jumps and calls by their one target, `ret` and `jmp` by whether some member's target is misaligned. -/
theorem controlFlowWordsSendEachMemberToItsTarget : Obligations.ControlFlowWordsSendEachMemberToItsTarget := by
  unfold Obligations.ControlFlowWordsSendEachMemberToItsTarget
  exact ⟨fun s x a o h ha hc => ⟨bnz_jumps h o ha hc, bz_jumps h o ha hc⟩, fun s x a o h ha hm => bnzs_jumps h o ha hm,
    fun s x o h => bra_jumps h o, fun s x o h => j_jumps h o, fun s x o h => jl_goesTo h o, fun s x a o h ha => call_goesTo h o ha,
    fun s x a h ha => ⟨fun hal => ⟨ret_jumps h ha hal, jmp_jumps h ha hal⟩, fun m ls hms => ⟨ret_traps h ha hms, jmp_traps h ha hms⟩⟩,
    fun s x h => yield_switches h⟩
end

section
/-!
SUPPORT. A `pickup` in a handler whose estate has an uncorrectable error and whose A is a stale latch: the fault domain ends, and the owner of an engine that goes with it passes
the ownership to the subgroup that has just gone (R26, R202, R212, R264).
-/

namespace Sys2Proof.Machine
open Claim

/-- The estate under key 0 in place on core 0, with an uncorrectable error. -/
def badEstate : Estate :=
  { ctx := 1, region := 0, key := 0, tag := 0, seq := 0, regs := [0], launch := 7, eligible := true, bad := true, place := .inPlace 0 0 1 0 }
/-- Subgroup 1 runs a handler on core 0 with its latch ring empty. Subgroup 2 of the same workgroup owns the engine of core 2, in whose owner queue subgroup 1 stands. -/
def pickupInHandler : State := { State.reset with
  cores := [(0, { ctx := some 1, rows := [(0, { issuing := some (1, 1), mode := 0 })] }), (2, { ctx := some 1, engine := { owner := some 2, queue := [1] } })]
  subs := [(1, { wg := 1, core := 0, k := [(0, 1)], sstat := 0x40, handler := some { mask := 1 }, threads := [(0, { pc := 0x1000 })] }),
    (2, { wg := 1, core := 2, k := [(0, 1)], threads := [(0, { pc := 0x1000 })] })]
  wgs := [(1, { ctx := 1, launch := 7 })]
  fe := { launches := [(7, { ctx := 1, regions := [0], lpb := { regs := 16 } })], estates := [badEstate] }
  turn := .row 0 0 }
/-- Its issuing group: member 0 alone. -/
def pickingUp : Cx := ⟨0, 0, 1, 1⟩

theorem stands_pickupInHandler : Stands pickupInHandler pickingUp := by constructor <;> decide +kernel
theorem calm_pickupInHandler (p : Nat → Bool) : Calm pickupInHandler pickingUp p := by
  have hm : pickingUp.mode pickupInHandler = 0 := by decide +kernel
  exact fun h => absurd (hm.symm.trans h) (by decide)
/-- No relock holds the one estate, which lies on the claiming core. -/
theorem estate_pickupInHandler (key : Dword) (e : Estate) (h : met pickupInHandler.fe.estates (pickingUp.launch pickupInHandler) key 0 = some e) :
    estateHeld pickupInHandler pickingUp.core e = none := by
  have he : e ∈ [badEstate] := List.mem_of_find?_eq_some h
  rw [List.mem_singleton.1 he]
  decide +kernel

/-- The state after the word shows LSTALE in member 0 of subgroup 1, which the ownership has brought back. -/
theorem pickup_tstat : shows (tstatOf 0) (exec (.pickup 0 112 0 0) pickupInHandler) = some 0x1000 := by decide +kernel
/-- What the statement names as that state does not. -/
theorem trapped_tstat : let r := takeEstate (bringEstate pickupInHandler 0 badEstate).1 badEstate
    let q := (r.modSub 1 fun u => { u with inflight := u.inflight + 1 }).post [.pickupComplete 1]
    tstatOf 0 (switchPoint (raise (advance q pickingUp []) pickingUp { trapOf r pickingUp (maskOf [0]) 5 2 with addr := 0 }) pickingUp) = 0 := by decide +kernel

end Sys2Proof.Machine
end

section
open Sys2Proof Machine Claim
/-- Refutes O46: its last clause on `pickup` names the state after the MEMERR trap without LSTALE, also for a claim with a stale latch. In a handler the trap ends the fault domain,
and where another subgroup that goes with it owned an engine in whose owner queue the claiming subgroup stood, that subgroup is there again, with a member that waits for no trap:
the word sets its LSTALE. -/
theorem not_membersRetireAndEstatesAreDelivered : ¬ Obligations.MembersRetireAndEstatesAreDelivered := by
  unfold Obligations.MembersRetireAndEstatesAreDelivered
  rintro ⟨-, hpickup, -⟩
  obtain ⟨-, -, hbad⟩ := hpickup pickupInHandler pickingUp 0 112 0 0 stands_pickupInHandler (by decide +kernel) (by constructor <;> decide +kernel) (by decide +kernel)
    (calm_pickupInHandler _)
  have hnext := (hbad 0 badEstate (fun l _ => estate_pickupInHandler _) (by decide) (by decide +kernel) (by decide +kernel)).2 (by decide +kernel)
  have hshows := congrArg (shows (tstatOf 0)) hnext
  rw [pickup_tstat] at hshows
  have hzero := Option.some.inj (hshows.trans (congrArg some trapped_tstat))
  exact absurd hzero (by decide)
end

section
/-!
SUPPORT. A multicast store under a TLB that translates the two halves of its eight bytes differently, both on REP pages: the replicas of one half fall on the places of the other,
where the order in which the bytes are stored shows (R142, R145, R340).
-/

namespace Sys2Proof.Machine
open State Claim

/-- Member 0 of a group on core 0, with the data 1 and 2 in v2:v3 and the address 0x1000 in v4:v5. The core's TLB maps the four bytes from 0x1000 on to the start of every die's
region, and the four bytes behind them to the starts of the regions from the second on. -/
def halvesApart : State := (grp 0 1 1 (fun _ => [(2, 1), (3, 2), (4, 0x1000)]) []).modCore 0 fun k => { k with
  tlb := [{ ctx := 1, va := 0x1000, log := 2, leaf := 0x80 }, { ctx := 1, va := 0x1004, log := 2, leaf := 0x3000000080 }] }
/-- The eight bytes that the store names. -/
def halfSpots : List Spot := ((List.range 4).map fun i => Spot.glob ⟨i, 0x80⟩) ++ (List.range 4).map fun i => Spot.glob ⟨0x3000000000 + i, 0x3000000080⟩

theorem stands_halvesApart : Stands halvesApart (xof 0 1) := ⟨rfl, rfl⟩
theorem calm_halvesApart (p : Nat → Bool) : Calm halvesApart (xof 0 1) p := by
  have hm : (xof 0 1).mode halvesApart = 0 := by rfl
  exact fun h => absurd (hm.symm.trans h) (by decide)
theorem access_halvesApart : Access halvesApart (xof 0 1) 0 8 true .store (addrA halvesApart (xof 0 1) 4 ((0 : BitVec 6).toInt * 8)) halvesApart fun _ => halfSpots := by
  constructor
  rfl
theorem correctable_halvesApart : ∀ l ∈ (xof 0 1).lanes, correctable halvesApart (addrA halvesApart (xof 0 1) 4 ((0 : BitVec 6).toInt * 8) l)
    (halfSpots.flatMap (replicas halvesApart 0)) (halfSpots.flatMap (replicas halvesApart 0)) = none := by
  intro l hl
  obtain rfl : l = 0 := List.mem_singleton.1 hl
  rfl
/-- The bytes in the order in which the word stores them: replica by replica, so the second replica of byte 0 comes after the first of byte 4, at the start of the second region. -/
def inReplicaOrder : List (Spot × Byte) := multicast halvesApart 0 halfSpots (Claim.storedBytes halvesApart (xof 0 1) 2 8 0)
/-- `halvesApart` after the bytes have been stored in that order. -/
def replicasStored : State :=
  heal (writeParts halvesApart 0 8 (inReplicaOrder.map Prod.fst) (inReplicaOrder.map Prod.snd)) (inReplicaOrder.map Prod.fst)
theorem exec_halvesApart : exec (.stMcB64 2 4 0 0) halvesApart = .next (finishAcc replicasStored (xof 0 1) [0] []) := by rfl
theorem view_replicasStored : (replicasStored.core 0).view.read 0x3000000000 = 1 := by
  have h := (writeParts_stored halvesApart 0 8 (inReplicaOrder.map Prod.fst) (inReplicaOrder.map Prod.snd)).trans (heal_stored _ 0 (inReplicaOrder.map Prod.fst))
  have hv : (replicasStored.core 0).view.read 0x3000000000 = (lastTo (globs inReplicaOrder) 0x3000000000).getD _ := h.view 0x3000000000
  exact hv.trans (by rfl)
theorem view_finishAcc (s : State) (x : Cx) (ls : List Nat) (c : Nat) : ((finishAcc s x ls []).core c).view = (s.core c).view := by
  show ((switchPoint (advance s x ls) x).core c).view = _
  simp [switchPoint, modRow_eq, modSub_eq, advance_eq, goTo]
theorem multicast_halvesApart : shows (fun t => (t.core 0).view.read 0x3000000000) (exec (.stMcB64 2 4 0 0) halvesApart) = some 1 := by
  rw [exec_halvesApart]
  show some (VMem.read ((finishAcc replicasStored (xof 0 1) [0] []).core 0).view 0x3000000000) = some 1
  rw [view_finishAcc, view_replicasStored]
/-- Byte by byte, byte 4 comes last there. -/
theorem lastTo_halvesApart : lastTo (globs ((xof 0 1).lanes.flatMap fun l => (halfSpots.zip (Claim.storedBytes halvesApart (xof 0 1) 2 8 l)).flatMap fun p =>
    (replicas halvesApart (xof 0 1).core p.1).map (·, p.2))) 0x3000000000 = some 2 := by rfl

/-- The view of the core in the state after a word is the one with which the group went on. -/
theorem GoesTo.view {q : State} {x : Cx} {pc : Nat → Dword} {sw : Bool} {P : Sub → Prop} {o : Out} (h : GoesTo q x pc sw P o) (p : Loc) :
    shows (fun t => (t.core x.core).view.read p) o = some ((q.core x.core).view.read p) := by
  obtain ⟨v, t, ho, -, hw, -⟩ := h
  rw [ho]
  show some ((t.core x.core).view.read p) = _
  rw [hw.cores x.core, if_pos rfl]

end Sys2Proof.Machine
end

section
open Sys2Proof Machine Claim
/-- Refutes O41: its clause on `st.mc.b64` stores byte by byte, each to all its replicas, and the word goes replica by replica. The premises let the bytes of one access be
translated apart, as a TLB with entries of four bytes does, which no walk leaves: with two REP pages that lie one region apart, byte 0 stands last at the start of the second
region where the clause wants byte 4. -/
theorem not_loadsAndStoresMoveTheirBytes : ¬ Obligations.LoadsAndStoresMoveTheirBytes := by
  unfold Obligations.LoadsAndStoresMoveTheirBytes
  rintro ⟨-, ⟨-, -, -, -, -, hmulticast⟩, -⟩
  obtain ⟨q, hstored, hgoes⟩ := hmulticast halvesApart (xof 0 1) 2 4 0 0 halvesApart (fun _ => halfSpots) stands_halvesApart rfl rfl
    (calm_halvesApart _) access_halvesApart correctable_halvesApart
  have hview : (q.core 0).view.read 0x3000000000 = 2 := by
    have h := hstored.view 0x3000000000
    rw [lastTo_halvesApart] at h
    exact h
  have hlast : (q.core 0).view.read 0x3000000000 = 1 := Option.some.inj ((hgoes.view 0x3000000000).symm.trans multicast_halvesApart)
  exact absurd (hview.symm.trans hlast) (by decide)
end

section
/-!
SUPPORT. What locating an access leaves of the units: translation, pages and walk counts change, and the bytes of stash lines that are filled (R152, R154, R340).
-/

namespace Sys2Proof.Machine
open State Claim

/-- Of the cores and the clusters, TLBs, walk counts and pages alone may differ. -/
def SameButTlbs (s t : State) : Prop :=
  (∀ c, t.core c = { s.core c with tlb := (t.core c).tlb, walks := (t.core c).walks, stale := (t.core c).stale }) ∧
    ∀ k, t.cluster k = { s.cluster k with tlb := (t.cluster k).tlb }

theorem SameButTlbs.of_eq {s t : State} (hc : t.cores = s.cores) (hk : t.clusters = s.clusters) : SameButTlbs s t := by
  have hcore (c : Nat) : t.core c = s.core c := by rw [State.core, hc]; rfl
  have hcluster (k : Nat) : t.cluster k = s.cluster k := by rw [State.cluster, hk]; rfl
  exact ⟨fun c => by rw [hcore], fun k => by rw [hcluster]⟩
theorem SameButTlbs.trans {s t u : State} (h : SameButTlbs s t) (g : SameButTlbs t u) : SameButTlbs s u := by
  obtain ⟨hcore, hcluster⟩ := h
  obtain ⟨gcore, gcluster⟩ := g
  exact ⟨fun c => by rw [gcore c, hcore c], fun k => by rw [gcluster k, hcluster k]⟩
theorem modCore_sameButTlbs (s : State) (c : Nat) {f : Core → Core} (hf : ∀ k, f k = { k with tlb := (f k).tlb, walks := (f k).walks, stale := (f k).stale }) :
    SameButTlbs s (s.modCore c f) := by
  refine ⟨fun e => ?_, fun k => rfl⟩
  rw [modCore_eq, core_setCore]
  split
  case isTrue h => subst h; exact hf _
  case isFalse => rfl
theorem modCluster_sameButTlbs (s : State) (k : Nat) {f : Cluster → Cluster} (hf : ∀ y, f y = { y with tlb := (f y).tlb }) : SameButTlbs s (s.modCluster k f) := by
  refine ⟨fun e => rfl, fun j => ?_⟩
  rw [show (s.modCluster k f).cluster j = if j = k then f (s.cluster k) else s.cluster j from cluster_setCluster s k j _]
  split
  case isTrue h => subst h; exact hf _
  case isFalse => rfl

/-- What translation and the use of pages may change: that, and nothing of the workgroups. -/
def Translated (s t : State) : Prop := SameButTlbs s t ∧ t.wgs = s.wgs

theorem Translated.tlbs {s t : State} (h : Translated s t) : SameButTlbs s t := h.1
theorem Translated.wgs {s t : State} (h : Translated s t) : t.wgs = s.wgs := h.2
theorem Translated.refl (s : State) : Translated s s := ⟨.of_eq rfl rfl, rfl⟩
theorem Translated.trans {s t u : State} (h : Translated s t) (g : Translated t u) : Translated s u := ⟨h.tlbs.trans g.tlbs, g.wgs.trans h.wgs⟩
theorem Translated.foldl {α : Type} {f : State → α → State} (h : ∀ s x, Translated s (f s x)) (xs : List α) (s : State) : Translated s (xs.foldl f s) := by
  induction xs generalizing s with
  | nil => exact .refl s
  | cons x xs ih => exact (h s x).trans (ih (f s x))
theorem Translated.wg {s t : State} (h : Translated s t) (w : Nat) : t.wg w = s.wg w := by
  rw [State.wg, h.wgs]
  rfl
theorem State.SameButPorts.translated {s t : State} (h : SameButPorts s t) : Translated s t := ⟨.of_eq (by rw [h]) (by rw [h]), by rw [h]⟩

theorem nameFar_translated (s : State) (p : Loc) (va : Nat) : Translated s (s.nameFar p va) := by
  unfold nameFar
  split
  · exact ⟨.of_eq rfl rfl, rfl⟩
  · exact .refl s
theorem remoteAccess_translated (s : State) (need : Need) (a : Dword) (spots : List Spot) : Translated s (s.remoteAccess need a spots) := by
  unfold remoteAccess
  dsimp only
  split
  · exact (sendRequests_ports s _).translated
  · exact .foldl (fun s (q : Loc × Dword) => nameFar_translated s q.1 q.2.toNat) _ s
theorem usePages_translated (s : State) (w off n : Nat) : Translated s (s.usePages w off n) := by
  unfold usePages
  dsimp only
  split
  · exact .refl s
  · exact ⟨modCore_sameButTlbs s _ fun _ => rfl, rfl⟩
theorem validPages_translated (s : State) (spots : List Spot) : Translated s (s.validPages spots) :=
  .foldl (fun s y => by
    cases y with
    | glob q => exact .refl s
    | scr w off => exact usePages_translated s w off 1) spots s

theorem translate_translated (s : State) (c ctx va : Nat) (need : Need) : Translated s (translate s c ctx va need).1 := by
  have hwalk (f : Core → Core) (g : Cluster → Cluster) (hf : ∀ k, f k = { k with tlb := (f k).tlb, walks := (f k).walks, stale := (f k).stale })
      (hg : ∀ y, g y = { y with tlb := (g y).tlb }) : Translated s ((s.modCore c f).modCluster (clusterOf c) g) :=
    ⟨(modCore_sameButTlbs s c hf).trans (modCluster_sameButTlbs _ _ hg), rfl⟩
  unfold translate
  dsimp only
  split
  · exact .refl s
  · split
    · dsimp only
      exact ⟨modCore_sameButTlbs s c fun _ => rfl, rfl⟩
    · split
      · exact .refl s
      · split <;> dsimp only <;> exact hwalk _ _ (fun _ => rfl) fun _ => rfl
theorem translateAll_translated (s : State) (P : Party) (need : Need) (ns : List Named) : Translated s (translateAll s P need ns).1 := by
  induction ns generalizing s with
  | nil => exact .refl s
  | cons n ns ih =>
    cases n with
    | scr w off =>
      have h := ih s
      unfold translateAll
      split <;> simp_all
    | glob va =>
      have ht := translate_translated s P.core P.ctx va need
      unfold translateAll
      split
      · simp_all
      · rename_i t y e
        have h : Translated s (translateAll t P need ns).1 := .trans (by simp_all) (ih t)
        split <;> simp_all
/-- Placing the lines to be filled translates their addresses, and lists no other lines. -/
theorem placeLines_translated (s : State) (P : Party) (ys : List Unfilled) : Translated s (placeLines s P ys).1 ∧
    ∀ xs, (placeLines s P ys).2 = .ok xs → xs.map Prod.fst = ys := by
  induction ys generalizing s with
  | nil => exact ⟨.refl s, fun xs h => by cases h; rfl⟩
  | cons y ys ih =>
    have ht := translate_translated s P.core P.ctx (y.range.base + 128 * y.line) .load
    unfold placeLines
    split
    · exact ⟨by simp_all, nofun⟩
    · rename_i t z e
      rw [e] at ht
      obtain ⟨hr, hl⟩ := ih t
      split
      next e' =>
        rw [e'] at hr
        exact ⟨ht.trans hr, nofun⟩
      next e' =>
        rw [e'] at hr hl
        refine ⟨ht.trans hr, fun xs h => ?_⟩
        cases h
        rw [List.map_cons, hl _ rfl]

/-! ### Stash lines filled -/

/-- An unfilled line lies in a range of its workgroup. -/
def Unfilled.Names (s : State) (y : Unfilled) : Prop := y.range ∈ (s.wg y.wg).stash ∧ 128 * y.line < y.range.len ∧ y.line ∉ y.range.filled
theorem unfilled_names (s : State) (a : Dword) (spots : List Spot) : ∀ y ∈ unfilled s a spots, y.Names s := by
  induction spots generalizing a with
  | nil => nofun
  | cons x xs ih =>
    cases x with
    | glob q => exact ih (a + 1)
    | scr w off =>
      intro y hy
      unfold unfilled at hy
      split at hy
      next => exact ih _ y hy
      next t ht =>
        dsimp only at hy
        split at hy
        next => exact ih _ y hy
        next hf =>
          obtain rfl | hy := List.mem_cons.1 hy
          · have hmem := List.mem_of_find?_eq_some ht
            have hin := List.find?_some ht
            simp only [Bool.and_eq_true, decide_eq_true_eq] at hin
            exact ⟨hmem, by dsimp only; omega, by simpa using hf⟩
          · exact ih _ y (List.mem_filter.1 hy).1

theorem read_putBytes (m : Mem) (off : Nat) (bs : List Byte) (p : Nat) (h : p < off ∨ off + bs.length ≤ p) : Mem.read (putBytes m off bs) p = Mem.read m p := by
  unfold putBytes
  have hkeep : ∀ (L : List (Byte × Nat)) (m : Mem), (∀ x ∈ L, p ≠ off + x.2) → Mem.read (L.foldl (fun m x => Mem.write m (off + x.2) x.1) m) p = Mem.read m p := by
    intro L
    induction L with
    | nil => exact fun m _ => rfl
    | cons x L ih =>
      intro m hL
      rw [List.foldl_cons, ih _ fun y hy => hL y (.tail _ hy), Mem.read_write_ne _ _ (hL x (.head _))]
  refine hkeep bs.zipIdx m fun x hx => ?_
  have hlt := List.snd_lt_of_mem_zipIdx hx
  omega

/-- The bytes of an unfilled line. -/
def Unfilled.Holds (y : Unfilled) (w off : Nat) : Prop := y.wg = w ∧ y.range.off + 128 * y.line ≤ off ∧ off < y.range.off + 128 * y.line + 128
theorem read_fillLine (s : State) (P : Party) (y : Unfilled) (p : Loc) {w off : Nat} (h : ¬ y.Holds w off) :
    Mem.read ((fillLine s P y p).wg w).mem off = Mem.read (s.wg w).mem off := by
  unfold fillLine
  rw [modWg_eq, wg_setWg]
  split
  case isTrue e =>
    subst e
    have hlen : (s.viewBytes P.core p 128).length = 128 := by simp [viewBytes]
    have hout : ¬ (y.range.off + 128 * y.line ≤ off ∧ off < y.range.off + 128 * y.line + 128) := fun hin => h ⟨rfl, hin⟩
    dsimp only
    rw [read_putBytes _ _ _ _ (by omega)]
  case isFalse => rfl
theorem read_foldl_fillLine (P : Party) (xs : List (Unfilled × Loc)) {w off : Nat} (h : ∀ x ∈ xs, ¬ x.1.Holds w off) (s : State) :
    Mem.read ((xs.foldl (fun s x => fillLine s P x.1 x.2) s).wg w).mem off = Mem.read (s.wg w).mem off := by
  induction xs generalizing s with
  | nil => rfl
  | cons x xs ih => rw [List.foldl_cons, ih (fun y hy => h y (.tail _ hy)), read_fillLine _ _ _ _ (h x (.head _))]

/-- Where an access is located, TLBs, walk counts and pages may change, and bytes of stash lines that were not filled. -/
def LocatedFrom (s t : State) : Prop := SameButTlbs s t ∧ ∀ w off, Mem.read (t.wg w).mem off ≠ Mem.read (s.wg w).mem off →
  ∃ y ∈ (s.wg w).stash, y.off ≤ off ∧ off < y.off + y.len + 128 ∧ (off - y.off) / 128 ∉ y.filled

theorem LocatedFrom.tlbs {s t : State} (h : LocatedFrom s t) : SameButTlbs s t := h.1
theorem Translated.locatedFrom {s t : State} (h : Translated s t) : LocatedFrom s t := ⟨h.tlbs, fun w off hne => absurd (by rw [h.wg]) hne⟩
theorem Translated.then_locatedFrom {s t u : State} (h : Translated s t) (g : LocatedFrom t u) : LocatedFrom s u := by
  obtain ⟨gtlbs, gbytes⟩ := g
  refine ⟨h.tlbs.trans gtlbs, fun w off hne => ?_⟩
  rw [← h.wg w] at hne ⊢
  exact gbytes w off hne
theorem LocatedFrom.then_translated {s t u : State} (h : LocatedFrom s t) (g : Translated t u) : LocatedFrom s u := by
  obtain ⟨htlbs, hbytes⟩ := h
  exact ⟨htlbs.trans g.tlbs, fun w off hne => hbytes w off (by rwa [g.wg] at hne)⟩

theorem fillLines_locatedFrom {s t : State} (P : Party) {xs : List (Unfilled × Loc)} (ht : Translated s t) (hx : ∀ x ∈ xs, x.1.Names s) :
    LocatedFrom s (xs.foldl (fun s x => fillLine s P x.1 x.2) t) := by
  have hfill : SameButTlbs t (xs.foldl (fun s x => fillLine s P x.1 x.2) t) :=
    .of_eq (foldl_keeps State.cores _ (fun _ _ => by rfl) xs t) (foldl_keeps State.clusters _ (fun _ _ => by rfl) xs t)
  refine ⟨ht.tlbs.trans hfill, fun w off hne => ?_⟩
  by_cases h : ∀ x ∈ xs, ¬ x.1.Holds w off
  · rw [read_foldl_fillLine P xs h, ht.wg] at hne
    exact absurd rfl hne
  · push Not at h
    obtain ⟨x, hmem, rfl, hlo, hhi⟩ := h
    obtain ⟨hrange, hlen, hfilled⟩ := hx x hmem
    have hline : (off - x.1.range.off) / 128 = x.1.line := by omega
    exact ⟨x.1.range, hrange, by omega, by omega, by rwa [hline]⟩
theorem fillAll_locatedFrom (s : State) (P : Party) (a : Dword) (spots : List Spot) : LocatedFrom s (fillAll s P a spots).1 := by
  obtain ⟨hp, hl⟩ := placeLines_translated s P (unfilled s a spots)
  unfold fillAll
  split
  next e =>
    rw [e] at hp
    exact hp.locatedFrom
  next t xs e =>
    rw [e] at hp hl
    have hx : ∀ x ∈ xs, x.1.Names s := fun x hx => unfilled_names s a spots x.1 (by rw [← hl xs rfl]; exact List.mem_map_of_mem hx)
    split
    · exact hp.locatedFrom
    · exact hp.locatedFrom
    · exact hp.locatedFrom
    · exact hp.locatedFrom
    · exact fillLines_locatedFrom P hp hx
theorem locate_locatedFrom (s : State) (P : Party) (sp : BitVec 2) (a : Dword) (n : Nat) (natural : Bool) (need : Need) :
    LocatedFrom s (locate s P sp a n natural need).1 := by
  have hs : LocatedFrom s s := (Translated.refl s).locatedFrom
  unfold locate
  split
  · exact hs
  · rename_i names _
    have ht := translateAll_translated s P need names
    split
    · exact hs
    · split
      · exact hs
      · split
        next e =>
          rw [e] at ht
          exact ht.locatedFrom
        next t spots e =>
          rw [e] at ht
          have hf := ht.then_locatedFrom (fillAll_locatedFrom t P a spots)
          split
          · exact ht.locatedFrom
          · split
            next e' =>
              rw [e'] at hf
              exact hf
            next u e' =>
              rw [e'] at hf
              refine hf.then_translated (.trans ?_ (validPages_translated _ spots))
              split
              · exact remoteAccess_translated u need a spots
              · exact .refl u

/-- R152, R154, R340: the frame of locating an access. -/
theorem locatingAnAccessChangesNoByteButStashFills : LocatingAnAccessChangesNoByteButStashFills := by
  intro s P sp a n natural need
  have hsame := locate_access s P sp a n natural need
  obtain ⟨⟨hcores, hclusters⟩, hbytes⟩ := locate_locatedFrom s P sp a n natural need
  refine ⟨hsame, hcores, hclusters, fun p => ?_, fun c p => ?_, hbytes⟩
  · rw [hsame]
    rfl
  · exact seen_of_view (by rw [hsame]) (by rw [hsame]) (by rw [hcores]) (by rw [hcores])

end Sys2Proof.Machine
end

section
/-!
SUPPORT. The order of the checks of an access (R154): what its bytes are named, its alignment, the residence of the workgroups that it reaches, and the translation of one byte.
-/

namespace Sys2Proof.Machine
open State Claim

/-! ### The parts of `locate` -/

/-- Check 1 of one byte: what its address names. -/
def nameOf (s : State) (P : Party) (sp : BitVec 2) (b : Dword) : Except MemFault Named := match decodeAddr s P.core P.ctx P.wg sp b with
  | some x => .ok x
  | none => .error (xlat 1 b)
/-- Whether a byte lies in another workgroup, which is switched out. -/
def Named.away (s : State) (P : Party) : Named → Bool
  | .scr w _ => w != P.wg && !(s.wg w).resident
  | .glob _ => false
/-- What follows on the translation of the bytes: the checks of their places, the lines that are filled, and what the access leaves. -/
def locateSpots (P : Party) (a : Dword) (need : Need) : State × Except MemFault (List Spot) → State × Except MemFault (List Spot)
  | (s, .error e) => (s, .error e)
  | (s, .ok spots) =>
    match (spots.zipIdx.filter fun (x, _) => !(spotMay s P x)) ++ (spots.zipIdx.filter fun (x, _) => !(spotReached s x))
      ++ (spots.zipIdx.filter fun (x, _) => spotRefused s P need x) with
    | (x, i) :: _ => (s, .error (if spotMay s P x && !(spotReached s x) then linkdown (a + BitVec.ofNat 64 i) else xlat 7 (a + BitVec.ofNat 64 i)))
    | [] =>
      match fillAll s P a spots with
      | (s, .error e) => (s, .error e)
      | (s, .ok ()) => ((if spots.any spotFar then s.remoteAccess need a spots else s).validPages spots, .ok spots)

/-- What follows on check 1: alignment, residence, and translation with what comes behind it. -/
def locateNamed (s : State) (P : Party) (a : Dword) (n : Nat) (natural : Bool) (need : Need) : Except MemFault (List Named) → State × Except MemFault (List Spot)
  | .error e => (s, .error e)
  | .ok names =>
    if natural && a.toNat % n != 0 then (s, .error (alignFault 1 a))
    else match names.zipIdx.find? fun (x, _) => x.away s P with
      | some (_, i) => (s, .error (spnr (a + BitVec.ofNat 64 i)))
      | none => locateSpots P a need (translateAll s P need names)
theorem locate_eq (s : State) (P : Party) (sp : BitVec 2) (a : Dword) (n : Nat) (natural : Bool) (need : Need) :
    locate s P sp a n natural need = locateNamed s P a n natural need (firstErr (nameOf s P sp) (addrs a n)) := rfl

/-! ### Names and residence of a byte -/

section
variable {s : State} {P : Party} {sp : BitVec 2} {a : Dword} {n : Nat} {natural : Bool} {need : Need}

/-- What byte `i` of an access names. -/
def namedAt (s : State) (P : Party) (sp : BitVec 2) (a : Dword) (i : Nat) : Option Named := decodeAddr s P.core P.ctx P.wg sp (a + BitVec.ofNat 64 i)
/-- Whether byte `i` lies in another workgroup, which is switched out. -/
def AwayAt (s : State) (P : Party) (sp : BitVec 2) (a : Dword) (i : Nat) : Prop := ∃ w off, namedAt s P sp a i = some (.scr w off) ∧ w ≠ P.wg ∧ (s.wg w).resident = false
/-- What the bytes of an access name, where each names something. -/
def namesOf (s : State) (P : Party) (sp : BitVec 2) (a : Dword) (n : Nat) : List Named := (List.range n).map fun i => (namedAt s P sp a i).getD (.glob 0)

theorem nameOf_eq (i : Nat) : nameOf s P sp (a + BitVec.ofNat 64 i) = (match namedAt s P sp a i with
    | some o => .ok o
    | none => .error (xlat 1 (a + BitVec.ofNat 64 i))) := rfl
theorem nameOf_some {i : Nat} {o : Named} (h : namedAt s P sp a i = some o) : nameOf s P sp (a + BitVec.ofNat 64 i) = .ok o := by rw [nameOf_eq, h]
theorem length_addrs : (addrs a n).length = n := by simp [addrs]
theorem length_namesOf : (namesOf s P sp a n).length = n := by simp [namesOf]
theorem away_iff (o : Named) : o.away s P = true ↔ ∃ w off, o = .scr w off ∧ w ≠ P.wg ∧ (s.wg w).resident = false := by
  cases o <;> simp [Named.away]
end

/-! ### Lists of checks -/

theorem firstErr_cons {α β : Type} (f : α → Except MemFault β) (x : α) (xs : List α) : firstErr f (x :: xs) = (f x).bind fun y => (firstErr f xs).map (y :: ·) := by
  rw [firstErr]
  cases f x with
  | error e => rfl
  | ok y => cases firstErr f xs <;> rfl
/-- The first check that fails decides. -/
theorem firstErr_lowest {α β : Type} {f : α → Except MemFault β} {e : MemFault} {xs : List α} {i : Nat} (h : i < xs.length) (he : f xs[i] = .error e)
    (hlt : ∀ j (hj : j < i), ∃ y, f xs[j] = .ok y) : firstErr f xs = .error e := by
  induction xs generalizing i with
  | nil => exact absurd h (Nat.not_lt_zero i)
  | cons x xs ih =>
    cases i with
    | zero =>
      rw [firstErr_cons, show f x = .error e from he]
      rfl
    | succ i =>
      obtain ⟨y, hy⟩ := hlt 0 (Nat.succ_pos i)
      rw [firstErr_cons, show f x = .ok y from hy, ih (Nat.lt_of_succ_lt_succ h) he fun j hj => hlt (j + 1) (Nat.succ_lt_succ hj)]
      rfl
/-- Checks that all pass give their results. -/
theorem firstErr_map {α β : Type} {f : α → Except MemFault β} {g : α → β} {xs : List α} (h : ∀ x ∈ xs, f x = .ok (g x)) : firstErr f xs = .ok (xs.map g) := by
  induction xs with
  | nil => rfl
  | cons x xs ih =>
    rw [firstErr_cons, h x (.head _), ih fun y hy => h y (.tail _ hy)]
    rfl
theorem length_of_firstErr {α β : Type} {f : α → Except MemFault β} {xs : List α} {ys : List β} (h : firstErr f xs = .ok ys) : ys.length = xs.length := by
  induction xs generalizing ys with
  | nil => cases h; rfl
  | cons x xs ih =>
    rw [firstErr_cons] at h
    cases hx : f x with
    | error e => rw [hx] at h; cases h
    | ok y =>
      cases hxs : firstErr f xs with
      | error e => rw [hx, hxs] at h; cases h
      | ok zs =>
        rw [hx, hxs] at h
        cases h
        rw [List.length_cons, ih hxs, List.length_cons]
/-- The lowest element that passes a test, with its index. -/
theorem find?_zipIdx_lowest {α : Type} {p : α × Nat → Bool} {xs : List α} {i : Nat} (h : i < xs.length) (hp : p (xs[i], i) = true) (hlt : ∀ j (hj : j < i), p (xs[j], j) = false) :
    xs.zipIdx.find? p = some (xs[i], i) := by
  refine List.find?_eq_some_iff_getElem.2 ⟨hp, i, by simpa using h, by simp, fun j hj => ?_⟩
  simp [hlt j hj]

/-! ### Checks 1 to 3 of an access -/

section
variable {s : State} {P : Party} {sp : BitVec 2} {a : Dword} {n : Nat} {natural : Bool} {need : Need}

theorem nameOf_none {i : Nat} (h : namedAt s P sp a i = none) : nameOf s P sp (a + BitVec.ofNat 64 i) = .error (xlat 1 (a + BitVec.ofNat 64 i)) := by rw [nameOf_eq, h]
theorem locate_unnamed {i : Nat} (hi : i < n) (h : namedAt s P sp a i = none) (hlt : ∀ j < i, namedAt s P sp a j ≠ none) :
    (locate s P sp a n natural need).2 = .error (xlat 1 (a + BitVec.ofNat 64 i)) := by
  have hgets (j : Nat) (hj : j < (addrs a n).length) : (addrs a n)[j] = a + BitVec.ofNat 64 j := by simp [addrs]
  rw [locate_eq, firstErr_lowest (i := i) (by rwa [length_addrs]) (by rw [hgets, nameOf_none h]) fun j hj => ?_]
  · rfl
  · obtain ⟨o, ho⟩ := Option.ne_none_iff_exists'.1 (hlt j hj)
    exact ⟨o, by rw [hgets, nameOf_some ho]⟩

section
variable (h : ∀ i < n, namedAt s P sp a i ≠ none)
include h

theorem firstErr_named : firstErr (nameOf s P sp) (addrs a n) = .ok (namesOf s P sp a n) := by
  have hmap : (addrs a n).map (fun b => (decodeAddr s P.core P.ctx P.wg sp b).getD (.glob 0)) = namesOf s P sp a n := by
    rw [addrs, List.map_map]
    rfl
  rw [← hmap]
  refine firstErr_map fun b hb => ?_
  obtain ⟨i, hi, rfl⟩ := List.mem_map.1 hb
  obtain ⟨o, ho⟩ := Option.ne_none_iff_exists'.1 (h i (List.mem_range.1 hi))
  rw [nameOf_some ho, show decodeAddr s P.core P.ctx P.wg sp (a + BitVec.ofNat 64 i) = some o from ho]
  rfl
theorem locate_named : locate s P sp a n natural need = locateNamed s P a n natural need (.ok (namesOf s P sp a n)) := by rw [locate_eq, firstErr_named h]
theorem locate_misaligned (hn : natural = true) (ha : a.toNat % n ≠ 0) : (locate s P sp a n natural need).2 = .error (alignFault 1 a) := by
  rw [locate_named h]
  exact congrArg Prod.snd (if_pos (by simpa [hn] using ha))
theorem away_namesOf {i : Nat} (hi : i < (namesOf s P sp a n).length) : (namesOf s P sp a n)[i].away s P = true ↔ AwayAt s P sp a i := by
  obtain ⟨o, ho⟩ := Option.ne_none_iff_exists'.1 (h i (by rwa [length_namesOf] at hi))
  simp [namesOf, AwayAt, ho, away_iff]
/-- Checks 3 and 4 of an access that is aligned where it must be. -/
theorem locate_aligned (ha : natural = true → a.toNat % n = 0) : locate s P sp a n natural need = match (namesOf s P sp a n).zipIdx.find? fun (x, _) => x.away s P with
    | some (_, i) => (s, .error (spnr (a + BitVec.ofNat 64 i)))
    | none => locateSpots P a need (translateAll s P need (namesOf s P sp a n)) := by
  rw [locate_named h]
  exact if_neg (by simpa using ha)

theorem locate_away (ha : natural = true → a.toNat % n = 0) {i : Nat} (hi : i < n) (haway : AwayAt s P sp a i) (hlt : ∀ j < i, ¬ AwayAt s P sp a j) :
    (locate s P sp a n natural need).2 = .error (spnr (a + BitVec.ofNat 64 i)) := by
  have hl : i < (namesOf s P sp a n).length := by rwa [length_namesOf]
  rw [locate_aligned h ha, find?_zipIdx_lowest hl ((away_namesOf h hl).2 haway)]
  exact fun j hj => Bool.eq_false_iff.2 fun hp => hlt j hj ((away_namesOf h _).1 hp)
end
end

/-! ### One byte translated -/

section
variable {s : State} {c ctx va : Nat} {need : Need}

/-- The place of a leaf as a core translates an address. -/
def placeOf (s : State) (c va : Nat) (e : Dword) (log : Nat) : Xlate := ⟨leafLoc s e log va (s.dieOfCore c), e⟩
/-- What translation gives after a walk. -/
def walkGives (s : State) (c va : Nat) (need : Need) : Except (BitVec 8 × BitVec 8) (Dword × Nat) → Except MemFault Xlate
  | .error (cause, d) => .error { cause := cause, detail := d, addr := BitVec.ofNat 64 va }
  | .ok (e, log) => match denied e need with
    | some d => .error (xlat d (BitVec.ofNat 64 va))
    | none => .ok (placeOf s c va e log)

section
variable (hcore : tlbFind (s.core c).tlb ctx va = none) (hcluster : tlbFind (s.cluster (clusterOf c)).tlb ctx va = none)
include hcore hcluster

theorem translate_missed : (translate s c ctx va need).2 = walkGives s c va need (walk s ctx va) := by
  unfold translate
  simp only [hcore, hcluster, Option.filter_none]
  rcases walk s ctx va with ⟨cause, d⟩ | ⟨e, log⟩
  · rfl
  · dsimp only [walkGives]
    cases denied e need with
    | none => rfl
    | some d => rfl
end

variable {P : Party} {sp : BitVec 2} {a : Dword} {natural : Bool} (h : namedAt s P sp a 0 = some (.glob va))
include h

theorem locate_one (ha : natural = true → a.toNat % 1 = 0) : locate s P sp a 1 natural need = locateSpots P a need (translateAll s P need [.glob va]) := by
  have hnames : namesOf s P sp a 1 = [.glob va] := by simp [namesOf, h]
  have hall : ∀ i < 1, namedAt s P sp a i ≠ none := fun i hi => by
    obtain rfl : i = 0 := by omega
    simp [h]
  rw [locate_aligned hall ha, hnames]
  rfl
omit h in
theorem translateAll_one {t : State} {r : Except MemFault Xlate} (ht : translate s P.core P.ctx va need = (t, r)) : translateAll s P need [.glob va] = (t, r.map fun x => [.glob x]) := by
  rw [translateAll, ht]
  cases r with
  | error e => rfl
  | ok x => rfl
theorem locate_one_error (ha : natural = true → a.toNat % 1 = 0) {e : MemFault} (ht : (translate s P.core P.ctx va need).2 = .error e) :
    (locate s P sp a 1 natural need).2 = .error e := by
  have hpair : translate s P.core P.ctx va need = ((translate s P.core P.ctx va need).1, .error e) := Prod.ext rfl ht
  rw [locate_one h ha, translateAll_one hpair]
  rfl
/-- A place of this package that can be reached passes the checks behind translation. -/
theorem locate_one_ok (ha : natural = true → a.toNat % 1 = 0) {x : Xlate} (ht : (translate s P.core P.ctx va need).2 = .ok x) (hlocal : isRemote x.loc = false)
    (hreach : s.reachable x.loc = true) : (locate s P sp a 1 natural need).2 = .ok [.glob x] := by
  obtain ⟨t, hpair⟩ : ∃ t, translate s P.core P.ctx va need = (t, .ok x) := ⟨_, Prod.ext rfl ht⟩
  have hsame : SameButAccess s t := by
    have hs := translate_access s P.core P.ctx va need
    rwa [hpair] at hs
  have hreached : t.reachable x.loc = true := by
    unfold reachable at hreach ⊢
    rw [hlocal] at hreach ⊢
    rw [hsame]
    exact hreach
  rw [locate_one h ha, translateAll_one hpair]
  simp [Except.map, locateSpots, spotMay, spotReached, spotRefused, mayReach, refusedAt, hlocal, hreached, fillAll, unfilled, placeLines]
end

/-- R154: the checks of an access in their order. -/
theorem accessChecksComeInR154Order : AccessChecksComeInR154Order := by
  intro s P sp a n natural need
  refine ⟨fun i hi => locate_unnamed hi, fun h => locate_misaligned h, fun h ha i hi => locate_away h ha hi, fun hn va hva ha hcore hcluster => ?_⟩
  subst hn
  have ht := translate_missed (need := need) hcore hcluster
  refine ⟨fun c d hw => ?_, fun e log hw => ⟨fun d hd => ?_, fun hd hplace => ?_⟩⟩
  · exact locate_one_error hva ha (by rw [ht, hw]; rfl)
  · exact locate_one_error hva ha (by rw [ht, hw, walkGives, hd]; rfl)
  · obtain ⟨hlocal, hreach⟩ := hplace
    exact locate_one_ok hva ha (by rw [ht, hw, walkGives, hd]; rfl) hlocal hreach

end Sys2Proof.Machine
end

section
open Sys2Proof Machine Claim
/-- Settles O43: the frame by what each part of locating may change, the order of the checks by the lowest byte at which each fails. -/
theorem accessesAreLocatedAndCheckedInOrder : Obligations.AccessesAreLocatedAndCheckedInOrder := by
  unfold Obligations.AccessesAreLocatedAndCheckedInOrder
  exact ⟨locatingAnAccessChangesNoByteButStashFills, accessChecksComeInR154Order⟩
end

section
/-!
SUPPORT. The accesses that the members of a group make: what locating them leaves, and how they go on where every check passes (R138, R154, R155, R393).
-/

namespace Sys2Proof.Machine
open State Claim

/-! ### Locating the accesses of a group -/

theorem length_translateAll {s : State} {P : Party} {need : Need} {ns : List Named} {ys : List Spot} (h : (translateAll s P need ns).2 = .ok ys) : ys.length = ns.length := by
  induction ns generalizing s ys with
  | nil => cases h; rfl
  | cons n ns ih =>
    cases n with
    | scr w off =>
      unfold translateAll at h
      split at h
      next e =>
        cases h
        rw [List.length_cons, List.length_cons, ih (congrArg Prod.snd e)]
      next => cases h
    | glob va =>
      unfold translateAll at h
      split at h
      next => cases h
      next t y e =>
        split at h
        next e' =>
          cases h
          rw [List.length_cons, List.length_cons, ih (congrArg Prod.snd e')]
        next => cases h
theorem length_locateSpots {P : Party} {a : Dword} {need : Need} {r : State × Except MemFault (List Spot)} {ys : List Spot}
    (h : (locateSpots P a need r).2 = .ok ys) : r.2 = .ok ys := by
  unfold locateSpots at h
  split at h
  next => cases h
  next s spots =>
    split at h
    next => cases h
    next =>
      split at h
      next => cases h
      next => exact h
/-- An access of `n` bytes names `n` bytes. -/
theorem length_locate {s : State} {P : Party} {sp : BitVec 2} {a : Dword} {n : Nat} {natural : Bool} {need : Need} {ys : List Spot}
    (h : (locate s P sp a n natural need).2 = .ok ys) : ys.length = n := by
  rw [locate_eq] at h
  unfold locateNamed at h
  split at h
  next => cases h
  next names e =>
    have hnames : names.length = n := (length_of_firstErr e).trans length_addrs
    split at h
    next => cases h
    next =>
      split at h
      next => cases h
      next => exact (length_translateAll (length_locateSpots h)).trans hnames
theorem row_locate (s : State) (P : Party) (sp : BitVec 2) (a : Dword) (n : Nat) (natural : Bool) (need : Need) (c r : Nat) :
    (locate s P sp a n natural need).1.row c r = s.row c r := by
  rw [State.row, (locate_locatedFrom s P sp a n natural need).tlbs.1 c]
  rfl

section
variable {s : State} {P : Party} {sp : BitVec 2} {n : Nat} {natural : Bool} {need : Need}

theorem locateEach_keeps {β : Type} (f : State → β) (h : ∀ s a, f (locate s P sp a n natural need).1 = f s) (as : List (Nat × Dword)) :
    f (locateEach s P sp n natural need as).1 = f s := by
  induction as generalizing s with
  | nil => rfl
  | cons a as ih => exact ih.trans (h s a.2)
theorem length_locateEach (as : List (Nat × Dword)) : ∀ p ∈ (locateEach s P sp n natural need as).2, ∀ ys, p.at_ = .ok ys → ys.length = n := by
  induction as generalizing s with
  | nil => nofun
  | cons a as ih =>
    intro p hp ys hy
    obtain rfl | hp := List.mem_cons.1 hp
    · exact length_locate hy
    · exact ih p hp ys hy
end

/-- The accesses of members `ls`, where each passes its checks: member `l` names the bytes `at_ l` at `addr l`. -/
def accesses (ls : List Nat) (addr : Nat → Dword) (at_ : Nat → List Spot) : List LaneAcc := ls.map fun l => ⟨l, addr l, .ok (at_ l)⟩

section
variable {s r : State} {x : Cx} {sp : BitVec 2} {n : Nat} {natural : Bool} {need : Need} {addr : Nat → Dword} {at_ : Nat → List Spot}
  (h : Access s x sp n natural need addr r at_)
include h

theorem Claim.Access.locateEach_eq : locateEach s (x.party s) sp n natural need (x.lanes.map fun l => (l, addr l)) = (r, accesses x.lanes addr at_) := h.located
theorem Claim.Access.keeps {β : Type} (f : State → β) (hf : ∀ t a, f (locate t (x.party s) sp a n natural need).1 = f t) : f r = f s := by
  rw [show r = (locateEach s (x.party s) sp n natural need (x.lanes.map fun l => (l, addr l))).1 from (congrArg Prod.fst h.located).symm]
  exact locateEach_keeps f hf _
theorem Claim.Access.subs : r.subs = s.subs := h.keeps State.subs fun _ _ => (locate_access ..).subs
theorem Claim.Access.sub (g : Nat) : r.sub g = s.sub g := h.keeps (fun t => t.sub g) fun _ _ => sub_located rfl g
theorem Claim.Access.row (c e : Nat) : r.row c e = s.row c e := h.keeps (fun t => t.row c e) fun _ _ => row_locate ..
theorem Claim.Access.cycle (c : Nat) : r.cycle c = s.cycle c := h.keeps (fun t => t.cycle c) fun t a => by
  rw [locate_access t (x.party s) sp a n natural need]
  rfl
theorem Claim.Access.length {l : Nat} (hl : l ∈ x.lanes) : (at_ l).length = n := by
  have hall := length_locateEach (s := s) (P := x.party s) (sp := sp) (n := n) (natural := natural) (need := need) (x.lanes.map fun l => (l, addr l))
  rw [h.located] at hall
  exact hall ⟨l, addr l, .ok (at_ l)⟩ (List.mem_map_of_mem hl) _ rfl
end

theorem addrA_zero (s : State) (x : Cx) (a : BitVec 7) (l : Nat) : addrA s x a 0 l = (readSrc s x l a.toNat true).1 := by simp [addrA]
theorem readAll_addrA (s : State) (x : Cx) (a : BitVec 7) : readAll s x a.toNat true = (x.lanes.map fun l => (l, addrA s x a 0 l), maskOf (x.lanes.filter (staleA2 s x a))) := by
  simp only [addrA_zero]
  exact readAll_eq s x a.toNat true

/-! ### Accesses that pass every check -/

section
variable (ls : List Nat) (addr : Nat → Dword) (at_ : Nat → List Spot)

theorem passed_accesses : passed (accesses ls addr at_) = ls.map fun l => (l, addr l, at_ l) := by
  show List.filterMap _ (ls.map fun l => (⟨l, addr l, .ok (at_ l)⟩ : LaneAcc)) = _
  rw [List.filterMap_map]
  exact congrFun (List.filterMap_eq_map (f := fun l => (l, addr l, at_ l))) ls
theorem failed_accesses : failed (accesses ls addr at_) = [] := by
  show List.filterMap _ (ls.map fun l => (⟨l, addr l, .ok (at_ l)⟩ : LaneAcc)) = _
  rw [List.filterMap_map]
  exact List.filterMap_eq_nil_iff.2 fun l _ => rfl
end

section
variable {ls : List Nat} {addr : Nat → Dword} {at_ : Nat → List Spot}

theorem checkEach_accesses {f : Dword → List Spot → Option MemFault} (h : ∀ l ∈ ls, f (addr l) (at_ l) = none) : checkEach f (accesses ls addr at_) = accesses ls addr at_ := by
  show List.map _ (ls.map fun l => (⟨l, addr l, .ok (at_ l)⟩ : LaneAcc)) = _
  rw [List.map_map]
  refine List.map_congr_left fun l hl => ?_
  simp only [Function.comp_apply, h l hl]
theorem lateEach_accesses {r : State} {x : Cx} (h : ∀ l ∈ ls, ∀ p, ((x.sub r).thread l).wait ≠ .late p) : lateEach r x (accesses ls addr at_) = accesses ls addr at_ := by
  show List.map _ (ls.map fun l => (⟨l, addr l, .ok (at_ l)⟩ : LaneAcc)) = _
  rw [List.map_map]
  refine List.map_congr_left fun l hl => ?_
  show (⟨l, addr l, lateAt r x l (addr l) (.ok (at_ l))⟩ : LaneAcc) = _
  rw [lateAt_calm (h l hl)]
end

theorem finishAcc_passed (s : State) (x : Cx) (ls : List Nat) : finishAcc s x ls [] = switchPoint (advance s x ls) x := rfl
theorem dwordFor_members {ls : List Nat} (f : Nat → Dword) {l : Nat} (hl : l ∈ ls) : dwordFor (ls.map fun k => (k, f k)) l = f l := by
  rw [dwordFor, find?_members, if_pos hl]

theorem unanswered_accesses {ls : List Nat} {addr : Nat → Dword} {at_ : Nat → List Spot} (r : State) : unanswered r (accesses ls addr at_) = none ↔ ∀ l ∈ ls, ∀ y ∈ at_ l, spotAnswers r y = true := by
  have hzip (ys : List Spot) : (∀ p ∈ ys.zipIdx, (!(spotAnswers r p.1)) = false) ↔ ∀ y ∈ ys, spotAnswers r y = true :=
    ⟨fun h y hy => by
      obtain ⟨i, hi, rfl⟩ := List.mem_iff_getElem.1 hy
      simpa using h (ys[i], i) (List.mem_zipIdx_iff_getElem?.2 (by simp [hi])),
     fun h p hp => by simp [h p.1 (List.fst_mem_of_mem_zipIdx hp)]⟩
  simp only [unanswered, passed_accesses, List.findSome?_eq_none_iff, List.forall_mem_map, Option.map_eq_none_iff, List.find?_eq_none, Bool.not_eq_true, hzip]

/-! ### Registers written in order -/

theorem Thread.setRegs_rest (t : Thread) (r : Nat) (ws : List Word) : t.setRegs r ws = { t with v := (t.setRegs r ws).v } := by
  induction ws generalizing t r with
  | nil => rfl
  | cons w ws ih => exact ih _ _
theorem Thread.reg_setRegs (t : Thread) (r : Nat) (ws : List Word) (i : Nat) : (t.setRegs r ws).reg i = if r ≤ i ∧ i < r + ws.length then ws.getD (i - r) 0 else t.reg i := by
  induction ws generalizing t r with
  | nil => exact (if_neg (by simp)).symm
  | cons w ws ih =>
    show ((t.setReg r w).setRegs (r + 1) ws).reg i = _
    rw [ih, Thread.reg_setReg, List.length_cons]
    obtain hlt | rfl | hgt := Nat.lt_trichotomy i r
    · rw [if_neg (by omega), if_neg (by omega), if_neg (by omega)]
    · rw [if_neg (by omega), if_pos rfl, if_pos (by omega), Nat.sub_self, List.getD_cons_zero]
    · have hs : i - r = i - (r + 1) + 1 := by omega
      rw [hs, List.getD_cons_succ]
      split <;> rename_i hin
      · rw [if_pos (by omega)]
      · rw [if_neg (by omega), if_neg (by omega)]

/-- The words of a number of `n` bytes (R140). -/
def numberWords (n : Nat) (v : Nat) : List Word := (List.range (regCount n)).map fun i => BitVec.ofNat 32 (v / 2 ^ (32 * i))
theorem loadedWords_bytesOf {n : Nat} (hn : n = 4 ∨ n = 8) (v : Dword) : loadedWords n false (bytesOf n v) = numberWords n v.toNat := by
  have hword (i : Nat) : (ofBytes (bytesOf 4 (v >>> (32 * i)))).setWidth 32 = BitVec.ofNat 32 (v.toNat / 2 ^ (32 * i)) := by
    refine BitVec.eq_of_toNat_eq ?_
    rw [ofBytes_eq_number, number_bytesOf, BitVec.toNat_ushiftRight, Nat.shiftRight_eq_div_pow, BitVec.toNat_setWidth, BitVec.toNat_ofNat, BitVec.toNat_ofNat]
    omega
  rcases hn with rfl | rfl
  · exact congrArg (fun w => [w]) (hword 0)
  · have hhigh : bytesOf 4 (v >>> 32) = (bytesOf 8 v).drop 4 := by simp [bytesOf, List.range_succ_eq_map, ← BitVec.shiftRight_add]
    have h1 := hword 1
    rw [Nat.mul_one, hhigh] at h1
    exact congrArg₂ (fun w z => [w, z]) (hword 0) h1
theorem reg_setRegs_numberWords (t : Thread) (r n v i : Nat) : (t.setRegs r (numberWords n v)).reg i =
    if r ≤ i ∧ i < r + regCount n then BitVec.ofNat 32 (v / 2 ^ (32 * (i - r))) else t.reg i := by
  rw [Thread.reg_setRegs, numberWords, List.length_map, List.length_range]
  split
  next h => simp [List.getD, show i - r < regCount n by omega]
  next => rfl

/-! ### A word that read latches and does not complete for the whole group -/

/-- A member that has been issued stands in a subgroup that the machine holds. -/
theorem listed_of_issued {t : State} {g l : Nat} (h : ((t.sub g).thread l).lastIssue ≠ 0) : (t.subs.find? g).isNone = false := by
  cases hf : t.subs.find? g with
  | some u => rfl
  | none =>
    have hsub : t.sub g = {} := by rw [State.sub, Tbl.get, hf]; rfl
    rw [hsub] at h
    exact absurd rfl h
/-- Where no member raised a fault, those whose read was stale set LSTALE after the word (R26). -/
theorem withStale_unfaulted {s t : State} {x : Cx} {stale : Dword} {k : State → Out} (hm : staleTraps s x stale = false) (hk : k s = .next t)
    (hl : ∀ l ∈ lanesOf stale, l ∈ x.lanes ∧ ((x.sub t).thread l).lastIssue ≠ 0 ∧ ((x.sub t).thread l).wait ≠ .trapped ∧ ((x.sub t).thread l).wait ≠ .service) :
    withStale s x stale k = .next (t.modThreads x.sg (lanesOf stale) fun t => { t with tstat := setStale t.tstat true }) := by
  unfold withStale
  rw [hm, if_neg (by decide), hk]
  split
  case isTrue h0 => rw [h0]; rfl
  case isFalse h0 =>
    have hall : stale &&& unfaulted t x = stale := BitVec.eq_of_getLsbD_eq fun i hi => by
      rw [BitVec.getLsbD_and]
      cases hs : stale.getLsbD i with
      | false => rfl
      | true =>
        obtain ⟨hmem, -, htrap, hservice⟩ := hl i ((mem_lanesOf _ _).2 ⟨hi, hs⟩)
        exact (getLsbD_maskOf _ hi).2 (List.mem_filter.2 ⟨hmem, by simpa using ⟨htrap, hservice⟩⟩)
    obtain ⟨l, hmem⟩ := List.exists_mem_of_ne_nil _ (lanesOf_ne_nil h0)
    dsimp only
    rw [listed_of_issued (hl l hmem).2.1, if_neg (by decide), hall, markStale, if_neg h0]
theorem withStale_fresh (s : State) (x : Cx) (k : State → Out) {p : Nat → Bool} (h : ∀ l ∈ x.lanes, p l = false) : withStale s x (maskOf (x.lanes.filter p)) k = k s := by
  have hz : maskOf (x.lanes.filter p) = 0 := by
    rw [List.filter_eq_nil_iff.2 fun l hl => Bool.eq_false_iff.1 (h l hl)]
    exact maskOf_nil
  have ht : staleTraps s x 0 = false := by rw [staleTraps, bne_self_eq_false, Bool.and_false]
  rw [hz, withStale, ht, if_neg (by decide), if_pos rfl]

/-! ### Whether every byte answers -/

section
variable {ls : List Nat} {addr : Nat → Dword} {at_ : Nat → List Spot}

theorem answered_eq (r : State) (x : Cx) (store : Bool) (as : List LaneAcc) (k : Out) : answered r x store as k = (unanswered r as).elim k fun q => .next (awaitAnswer r x store q) := by
  unfold answered
  cases unanswered r as <;> rfl
theorem answered_accesses {r : State} {x : Cx} {store : Bool} {k : Out} (h : ∀ l ∈ ls, ∀ y ∈ at_ l, spotAnswers r y = true) : answered r x store (accesses ls addr at_) k = k :=
  (answered_eq ..).trans (congrArg (Option.elim · k _) ((unanswered_accesses r).2 h))
/-- The group waits where a byte has no answer. -/
theorem unanswered_some {r : State} (h : ∃ l ∈ ls, ∃ y ∈ at_ l, spotAnswers r y = false) : ∃ q, unanswered r (accesses ls addr at_) = some q := by
  obtain ⟨l, hl, y, hy, hn⟩ := h
  refine Option.ne_none_iff_exists'.1 fun hnone => ?_
  rw [(unanswered_accesses r).1 hnone l hl y hy] at hn
  cases hn
theorem answered_waits {r : State} {x : Cx} {store : Bool} {k : Out} (h : ∃ l ∈ ls, ∃ y ∈ at_ l, spotAnswers r y = false) :
    ∃ q, answered r x store (accesses ls addr at_) k = .next (awaitAnswer r x store q) := by
  obtain ⟨q, hq⟩ := unanswered_some (addr := addr) h
  exact ⟨q, (answered_eq ..).trans (congrArg (Option.elim · k _) hq)⟩
end

end Sys2Proof.Machine
end

section
/-!
SUPPORT. `poll`: the members that take a value that was published and go on, and those that watch at the word (R150).
-/

namespace Sys2Proof.Machine
open State Claim

/-! ### The view of the core moves on (R177) -/

theorem moveView_keeps {β : Type} (f : State → β) (hview : ∀ s c (m : VMem), f (s.modCore c fun k => { k with view := m }) = f s)
    (horder : ∀ s t, SameButOrder s t → f t = f s) (s : State) (c w g S : Nat) (xs : List Spot) : f (moveView s c w g S xs) = f s :=
  foldl_keeps f _ (fun s y => by
    cases y with
    | glob q => exact (horder _ _ (ordered_order _ _ _ _)).trans (hview s c _)
    | scr w off => rfl) xs s
theorem sub_moveView (s : State) (c w g S : Nat) (xs : List Spot) (h : Nat) : (moveView s c w g S xs).sub h = s.sub h :=
  moveView_keeps (fun s => s.sub h) (fun _ _ _ => rfl) (fun _ _ e => by rw [e]; rfl) s c w g S xs
theorem cycle_moveView (s : State) (c w g S : Nat) (xs : List Spot) (e : Nat) : (moveView s c w g S xs).cycle e = s.cycle e :=
  moveView_keeps (fun s => s.cycle e) (fun _ _ _ => rfl) (fun _ _ e => by rw [e]; rfl) s c w g S xs
theorem row_moveView (s : State) (c w g S : Nat) (xs : List Spot) (e q : Nat) : (moveView s c w g S xs).row e q = s.row e q := by
  refine moveView_keeps (fun s => s.row e q) (fun s c m => ?_) (fun _ _ e => by rw [e]; rfl) s c w g S xs
  rw [modCore_eq, State.row, core_setCore]
  split
  next h => rw [h]; rfl
  next => rfl

/-! ### Numbers taken to the registers of some members -/

/-- Registers from `r` on of members `ls` written in order. -/
def tookMembers (u : Sub) (ls : List Nat) (r : Nat) (ws : Nat → List Word) : Sub := ls.foldl (fun u l => u.modThread l fun t => t.setRegs r (ws l)) u
theorem tookMembers_rest (u : Sub) {ls : List Nat} (nd : ls.Nodup) (r : Nat) (ws : Nat → List Word) : tookMembers u ls r ws = { u with threads := (tookMembers u ls r ws).threads } :=
  (foldl_modThread ls nd (fun l t => t.setRegs r (ws l)) u).1
theorem thread_tookMembers (u : Sub) {ls : List Nat} (nd : ls.Nodup) (r : Nat) (ws : Nat → List Word) (l : Nat) :
    (tookMembers u ls r ws).thread l = if l ∈ ls then (u.thread l).setRegs r (ws l) else u.thread l :=
  (foldl_modThread ls nd (fun l t => t.setRegs r (ws l)) u).2 l
theorem pc_tookMembers (u : Sub) {ls : List Nat} (nd : ls.Nodup) (r : Nat) (ws : Nat → List Word) (l : Nat) : ((tookMembers u ls r ws).thread l).pc = (u.thread l).pc := by
  rw [thread_tookMembers u nd]
  split
  · rw [Thread.setRegs_rest]
  · rfl
theorem writeLoads_members (s : State) (x : Cx) (d : Nat) (ls : List Nat) (ws : Nat → List Word) :
    writeLoads s x d (ls.map fun l => (l, ws l)) = s.setSub x.sg (tookMembers (x.sub s) ls ((x.sub s).wbase.toNat + d) ws) := by
  unfold writeLoads
  dsimp only
  rw [modSub_eq, List.foldl_map]
  rfl
theorem tookMembers_wroteSpan (s : State) (x : Cx) (d : BitVec 7) (n : Nat) {v w : Nat → Nat} (h : ∀ l ∈ x.lanes, v l = w l) :
    WroteSpan s x d (regCount n) (fun _ => false) (fun l i => BitVec.ofNat 32 (w l / 2 ^ (32 * i))) (tookMembers (x.sub s) x.lanes (destReg s x d) fun l => numberWords n (v l)) := by
  have nd : x.lanes.Nodup := nodup_lanesOf _
  refine ⟨tookMembers_rest _ nd _ _, fun l hl => ?_, fun l hl => ⟨?_, fun i => ?_⟩⟩
  · rw [thread_tookMembers _ nd, if_neg hl]
  · rw [thread_tookMembers _ nd, if_pos hl, Thread.setRegs_rest]
    rfl
  · rw [thread_tookMembers _ nd, if_pos hl, reg_setRegs_numberWords, h l hl]

/-! ### Members that watch (R150) -/

theorem thread_watchAt (s : State) (x : Cx) {ls : List Nat} (nd : ls.Nodup) (addr : Nat → Dword) (l : Nat) : (x.sub (watchAt s x ls addr)).thread l =
    if l ∈ ls then { (x.sub s).thread l with
      wait := .poll (addr l)
      lastIssue := (s.row x.core x.row).issued + 1
      readyAt := s.cycle x.core
      lastAt := s.cycle x.core } else (x.sub s).thread l := by
  have hsub : x.sub (watchAt s x ls addr) = ls.foldl (fun u l => u.modThread l fun t =>
      { t with wait := .poll (addr l), lastIssue := (s.row x.core x.row).issued + 1, readyAt := s.cycle x.core, lastAt := s.cycle x.core }) (x.sub s) :=
    sub_setSub_self s x.sg _
  rw [hsub]
  exact (foldl_modThread ls nd (fun l t =>
    { t with wait := .poll (addr l), lastIssue := (s.row x.core x.row).issued + 1, readyAt := s.cycle x.core, lastAt := s.cycle x.core }) _).2 l
theorem sameBytes_watchAt (s : State) (x : Cx) (ls : List Nat) (addr : Nat → Dword) : SameBytes s (watchAt s x ls addr) :=
  ((sameBytes_setSub s _ _).trans (sameBytes_setRow _ _ _ _)).trans (sameBytes_setRow _ _ _ _)

/-! ### The read of a `poll` whose accesses pass their checks and are answered -/

/-- A `poll` word of a group, with the bytes that its members read: they were located in `located`, at `addr l` the bytes `at_ l`. -/
def PollAccess : Type := State × State × Cx × Poll × (Nat → Dword) × (Nat → List Spot)

namespace PollAccess
variable (A : PollAccess)

abbrev before : State := A.1
abbrev located : State := A.2.1
abbrev cx : Cx := A.2.2.1
abbrev word : Poll := A.2.2.2.1
abbrev addr : Nat → Dword := A.2.2.2.2.1
abbrev at_ : Nat → List Spot := A.2.2.2.2.2
/-- What a member reads, and what its register holds. -/
def value (l : Nat) : Dword := ofBytes ((A.at_ l).map (readPublished A.located A.cx.core (A.cx.wg A.before) A.cx.sg A.word.scope))
def reg : Nat := (A.cx.sub A.before).wbase.toNat + A.word.d
def held (l : Nat) : Dword :=
  if A.word.size = 8 then ((A.cx.sub A.before).thread l).pair A.reg else (((A.cx.sub A.before).thread l).reg A.reg).setWidth 64
/-- The members that go on, and those that watch. -/
def go : List Nat := A.cx.lanes.filter fun l => !A.word.hint || A.value l != A.held l
def stay : List Nat := A.cx.lanes.filter fun l => A.word.hint && A.value l == A.held l
/-- The core's view has moved on; then some members have taken their values; then the others watch. -/
def moved : State := moveView A.located A.cx.core (A.cx.wg A.before) A.cx.sg A.word.scope (A.cx.lanes.flatMap A.at_)
def took : State := A.moved.setSub A.cx.sg (tookMembers (A.cx.sub A.moved) A.go ((A.cx.sub A.moved).wbase.toNat + A.word.d) fun l => numberWords A.word.size (A.value l).toNat)
def watching : State := if A.stay.isEmpty then A.took else watchAt A.took A.cx A.stay (dwordFor (A.cx.lanes.map fun l => (l, A.addr l)))
/-- What the word leaves. -/
def next : State := switchPoint (advance A.watching A.cx A.go) A.cx

theorem mem_go (l : Nat) : l ∈ A.go ↔ l ∈ A.cx.lanes ∧ (A.word.hint = false ∨ A.value l ≠ A.held l) := by simp [go]
theorem mem_stay (l : Nat) : l ∈ A.stay ↔ l ∈ A.cx.lanes ∧ ¬ (A.word.hint = false ∨ A.value l ≠ A.held l) := by simp [stay]
theorem nodup_go : A.go.Nodup := (nodup_lanesOf _).filter _
theorem nodup_stay : A.stay.Nodup := (nodup_lanesOf _).filter _
theorem not_mem_stay {l : Nat} (h : l ∈ A.go) : l ∉ A.stay := fun hs => ((A.mem_stay l).1 hs).2 ((A.mem_go l).1 h).2

theorem sameBytes_next : SameBytes A.moved A.next := by
  have hw : SameBytes A.moved A.watching := by
    unfold watching
    split
    · exact sameBytes_setSub ..
    · exact (sameBytes_setSub ..).trans (sameBytes_watchAt ..)
  exact (hw.trans (sameBytes_advance ..)).trans (sameBytes_setRow _ _ _ _)
theorem atSwitch_next : (A.next.row A.cx.core A.cx.row).atSwitch = true := by
  unfold next switchPoint
  rw [modRow_eq, row_setRow_self]

theorem thread_took (l : Nat) : (A.cx.sub A.took).thread l = if l ∈ A.go
    then ((A.cx.sub A.moved).thread l).setRegs ((A.cx.sub A.moved).wbase.toNat + A.word.d) (numberWords A.word.size (A.value l).toNat) else (A.cx.sub A.moved).thread l := by
  have hsub : A.cx.sub A.took = tookMembers _ _ _ _ := sub_setSub_self A.moved A.cx.sg _
  rw [hsub, thread_tookMembers _ A.nodup_go]
theorem thread_watching (l : Nat) : (A.cx.sub A.watching).thread l = if l ∈ A.stay then { (A.cx.sub A.moved).thread l with
      wait := .poll (A.addr l)
      lastIssue := (A.moved.row A.cx.core A.cx.row).issued + 1
      readyAt := A.moved.cycle A.cx.core
      lastAt := A.moved.cycle A.cx.core } else (A.cx.sub A.took).thread l := by
  unfold watching
  split
  next hn => rw [if_neg (by simp [List.isEmpty_iff.1 hn])]
  next =>
    rw [thread_watchAt _ _ A.nodup_stay]
    split
    next hl =>
      have hgo : l ∉ A.go := fun h => A.not_mem_stay h hl
      rw [thread_took, if_neg hgo, dwordFor_members A.addr ((A.mem_stay l).1 hl).1]
      rfl
    next => rfl
theorem pc_watching : A.cx.pc A.watching = A.cx.pc A.moved := by
  show ((A.cx.sub A.watching).thread _).pc = _
  rw [thread_watching, thread_took]
  split
  · rfl
  · split
    · rw [Thread.setRegs_rest]; rfl
    · rfl
theorem thread_next (l : Nat) : (A.cx.sub A.next).thread l = if l ∈ A.go
    then ((A.cx.sub A.watching).thread l).goTo (A.watching.cycle A.cx.core) ((A.watching.row A.cx.core A.cx.row).issued + 1) (A.cx.pc A.moved + 4)
    else (A.cx.sub A.watching).thread l := by
  show ((advance A.watching A.cx A.go).sub A.cx.sg).thread l = _
  rw [advance_eq, sub_setRow, pc_watching]
  exact (goTo_spec _ A.cx _ A.nodup_go _).2 l

/-- A member that goes on has its number in its registers. -/
theorem next_go {l : Nat} (h : l ∈ A.go) : let u := (A.cx.sub A.next).thread l
    u.pc = A.cx.pc A.moved + 4 ∧ u.wait = .none ∧ u.lastIssue ≠ 0 ∧ ∀ k, u.reg k = (((A.cx.sub A.moved).thread l).setRegs ((A.cx.sub A.moved).wbase.toNat + A.word.d) (numberWords A.word.size (A.value l).toNat)).reg k := by
  rw [thread_next, if_pos h, thread_watching, if_neg (A.not_mem_stay h), thread_took, if_pos h]
  exact ⟨rfl, rfl, Nat.succ_ne_zero _, fun _ => rfl⟩
/-- The others watch. -/
theorem next_stay {l : Nat} (h : l ∈ A.stay) : (A.cx.sub A.next).thread l = { (A.cx.sub A.moved).thread l with
    wait := .poll (A.addr l)
    lastIssue := (A.moved.row A.cx.core A.cx.row).issued + 1
    readyAt := A.moved.cycle A.cx.core
    lastAt := A.moved.cycle A.cx.core } := by
  rw [thread_next, if_neg fun hg => A.not_mem_stay hg h, thread_watching, if_pos h]
theorem next_member {l : Nat} (h : l ∈ A.cx.lanes) : let u := (A.cx.sub A.next).thread l
    u.lastIssue ≠ 0 ∧ u.wait ≠ .trapped ∧ u.wait ≠ .service := by
  by_cases hs : A.word.hint = false ∨ A.value l ≠ A.held l
  · obtain ⟨-, hw, hi, -⟩ := A.next_go ((A.mem_go l).2 ⟨h, hs⟩)
    exact ⟨hi, by rw [hw]; nofun, by rw [hw]; nofun⟩
  · dsimp only
    rw [A.next_stay ((A.mem_stay l).2 ⟨h, hs⟩)]
    exact ⟨Nat.succ_ne_zero _, nofun, nofun⟩

/-- Where every member goes on the word completes for the group. -/
theorem next_done (h : ∀ l ∈ A.cx.lanes, A.word.hint = false ∨ A.value l ≠ A.held l) :
    A.next = done (A.moved.setSub A.cx.sg (tookMembers (A.cx.sub A.moved) A.cx.lanes ((A.cx.sub A.moved).wbase.toNat + A.word.d) fun l => numberWords A.word.size (A.value l).toNat)) A.cx := by
  have hgo : A.go = A.cx.lanes := List.filter_eq_self.2 fun l hl => by simpa using h l hl
  have hstay : A.stay = [] := List.filter_eq_nil_iff.2 fun l hl => by simpa [imp_iff_not_or] using h l hl
  rw [next, watching, hstay, if_pos List.isEmpty_nil, took, hgo]
  rfl

/-- The members whose read was stale set LSTALE after the word. -/
def marked (stale : Nat → Bool) : State := A.next.modThreads A.cx.sg (lanesOf (maskOf (A.cx.lanes.filter stale))) fun t => { t with tstat := setStale t.tstat true }
theorem thread_marked (stale : Nat → Bool) {l : Nat} (hl : l ∈ A.cx.lanes) : (A.cx.sub (A.marked stale)).thread l =
    { (A.cx.sub A.next).thread l with tstat := setStale ((A.cx.sub A.next).thread l).tstat (stale l) } := by
  show (State.sub (State.modThreads _ _ _ _) _).thread l = _
  rw [sub_modThreads, if_pos rfl]
  exact thread_marked_member _ stale hl
theorem sameBytes_marked (stale : Nat → Bool) : SameBytes A.moved (A.marked stale) := A.sameBytes_next.trans (sameBytes_modThreads ..)
theorem atSwitch_marked (stale : Nat → Bool) : ((A.marked stale).row A.cx.core A.cx.row).atSwitch = true := by
  rw [marked, row_modThreads]
  exact A.atSwitch_next
theorem withStale_next {stale : Nat → Bool} {k : State → Out} (hm : Calm A.before A.cx stale) (hk : k A.before = .next A.next) :
    withStale A.before A.cx (maskOf (A.cx.lanes.filter stale)) k = .next (A.marked stale) :=
  withStale_unfaulted (staleTraps_of_calm hm) hk fun l hl =>
    have hmem := ((mem_lanesOf_maskOf_filter A.cx stale l).1 hl).1
    ⟨hmem, A.next_member hmem⟩

section
variable (h : Access A.before A.cx A.word.sp A.word.size true .load A.addr A.located A.at_) (hc : ∀ l ∈ A.cx.lanes, correctable A.located (A.addr l) (A.at_ l) [] = none)
  (hlate : ∀ l ∈ A.cx.lanes, ∀ p, ((A.cx.sub A.before).thread l).wait ≠ .late p)
include h hc hlate

/-- The accesses pass check 6, and none of them is late. -/
theorem accesses_checked : lateEach A.located A.cx (checkData A.located (fun _ => []) (accesses A.cx.lanes A.addr A.at_)) = accesses A.cx.lanes A.addr A.at_ := by
  have hsub : A.cx.sub A.located = A.cx.sub A.before := h.sub A.cx.sg
  rw [checkData, checkEach_accesses hc, lateEach_accesses (by rw [hsub]; exact hlate)]
theorem pollRead_waits (hn : ∃ l ∈ A.cx.lanes, ∃ y ∈ A.at_ l, spotAnswers A.located y = false) :
    ∃ q, (pollRead A.before A.cx A.word (A.cx.lanes.map fun l => (l, A.addr l))).1 = awaitAnswer A.located A.cx false q := by
  obtain ⟨q, hq⟩ := unanswered_some (addr := A.addr) hn
  refine ⟨q, ?_⟩
  unfold pollRead
  dsimp only
  rw [h.locateEach_eq, accesses_checked A h hc hlate, hq]
theorem pollRead_next (hsize : A.word.size = 4 ∨ A.word.size = 8) (ha : ∀ l ∈ A.cx.lanes, ∀ y ∈ A.at_ l, spotAnswers A.located y = true) :
    (pollRead A.before A.cx A.word (A.cx.lanes.map fun l => (l, A.addr l))).1 = A.next := by
  unfold pollRead
  dsimp only
  rw [h.locateEach_eq, accesses_checked A h hc hlate, (unanswered_accesses A.located).2 ha, passed_accesses, failed_accesses]
  simp only [List.map_map, List.filter_map, List.flatMap_map, Function.comp_def, loadedWords_bytesOf hsize, writeLoads_members, List.map_id']
  rfl
end

end PollAccess

section
variable {s r : State} {x : Cx} {hint : Bool} {d a : BitVec 7} {c : BitVec 3} {sp : BitVec 2} {n : Nat} {at_ : Nat → List Spot} (h : Stands s x)
include h

theorem pollOp_eq (hc : c ≠ 7) (hd : dstOk s x d.toNat (regCount n) = true) (ha : srcOk s x a.toNat true = true) : pollOp s ⟨n, d.toNat, a.toNat, c.toNat, sp, hint⟩ =
    withStale s x (maskOf (x.lanes.filter (staleA2 s x a))) fun s' => .next (pollRead s' x ⟨n, d.toNat, a.toNat, c.toNat, sp, hint⟩ (x.lanes.map fun l => (l, addrA s x a 0 l))).1 := by
  have hscope : c.toNat ≠ 7 := fun e => hc (BitVec.eq_of_toNat_eq e)
  rw [pollOp, withWord_eq s x _ h, checked_pass _ _ _ _ (by simp [pollChecks, hd, ha, hscope]), readAll_addrA]
end

/-- A word that reads latches of some members and writes a span of registers. -/
theorem GoesTo.withStaleSpan {s q r : State} {x : Cx} {d : BitVec 7} {m : Nat} {p : Nat → Bool} {f : Nat → Nat → Word} {pc : Nat → Dword} {sw : Bool} {k : State → Out} (hc : Calm s x p)
    (h : GoesTo r x pc sw (WroteSpan q x d m (fun _ => false) f) (k s)) : GoesTo r x pc sw (WroteSpan q x d m p f) (Machine.withStale s x (maskOf (x.lanes.filter p)) k) :=
  GoesTo.withStaleRegs hc h

theorem polls {i : Bool → BitVec 7 → BitVec 7 → BitVec 3 → BitVec 2 → Instr} {n : Nat} (hn : n = 4 ∨ n = 8)
    (hi : ∀ hint d a c sp s, exec (i hint d a c sp) s = pollOp s ⟨n, d.toNat, a.toNat, c.toNat, sp, hint⟩) : Polls i n := by
  intro s x hint d a c sp r at_ hs hscope hd ha hcalm hacc hcorr q value held go
  let A : PollAccess := ⟨s, r, x, ⟨n, d.toNat, a.toNat, c.toNat, sp, hint⟩, addrA s x a 0, at_⟩
  have hexec : exec (i hint d a c sp) s = _ := (hi ..).trans (pollOp_eq hs hscope hd ha)
  have hsub : x.sub q = x.sub s := (sub_moveView ..).trans (hacc.sub x.sg)
  have hpc : x.pc q = x.pc s := congrArg (fun u : Sub => (u.thread (lowest x.mask)).pc) hsub
  have hreg : destReg q x d = destReg s x d := congrArg (fun u : Sub => u.wbase.toNat + d.toNat) hsub
  have hrow : A.moved.row A.cx.core A.cx.row = s.row x.core x.row := (row_moveView ..).trans (hacc.row ..)
  have hcycle : A.moved.cycle A.cx.core = s.cycle x.core := (cycle_moveView ..).trans (hacc.cycle ..)
  have hvalue : ∀ l ∈ x.lanes, (A.value l).toNat = value l := fun l hl => toNat_ofBytes _ (by rw [List.length_map, hacc.length hl]; omega)
  have hheld (l : Nat) : (A.held l).toNat = held l := by
    show (if n = 8 then _ else _ : Dword).toNat = if n = 8 then _ else _
    split
    · rfl
    · exact BitVec.toNat_setWidth_of_le (by decide)
  have hgo : ∀ l ∈ x.lanes, (go l ↔ hint = false ∨ A.value l ≠ A.held l) := fun l hl => by
    have hne : A.value l ≠ A.held l ↔ value l ≠ held l := by rw [← hvalue l hl, ← hheld, ne_eq, ne_eq, BitVec.toNat_inj]
    exact or_congr_right hne.symm
  refine ⟨fun hlate hfresh hun => ?_, fun ⟨hlate, hans⟩ => ?_⟩
  · obtain ⟨b, hb⟩ := A.pollRead_waits hacc hcorr hlate hun
    exact ⟨b, by rw [hexec, withStale_fresh _ _ _ hfresh]; exact congrArg Host.Outcome.next hb⟩
  have hread := A.pollRead_next hacc hcorr hlate hn hans
  have hmarked : exec (i hint d a c sp) s = .next (A.marked (staleA2 s x a)) := by
    rw [hexec]
    exact A.withStale_next hcalm (congrArg Host.Outcome.next hread)
  have hbytes := A.sameBytes_marked (staleA2 s x a)
  have hswitch := A.atSwitch_marked (staleA2 s x a)
  refine ⟨fun hall => ?_, A.marked (staleA2 s x a), hmarked, hbytes, hswitch, fun l hl => ?_⟩
  · rw [hexec, ← hpc]
    refine GoesTo.withStaleSpan hcalm ?_
    rw [hread, A.next_done fun l hl => (hgo l hl).1 (hall l hl)]
    exact switches_done q x _ _ (pc_tookMembers _ (nodup_lanesOf _) _ _ _) (tookMembers_wroteSpan q x d n hvalue)
  · dsimp only
    rw [show x.sub (A.marked (staleA2 s x a)) = A.cx.sub (A.marked (staleA2 s x a)) from rfl, A.thread_marked _ hl]
    refine ⟨fun h => ?_, fun h => ?_⟩
    · obtain ⟨hpcgo, hwait, -, hregs⟩ := A.next_go ((A.mem_go l).2 ⟨hl, (hgo l hl).1 h⟩)
      generalize (A.cx.sub A.next).thread l = u at hpcgo hwait hregs ⊢
      refine ⟨hpcgo.trans (congrArg (· + 4) hpc), hwait, fun k => (hregs k).trans ?_⟩
      rw [reg_setRegs_numberWords, hvalue l hl, ← hreg]
      rfl
    · rw [A.next_stay ((A.mem_stay l).2 ⟨hl, fun hg => h ((hgo l hl).2 hg)⟩), hrow, hcycle]
      rfl

end Sys2Proof.Machine
end

section
open Sys2Proof Machine Claim
/-- Settles O4: the members that go on take what their scope last published, the others watch at their address. -/
theorem pollTakesAPublishedValueOrWatches : Obligations.PollTakesAPublishedValueOrWatches := by
  unfold Obligations.PollTakesAPublishedValueOrWatches
  exact ⟨polls (.inl rfl) fun _ _ _ _ _ _ => rfl, polls (.inr rfl) fun _ _ _ _ _ _ => rfl⟩
end

section
/-!
SUPPORT. The shared operations on memory do not look at the subgroups: publication, acquisition, requests and lines held leave them as they are, and an atomic moves the
stamps of their images alone (R149, R175, R178).
-/

namespace Sys2Proof.Machine
open State Claim

/-! ### Operations that do not look at the subgroups -/

/-- The machine with other subgroups. -/
def State.withSubs (s : State) (T : Tbl Sub) : State := { s with subs := T }
/-- An operation that neither reads the subgroups nor changes them. -/
def SubBlind (f : State → State) : Prop := ∀ s T, f (s.withSubs T) = (f s).withSubs T

namespace SubBlind
variable {f g : State → State}

theorem id : SubBlind fun s => s := fun _ _ => rfl
theorem comp (hg : SubBlind g) (hf : SubBlind f) : SubBlind fun s => g (f s) := fun s T => (congrArg g (hf s T)).trans (hg (f s) T)
/-- A choice that the subgroups do not decide. -/
theorem ite {p : State → Prop} [DecidablePred p] (hp : ∀ s T, p (s.withSubs T) ↔ p s) (hf : SubBlind f) (hg : SubBlind g) : SubBlind fun s => if p s then f s else g s := fun s T => by
  dsimp only
  rw [if_congr (hp s T) rfl rfl, hf, hg, ← apply_ite (withSubs · T)]
theorem foldl {α : Type} {f : State → α → State} (hf : ∀ x, SubBlind (f · x)) (xs : List α) : SubBlind fun s => xs.foldl f s := fun s T => by
  induction xs generalizing s with
  | nil => rfl
  | cons x xs ih => exact (congrArg (List.foldl f · xs) (hf x s T)).trans (ih (f s x))
/-- A list that the subgroups do not decide, worked off element by element. -/
theorem foldlOf {α : Type} {f : State → α → State} {l : State → List α} (hl : ∀ s T, l (s.withSubs T) = l s) (hf : ∀ x, SubBlind (f · x)) :
    SubBlind fun s => (l s).foldl f s := fun s T => by
  dsimp only
  rw [hl]
  exact foldl hf (l s) s T

theorem subs (h : SubBlind f) (s : State) : (f s).subs = s.subs := by
  have hs := congrArg State.subs (h s s.subs)
  exact hs
theorem sub (h : SubBlind f) (s : State) (i : Nat) : (f s).sub i = s.sub i := by
  rw [State.sub, h.subs]
  rfl
theorem setSub (h : SubBlind f) (s : State) (i : Nat) (u : Sub) : f (s.setSub i u) = (f s).setSub i u := by
  have hset : f (s.setSub i u) = (f s).withSubs (s.subs.set i u) := h s (s.subs.set i u)
  rw [hset, ← h.subs s]
  rfl
end SubBlind

namespace State

theorem ordered_blind (p : Loc) (a b : Nat) : SubBlind fun s => s.ordered p a b :=
  SubBlind.ite (fun _ _ => Iff.rfl) SubBlind.id (SubBlind.ite (fun _ _ => Iff.rfl) (fun _ _ => rfl) fun _ _ => rfl)
theorem moved_blind (old new : VMem) : SubBlind fun s => s.moved old new := SubBlind.foldlOf (fun _ _ => rfl) fun x => ordered_blind x.1 x.2 _
theorem viewMerge_blind (c : Nat) (m : VMem) : SubBlind fun s => s.viewMerge c m := fun s T =>
  moved_blind (s.core c).view ((s.core c).view.merge m) (s.modCore c fun k => { k with view := (s.core c).view.merge m }) T
theorem sendFlit_blind (q : Nat) (f : Flit) : SubBlind fun s => s.sendFlit q f := SubBlind.ite (fun _ _ => Iff.rfl) (fun _ _ => rfl) SubBlind.id
theorem sendRequest_blind (p : Loc) : SubBlind fun s => s.sendRequest p := fun s T => by
  show (s.withSubs T).sendRequest p = (s.sendRequest p).withSubs T
  unfold sendRequest
  rw [show (s.withSubs T).route (pkgOf p) (lineOf128 p) = s.route (pkgOf p) (lineOf128 p) from rfl]
  cases s.route (pkgOf p) (lineOf128 p) with
  | none => rfl
  | some q => exact sendFlit_blind q _ s T
theorem sendRequests_blind (ps : List Loc) : SubBlind fun s => s.sendRequests ps := SubBlind.foldl sendRequest_blind _
theorem holdLines_blind (c : Nat) (ps : List Loc) : SubBlind fun s => s.holdLines c ps := SubBlind.foldl (f := fun s n => s.holdLine ((s.core c).ctx.getD 0) n) (fun _ _ _ => rfl) _
theorem touch_blind (ps : List Loc) : SubBlind fun s => s.touch ps := SubBlind.foldl (fun _ => SubBlind.ite (fun _ _ => Iff.rfl) SubBlind.id fun _ _ => rfl) ps
theorem sent_blind (v : VMem) (S : Nat) : SubBlind fun s => s.sent v S := fun _ _ => rfl


/-! ### Publication, in its stages (R175, R178) -/

section
variable (v : VMem) (c w S : Nat)

/-- A view goes to the image of the workgroup, of the core, of the cluster and of the die; then its requests are sent, lines of the host are held, and it goes home. -/
def shareWg (s : State) : State :=
  if spansWg S && (s.wgs.find? w).isSome then (s.modWg w fun x => { x with image := x.image.merge v }).moved (s.wg w).image ((s.wg w).image.merge v) else s
def shareCore (s : State) : State := if S ≥ 2 then s.modCore c fun k => { k with image := k.image.merge v } else s
def shareCluster (s : State) : State := if S ≥ 3 then
    (s.modCluster (clusterOf c) fun k => { k with image := (s.cluster (clusterOf c)).image.merge v }).moved (s.cluster (clusterOf c)).image ((s.cluster (clusterOf c)).image.merge v)
  else s
def shareDie (s : State) : State := if S ≥ 4 then
    (s.modDie (s.dieOfCore c) fun d => { d with image := (s.die (s.dieOfCore c)).image.merge v }).moved (s.die (s.dieOfCore c)).image ((s.die (s.dieOfCore c)).image.merge v)
  else s
def shareRequests (s : State) : State :=
  if S ≥ 5 then s.sendRequests (v.stamps.keys.filter fun p => isRemote p && decide ((if S ≥ 6 then s.sy else s.pk).stampAt p < v.stampAt p)) else s
def shareLines (s : State) : State := if S ≥ 5 then s.holdLines c (v.stamps.keys.filter fun p => decide (s.pk.stampAt p < v.stampAt p)) else s
def sharePk (s : State) : State := if S ≥ 5 then (({ s with pk := s.pk.merge v } : State).sent v S).touch v.stamps.keys else s
def shareSy (s : State) : State := if S ≥ 6 then { s with sy := s.sy.merge v } else s

theorem shareWg_blind : SubBlind (shareWg v w S) :=
  SubBlind.ite (fun _ _ => Iff.rfl) (fun s T => moved_blind (s.wg w).image ((s.wg w).image.merge v) (s.modWg w fun x => { x with image := x.image.merge v }) T) SubBlind.id
theorem shareCore_blind : SubBlind (shareCore v c S) := SubBlind.ite (fun _ _ => Iff.rfl) (fun _ _ => rfl) SubBlind.id
theorem shareCluster_blind : SubBlind (shareCluster v c S) := SubBlind.ite (fun _ _ => Iff.rfl) (fun s T => moved_blind (s.cluster (clusterOf c)).image _
  (s.modCluster (clusterOf c) fun k => { k with image := (s.cluster (clusterOf c)).image.merge v }) T) SubBlind.id
theorem shareDie_blind : SubBlind (shareDie v c S) := SubBlind.ite (fun _ _ => Iff.rfl) (fun s T => moved_blind (s.die (s.dieOfCore c)).image _
  (s.modDie (s.dieOfCore c) fun d => { d with image := (s.die (s.dieOfCore c)).image.merge v }) T) SubBlind.id
theorem shareRequests_blind : SubBlind (shareRequests v S) := SubBlind.ite (fun _ _ => Iff.rfl) (fun s T => sendRequests_blind _ s T) SubBlind.id
theorem shareLines_blind : SubBlind (shareLines v c S) := SubBlind.ite (fun _ _ => Iff.rfl) (fun s T => holdLines_blind c _ s T) SubBlind.id
theorem sharePk_blind : SubBlind (sharePk v S) := SubBlind.ite (fun _ _ => Iff.rfl) (fun s T => touch_blind _ (({ s with pk := s.pk.merge v } : State).sent v S) T) SubBlind.id
theorem shareSy_blind : SubBlind (shareSy v S) := SubBlind.ite (fun _ _ => Iff.rfl) (fun _ _ => rfl) SubBlind.id

theorem publish_eq (s : State) : s.publish c w S = shareSy (s.core c).view S (sharePk (s.core c).view S (shareLines (s.core c).view c S (shareRequests (s.core c).view S
    (shareDie (s.core c).view c S (shareCluster (s.core c).view c S (shareCore (s.core c).view c S (shareWg (s.core c).view w S s))))))) := rfl
end

theorem publish_blind (c w S : Nat) : SubBlind fun s => s.publish c w S := fun s T => by
  have h (v : VMem) := (shareSy_blind v S).comp ((sharePk_blind v S).comp ((shareLines_blind v c S).comp ((shareRequests_blind v S).comp
    ((shareDie_blind v c S).comp ((shareCluster_blind v c S).comp ((shareCore_blind v c S).comp (shareWg_blind v w S)))))))
  exact h (s.core c).view s T

/-! ### Acquisition (R175, R178) -/

theorem takeIn_blind (c w S : Nat) : SubBlind fun s => s.takeIn c w S := fun s T => by
  have hfwd (b : Bool) (m : VMem) : SubBlind fun s => if b then s.viewMerge c m else s := SubBlind.ite (fun _ _ => Iff.rfl) (viewMerge_blind c m) SubBlind.id
  exact ((hfwd (decide (S ≥ 6)) s.sy).comp ((hfwd (decide (S ≥ 5)) s.pk).comp ((hfwd (decide (S ≥ 4)) (s.die (s.dieOfCore c)).image).comp
    ((hfwd (decide (S ≥ 3)) (s.cluster (clusterOf c)).image).comp (hfwd (spansWg S) (s.wg w).image))))) s T

end State

theorem acquire_blind (P : Party) (S : Nat) : SubBlind fun s => acquire s P S :=
  SubBlind.comp (g := fun s => if S ≥ 2 then s.modWg P.wg dropClean else s) (SubBlind.ite (fun _ _ => Iff.rfl) (fun _ _ => rfl) SubBlind.id) (takeIn_blind P.core P.wg S)

end Sys2Proof.Machine
end

section
/-!
SUPPORT. Releases leave the subgroups as they are, and an atomic moves the stamps of their images alone: what stands at a place is read and written at its home (R149, R178).
-/

namespace Sys2Proof.Machine
open State Claim

/-! ### Releases -/

theorem viewWrite_blind (c : Nat) (p : Loc) (bs : List Byte) : SubBlind fun s => s.viewWrite c p bs :=
  SubBlind.foldl (fun x s T => by
    have h := ordered_blind (p + x.2) ((s.core c).view.stampAt (p + x.2)) s.stamp
      { s.modCore c fun k => { k with view := k.view.write (p + x.2) x.1 s.stamp } with unsent := (p + x.2, s.stamp) :: s.unsent } T
    exact congrArg nextStamp h) _
theorem nameFar_blind (p : Loc) (va : Nat) : SubBlind fun s => s.nameFar p va := SubBlind.ite (fun _ _ => Iff.rfl) (fun _ _ => rfl) SubBlind.id
theorem writeBack_subs (s : State) (P : Party) (w : Nat) (t : Stash) (is : List Nat) : (writeBack s P w t is).1.subs = s.subs := by
  induction is generalizing s with
  | nil => rfl
  | cons i is ih =>
    have ht := (translate_access s P.core P.ctx (t.base + 128 * i) .store).subs
    unfold writeBack
    extract_lets bs
    split
    · rfl
    · split
      · simp_all
      · rename_i u x e
        have hu : u.subs = s.subs := by simp_all
        split
        · exact hu
        · exact (ih _).trans (((nameFar_blind _ _).subs _).trans (((viewWrite_blind _ _ _).subs u).trans hu))
theorem writeBackAll_subs (s : State) (P : Party) (w : Nat) (ts : List Stash) : (writeBackAll s P w ts).1.subs = s.subs := by
  induction ts generalizing s with
  | nil => rfl
  | cons t ts ih =>
    have hw := writeBack_subs s P w t t.dirty
    unfold writeBackAll
    split
    · simp_all
    · rename_i u e
      rw [ih]
      simp_all
theorem release_subs (s : State) (P : Party) (S : Nat) : (release s P S).1.subs = s.subs := by
  have hw := writeBackAll_subs s P P.wg (s.wg P.wg).stash
  unfold release
  extract_lets r
  have hr : r.1.subs = s.subs := by
    unfold r
    split
    · exact hw
    · rfl
  clear_value r
  obtain ⟨u, _ | f⟩ := r
  · dsimp only
    split
    · exact hr
    · exact ((publish_blind _ _ _).subs u).trans hr
  · exact hr

/-! ### Stamps of the images of subgroups (R149) -/

namespace State

/-- The stores that an atomic at the places `ps` puts after itself. -/
def putAfter (s : State) (ps : List Loc) : List (Loc × Nat) := lifts s.unsent s.follows s.unsent.length (s.unsent.filter fun x => ps.contains x.1)
/-- An image, and a subgroup's, of which these stores have their new stamps. -/
def restamped (s : State) (ps : List Loc) (m : VMem) : VMem :=
  ((s.putAfter ps).map Prod.fst).eraseDups.foldl (fun m p => m.restamp p fun t => if (s.putAfter ps).contains (p, t) then t + s.stamp else t) m
def restampedSub (s : State) (ps : List Loc) (u : Sub) : Sub := { u with image := s.restamped ps u.image }

theorem bytes_restamped (s : State) (ps : List Loc) (m : VMem) : (s.restamped ps m).bytes = m.bytes :=
  foldl_keeps VMem.bytes _ (fun m p => by unfold VMem.restamp; split <;> rfl) _ m
theorem restamped_empty (s : State) (ps : List Loc) : s.restamped ps {} = {} := by
  unfold restamped
  induction ((s.putAfter ps).map Prod.fst).eraseDups with
  | nil => rfl
  | cons q qs ih => exact ih
theorem restampedSub_nil {s : State} {ps : List Loc} (h : s.putAfter ps = []) (u : Sub) : s.restampedSub ps u = u := by
  rw [restampedSub, restamped, h]
  rfl

theorem restampAll_withSubs (s : State) (ps : List Loc) (T : Tbl Sub) : (s.withSubs T).restampAll ps = (s.restampAll ps).withSubs (T.map fun p => (p.1, s.restampedSub ps p.2)) := by
  unfold restampAll
  dsimp only [withSubs]
  split
  case isTrue h =>
    simp only [restampedSub_nil (show s.putAfter ps = [] from h)]
    rw [List.map_id']
  case isFalse => rfl
theorem restampAll_subs (s : State) (ps : List Loc) : (s.restampAll ps).subs = s.subs.map fun p => (p.1, s.restampedSub ps p.2) := congrArg State.subs (restampAll_withSubs s ps s.subs)
theorem sub_restampAll (s : State) (ps : List Loc) (g : Nat) : (s.restampAll ps).sub g = s.restampedSub ps (s.sub g) := by
  rw [State.sub, restampAll_subs, Tbl.get, Tbl.find?_mapVals s.subs (fun _ => s.restampedSub ps), State.sub, Tbl.get]
  cases s.subs.find? g with
  | some u => rfl
  | none => rw [restampedSub, show (Option.getD none ({} : Sub)).image = {} from rfl, restamped_empty]; rfl

end State

theorem Tbl.map_ins {α β : Type} (f : α → β) (t : Tbl α) (k : Nat) (v : α) : (Tbl.ins t k v).map (fun p => (p.1, f p.2)) = Tbl.ins (t.map fun p => (p.1, f p.2)) k (f v) := by
  induction t with
  | nil => rfl
  | cons p t ih =>
    obtain ⟨i, x⟩ := p
    simp only [Tbl.ins, List.map_cons]
    split
    · rfl
    · rw [List.map_cons, ih]
theorem Tbl.map_del {α β : Type} (f : α → β) (t : Tbl α) (k : Nat) : (Tbl.del t k).map (fun p => (p.1, f p.2)) = Tbl.del (t.map fun p => (p.1, f p.2)) k := by
  induction t with
  | nil => rfl
  | cons p t ih =>
    obtain ⟨i, x⟩ := p
    simp only [Tbl.del, List.map_cons]
    split
    · exact ih
    · rw [List.map_cons, ih]
theorem Tbl.map_set {α β : Type} (f : α → β) (t : Tbl α) (k : Nat) (v : α) : (Tbl.set t k v).map (fun p => (p.1, f p.2)) = Tbl.set (t.map fun p => (p.1, f p.2)) k (f v) := by
  rw [Tbl.set, Tbl.map_ins, Tbl.map_del, Tbl.set]

/-! ### A subgroup with other threads -/

namespace State

/-- The machine with other threads in one subgroup. -/
def withThreads (s : State) (g : Nat) (th : Tbl Thread) : State := s.setSub g { s.sub g with threads := th }

end State
theorem SubBlind.withThreads {f : State → State} (h : SubBlind f) (s : State) (g : Nat) (th : Tbl Thread) : f (s.withThreads g th) = (f s).withThreads g th := by
  rw [State.withThreads, h.setSub, State.withThreads, h.sub]

namespace State

theorem restampAll_withThreads (s : State) (ps : List Loc) (g : Nat) (th : Tbl Thread) : (s.withThreads g th).restampAll ps = (s.restampAll ps).withThreads g th := by
  have h : (s.withThreads g th).restampAll ps = _ := restampAll_withSubs s ps (s.subs.set g { s.sub g with threads := th })
  rw [Tbl.map_set, ← restampAll_subs] at h
  rw [h, withThreads, sub_restampAll]
  rfl

end State
end Sys2Proof.Machine
end

section
/-!
SUPPORT. One turn of an atomic: what it reads and writes at home, and that it neither reads nor changes threads (R146, R149).
-/

namespace Sys2Proof.Machine
open State Claim

/-- What a change of the values of a table that keeps the keys keeps of each value. -/
theorem Tbl.get_map_keeps {α β : Type} (g : α → β) {f : Nat × α → Nat × α} (hk : ∀ p, (f p).1 = p.1) (hg : ∀ p, g (f p).2 = g p.2) (t : Tbl α) (k : Nat) (d : α) :
    g (Tbl.get (t.map f) k d) = g (Tbl.get t k d) := by
  induction t with
  | nil => rfl
  | cons p t ih =>
    obtain ⟨i, x⟩ := p
    show g ((if (f (i, x)).1 = k then some (f (i, x)).2 else Tbl.find? (t.map f) k).getD d) = g ((if i = k then some x else Tbl.find? t k).getD d)
    rw [hk]
    split
    · exact hg (i, x)
    · exact ih

namespace State

/-! ### Bytes put at a place of an image -/

/-- The places of `n` bytes from `p` on. -/
def span (p n : Nat) : List Loc := (List.range n).map fun i => p + i
/-- Bytes put from `p` on in an image, under one stamp. -/
def putSpan (p : Nat) (bs : List Byte) (t : Nat) (m : VMem) : VMem := ((span p bs.length).zip bs).foldl (fun m x => m.write x.1 x.2 t) m
theorem read_putSpan (p : Nat) (bs : List Byte) (t : Nat) (m : VMem) (q : Nat) : (putSpan p bs t m).read q = if p ≤ q ∧ q < p + bs.length then bs.getD (q - p) 0 else m.read q := by
  rw [putSpan, span, zip_span, read_foldl_write, lastTo_span]
  split <;> rfl
theorem stampAt_putSpan (p : Nat) (bs : List Byte) (t : Nat) (m : VMem) {q : Nat} (h : ¬ (p ≤ q ∧ q < p + bs.length)) : (putSpan p bs t m).stampAt q = m.stampAt q := by
  rw [putSpan, span, zip_span, stampAt_foldl_write]
  intro x hx e
  obtain ⟨i, hi, rfl⟩ := List.mem_map.1 hx
  have hlt := List.mem_range.1 hi
  have hq : p + i = q := e
  exact h (by omega)

/-- An atomic's bytes put at home. -/
def putHome (s : State) (p : Nat) (bs : List Byte) : State :=
  { s.restampAll (span p bs.length) with pk := putSpan p bs s.stamp (s.restampAll (span p bs.length)).pk, sy := putSpan p bs s.stamp (s.restampAll (span p bs.length)).sy }
theorem atomicPut_eq (s : State) (p : Nat) (bs : List Byte) : s.atomicPut p bs = (s.putHome p bs).touch (span p bs.length) := rfl
/-- What an atomic asks of the home, and the view of the core that moves to what it wrote. -/
def asked (s : State) (c p n : Nat) : State := (s.holdLines c (span p n)).sendRequests (span p n)
theorem atomicWrite_eq (s : State) (c p : Nat) (bs : List Byte) : s.atomicWrite c p bs =
    ((s.asked c p bs.length).atomicPut p bs).modCore c fun k =>
      { k with view := (span p bs.length).foldl (fun v q => ((s.asked c p bs.length).atomicPut p bs).pk.take v q) k.view } := rfl

theorem asked_blind (c p n : Nat) : SubBlind fun s => s.asked c p n := (sendRequests_blind _).comp (holdLines_blind c _)

/-! ### Threads are not looked at -/

section
variable (s : State) (c p : Nat) (bs : List Byte) (g : Nat) (th : Tbl Thread)

theorem putHome_withThreads : (s.withThreads g th).putHome p bs = (s.putHome p bs).withThreads g th := by
  rw [putHome, restampAll_withThreads]
  rfl
theorem atomicPut_withThreads : (s.withThreads g th).atomicPut p bs = (s.atomicPut p bs).withThreads g th := by
  rw [atomicPut_eq, putHome_withThreads, (touch_blind _).withThreads, atomicPut_eq]
theorem atomicWrite_withThreads : (s.withThreads g th).atomicWrite c p bs = (s.atomicWrite c p bs).withThreads g th := by
  rw [atomicWrite_eq, (asked_blind c p bs.length).withThreads, atomicPut_withThreads, atomicWrite_eq]
  rfl
theorem sub_atomicPut : (s.atomicPut p bs).sub g = s.restampedSub (span p bs.length) (s.sub g) := by
  rw [atomicPut_eq, (touch_blind _).sub]
  exact sub_restampAll s _ g
theorem sub_atomicWrite : (s.atomicWrite c p bs).sub g = (s.asked c p bs.length).restampedSub (span p bs.length) (s.sub g) := by
  rw [atomicWrite_eq]
  refine (sub_atomicPut (s.asked c p bs.length) p bs g).trans ?_
  rw [(asked_blind c p bs.length).sub]
end

/-! ### What stands at home -/

/-- Both images of global memory, the ticks, the front end and every scratchpad are the same. -/
def SameHomes (s t : State) : Prop := t.pk = s.pk ∧ t.sy = s.sy ∧ t.ticks = s.ticks ∧ t.fe = s.fe ∧ ∀ w, (t.wg w).mem = (s.wg w).mem

theorem SameHomes.trans {s t u : State} (h : SameHomes s t) (g : SameHomes t u) : SameHomes s u := by
  obtain ⟨hpk, hsy, hticks, hfe, hmem⟩ := h
  obtain ⟨gpk, gsy, gticks, gfe, gmem⟩ := g
  exact ⟨gpk.trans hpk, gsy.trans hsy, gticks.trans hticks, gfe.trans hfe, fun w => (gmem w).trans (hmem w)⟩

section
variable (s : State) (c p : Nat) (bs : List Byte)

theorem holdLines_homes (ps : List Loc) : SameHomes s (s.holdLines c ps) :=
  ⟨foldl_keeps State.pk _ (fun _ _ => by rfl) _ s, foldl_keeps State.sy _ (fun _ _ => by rfl) _ s, foldl_keeps State.ticks _ (fun _ _ => by rfl) _ s,
    holdLines_fe s c ps, fun w => foldl_keeps (fun s => (s.wg w).mem) _ (fun _ _ => by rfl) _ s⟩
theorem sendRequests_homes (ps : List Loc) : SameHomes s (s.sendRequests ps) := by
  rw [sendRequests_ports s ps]
  exact ⟨rfl, rfl, rfl, rfl, fun _ => rfl⟩
theorem touch_homes (ps : List Loc) : SameHomes s (s.touch ps) :=
  ⟨foldl_keeps State.pk _ (fun s p => by split <;> rfl) ps s, foldl_keeps State.sy _ (fun s p => by split <;> rfl) ps s,
    foldl_keeps State.ticks _ (fun s p => by split <;> rfl) ps s, touch_fe s ps,
    fun w => foldl_keeps (fun s => (s.wg w).mem) _ (fun s p => by split <;> rfl) ps s⟩
theorem restampAll_homes (ps : List Loc) : SameHomes s (s.restampAll ps) := by
  refine ⟨restampAll_pk s ps, restampAll_sy s ps, restampAll_ticks s ps, ?_, fun w => ?_⟩
  · unfold restampAll
    extract_lets
    split <;> rfl
  · unfold restampAll
    extract_lets
    split
    · rfl
    · refine Tbl.get_map_keeps Wg.mem ?_ ?_ s.wgs w {}
      · exact fun _ => rfl
      · exact fun _ => rfl
theorem asked_homes (n : Nat) : SameHomes s (s.asked c p n) := (holdLines_homes s c _).trans (sendRequests_homes _ _)

theorem modCore_homes (f : Core → Core) : SameHomes s (s.modCore c f) := ⟨rfl, rfl, rfl, rfl, fun _ => rfl⟩
theorem SameHomes.put {s t : State} (h : SameHomes s t) (p : Nat) (bs : List Byte) (n : Nat) :
    SameHomes { s with pk := putSpan p bs n s.pk, sy := putSpan p bs n s.sy } { t with pk := putSpan p bs n t.pk, sy := putSpan p bs n t.sy } := by
  obtain ⟨hpk, hsy, hticks, hfe, hmem⟩ := h
  exact ⟨congrArg (putSpan p bs n) hpk, congrArg (putSpan p bs n) hsy, hticks, hfe, hmem⟩

/-- An atomic puts its bytes in both images, under one stamp, and changes nothing else of them. -/
theorem atomicWrite_home : ∃ t, SameHomes { s with pk := putSpan p bs t s.pk, sy := putSpan p bs t s.sy } (s.atomicWrite c p bs) := by
  have hr := ((asked_homes s c p bs.length).trans (restampAll_homes _ (span p bs.length))).put p bs (s.asked c p bs.length).stamp
  exact ⟨_, (hr.trans (touch_homes _ (span p bs.length))).trans (modCore_homes _ c _)⟩
end

end State

/-! ### One turn (R149) -/

/-- Bytes stored from `off` on in a scratchpad. -/
def scrSpan (s : State) (w off : Nat) (bs : List Byte) : State := bs.zipIdx.foldl (fun s p => scrWrite s w (off + p.2) p.1) s
theorem scrSpan_blind (w off : Nat) (bs : List Byte) : SubBlind fun s => scrSpan s w off bs := SubBlind.foldl (fun _ _ _ => rfl) _

theorem atomicStep_glob (s : State) (c n : Nat) (y : Xlate) (ys : List Spot) (f : Dword → Dword) :
    atomicStep s c n (.glob y :: ys) f = (s.atomicWrite c y.loc (bytesOf n (f (s.homeRead y.loc n))), s.homeRead y.loc n) := rfl
theorem atomicStep_scr (s : State) (c n w off : Nat) (ys : List Spot) (f : Dword → Dword) : let old := ofBytes ((List.range n).map fun i => Mem.read (s.wg w).mem (off + i))
    atomicStep s c n (.scr w off :: ys) f = (scrSpan s w off (bytesOf n (f old)), old) := rfl

/-- A turn neither reads nor changes threads. -/
theorem atomicStep_withThreads (s : State) (c n : Nat) (spots : List Spot) (f : Dword → Dword) (g : Nat) (th : Tbl Thread) :
    atomicStep (s.withThreads g th) c n spots f = ((atomicStep s c n spots f).1.withThreads g th, (atomicStep s c n spots f).2) := by
  rcases spots with _ | ⟨y | ⟨w, off⟩, ys⟩
  · rfl
  · exact congrArg (·, s.homeRead y.loc n) (atomicWrite_withThreads s c y.loc _ g th)
  · exact congrArg (·, ofBytes ((List.range n).map fun i => Mem.read (s.wg w).mem (off + i))) ((scrSpan_blind w off _).withThreads s g th)
/-- Of a subgroup a turn changes the stamps of its image alone. -/
theorem sub_atomicStep (s : State) (c n : Nat) (spots : List Spot) (f : Dword → Dword) (g : Nat) :
    (atomicStep s c n spots f).1.sub g = { s.sub g with image := ((atomicStep s c n spots f).1.sub g).image } ∧ ((atomicStep s c n spots f).1.sub g).image.bytes = (s.sub g).image.bytes := by
  rcases spots with _ | ⟨y | ⟨w, off⟩, ys⟩
  · exact ⟨rfl, rfl⟩
  · rw [atomicStep_glob, sub_atomicWrite]
    exact ⟨rfl, bytes_restamped _ _ _⟩
  · have h := (scrSpan_blind w off (bytesOf n (f (ofBytes ((List.range n).map fun i => Mem.read (s.wg w).mem (off + i)))))).sub s g
    rw [atomicStep_scr]
    dsimp only
    rw [h]
    exact ⟨rfl, rfl⟩
/-- What is read in a turn does not depend on what is put. -/
theorem atomicStep_old (s : State) (c n : Nat) (spots : List Spot) (f h : Dword → Dword) : (atomicStep s c n spots f).2 = (atomicStep s c n spots h).2 := by
  rcases spots with _ | ⟨y | ⟨w, off⟩, ys⟩
  · exact @rfl _ (0 : Dword)
  · exact @rfl _ (s.homeRead y.loc n)
  · exact @rfl _ (ofBytes ((List.range n).map fun i => Mem.read (s.wg w).mem (off + i)))

end Sys2Proof.Machine
end

section
/-!
SUPPORT. The bytes that one turn of an atomic reads and writes, at home and in a scratchpad (R149).
-/

namespace Sys2Proof.Machine
open State Claim

theorem getD_bytesOf {n i : Nat} (h : i < n) (v : Dword) : (bytesOf n v).getD i 0 = (v >>> (8 * i)).setWidth 8 := by simp [bytesOf, h]
theorem read_foldl_scrWrite (w : Nat) (L : List (Nat × Byte)) (s : State) (a : Nat) :
    Mem.read ((L.foldl (fun s x => scrWrite s w x.1 x.2) s).wg w).mem a = (lastTo L a).getD (Mem.read (s.wg w).mem a) := by
  induction L generalizing s with
  | nil => rfl
  | cons x L ih =>
    have hmem : ((scrWrite s w x.1 x.2).wg w).mem = Mem.write (s.wg w).mem x.1 x.2 := by rw [wg_scrWrite, if_pos rfl]
    rw [List.foldl_cons, ih, lastTo_cons, hmem, Mem.read_write]
    by_cases h : x.1 = a
    · subst h; cases lastTo L x.1 <;> simp
    · cases lastTo L a <;> simp [h, Ne.symm h]
theorem read_scrSpan (s : State) (w off : Nat) (bs : List Byte) (a : Nat) :
    Mem.read ((scrSpan s w off bs).wg w).mem a = if off ≤ a ∧ a < off + bs.length then bs.getD (a - off) 0 else Mem.read (s.wg w).mem a := by
  have hfold : scrSpan s w off bs = ((List.range bs.length).map fun i => (off + i, bs.getD i 0)).foldl (fun s x => scrWrite s w x.1 x.2) s := by
    rw [← zipIdx_span, List.foldl_map]
    rfl
  rw [hfold, read_foldl_scrWrite, lastTo_span]
  split <;> rfl
theorem wg_scrSpan_other (s : State) {w v : Nat} (h : v ≠ w) (off : Nat) (bs : List Byte) : (scrSpan s w off bs).wg v = s.wg v :=
  foldl_keeps (fun s => s.wg v) _ (fun s _ => (wg_setWg s w v _).trans (if_neg h)) _ s

theorem homeByte_scrSpan (s : State) (w off : Nat) (bs : List Byte) (p : Loc) : (scrSpan s w off bs).homeByte p = s.homeByte p :=
  foldl_keeps (fun s => s.homeByte p) _ (fun _ _ => by rfl) _ s
theorem seen_scrSpan (s : State) (w off : Nat) (bs : List Byte) (k : Nat) (p : Loc) : (scrSpan s w off bs).seen k p = s.seen k p :=
  foldl_keeps (fun s => s.seen k p) _ (fun _ _ => by rfl) _ s
theorem fe_scrSpan (s : State) (w off : Nat) (bs : List Byte) : (scrSpan s w off bs).fe = s.fe := foldl_keeps State.fe _ (fun _ _ => by rfl) _ s

/-- The bytes of a value put in an image. -/
theorem read_putSpan_bytesOf (p n : Nat) (v : Dword) (t : Nat) (m : VMem) {i : Nat} (hi : i < n) : (putSpan p (bytesOf n v) t m).read (p + i) = (v >>> (8 * i)).setWidth 8 := by
  rw [read_putSpan, length_bytesOf, if_pos (by omega), Nat.add_sub_cancel_left, getD_bytesOf hi]
theorem read_putSpan_outside (p n : Nat) (v : Dword) (t : Nat) (m : VMem) {q : Nat} (hq : q < p ∨ p + n ≤ q) : (putSpan p (bytesOf n v) t m).read q = m.read q := by
  rw [read_putSpan, length_bytesOf, if_neg (by omega)]
theorem stampAt_putSpan_outside (p n : Nat) (v : Dword) (t : Nat) (m : VMem) {q : Nat} (hq : q < p ∨ p + n ≤ q) : (putSpan p (bytesOf n v) t m).stampAt q = m.stampAt q :=
  stampAt_putSpan _ _ _ _ (by rw [length_bytesOf]; omega)

theorem anAtomicTurnIsReadAndWriteAtHome : AnAtomicTurnIsReadAndWriteAtHome := by
  intro s c n f _ _
  constructor
  · intro y ys r old
    obtain ⟨t, hpk, hsy, hticks, hfe, hmem⟩ := atomicWrite_home s c y.loc (bytesOf n (f r.2))
    dsimp only at hpk hsy
    have hput {i : Nat} (hi : i < n) : r.1.pk.read (y.loc + i) = ((f r.2) >>> (8 * i)).setWidth 8 := (congrArg (VMem.read · _) hpk).trans (read_putSpan_bytesOf _ n _ t _ hi)
    refine ⟨homeRead_eq s y.loc n, fun i hi => ⟨hput hi, (congrArg (VMem.read · _) hsy).trans (read_putSpan_bytesOf _ n _ t _ hi)⟩,
      fun i hi hl => (homeByte_local _ _ hl).trans (hput hi), fun p hp => homeByte_of_reads (s := s) hticks p (fun _ => ⟨?_, ?_⟩) fun _ => ?_,
      fun w => congrArg Mem.read (hmem w), sub_atomicStep s c n (.glob y :: ys) f, hfe⟩
    · exact (congrArg (VMem.read · p) hsy).trans (read_putSpan_outside _ n _ t _ hp)
    · exact (congrArg (VMem.stampAt · p) hsy).trans (stampAt_putSpan_outside _ n _ t _ hp)
    · exact (congrArg (VMem.read · p) hpk).trans (read_putSpan_outside _ n _ t _ hp)
  · intro w off ys r old
    refine ⟨ofBytes_eq_number _, fun a => (read_scrSpan s w off _ a).trans ?_, fun v hv => wg_scrSpan_other s hv _ _, homeByte_scrSpan s w off _, seen_scrSpan s w off _,
      (scrSpan_blind w off _).subs s, fe_scrSpan s w off _⟩
    rw [length_bytesOf]
    split
    next h => exact getD_bytesOf (by omega) _
    next => rfl

end Sys2Proof.Machine
end

section
/-!
SUPPORT. The words of atomics: their turns one after the other, with the registers that take the old values, between the release and the acquire that ORD asks for (R146 to R149).
-/

namespace Sys2Proof.Machine
open State Claim

/-! ### Threads that change between operations -/

theorem withThreads_self (s : State) (g : Nat) : s.withThreads g (s.sub g).threads = s.setSub g (s.sub g) := rfl
theorem sub_withThreads (s : State) (g : Nat) (th : Tbl Thread) : (s.withThreads g th).sub g = { s.sub g with threads := th } := sub_setSub_self s g _
theorem modThread_withThreads (s : State) (g l : Nat) (f : Thread → Thread) (th : Tbl Thread) : (s.modThread g l f).withThreads g th = s.withThreads g th := by
  unfold State.withThreads State.modThread
  rw [modSub_eq, setSub_setSub, sub_setSub_self]
  rfl
theorem sub_modThread (s : State) (g l : Nat) (f : Thread → Thread) : (s.modThread g l f).sub g = (s.sub g).modThread l f := sub_setSub_self s g _

/-- A thread changed depends on the threads alone. -/
theorem threads_modThread {u v : Sub} (h : u.threads = v.threads) (l : Nat) (f : Thread → Thread) : (u.modThread l f).threads = (v.modThread l f).threads := by
  unfold Sub.modThread Sub.setThread Sub.thread
  rw [h]

/-- An operation that neither reads nor changes threads of a subgroup, of which it may change the image. -/
def ThreadBlind (g : Nat) (f : State → State) : Prop :=
  (∀ s th, f (s.withThreads g th) = (f s).withThreads g th) ∧ ∀ s, (f s).sub g = { s.sub g with image := ((f s).sub g).image }

theorem SubBlind.threadBlind {f : State → State} (h : SubBlind f) (g : Nat) : ThreadBlind g f := ⟨fun s => h.withThreads s g, fun s => by rw [h.sub]⟩

namespace ThreadBlind
variable {g : Nat} {f h : State → State}

theorem intro (hw : ∀ s th, f (s.withThreads g th) = (f s).withThreads g th) (hs : ∀ s, (f s).sub g = { s.sub g with image := ((f s).sub g).image }) : ThreadBlind g f := ⟨hw, hs⟩
theorem withThreads (hf : ThreadBlind g f) (s : State) (th : Tbl Thread) : f (s.withThreads g th) = (f s).withThreads g th := hf.1 s th
theorem sub (hf : ThreadBlind g f) (s : State) : (f s).sub g = { s.sub g with image := ((f s).sub g).image } := hf.2 s
theorem id : ThreadBlind g fun s => s := ⟨fun _ _ => rfl, fun _ => rfl⟩
theorem comp (hh : ThreadBlind g h) (hf : ThreadBlind g f) : ThreadBlind g fun s => h (f s) :=
  .intro (fun s th => by rw [hf.withThreads, hh.withThreads]) fun s => by rw [hh.sub, hf.sub]
theorem ite {c : Prop} [Decidable c] (hf : ThreadBlind g f) (hh : ThreadBlind g h) : ThreadBlind g fun s => if c then f s else h s := by
  by_cases hc : c
  · simpa only [if_pos hc] using hf
  · simpa only [if_neg hc] using hh
theorem foldl {α : Type} {f : State → α → State} (hf : ∀ a, ThreadBlind g (f · a)) (xs : List α) : ThreadBlind g fun s => xs.foldl f s := by
  induction xs with
  | nil => exact ThreadBlind.id
  | cons a xs ih => exact comp ih (hf a)
/-- An operation that depends on a part of the state that holds no threads. -/
theorem dependent {β : Type} {k : State → β} {f : β → State → State} (hk : ∀ s th, k (s.withThreads g th) = k s) (hf : ∀ y, ThreadBlind g (f y)) : ThreadBlind g fun s => f (k s) s :=
  .intro (fun s th => by rw [hk, (hf (k s)).withThreads]) fun s => (hf (k s)).sub s
theorem threads (hf : ThreadBlind g f) (s : State) : ((f s).sub g).threads = (s.sub g).threads := by rw [hf.sub]
theorem wbase (hf : ThreadBlind g f) (s : State) : ((f s).sub g).wbase = (s.sub g).wbase := by rw [hf.sub]
end ThreadBlind

theorem atomicStep_threadBlind (g c n : Nat) (spots : List Spot) (f : Dword → Dword) : ThreadBlind g fun s => (atomicStep s c n spots f).1 :=
  ⟨fun s th => congrArg Prod.fst (atomicStep_withThreads s c n spots f g th), fun s => (sub_atomicStep s c n spots f g).1⟩
theorem turns_threadBlind (g c n : Nat) (at_ : Nat → List Spot) (new : Nat → Dword → Dword) (ls : List Nat) : ThreadBlind g fun s => turns s c n at_ new ls :=
  ThreadBlind.foldl (fun l => atomicStep_threadBlind g c n (at_ l) (new l)) ls
theorem ownRelease_threadBlind (x : Cx) (S : Nat) : ThreadBlind x.sg fun s => ownRelease s x S :=
  ThreadBlind.ite (ThreadBlind.intro (fun s th => by rw [modSub_eq, sub_withThreads, modSub_eq, State.withThreads, State.withThreads, setSub_setSub, setSub_setSub, sub_setSub_self]; rfl)
    fun s => by rw [modSub_eq, sub_setSub_self]) ThreadBlind.id
theorem wg_withThreads (s : State) (x : Cx) (th : Tbl Thread) : x.wg (s.withThreads x.sg th) = x.wg s := by
  show ((s.withThreads x.sg th).sub x.sg).wg = _
  rw [sub_withThreads]
  rfl
theorem party_withThreads (s : State) (x : Cx) (th : Tbl Thread) : x.party (s.withThreads x.sg th) = x.party s := by
  show (⟨x.core, (s.wg (x.wg (s.withThreads x.sg th))).ctx, x.wg (s.withThreads x.sg th)⟩ : Party) = _
  rw [wg_withThreads]
  rfl
/-- What ORD asks for after the turns: their publication, and an acquire. -/
def afterTurns (x : Cx) (o : BitVec 2) (S : Nat) (s : State) : State :=
  let s := if o.getLsbD 1 then ownRelease (s.publish x.core (x.wg s) S) x S else s
  if o.getLsbD 0 then acquire s (x.party s) S else s
theorem afterTurns_threadBlind (x : Cx) (o : BitVec 2) (S : Nat) : ThreadBlind x.sg (afterTurns x o S) := by
  have hp : ThreadBlind x.sg fun s => s.publish x.core (x.wg s) S := ThreadBlind.dependent (fun s => wg_withThreads s x) fun w => (publish_blind x.core w S).threadBlind x.sg
  have ha : ThreadBlind x.sg fun s => acquire s (x.party s) S := ThreadBlind.dependent (fun s => party_withThreads s x) fun P => (acquire_blind P S).threadBlind x.sg
  exact ThreadBlind.comp (h := fun s => if o.getLsbD 0 then acquire s (x.party s) S else s) (ThreadBlind.ite ha ThreadBlind.id) (ThreadBlind.ite ((ownRelease_threadBlind x S).comp hp) ThreadBlind.id)

/-! ### The turns of a group, with the registers that take the old values -/

/-- A thread whose register, or pair of registers, has taken the old value. -/
def tookOld (back reg : Nat) (v : Dword) (t : Thread) : Thread := if back = 2 then t.setPair reg v else t.setReg reg (loOf v)
theorem tookOld_rest (back reg : Nat) (v : Dword) (t : Thread) : tookOld back reg v t = { t with v := (tookOld back reg v t).v } := by
  unfold tookOld
  split
  · rfl
  · rfl
theorem reg_tookOld {back : Nat} (hb : back = 1 ∨ back = 2) (reg : Nat) (v : Dword) (t : Thread) (i : Nat) :
    (tookOld back reg v t).reg i = if reg ≤ i ∧ i < reg + back then BitVec.ofNat 32 (v.toNat / 2 ^ (32 * (i - reg))) else t.reg i := by
  have hlo : loOf v = BitVec.ofNat 32 (v.toNat / 2 ^ (32 * 0)) := by
    refine BitVec.eq_of_toNat_eq ?_
    simp [loOf]
  have hhi : hiOf v = BitVec.ofNat 32 (v.toNat / 2 ^ (32 * 1)) := by
    refine BitVec.eq_of_toNat_eq ?_
    simp [hiOf, Nat.shiftRight_eq_div_pow]
  rcases hb with rfl | rfl
  · rw [tookOld, if_neg (by decide), Thread.reg_setReg]
    by_cases h : i = reg
    · rw [if_pos h, if_pos (by omega), hlo, h, Nat.sub_self]
    · rw [if_neg h, if_neg (by omega)]
  · rw [tookOld, if_pos rfl, reg_setPair]
    by_cases h : i = reg
    · rw [if_pos h, if_pos (by omega), hlo, h, Nat.sub_self]
    · by_cases h1 : i = reg + 1
      · rw [if_neg h, if_pos h1, if_pos (by omega), hhi, h1, Nat.add_sub_cancel_left]
      · rw [if_neg h, if_neg h1, if_neg (by omega)]

/-- One member's turn, as the word makes it. -/
def memberTurn (x : Cx) (A : Atomic) (d : Nat) (w : Bool) (at_ : Nat → List Spot) (operand : Nat → Dword × Dword) (s : State) (l : Nat) : State :=
  let r := atomicStep s x.core A.size (at_ l) fun m => A.f m (operand l).1 (operand l).2
  if w then r.1 else r.1.modThread x.sg l (tookOld A.back ((x.sub s).wbase.toNat + d) r.2)
theorem atomicSteps_members (s : State) (x : Cx) (A : Atomic) (d : Nat) (w : Bool) (addr : Nat → Dword) (at_ : Nat → List Spot) (operand : Nat → Dword × Dword) {all ls : List Nat}
    (hls : ∀ l ∈ ls, l ∈ all) : atomicSteps s x A d (all.map fun l => (l, operand l)) w (ls.map fun l => (l, addr l, at_ l)) = ls.foldl (memberTurn x A d w at_ operand) s := by
  induction ls generalizing s with
  | nil => rfl
  | cons l ls ih =>
    rw [List.map_cons, List.foldl_cons, ← ih _ fun k hk => hls k (.tail _ hk), atomicSteps, find?_members, if_pos (hls l (.head _))]
    rfl

section
variable (b : State) (x : Cx) (A : Atomic) (d : Nat) (w : Bool) (at_ : Nat → List Spot) (operand : Nat → Dword × Dword)

/-- What a member puts for what it read, and what it reads in its turn. -/
def newOf (l : Nat) (m : Dword) : Dword := A.f m (operand l).1 (operand l).2
/-- The subgroup with the old values in the registers of members. -/
def tookOlds (old : Nat → Dword) (ls : List Nat) : Sub := ls.foldl (fun u l => u.modThread l (tookOld A.back ((x.sub b).wbase.toNat + d) (old l))) (x.sub b)

/-- The turns of a group make the turns at home, and give the old values to the members where the word asks for them. -/
theorem memberTurns (old : Nat → Dword) (ls : List Nat)
    (hold : ∀ pre l post, ls = pre ++ l :: post → old l = (atomicStep (turns b x.core A.size at_ (newOf A operand) pre) x.core A.size (at_ l) id).2) :
    (∀ th, (ls.foldl (memberTurn x A d w at_ operand) b).withThreads x.sg th = (turns b x.core A.size at_ (newOf A operand) ls).withThreads x.sg th) ∧
      (x.sub (ls.foldl (memberTurn x A d w at_ operand) b)).threads = if w then (x.sub b).threads else (tookOlds b x A d old ls).threads := by
  induction ls using List.reverseRecOn with
  | nil => exact ⟨fun _ => rfl, by cases w <;> rfl⟩
  | append_singleton ls l ih =>
    obtain ⟨hT, hth⟩ := ih fun pre k post e => hold pre k (post ++ [l]) (by rw [e]; simp)
    have hstep := atomicStep_threadBlind x.sg x.core A.size (at_ l) (newOf A operand l)
    generalize hF : ls.foldl (memberTurn x A d w at_ operand) b = F at hT hth
    generalize hR : turns b x.core A.size at_ (newOf A operand) ls = R at hT
    have hnext : turns b x.core A.size at_ (newOf A operand) (ls ++ [l]) = (atomicStep R x.core A.size (at_ l) (newOf A operand l)).1 := by
      rw [← hR, turns, turns, List.foldl_concat]
    have hlast : (ls ++ [l]).foldl (memberTurn x A d w at_ operand) b = memberTurn x A d w at_ operand F l := by rw [List.foldl_concat, hF]
    have hcore (th : Tbl Thread) : (atomicStep F x.core A.size (at_ l) (newOf A operand l)).1.withThreads x.sg th = (atomicStep R x.core A.size (at_ l) (newOf A operand l)).1.withThreads x.sg th := by
      rw [← hstep.withThreads, hT, hstep.withThreads]
    have hread : (atomicStep F x.core A.size (at_ l) (newOf A operand l)).2 = old l := by
      have h := congrArg (fun s => (atomicStep s x.core A.size (at_ l) (newOf A operand l)).2) (hT [])
      simp only [atomicStep_withThreads] at h
      rw [h, hold ls l [] rfl, hR]
      exact atomicStep_old ..
    have hbase : (x.sub F).wbase = (x.sub b).wbase := by
      have h := congrArg (fun s => (s.sub x.sg).wbase) (hT [])
      simp only [sub_withThreads] at h
      rw [← hR] at h
      exact h.trans ((turns_threadBlind x.sg x.core A.size at_ (newOf A operand) ls).wbase b)
    rw [hnext, hlast]
    cases w with
    | true => exact ⟨hcore, (hstep.threads F).trans hth⟩
    | false =>
      refine ⟨fun th => (modThread_withThreads ..).trans (hcore th), ?_⟩
      show (State.sub (State.modThread _ _ _ _) _).threads = (tookOlds b x A d old (ls ++ [l])).threads
      have htook : tookOld A.back ((x.sub F).wbase.toNat + d) (atomicStep F x.core A.size (at_ l) (newOf A operand l)).2 = tookOld A.back ((x.sub b).wbase.toNat + d) (old l) := by
        rw [hbase, hread]
      rw [sub_modThread, tookOlds, List.foldl_concat, ← htook]
      exact threads_modThread ((hstep.threads F).trans hth) l _

/-- The members with their registers, as the word leaves them. -/
def atomicSub (old : Nat → Dword) (t : State) : Sub := { x.sub t with threads := if w then (x.sub b).threads else (tookOlds b x A d old x.lanes).threads }

/-- The turns and what follows them are what `t` is, with the registers of members. -/
theorem done_memberTurns (old : Nat → Dword) (o : BitVec 2) (S : Nat)
    (hold : ∀ pre l post, x.lanes = pre ++ l :: post → old l = (atomicStep (turns b x.core A.size at_ (newOf A operand) pre) x.core A.size (at_ l) id).2) :
    let t := afterTurns x o S (turns b x.core A.size at_ (newOf A operand) x.lanes)
    done (afterTurns x o S (x.lanes.foldl (memberTurn x A d w at_ operand) b)) x = done (t.setSub x.sg (atomicSub b x A d w old t)) x := by
  obtain ⟨hT, hth⟩ := memberTurns b x A d w at_ operand old x.lanes hold
  have ho := afterTurns_threadBlind x o S
  generalize x.lanes.foldl (memberTurn x A d w at_ operand) b = F at hT hth
  intro t
  have hself : done (afterTurns x o S F) x = done ((afterTurns x o S F).withThreads x.sg ((afterTurns x o S F).sub x.sg).threads) x := by
    rw [withThreads_self, done, done, ← advance_setSub_self]
    rfl
  rw [hself, ho.threads, ← ho.withThreads, hT, ho.withThreads, show (F.sub x.sg).threads = _ from hth]
  rfl

section
variable (old : Nat → Dword) (t : State) (ht : (x.sub t).threads = (x.sub b).threads) (hbase : (x.sub t).wbase = (x.sub b).wbase)
include ht

theorem thread_atomicSub (l : Nat) : (atomicSub b x A d w old t).thread l =
    if w = false ∧ l ∈ x.lanes then tookOld A.back ((x.sub b).wbase.toNat + d) (old l) ((x.sub t).thread l) else (x.sub t).thread l := by
  have hthread : (x.sub t).thread l = (x.sub b).thread l := by rw [Sub.thread, ht]; rfl
  cases w with
  | true => exact hthread.symm
  | false =>
    have h := (foldl_modThread x.lanes (nodup_lanesOf _) (fun l => tookOld A.back ((x.sub b).wbase.toNat + d) (old l)) (x.sub b)).2 l
    rw [hthread]
    exact h.trans (if_congr (and_iff_right rfl).symm rfl rfl)
theorem pc_atomicSub (l : Nat) : ((atomicSub b x A d w old t).thread l).pc = ((x.sub t).thread l).pc := by
  rw [thread_atomicSub b x A d w old t ht]
  split
  · rw [tookOld_rest]
  · rfl
include hbase
theorem atomicSub_wroteSpan (hb : A.back = 1 ∨ A.back = 2) (D : BitVec 7) (hd : d = D.toNat) :
    WroteSpan t x D (if w then 0 else A.back) (fun _ => false) (fun l i => BitVec.ofNat 32 ((old l).toNat / 2 ^ (32 * i))) (atomicSub b x A d w old t) := by
  have hreg : destReg t x D = (x.sub b).wbase.toNat + d := by rw [destReg, hbase, hd]
  refine ⟨rfl, fun l hl => ?_, fun l hl => ?_⟩
  · rw [thread_atomicSub b x A d w old t ht, if_neg fun h => hl h.2]
  · rw [thread_atomicSub b x A d w old t ht]
    cases w with
    | true => exact ⟨rfl, fun i => (if_neg (by simp)).symm⟩
    | false =>
      rw [if_pos ⟨rfl, hl⟩, tookOld_rest]
      refine ⟨rfl, fun i => ?_⟩
      rw [← tookOld_rest, reg_tookOld hb, hreg]
      rfl
end
end

end Sys2Proof.Machine
end

section
/-!
SUPPORT. How an atomic word goes on where its checks pass, and the fifteen operations (R146 to R149, R154, R178).
-/

namespace Sys2Proof.Machine
open State Claim

/-! ### The word -/

theorem atomicData_eq (s : State) (x : Cx) (d : BitVec 7) (regs l : Nat) : atomicData s x l d.toNat regs = atomicOperand s x d regs l := by
  have hd : d.toNat = 120 ↔ d = 120 := ⟨fun h => BitVec.eq_of_toNat_eq h, fun h => by rw [h]; rfl⟩
  unfold atomicData atomicOperand
  split
  · by_cases h : d = 120
    · rw [if_pos (hd.2 h), if_pos h, if_pos h]
    · rw [if_neg (mt hd.1 h), if_neg h, if_neg h]
      rfl
  · rfl
/-- The members of two masks together. -/
theorem maskOf_filter_or (ls : List Nat) (p q : Nat → Bool) : maskOf (ls.filter p) ||| maskOf (ls.filter q) = maskOf (ls.filter fun l => p l || q l) := by
  refine BitVec.eq_of_getLsbD_eq fun l hl => ?_
  rw [BitVec.getLsbD_or, Bool.eq_iff_iff, Bool.or_eq_true, getLsbD_maskOf _ hl, getLsbD_maskOf _ hl, getLsbD_maskOf _ hl]
  simp only [List.mem_filter, Bool.or_eq_true, and_or_left]

/-- What the word does with the address and the operand of each member. -/
def atomicFrom (x : Cx) (w : Bool) (c : BitVec 3) (o : BitVec 2) (d : BitVec 7) (A : Atomic) (addr : Nat → Dword) (operand : Nat → Dword × Dword) (s : State) : Out :=
  let r := locateEach s (x.party s) 0 A.size true .store (x.lanes.map fun l => (l, addr l))
  let ls := checkEach (atomicError r.1) r.2
  let ok := passed ls
  let steps (s : State) : State := finishAcc (afterTurns x o c.toNat (atomicSteps s x A d.toNat (x.lanes.map fun l => (l, operand l)) w ok)) x (ok.map Prod.fst) (failed ls)
  if ok.isEmpty then .next (finishAcc r.1 x [] (failed ls))
  else answered r.1 x true ls (.next (if o.getLsbD 1 then withRelease r.1 x c.toNat steps else steps r.1))

/-- The state after the turns of all members, which go on. -/
def atomicDone (x : Cx) (w : Bool) (c : BitVec 3) (o : BitVec 2) (d : BitVec 7) (A : Atomic) (operand : Nat → Dword × Dword) (at_ : Nat → List Spot) (b : State) : State :=
  done (afterTurns x o c.toNat (x.lanes.foldl (memberTurn x A d.toNat w at_ operand) b)) x

section
variable {s : State} {x : Cx} (h : Stands s x)
include h

theorem atomicOp_eq {w : Bool} {c : BitVec 3} {o : BitVec 2} {d a : BitVec 7} {A : Atomic} (hc : c ≠ 7)
    (hd : (if w then (if A.regs = 4 then quadSrcOk s x d.toNat else srcOk s x d.toNat (A.regs == 2)) else dstOk s x d.toNat A.regs) = true) (ha : srcOk s x a.toNat true = true) :
    atomicOp s w c o d a A = withStale s x (maskOf (x.lanes.filter fun l => staleA2 s x a l || (atomicOperand s x d A.regs l).2))
      (atomicFrom x w c o d A (addrA s x a 0) fun l => (atomicOperand s x d A.regs l).1) := by
  have hstale := filter_members x.lanes (fun l => atomicOperand s x d A.regs l) Prod.snd
  rw [atomicOp, withWord_eq s x _ h, checked_pass _ _ _ _ (by simpa [hd, ha] using hc), readAll_addrA]
  simp only [atomicData_eq, hstale, maskOf_filter_or, List.map_map]
  rfl

variable {w : Bool} {c : BitVec 3} {o : BitVec 2} {d : BitVec 7} {A : Atomic} {addr : Nat → Dword} {operand : Nat → Dword × Dword} {r : State} {at_ : Nat → List Spot}

theorem atomicFrom_passed (hacc : Access s x 0 A.size true .store addr r at_) (hcheck : ∀ l ∈ x.lanes, atomicError r (addr l) (at_ l) = none) :
    atomicFrom x w c o d A addr operand s = answered r x true (accesses x.lanes addr at_)
      (.next (if o.getLsbD 1 then withRelease r x c.toNat (atomicDone x w c o d A operand at_) else atomicDone x w c o d A operand at_ r)) := by
  have hne : ¬ (x.lanes.map fun l => (l, addr l, at_ l)).isEmpty = true := by simpa using lanes_ne_nil h
  unfold atomicFrom
  dsimp only
  rw [hacc.locateEach_eq, checkEach_accesses hcheck, passed_accesses, failed_accesses, if_neg hne]
  simp only [atomicSteps_members _ _ _ _ _ _ _ _ fun _ hl => hl, List.map_map, Function.comp_def, List.map_id']
  rfl
end

theorem atomicError_none {r : State} {a : Dword} {ys : List Spot} (hc : correctable r a ys [] = none)
    (hu : ∀ q, .glob q ∈ ys → atUnit q.leaf q.loc = true → r.badAt (q.loc / 128 * 128) 128 = false) : atomicError r a ys = none := by
  rw [atomicError, hc, Option.none_or]
  refine if_neg fun hany => ?_
  obtain ⟨y, hy, hbad⟩ := List.any_eq_true.1 hany
  cases y with
  | scr w off => cases hbad
  | glob q =>
    obtain ⟨hunit, hq⟩ := Bool.and_eq_true_iff.1 hbad
    rw [hu q hy hunit] at hq
    cases hq
theorem withRelease_released {r r' : State} {x : Cx} {S : Nat} (hl : relocked r x.core S = false) (hr : release r (x.party r) S = (r', none)) (k : State → State) :
    withRelease r x S k = k (ownRelease r' x S) := by
  rw [withRelease, hl, hr]
  rfl

/-! ### Members in their order -/

theorem lanes_sorted (x : Cx) : x.lanes.Pairwise (· < ·) := List.pairwise_lt_range.filter _
/-- In a rising list the members below one are those before it. -/
theorem filter_lt_of_sorted {ls pre post : List Nat} {l : Nat} (h : ls.Pairwise (· < ·)) (e : ls = pre ++ l :: post) : ls.filter (· < l) = pre := by
  subst e
  obtain ⟨-, hpost, hpre⟩ := List.pairwise_append.1 h
  rw [List.filter_append, List.filter_eq_self.2 fun k hk => by simpa using hpre k hk l (.head _), List.filter_eq_nil_iff.2, List.append_nil]
  intro k hk
  obtain rfl | hk := List.mem_cons.1 hk
  · simp
  · simpa using (List.rel_of_pairwise_cons hpost hk).le
theorem oldOf_turn (b : State) (x : Cx) (n : Nat) (at_ : Nat → List Spot) (new : Nat → Dword → Dword) (pre : List Nat) (l : Nat) (post : List Nat) (e : x.lanes = pre ++ l :: post) :
    oldOf b x n at_ new l = (atomicStep (turns b x.core n at_ new pre) x.core n (at_ l) id).2 := by
  rw [oldOf, filter_lt_of_sorted (lanes_sorted x) e]

/-! ### The state in which the turns begin, and the words -/

/-- Before its turns an atomic has released where ORD asks for it. -/
def released (x : Cx) (o : BitVec 2) (S : Nat) (s : State) : State := if o.getLsbD 1 then ownRelease s x S else s
theorem released_threadBlind (x : Cx) (o : BitVec 2) (S : Nat) : ThreadBlind x.sg (released x o S) := ThreadBlind.ite (ownRelease_threadBlind x S) ThreadBlind.id
theorem withRelease_ordered {r r' : State} {x : Cx} {o : BitVec 2} {S : Nat}
    (h : if o.getLsbD 1 then relocked r x.core S = false ∧ release r (x.party r) S = (r', none) else r' = r) (k : State → State) :
    (if o.getLsbD 1 then withRelease r x S k else k r) = k (released x o S r') := by
  unfold released
  split
  next ho =>
    rw [if_pos ho] at h
    exact withRelease_released h.1 h.2 k
  next ho =>
    rw [if_neg ho] at h
    rw [h]
/-- A release changes no thread. -/
theorem sub_releasedOrNot {r r' : State} {x : Cx} {o : BitVec 2} {S : Nat}
    (h : if o.getLsbD 1 then relocked r x.core S = false ∧ release r (x.party r) S = (r', none) else r' = r) (g : Nat) : r'.sub g = r.sub g := by
  split at h
  · have hs := release_subs r (x.party r) S
    rw [h.2] at hs
    rw [State.sub, hs]
    rfl
  · rw [h]

theorem atomicWord {i : Bool → BitVec 3 → BitVec 2 → BitVec 7 → BitVec 7 → Instr} {A : Atomic} {f : Nat → Nat → Nat → Nat} (hi : ∀ w c o d a s, exec (i w c o d a) s = atomicOp s w c o d a A)
    (hb : A.back = 1 ∨ A.back = 2) (hf : ∀ m u v, A.f m u v = BitVec.ofNat 64 (f m.toNat u.toNat v.toNat)) : Atomics i A.size A.regs A.back f := by
  intro s x w c o d a r r' at_ hs hscope hd ha stale hcalm hacc hcorr hunit hrel new b t0 t1 t
  let operand (l : Nat) : Dword × Dword := (atomicOperand s x d A.regs l).1
  have hexec : exec (i w c o d a) s = _ := (hi ..).trans (atomicOp_eq hs hscope hd ha)
  have hrun := atomicFrom_passed hs (w := w) (c := c) (o := o) (d := d) (operand := operand) hacc fun l hl => atomicError_none (hcorr l hl) (hunit l hl)
  have hnew : newOf A operand = new := by
    funext l m
    exact hf ..
  refine ⟨fun hans => ?_, fun hlate hfresh hun => ?_⟩
  · have hsub : x.sub r' = x.sub s := (sub_releasedOrNot hrel x.sg).trans (hacc.sub x.sg)
    have hblind : ThreadBlind x.sg fun s => afterTurns x o c.toNat (turns s x.core A.size at_ new x.lanes) := (afterTurns_threadBlind x o c.toNat).comp (turns_threadBlind ..)
    have hthreads : (x.sub t).threads = (x.sub b).threads := hblind.threads b
    have hbase : (x.sub t).wbase = (x.sub b).wbase := hblind.wbase b
    have hpc : x.pc t = x.pc s := congrArg (fun th : Tbl Thread => (th.get (lowest x.mask) {}).pc)
      (hthreads.trans (((released_threadBlind x o c.toNat).threads r').trans (congrArg Sub.threads hsub)))
    have hdone := done_memberTurns b x A d.toNat w at_ operand (oldOf b x A.size at_ new) o c.toNat (by rw [hnew]; exact oldOf_turn b x A.size at_ new)
    rw [hnew] at hdone
    rw [hexec, ← hpc]
    refine GoesTo.withStaleRegs hcalm ?_
    rw [hrun, answered_accesses hans, withRelease_ordered hrel, atomicDone, show released x o c.toNat r' = b from rfl, hdone]
    exact switches_done t x _ _ (pc_atomicSub b x A d.toNat w _ t hthreads _) (atomicSub_wroteSpan b x A d.toNat w _ t hthreads hbase hb d rfl)
  · rw [hexec, withStale_fresh _ _ _ hfresh, hrun]
    exact answered_waits hun

end Sys2Proof.Machine
end

section
/-!
SUPPORT. The operations of the atomics on numbers (R147).
-/

namespace Sys2Proof.Machine
open State Claim

/-- A 32-bit operation on numbers below 2^32 is that of its word. -/
theorem atom32_f {F : Word → Word → Word} {g : Nat → Nat → Nat} (h : ∀ a b : Word, (F a b).toNat = g a.toNat b.toNat % 2 ^ 32) (m u v : Dword) :
    (atom32 F).f m u v = BitVec.ofNat 64 (g (m.toNat % 2 ^ 32) (u.toNat % 2 ^ 32) % 2 ^ 32) := by
  have hlo (x : Dword) : (loOf x).toNat = x.toNat % 2 ^ 32 := BitVec.toNat_setWidth 32 x
  refine BitVec.eq_of_toNat_eq ?_
  have hlt : g (m.toNat % 2 ^ 32) (u.toNat % 2 ^ 32) % 2 ^ 32 < 2 ^ 64 := lt_of_lt_of_le (Nat.mod_lt _ (by decide)) (by decide)
  rw [BitVec.toNat_ofNat, Nat.mod_eq_of_lt hlt, ← hlo, ← hlo, ← h]
  exact BitVec.toNat_setWidth_of_le (by decide)
/-- One whose results are below 2^32. -/
theorem atom32_f_of_toNat {F : Word → Word → Word} {g : Nat → Nat → Nat} (h : ∀ a b : Word, (F a b).toNat = g a.toNat b.toNat) (m u v : Dword) :
    (atom32 F).f m u v = BitVec.ofNat 64 (g (m.toNat % 2 ^ 32) (u.toNat % 2 ^ 32) % 2 ^ 32) :=
  atom32_f (fun a b => by rw [← h, Nat.mod_eq_of_lt (F a b).isLt]) m u v

theorem toNat_ite (c : Prop) [Decidable c] (a b : Word) : (if c then a else b).toNat = if c then a.toNat else b.toNat := apply_ite BitVec.toNat c a b
theorem atomCasB32_f (m u v : Dword) : atomCasB32.f m u v = BitVec.ofNat 64 (if m.toNat % 2 ^ 32 = u.toNat % 2 ^ 32 then u.toNat / 2 ^ 32 else m.toNat) := by
  have hlo (x : Dword) : (loOf x).toNat = x.toNat % 2 ^ 32 := BitVec.toNat_setWidth 32 x
  have hhi : BitVec.ofNat 64 (u.toNat / 2 ^ 32) = u >>> 32 := by
    rw [← Nat.shiftRight_eq_div_pow, ← BitVec.toNat_ushiftRight, BitVec.ofNat_toNat, BitVec.setWidth_eq]
  rw [← hlo, ← hlo, apply_ite (BitVec.ofNat 64), hhi, BitVec.ofNat_toNat, BitVec.setWidth_eq]
  exact if_congr BitVec.toNat_inj.symm rfl rfl
theorem atomCasB64_f (m u v : Dword) : atomCasB64.f m u v = BitVec.ofNat 64 (if m.toNat = u.toNat then v.toNat else m.toNat) := by
  rw [apply_ite (BitVec.ofNat 64), BitVec.ofNat_toNat, BitVec.setWidth_eq, BitVec.ofNat_toNat, BitVec.setWidth_eq]
  exact if_congr BitVec.toNat_inj.symm rfl rfl

theorem atomAddI64_f (m u v : Dword) : atomAddI64.f m u v = BitVec.ofNat 64 (m.toNat + u.toNat) := by
  rw [BitVec.ofNat_add, BitVec.ofNat_toNat, BitVec.setWidth_eq, BitVec.ofNat_toNat, BitVec.setWidth_eq]
  rfl
theorem atomExchB64_f (m u v : Dword) : atomExchB64.f m u v = BitVec.ofNat 64 u.toNat := by
  rw [BitVec.ofNat_toNat, BitVec.setWidth_eq]
  rfl
/-- The bf16 sum of the low halves of two numbers (R147). -/
def bf16Sum (m v : Nat) : Nat := (finish bf16 .rne false (addRes .rne (unpack bf16 false (m % 2 ^ 16)) (unpack bf16 false (v % 2 ^ 16)))).bits
theorem atomAdd2Bf16_f (m u v : Dword) : atomAdd2Bf16.f m u v = BitVec.ofNat 64 (bf16Sum m.toNat u.toNat + 2 ^ 16 * bf16Sum (m.toNat / 2 ^ 16) (u.toNat / 2 ^ 16)) := by
  have hlow : (addBf m u 0).bits = bf16Sum m.toNat u.toNat := by
    rw [addBf, half, half, Nat.mul_zero, Nat.pow_zero, Nat.div_one, Nat.div_one]
    rfl
  rw [← hlow]
  rfl

/-- The f32 sum of numbers, and the minimum and the maximum of numbers as signed words (R147). -/
def f32Sum (m v : Nat) : Nat := (finish f32 .rne false (addRes .rne (unpack f32 false m) (unpack f32 false v))).bits
def intMin (m v : Nat) : Nat := if (BitVec.ofNat 32 v).toInt < (BitVec.ofNat 32 m).toInt then v else m
def intMax (m v : Nat) : Nat := if (BitVec.ofNat 32 m).toInt < (BitVec.ofNat 32 v).toInt then v else m
theorem toInt_ofNat_toNat (a : Word) : (BitVec.ofNat 32 a.toNat).toInt = a.toInt := by rw [BitVec.ofNat_toNat, BitVec.setWidth_eq]
theorem toNat_minI32 (a b : Word) : (if b.toInt < a.toInt then b else a).toNat = intMin a.toNat b.toNat := by
  rw [intMin, toInt_ofNat_toNat, toInt_ofNat_toNat, toNat_ite]
theorem toNat_maxI32 (a b : Word) : (if a.toInt < b.toInt then b else a).toNat = intMax a.toNat b.toNat := by
  rw [intMax, toInt_ofNat_toNat, toInt_ofNat_toNat, toNat_ite]
theorem toNat_minN32 (a b : Word) : (if b.toNat < a.toNat then b else a).toNat = min a.toNat b.toNat := by
  rw [toNat_ite]
  split <;> omega
theorem toNat_maxN32 (a b : Word) : (if a.toNat < b.toNat then b else a).toNat = max a.toNat b.toNat := by
  rw [toNat_ite]
  split <;> omega

/-- The words, by their operations. -/
theorem atomicsReplaceTheHomeValueInMemberOrder : AtomicsReplaceTheHomeValueInMemberOrder :=
  ⟨atomicWord (A := atomAddI32) (fun _ _ _ _ _ _ => rfl) (.inl rfl) (atom32_f BitVec.toNat_add),
    atomicWord (A := atomAddF32) (fun _ _ _ _ _ _ => rfl) (.inl rfl) (atom32_f (g := f32Sum) fun _ _ => BitVec.toNat_ofNat ..),
    atomicWord (A := atomMinI32) (fun _ _ _ _ _ _ => rfl) (.inl rfl) (atom32_f_of_toNat (g := intMin) toNat_minI32),
    atomicWord (A := atomMaxI32) (fun _ _ _ _ _ _ => rfl) (.inl rfl) (atom32_f_of_toNat (g := intMax) toNat_maxI32),
    atomicWord (A := atomMinN32) (fun _ _ _ _ _ _ => rfl) (.inl rfl) (atom32_f_of_toNat toNat_minN32),
    atomicWord (A := atomMaxN32) (fun _ _ _ _ _ _ => rfl) (.inl rfl) (atom32_f_of_toNat toNat_maxN32),
    atomicWord (A := atomAndB32) (fun _ _ _ _ _ _ => rfl) (.inl rfl) (atom32_f_of_toNat BitVec.toNat_and),
    atomicWord (A := atomOrB32) (fun _ _ _ _ _ _ => rfl) (.inl rfl) (atom32_f_of_toNat BitVec.toNat_or),
    atomicWord (A := atomXorB32) (fun _ _ _ _ _ _ => rfl) (.inl rfl) (atom32_f_of_toNat BitVec.toNat_xor),
    atomicWord (A := atomExchB32) (fun _ _ _ _ _ _ => rfl) (.inl rfl) (atom32_f_of_toNat (g := fun _ v => v) fun _ _ => rfl),
    atomicWord (A := atomCasB32) (fun _ _ _ _ _ _ => rfl) (.inl rfl) atomCasB32_f,
    atomicWord (A := atomAddI64) (fun _ _ _ _ _ _ => rfl) (.inr rfl) atomAddI64_f,
    atomicWord (A := atomExchB64) (fun _ _ _ _ _ _ => rfl) (.inr rfl) atomExchB64_f,
    atomicWord (A := atomCasB64) (fun _ _ _ _ _ _ => rfl) (.inr rfl) atomCasB64_f,
    atomicWord (A := atomAdd2Bf16) (fun _ _ _ _ _ _ => rfl) (.inl rfl) atomAdd2Bf16_f⟩

end Sys2Proof.Machine
end

section
open Sys2Proof Machine Claim
/-- Settles O42: the words by the turns of their members, a turn by what it reads and puts at home. -/
theorem atomicsReadAndWriteAtHomeInMemberOrder : Obligations.AtomicsReadAndWriteAtHomeInMemberOrder := by
  unfold Obligations.AtomicsReadAndWriteAtHomeInMemberOrder
  exact ⟨atomicsReplaceTheHomeValueInMemberOrder, anAtomicTurnIsReadAndWriteAtHome⟩
end
